-- ==== Sys2Proof/Word.lean ====
section
/-! DEFINITION. The word types every other file speaks of, and nothing else. -/
namespace Sys2Proof

/-- A byte. -/
abbrev Byte := BitVec 8
/-- A half-word (00_scope, Numbers and units). -/
abbrev Half := BitVec 16
/-- A word. -/
abbrev Word := BitVec 32
/-- A double. -/
abbrev Dbl := BitVec 64
/-- A run of bytes, lowest address first. -/
abbrev Bytes := List Byte
/-- A sparse table: key and value pairs, keys strictly rising. -/
abbrev Tbl (α : Type) := List (Nat × α)

end Sys2Proof
end

