-- ==== Sys2Proof/Syntax.lean ====
section
/-! DEFINITION. The commands the block takes: one constructor per row of the spec's table of operations and events, with the operands a
sender or the outside world supplies. What a row's text leaves to the outside (the bytes a read returned, which context is picked, a
time-driven event that falls due) is an operand or the order of the queue. -/
namespace Sys2Proof

/-- A fabric message (Table 12.7), its fields apart and its body as bytes. -/
structure Msg where
  typ : Byte := 0
  mflags : Byte := 0
  dst : Half := 0
  src : Half := 0
  epoch : Half := 0
  eseq : Half := 0
  mlen : Half := 0
  xseq : Dbl := 0
  arg : Dbl := 0
  body : Bytes := []
  reserved : Word := 0
deriving DecidableEq, Repr

/-- How a message reaches the unit that takes it: on a link (32 and above: the partner path), or as the first of its type among those whose last flit has arrived. -/
inductive MsgIn where
  | arrives (k : Nat) (m : Msg)
  | queued
deriving DecidableEq, Repr

/-- A PREPARE that arrives, or one already taken whose context goes on (after a lock or an append it waited for). -/
inductive PrepIn where
  | fresh (m : MsgIn)
  | goOn (p : Nat)
deriving DecidableEq, Repr

/-- A FEC codeword as a receiver sees it: whether it decodes, and its 20-bit header (R429). -/
structure Codeword where
  ok : Bool := true
  header : BitVec 20 := 0
deriving DecidableEq, Repr

/-- Codewords that a link's receiver takes, oldest first (R429). -/
structure LinkWords where
  link : Nat
  words : List Codeword := []
deriving DecidableEq, Repr

/-- A flit as received: its 64 bytes, its place 0 to 9 in the codeword it came in, that codeword's header where it is not the one expected,
and what the FEC said of it (R429). -/
structure FlitIn where
  data : Bytes := []
  place : Nat := 0
  head : Option (BitVec 20) := none
  corrected : Bool := false
  uncorrectable : Bool := false
deriving DecidableEq, Repr

/-- What a doorbell read was issued for: a page, or one tray's entry (R202). -/
inductive DbSrc where
  | page (p : Nat)
  | entry (t : Nat)
deriving DecidableEq, Repr

/-- Who asks for a ticket (R213): a tray, or a port slot of a ladle frame. -/
inductive GrantSrc where
  | tray (f t : Nat)
  | port (core frame slot : Nat)
deriving DecidableEq, Repr

/-- A register that software writes: by management BAR offset from PF0, by setup BAR offset of a function, or a mask of a function's MSI-X table. -/
inductive RegAddr where
  | mgmt (off : Nat)
  | setup (f off : Nat)
  | msixMask (f entry : Nat)
  | fnMask (f : Nat)
deriving DecidableEq, Repr

/-- What the hardware of a die is able to do at a start: the outcome of its self-tests and the levels at its pins (R472, R483, R524). -/
structure Hw where
  smc : Bool := true
  port0 : Bool := true
  hbmStacks : BitVec 4 := 15
  slices : Word := 0xFFFFFFFF
  sieve : Bool := true
  enginesOut : List Nat := []
  journal : Bool := true
  coresOut : List Nat := []
  sealUnits : Byte := 255
  railOk : BitVec 9 := 511
  tbRef : Bool := true
  fabRef : Bool := true
  pcie0Ref : Bool := true
  pcie1Ref : Bool := true
  holdup : Bool := true
  rom : Bool := true
  partner : Bool := false
  addrSel : Nat := 0
  ctxBad : List Nat := []
  wordBad : List Nat := []
  frameBad : List Nat := []
  larderBad : List Nat := []
deriving DecidableEq, Repr

/-- A reference clock input (Table 14.14). -/
inductive RefClk where | tb | fab | pcie0 | pcie1
deriving DecidableEq, Repr

/-- A unit of the service floor (R483). -/
inductive FloorUnit where | mgmtCore | port0 | hbm | sieveTicket | engines | journal
deriving DecidableEq, Repr

/-- A mailbox request (R484): TAG, argument bytes 8 to 255, and what its DMA read returned (none: it failed). -/
structure MbIn where
  tag : Half := 0
  args : Bytes := []
  dma : Option Bytes := none
deriving DecidableEq, Repr

/-- What a TLBI invalidates (R315). -/
inductive TlbiKind where
  | va (asid : Half) (va : Nat)
  | asid (asid : Half)
  | all
deriving DecidableEq, Repr

/-- The TLBI broadcast that is received: one outstanding on this die, by its place among them, or one of the partner die (R418). -/
inductive TlbiRef where
  | nth (n : Nat)
  | heard (kind : TlbiKind)
deriving DecidableEq, Repr

/-- What an Omesque private instruction does as the debug master (Table 6.1): nothing, or a read or write of a physical address. -/
inductive DebugOp where
  | nothing
  | read (pa len : Nat)
  | write (pa : Nat) (data : Bytes)
deriving DecidableEq, Repr

/-- The commands: the rows of the table. -/
inductive Instr where

  /-- `POST` (R84): A POST of 1 to 16 legs is checked under R55 and applied as one apply once its record is durable. If a leg is on another device, the context coordinates a cross-device posting. -/
  | post (e c : Nat)
  /-- `POST2` (R87): A batched POST carries two independent two-leg pairs, evaluated in order and journaled as two consecutive records. -/
  | post2 (e c : Nat)
  /-- `HOLD` (R88): Places a hold of magnitude h on an account after ten ordered checks, and creates a hold entry. -/
  | hold (e c : Nat)
  /-- `CAPTURE` (R90): Captures c from an active hold in leg 0 and applies the remaining legs as POST does; the hold ends on FINAL or when REMAINING reaches zero. -/
  | capture (e c : Nat)
  /-- `RELEASE` (R91): Releases an active hold, returning its REMAINING to AVAIL and ending the hold. -/
  | release (e c : Nat)
  /-- `REVERSE` (R92): Applies the negation of a restated earlier posting and adds an entry to the reversal table. -/
  | reverse (e c : Nat)
  /-- `OPEN` (R94): Creates an account record with zero balances, the requested flags and the requested limits. -/
  | openAcct (e c : Nat)
  /-- `CLOSE` (R95): Sets CLOSED on an account whose LEDGER and HOLDS are zero. -/
  | closeAcct (e c : Nat)
  /-- `FREEZE` (R96): Sets FROZEN on an account that exists and is not closed. -/
  | freeze (e c : Nat)
  /-- `THAW` (R96): Clears FROZEN on an account that exists and is not closed. -/
  | thaw (e c : Nat)
  /-- `SETLIMITS` (R97): Writes the selected flags and limits of an account. -/
  | setlimits (e c : Nat)
  /-- `DAYROLL` (R98): Advances the business day behind a dispatch fence and purges the reversal table. -/
  | dayroll (e c : Nat)
  /-- `DAYROLL_FENCE_DRAINED` (R48): Once every dispatched command and every prepared posting has ended, DAYROLL's record is appended and dispatch resumes. -/
  | dayrollFenceDrained (e c : Nat)
  /-- `READBAL` (R99): Reads an account's balances, or the operator's suspense view, and writes a 64-byte response to DEST. -/
  | readbal (e c : Nat)
  /-- `READREC` (R99): Writes the 128-byte account record to DEST. -/
  | readrec (e c : Nat)
  /-- `JQUERY_SEQ` (R136): Answers the state of one journal sequence number. -/
  | jquerySeq (e c : Nat)
  /-- `JQUERY_TRAY` (R136): Answers the last journaled command of a tray and the tray's progress. -/
  | jqueryTray (e c : Nat)
  /-- `JQUERY_JOURNAL` (R136): Answers the seal, drain and window state of the journal. -/
  | jqueryJournal (e c : Nat)
  /-- `CHECKPOINT` (R101): Takes sequence S and starts writing a checkpoint image to DEST while service continues. -/
  | checkpoint (e c : Nat)
  /-- `CHECKPOINT_IMAGE_WRITTEN` (R140): When the image writer finishes, CKPT_END is appended, and CHECKPOINT completes when that record is durable. -/
  | checkpointImageWritten (e c : Nat)
  /-- `KEYUPDATE` (R259): Retires the other slot, writes the new key into the inactive slot and journals the update; the commit word flips at the apply. -/
  | keyupdate (e c : Nat)
  /-- `KEY_SLOT_WRITE_ACK` (R259): When every granule of the inactive slot is acknowledged, KEYUPDATE proceeds to its append, or fails with DEVICE_FAULT. -/
  | keySlotWriteAck (e c : Nat) (ok : Bool)
  /-- `FENCE` (R103): Takes a ticket and waits until every earlier-granted command has completed. -/
  | fence (e c : Nat)
  /-- `FENCE_RELEASE` (R103): When the last earlier command completes, FENCE appends its record and completes with OK. -/
  | fenceRelease (e c : Nat)
  /-- `NOP` (R104): Takes a ticket, appends a record and completes with OK. -/
  | nop (e c : Nat)
  /-- `LADLE_CLASS_COMMAND` (R105): After header checks, a ladle-class command takes a ticket and enters its ladle task queue. -/
  | ladleClassCommand (f t tk : Nat)
  /-- `PREPARE` (R448): A participant takes a PREPARE, checks its local legs, journals a PREPARE record and answers PREPARED or REFUSED. -/
  | prepare (m : PrepIn) (tk e c : Nat)
  /-- `COMMIT` (R448): A participant journals a COMMIT record; when it is durable, it applies the credits and −K, releases its locks and sends DONE. -/
  | commit (m : MsgIn)
  /-- `ABORT` (R448): A participant journals an ABORT record and reverses its debits, or answers DONE and leaves a tombstone for an XSEQ it does not hold. -/
  | abort (m : MsgIn)
  /-- `PREPARED` (R446): The coordinator records a participant's prepare, and appends the commit record once every participant and its own prepare are ready. -/
  | prepared (m : MsgIn)
  /-- `REFUSED` (R447): A participant's refusal makes the coordinator append the abort record with the completion code of R447. -/
  | refused (m : MsgIn)
  /-- `DONE` (R446): A participant's DONE lets the coordinator close the posting's entry once every participant has answered. -/
  | done (m : MsgIn)
  /-- `QUERY` (R450): The coordinator answers a participant's QUERY with PENDING, the decision, ABORTED or UNKNOWN. -/
  | query (m : MsgIn)
  /-- `OUTCOME` (R451): A participant acts on an OUTCOME answer: it commits or aborts, keeps waiting, or logs UNKNOWN. -/
  | outcome (m : MsgIn)
  /-- `E2E_ACK` (R441): An end-to-end acknowledgement frees the acknowledged places in the sender's window. -/
  | e2eAck (m : MsgIn)
  /-- `NAK` (R442): A NAK message ends the refused message at its origin and sets the sending context's FXRES. -/
  | nak (m : MsgIn)
  /-- `MIRROR` (R458): The partner die writes the mirrored journal records to its store or mirror ring, then answers MIRROR_ACK. -/
  | mirror (m : MsgIn)
  /-- `MIRROR_ACK` (R458): A mirror acknowledgement lets the serving die's controller advance DURABLE_SEQ. -/
  | mirrorAck (m : MsgIn)
  /-- `HEARTBEAT` (R456): A heartbeat on the partner path carries the sender's DURABLE_SEQ. -/
  | heartbeat (m : MsgIn)
  /-- `CX_RESP` (R455): A companion response is matched to the frame's outstanding CX request, reported as malformed, or discarded. -/
  | cxResp (m : MsgIn)
  /-- `MESSAGE_ROUTE` (R437): A message arriving for another device is forwarded in dimension order, detoured, or dropped with NO_ROUTE. -/
  | messageRoute (m : MsgIn)
  /-- `DATA_FLIT` (R433): A DATA flit is accepted when it is undamaged and in sequence; otherwise it is discarded and RETRY_REQ is sent. -/
  | dataFlit (k : Nat) (w : FlitIn)
  /-- `IDLE_FLIT` (R431): An IDLE flit delivers its ACK and CRED fields. -/
  | idleFlit (k : Nat) (w : FlitIn)
  /-- `RETRY_REQ` (R433): The transmitter resends every flit from the named LSEQ onwards, in order. -/
  | retryReq (k : Nat) (w : FlitIn)
  /-- `FLIT_NAK` (R442): A CTRL NAK reports a flit that the peer discarded as a violation. -/
  | flitNak (k : Nat) (w : FlitIn)
  /-- `IDENT` (R435): The peer's IDENT is checked for role, epoch, shape and topology; the link goes UP or DOWN. -/
  | ident (k : Nat) (w : FlitIn)
  /-- `TIME_REQ` (R454): The peer answers a time request with TIME_RESP, carrying its arrival and send times. -/
  | timeReq (k : Nat) (w : FlitIn)
  /-- `TIME_RESP` (R454): The requester computes its offset and corrects its timebase under R13. -/
  | timeResp (k : Nat) (w : FlitIn)
  /-- `TIME_REQ_PERIOD` (R454): Every 125 µs the device sends TIME_REQ on its time link. -/
  | timeReqPeriod
  /-- `SYNC_IN_EDGE` (R454): A rising edge of SYNC_IN aligns the timebase to the nearest multiple of 1 ms. -/
  | syncInEdge
  /-- `SYNC_OUT_PULSE` (R454): SYNC_OUT is driven at each multiple of 1,000,000 ns of the timebase. -/
  | syncOutPulse
  /-- `RECEIVER_LOCK` (R429): Four consecutive good codewords lock the receiver. -/
  | receiverLock (w : LinkWords)
  /-- `RECEIVER_LOCK_LOSS` (R429): Eight consecutive bad codewords lose the receiver's lock. -/
  | receiverLockLoss (w : LinkWords)
  /-- `RETRY_REQ_REPEAT` (R433): Every 2 µs without the expected flit, RETRY_REQ is sent again; after eight, the link retrains. -/
  | retryReqRepeat (k : Nat)
  /-- `RETRAIN_DEADLINE` (R433): A link not UP again within 10 ms of a retry retrain goes DOWN with RETRY_LIMIT. -/
  | retrainDeadline (k : Nat)
  /-- `LINK_ENABLE` (R434): Writing LINK_CTL.ENABLE with the fabric enabled starts training. -/
  | linkEnable (k : Nat) (v : Dbl)
  /-- `LINK_RETRAIN` (R434): Writing RETRAIN takes a DOWN link back to TRAINING. -/
  | linkRetrain (k : Nat)
  /-- `TRAINING_DONE` (R434): When equalisation and adaptation end, the link moves to LOCK. -/
  | trainingDone (k : Nat)
  /-- `TRAINING_TIMEOUT` (R434): Training not done within 500 ms takes the link DOWN with TRAIN_FAIL. -/
  | trainingTimeout (k : Nat)
  /-- `LOCK_TIMEOUT` (R434): Lock not reached within 50 ms takes the link DOWN with LOCK_FAIL. -/
  | lockTimeout (k : Nat)
  /-- `LINK_VIOLATION_WINDOW_END` (R443): A link's 1 ms violation window closes. -/
  | linkViolationWindowEnd (k : Nat)
  /-- `FAB_ENABLE` (R465): Setting FAB_CTL.ENABLE starts the fabric unit, or is refused with CFG_ERR. -/
  | fabEnable (v : Dbl)
  /-- `FAB_DISABLE` (R465): Clearing ENABLE stops the fabric unit; it is refused while coordinator or resolver postings are open. -/
  | fabDisable (v : Dbl)
  /-- `FX_FORGET` (R453): Writing an XSEQ closes a DECIDED coordinator entry and logs it. -/
  | fxForget (v : Dbl)
  /-- `PREPARE_TIMEOUT` (R446): With no prepare response within 50 µs, the coordinator appends an abort record. -/
  | prepareTimeout (x : Nat)
  /-- `ACK_TIMEOUT` (R441): A message neither acknowledged nor refused by a NAK within 20 µs raises ACK_TIMEOUT at its sender. -/
  | ackTimeout (ep eseq : Nat)
  /-- `MESSAGE_ABANDON` (R441): One millisecond after sending, an unacknowledged message's window place is freed and counted. -/
  | messageAbandon (ep eseq : Nat)
  /-- `DECISION_RESEND` (R446): A decided coordinator resends its decision every 100 µs to a participant that has not answered DONE. -/
  | decisionResend (x ep : Nat)
  /-- `PARTICIPANT_QUERY_PERIOD` (R451): A participant that has held a posting prepared for 100 µs without a decision sends QUERY, and repeats it every 100 µs. -/
  | participantQueryPeriod (p : Nat)
  /-- `TOMBSTONE_EXPIRY` (R448): A 1 ms tombstone of an XSEQ expires. -/
  | tombstoneExpiry (p : Nat)
  /-- `PREPARE_TICKET_GRANT` (R449): A waiting PREPARE is granted a ticket, or taken when the fence ends, and is dispatched. -/
  | prepareTicketGrant (p tk e c : Nat)
  /-- `PREPARE_TICKET_TIMEOUT` (R449): A PREPARE granted no ticket within 20 µs outside any fence is answered REFUSED. -/
  | prepareTicketTimeout (p : Nat)
  /-- `DIE_ALIVE_FALL` (R461): The partner's die-alive line falls; in mirrored mode the standby takes over, and in split mode the survivor acts under R463. -/
  | dieAliveFall
  /-- `PARTNER_PATH_SILENCE` (R460): No flit on the partner path for 4 µs is a path loss: SOLO or STALE is set. -/
  | partnerPathSilence
  /-- `MIRROR_ACK_TIMEOUT` (R460): No MIRROR_ACK for 4 µs is a path loss. -/
  | mirrorAckTimeout
  /-- `TRAY_COMMAND_TAKE` (R208): At EXPECT the tray takes the eligible push, or the ring command whose TRAY_SEQ matches, given completion credit. -/
  | trayCommandTake (f t : Nat)
  /-- `PUSH_HALF_WRITE` (R206): A 64-byte push half is assembled into its slot, or discarded with a PUSH record. -/
  | pushHalfWrite (f off : Nat) (data : Bytes)
  /-- `PUSH_HALF_TIMEOUT` (R206): A half held for 8 µs without its other half is discarded. -/
  | pushHalfTimeout (f t k : Nat)
  /-- `FN_NUDGE` (R202): A nudge makes the device read the enabled trays' doorbell entries in the named page. -/
  | fnNudge (f : Nat) (v : Dbl)
  /-- `DOORBELL_READ_COMPLETION` (R201): The doorbell values read are taken, or refused with a DOORBELL record. -/
  | doorbellReadCompletion (f : Nat) (src : DbSrc) (data : Bytes)
  /-- `DOORBELL_READ_FAIL` (R223): A failed doorbell read sets DB_ERR and logs a READ record. -/
  | doorbellReadFail (f : Nat) (src : DbSrc)
  /-- `DOORBELL_FOLLOWUP_POLL` (R202): POLL × 64 ns after a read that found an advance, the page is read again. -/
  | doorbellFollowupPoll (f page : Nat)
  /-- `WAITING_TRAY_POLL` (R202): A tray waiting for credit or extensions has its entry read every POLL interval, or every 1 µs. -/
  | waitingTrayPoll (f t : Nat)
  /-- `RING_READ_COMPLETION` (R199): Ring slots read from host memory arrive for the command at CR_HEAD. -/
  | ringReadCompletion (f t : Nat) (data : Bytes)
  /-- `RING_READ_FAIL` (R223): A failed ring read sets READ_ERR and stops the tray. -/
  | ringReadFail (f t : Nat)
  /-- `SEQ_WAIT_FILL` (R210): An EXPECT gap that lasts SEQ_WAIT receives a fill completion with SEQUENCE. -/
  | seqWaitFill (f t : Nat)
  /-- `TICKET_GRANT` (R214): A ticket is granted when every quota, reserve and journal-space test passes. -/
  | ticketGrant (src : GrantSrc) (tk : Nat)
  /-- `WAIT_LIMIT_EXPIRY` (R215): A command that has waited WAIT_LIMIT µs for a ticket is refused with its last failed code. -/
  | waitLimitExpiry (f t : Nat)
  /-- `DISPATCH` (R167): The ticket unit dispatches a command to a FREE context of its class, round-robin over the engines. -/
  | dispatch (tk c : Nat)
  /-- `TICKET_RETURN` (R107): A ticket returns when its completion is issued; waiting commands are tested again. -/
  | ticketReturn (tk : Nat)
  /-- `EGG_TIMER_TIME` (R220): The ETIME trigger falls due and the tray raises its vector. -/
  | eggTimerTime (f t : Nat)
  /-- `MSIX_UNMASK` (R221): Unmasking an entry with its Pending Bit set sends one message. -/
  | msixUnmask (f : Nat) (entry : Option Nat)
  /-- `QUARANTINE_FILL` (R227): After the last granted completion, a QUARANTINE fill is written, the vector is raised, and the event is logged. -/
  | quarantineFill (f t : Nat)
  /-- `VIOLATION_WINDOW_END` (R227): A tray's 1 ms violation window closes. -/
  | violationWindowEnd (f t : Nat)
  /-- `QUAR_RELEASE` (R228): Writing a tray number releases its quarantine and logs a RELEASE record. -/
  | quarRelease (v : Dbl)
  /-- `TRAY_ENABLE` (R196): Setting ENABLE starts a tray in its reset state, or is refused with CFG_ERR. -/
  | trayEnable (f t : Nat) (v : Dbl)
  /-- `TRAY_DISABLE` (R197): Clearing ENABLE stops taking commands; commands in flight finish without completions. -/
  | trayDisable (f t : Nat) (v : Dbl)
  /-- `TRAY_RESET` (R196): RESET, written while the tray is disabled and idle, returns it to its reset state. -/
  | trayReset (f t : Nat) (v : Dbl)
  /-- `FUNCTION_BIND` (R188): Setting VALID in a function map entry binds the function to a tenant and a tray range, or sets MAP_ERR. -/
  | functionBind (f : Nat) (v : Dbl)
  /-- `FUNCTION_UNBIND` (R229): Writing VALID as 0 unbinds the function and resets it. -/
  | functionUnbind (f : Nat) (v : Dbl)
  /-- `FUNCTION_LEVEL_RESET` (R229): An FLR disables the function's trays and clears its setup, violation and MSI-X state. -/
  | functionLevelReset (f : Nat)
  /-- `VF_ENABLE_CLEAR` (R229): Clearing VF Enable resets the function. -/
  | vfEnableClear (port : Nat)
  /-- `FLR_COMPLETE` (R229): The reset is reported complete when every ticket of the function has returned. -/
  | flrComplete (f : Nat)
  /-- `TK_RESERVE_WRITE` (R230): A write sets FX_RESERVE and OP_RESERVE; a field above 8,192 keeps its value. -/
  | tkReserveWrite (v : Dbl)
  /-- `TENANT_QUOTA_WRITE` (R230): A write sets a tenant's ticket quota; a value above 65,536 is ignored. -/
  | tenantQuotaWrite (key : Nat) (v : Dbl)
  /-- `REGISTER_WRITE` (R16): A write to a register that has no row of its own acts under its access type. -/
  | registerWrite (r : RegAddr) (v : Dbl)
  /-- `JOURNAL_DURABLE` (R111): The store acknowledges a DURABLE_SEQ write, making records durable; their commands are accepted and applied. -/
  | journalDurable (n : Nat)
  /-- `JOURNAL_WRITE_FAIL` (R112): The store reports a record write it cannot complete; a VOID record is written, or the controller stops. -/
  | journalWriteFail (seq : Nat) (voidOk : Bool)
  /-- `SEAL_TICK` (R122): At a multiple of 100,000 ns, a block that holds command records begins to close and a seal is requested. -/
  | sealTick
  /-- `BLOCK_CLOSE` (R122): A closing block closes once every record numbered in it is durable. -/
  | blockClose (n : Nat)
  /-- `SEAL_RESULT` (R124): The seal signature arrives and is appended as a SEAL record, or UNSEALED is set if it failed. -/
  | sealResult (ok : Bool)
  /-- `DRAIN_BLOCK_COPY` (R131): A closed block within the watermark window is copied to its drain-ring slot. -/
  | drainBlockCopy
  /-- `DRAIN_ENABLE` (R131): Setting JCTL.ENABLE reads the watermark and restarts the drain from W + 1. -/
  | drainEnable (v : Dbl)
  /-- `WATERMARK_POLL` (R132): A periodic read of the watermark double is issued while drained blocks lie above W. -/
  | watermarkPoll
  /-- `WATERMARK_READ` (R132): A read watermark value becomes W and frees ring slots, or is discarded with WM_ERR. -/
  | watermarkRead (v : Dbl)
  /-- `WATERMARK_READ_FAIL` (R132): A failed watermark read keeps W and sets WM_ERR. -/
  | watermarkReadFail
  /-- `JREDRAIN` (R133): A written block number is copied to the drain ring again, or WM_ERR is set. -/
  | jredrain (v : Dbl)
  /-- `MOVE_WORD_ISSUE` (R155): An engine issues one microcode move word from a READY context. -/
  | moveWordIssue (e : Nat)
  /-- `UNIT_RESULT_ARRIVAL` (R165): A Wait unit's result arrives, and a waiting context becomes READY. -/
  | unitResultArrival (e c unit : Nat) (v : Dbl)
  /-- `LOCK_GRANT` (R169): A lock request is granted at its slice, or passes to the head waiter on release. -/
  | lockGrant (key : Dbl)
  /-- `CONTEXT_WATCHDOG` (R168): A context WAITING on one result for 2 ms is reset with WATCHDOG. -/
  | contextWatchdog (e c : Nat)
  /-- `WE_RESET_CONTEXT` (R163): An operator write to WE_RESET resets one context of an engine. -/
  | weResetContext (v : Dbl)
  /-- `WE_RESET_ENGINE` (R163): A write to WE_RESET with ALL resets a whole engine. -/
  | weResetEngine (v : Dbl)
  /-- `SWEEP_END` (R176): The sweep of a reset context ends and the context becomes FREE. -/
  | sweepEnd (e c : Nat)
  /-- `TRACE_ENABLE` (R178): Setting WTRACE_CTL.ENABLE starts trace records, or leaves ENABLE at 0. -/
  | traceEnable (v : Dbl)
  /-- `ADD` (R301): Binary ALU operations of major 0x01, each a class A instruction of 1 step. -/
  | add (c : Nat)
  /-- `MUL` (R302): Multiplies two registers, writing the low 32 bits. -/
  | mul (c : Nat)
  /-- `MULD` (R302): Writes the unsigned 64-bit product to a register pair. -/
  | muld (c : Nat)
  /-- `MULDS` (R302): Writes the signed 64-bit product to a register pair. -/
  | mulds (c : Nat)
  /-- `DIVU` (R303): Unsigned divide, with a step count that depends on the operands. -/
  | divu (c : Nat)
  /-- `DIVS` (R303): Signed divide, truncated toward zero. -/
  | divs (c : Nat)
  /-- `REMU` (R303): Unsigned remainder. -/
  | remu (c : Nat)
  /-- `REMS` (R303): Signed remainder, with the sign of the dividend. -/
  | rems (c : Nat)
  /-- `SEL` (R304): Selects ra or rb by whether rc is non-zero. -/
  | sel (c : Nat)
  /-- `LONG_LITERAL_OP` (R301): LIL and the ADDL to CLTUL forms operate with a 32-bit literal word. -/
  | longLiteralOp (c : Nat)
  /-- `SHIFT_IMMEDIATE` (R301): SHLI, SHRI, SARI, ROLI and RORI shift or rotate by sh. -/
  | shiftImmediate (c : Nat)
  /-- `LUI` (R301): Loads imm20 shifted left by 12. -/
  | lui (c : Nat)
  /-- `ADDI` (R301): ADDI, ANDI, ORI and XORI with a 15-bit immediate. -/
  | addi (c : Nat)
  /-- `COMPARE_IMMEDIATE` (R301): CEQI to CGTUI write 1 or 0 from a compare with an immediate. -/
  | compareImmediate (c : Nat)
  /-- `LOAD` (R308): LB, LBU, LH, LHU and LW load through a checked read in any addressing mode. -/
  | load (c : Nat)
  /-- `STORE` (R308): SB, SH and SW store through a checked write, buffered or not. -/
  | store (c : Nat)
  /-- `LDF` (R311): Far load through a 64-bit base pair. -/
  | ldf (c : Nat)
  /-- `STF` (R311): Far store through a 64-bit base pair. -/
  | stf (c : Nat)
  /-- `CAS` (R312): Atomic compare-and-swap of an aligned word, performed at the owning slice. -/
  | cas (c : Nat)
  /-- `MTM` (R310): Writes a modulo descriptor. -/
  | mtm (c : Nat)
  /-- `MFMB` (R310): Reads a modulo descriptor's base. -/
  | mfmb (c : Nat)
  /-- `MFML` (R310): Reads a modulo descriptor's length. -/
  | mfml (c : Nat)
  /-- `BZ` (R305): Branches when the register is zero. -/
  | bz (c : Nat)
  /-- `BNZ` (R305): Branches when the register is not zero. -/
  | bnz (c : Nat)
  /-- `J` (R305): Unconditional relative jump. -/
  | j (c : Nat)
  /-- `CALL` (R305): Relative call that writes lk. -/
  | call (c : Nat)
  /-- `JR` (R305): Jump to a register. -/
  | jr (c : Nat)
  /-- `CALLR` (R305): Call to a register that writes lk. -/
  | callr (c : Nat)
  /-- `SHORT_OPERATION_WORD` (R269): An F = 1 word issues its two short operations as one all-or-nothing group. -/
  | shortOperationWord (c : Nat)
  /-- `REPI` (R313): Repeats the next instruction a register or immediate count of times; interruptible between repetitions. -/
  | repi (c : Nat)
  /-- `REPU` (R313): Repeats the next instruction uninterruptibly, up to 64 times. -/
  | repu (c : Nat)
  /-- `SYNC` (R290): Drains long operations, stores and misses, applies pending control writes, and refetches. -/
  | sync (c : Nat)
  /-- `SYNC_TLB` (R290): SYNC that also waits for acknowledgement of the core's earlier TLBIs. -/
  | syncTlb (c : Nat)
  /-- `DBAR` (R286): Issues only when every earlier long operation of the task has retired. -/
  | dbar (c : Nat)
  /-- `YIELD` (R367): Switches to the next READY frame, or sleeps waiting for an interrupt. -/
  | yield (c : Nat)
  /-- `SVC` (R375): Supervisor call through vector 16. -/
  | svc (c : Nat)
  /-- `BRK` (R375): Breakpoint through vector 17. -/
  | brk (c : Nat)
  /-- `ERET` (R380): Returns from the exception that DLAZY names, reloading accumulators when FILLED, or chains. -/
  | eret (c : Nat)
  /-- `ERET_DOUBLE_FAULT` (R382): ERET with imm bit 5 set returns to DFPC and clears DF. -/
  | eretDoubleFault (c : Nat)
  /-- `MFC` (R297): Reads a control register in supervisor mode. -/
  | mfc (c : Nat)
  /-- `MTC` (R297): Writes a control register, taking effect through the shadow, at SYNC or at once. -/
  | mtc (c : Nat)
  /-- `SAVL` (R369): Saves a stopped frame's lower area onto the save-area list. -/
  | savl (c : Nat)
  /-- `SAVU` (R369): Saves a stopped frame's upper area. -/
  | savu (c : Nat)
  /-- `RSTL` (R369): Restores a frame's lower area from the head of the list. -/
  | rstl (c : Nat)
  /-- `RSTU` (R369): Restores a frame's upper area from the head of the list. -/
  | rstu (c : Nat)
  /-- `TLBI_VA` (R315): Invalidates one address's translations and broadcasts the invalidation. -/
  | tlbiVa (c : Nat)
  /-- `TLBI_ASID` (R315): Invalidates every translation of an ASID and broadcasts the invalidation. -/
  | tlbiAsid (c : Nat)
  /-- `TLBI_ALL` (R315): Invalidates every translation, engine entries included, and broadcasts. -/
  | tlbiAll (c : Nat)
  /-- `KEYSET` (R251): Writes KEY and RG of a frame's storage key after invalidating L1 lines. -/
  | keyset (c : Nat)
  /-- `KEYGET` (R251): Reads a frame's storage key. -/
  | keyget (c : Nat)
  /-- `KEYCLR` (R251): Reads a storage key and clears USE and MOD as one action. -/
  | keyclr (c : Nat)
  /-- `PPOST` (R320): Issues a port block as a posting through the internal posting port. -/
  | ppost (c : Nat)
  /-- `PPOSTL` (R323): Issues a posting under locks that the frame lends. -/
  | ppostl (c : Nat)
  /-- `PWAIT` (R321): Waits for a port posting and returns its STATUS. -/
  | pwait (c : Nat)
  /-- `PTEST` (R321): Returns a port posting's STATUS if it is done, else all ones. -/
  | ptest (c : Nat)
  /-- `LQTAKE` (R317): Takes the oldest qualifying ladle-class command from a task queue. -/
  | lqtake (c : Nat)
  /-- `LCOMPL` (R319): Completes a held ladle-class command from a completion image. -/
  | lcompl (c : Nat)
  /-- `ALOCK` (R322): Requests an ascending account lock for the frame. -/
  | alock (c : Nat)
  /-- `AUNLOCK` (R322): Releases one of the frame's locks. -/
  | aunlock (c : Nat)
  /-- `AUNLOCKALL` (R322): Releases every lock of the frame. -/
  | aunlockall (c : Nat)
  /-- `PORT_POSTING_COMPLETE` (R321): A port posting's completion is written to its completion area and its slot shows it done. -/
  | portPostingComplete (tk : Nat)
  /-- `LADLE_COMMAND_COMPLETION` (R105): A ladle-class command's completion is issued once LCOMPL is done and every posting with that parent has completed. -/
  | ladleCommandCompletion (tk : Nat)
  /-- `CPS_ECDSA_P256_SIGN` (R324): Seal-engine ECDSA P-256 signature. -/
  | cpsEcdsaP256Sign (c : Nat)
  /-- `CPS_ECDSA_P256_VERIFY` (R324): Seal-engine ECDSA P-256 verification. -/
  | cpsEcdsaP256Verify (c : Nat)
  /-- `CPS_ECDH_P256` (R324): Seal-engine ECDH P-256. -/
  | cpsEcdhP256 (c : Nat)
  /-- `CPS_ECDSA_P384_VERIFY` (R324): Seal-engine ECDSA P-384 verification. -/
  | cpsEcdsaP384Verify (c : Nat)
  /-- `CPS_ED25519_SIGN` (R324): Seal-engine Ed25519 signature. -/
  | cpsEd25519Sign (c : Nat)
  /-- `CPS_ED25519_VERIFY` (R324): Seal-engine Ed25519 verification. -/
  | cpsEd25519Verify (c : Nat)
  /-- `CPS_AES_CMAC_VERIFY` (R324): Seal-engine AES-256-CMAC verification under a tenant key slot. -/
  | cpsAesCmacVerify (c : Nat)
  /-- `CPS_SHA256` (R324): Seal-engine SHA-256 digest. -/
  | cpsSha256 (c : Nat)
  /-- `CPS_SHA384` (R324): Seal-engine SHA-384 digest. -/
  | cpsSha384 (c : Nat)
  /-- `CPR` (R325): Writes random bytes from the seal engine's source. -/
  | cpr (c : Nat)
  /-- `SEAL_SERVICE_RESULT` (R326): A seal-engine operation ends and its result word is delivered to its own frame. -/
  | sealServiceResult (n unit : Nat)
  /-- `CX` (R327): CX0–CX3 send an operation to the companion device and wait for a response. -/
  | cx (c : Nat)
  /-- `CX_TIMEOUT` (R327): No companion response within CX_TIMEOUT returns TIMEOUT. -/
  | cxTimeout (c f : Nat)
  /-- `ADDP` (R340): Adds two accumulators. -/
  | addp (c : Nat)
  /-- `SUBP` (R340): Subtracts two accumulators. -/
  | subp (c : Nat)
  /-- `MULP` (R341): Long-operation decimal multiply. -/
  | mulp (c : Nat)
  /-- `DIVP` (R341): Long-operation decimal divide with optional remainder. -/
  | divp (c : Nat)
  /-- `CMPP` (R342): Compares two accumulators into a register. -/
  | cmpp (c : Nat)
  /-- `MOVP` (R340): Copies an accumulator. -/
  | movp (c : Nat)
  /-- `NEGP` (R340): Negates an accumulator. -/
  | negp (c : Nat)
  /-- `ABSP` (R340): Takes the absolute value of an accumulator. -/
  | absp (c : Nat)
  /-- `CLRP` (R339): Clears an accumulator to plus zero with its flags clear. -/
  | clrp (c : Nat)
  /-- `SHRP` (R343): Shifts and rounds by an immediate number of places. -/
  | shrp (c : Nat)
  /-- `SHRPR` (R343): Shifts and rounds by a register number of places. -/
  | shrpr (c : Nat)
  /-- `TSTP` (R342): Reports an accumulator's sign, zero and flags, optionally clearing the flags. -/
  | tstp (c : Nat)
  /-- `LDP` (R344): Loads a packed operand into an accumulator. -/
  | ldp (c : Nat)
  /-- `STP` (R344): Stores an accumulator as a packed operand. -/
  | stp (c : Nat)
  /-- `ADDP_MEMORY` (R344): Adds a packed memory operand to an accumulator. -/
  | addpMemory (c : Nat)
  /-- `SUBP_MEMORY` (R344): Subtracts a packed memory operand from an accumulator. -/
  | subpMemory (c : Nat)
  /-- `MACP` (R346): Multiplies two packed operands and accumulates the product. -/
  | macp (c : Nat)
  /-- `CVZD` (R345): Converts a zoned operand to an accumulator. -/
  | cvzd (c : Nat)
  /-- `CVDZ` (R345): Converts an accumulator to a zoned operand. -/
  | cvdz (c : Nat)
  /-- `CVBD` (R345): Converts a signed 64-bit pair to an accumulator. -/
  | cvbd (c : Nat)
  /-- `CVDB` (R345): Converts an accumulator to a signed 64-bit pair. -/
  | cvdb (c : Nat)
  /-- `MVS` (R347): Long-operation byte move, chunk by chunk. -/
  | mvs (c : Nat)
  /-- `MVSX` (R348): Long-operation move with padding. -/
  | mvsx (c : Nat)
  /-- `EDIT` (R354): Long-operation editing of an accumulator into text under a pattern. -/
  | edit (c : Nat)
  /-- `EDITM` (R355): EDIT that also marks the first significant digit. -/
  | editm (c : Nat)
  /-- `CLS` (R350): Compares two strings in rounds. -/
  | cls (c : Nat)
  /-- `SCN` (R351): Scans a string for a byte, or for the first byte unlike it. -/
  | scn (c : Nat)
  /-- `SCT` (R352): Scans a string against a class table. -/
  | sct (c : Nat)
  /-- `LONG_OPERATION_RETIRE` (R283): A long operation finishes in the decimal and string unit and retires. -/
  | longOperationRetire (c f : Nat)
  /-- `LONG_OPERATION_RESUME` (R357): A stopped long operation resumes from LOPW when its task runs with LOV set. -/
  | longOperationResume (c : Nat)
  /-- `L1_MISS_FILL` (R279): Data for a missed load or network access arrives, and the group held in ME proceeds. -/
  | l1MissFill (c f : Nat) (data : Bytes) (ok : Bool)
  /-- `BLOCK_FETCH` (R275): A fetch-buffer block is granted the memory port and loaded. -/
  | blockFetch (c : Nat)
  /-- `STORE_BUFFER_DRAIN` (R280): The oldest buffered store drains to L1, or fails with a store error. -/
  | storeBufferDrain (c : Nat)
  /-- `STORE_ERROR_DELIVERY` (R385): A pending store error is taken on vector 5 at a group boundary. -/
  | storeErrorDelivery (c : Nat)
  /-- `CORE_START` (R384): After the sweeps end, frame 0 starts at the boot vector. -/
  | coreStart (c : Nat)
  /-- `INTERRUPT_DELIVERY` (R390): A deliverable source causes entry on vector 32 + PRIO, after a switch if bound to another frame. -/
  | interruptDelivery (c : Nat)
  /-- `FRAME_START` (R365): The START command makes a stopped or restored frame READY. -/
  | frameStart (c f : Nat)
  /-- `FRAME_STOP` (R365): The STOP command stops a frame, now or after its stall ends. -/
  | frameStop (c f : Nat)
  /-- `FRAME_RESET` (R366): The RESET command resets a frame and sweeps its locks, commands and stack entries. -/
  | frameReset (c f : Nat)
  /-- `FRAME_RESET_END` (R366): When the sweeps end, the frame becomes OFF. -/
  | frameResetEnd (c f : Nat)
  /-- `EVENT_SOURCE_INPUT` (R388): A pulse or edge on an event source is counted toward PENDING, merged, or lost. -/
  | eventSourceInput (n : Nat)
  /-- `COALESCE_TIME` (R388): A source's coalescing time falls due and it becomes PENDING. -/
  | coalesceTime (n : Nat)
  /-- `CLAIM` (R391): A read of CLAIM takes the best qualifying source and pushes it on the priority stack. -/
  | claim (c f : Nat)
  /-- `EOI` (R392): A write of EOI pops the top stack entry and idles its source, or sets EOI_ERR. -/
  | eoi (c f : Nat)
  /-- `EC_SET` (R394): Gives one event to a software source. -/
  | ecSet (v : Dbl)
  /-- `TB_CMP_WRITE` (R394): Arms a timebase comparator; it fires at once if the value has passed. -/
  | tbCmpWrite (k : Nat) (v : Dbl)
  /-- `TB_CMP_FIRE` (R394): The timebase reaches a comparator's value and it pulses its source. -/
  | tbCmpFire (k : Nat)
  /-- `SRC_CFG_WRITE` (R394): A write to a source's configuration enables it, or disables it and idles it. -/
  | srcCfgWrite (n : Nat) (v : Dbl)
  /-- `GETS` (R422): The directory serves a read miss from the larder or by forwarding. -/
  | gets (c l : Nat)
  /-- `GETM` (R422): The directory grants ownership without a copy, invalidating other holders. -/
  | getm (c l : Nat)
  /-- `UPGRADE` (R422): The directory grants ownership of a held copy, invalidating the others. -/
  | upgrade (c l : Nat)
  /-- `PUTM` (R422): A PutM, PutO or PutE write-back is absorbed through the write-back queue. -/
  | putm (c l : Nat)
  /-- `TLBI_RECEIPT` (R418): A unit removes the matching entries and acknowledges once affected accesses are done. -/
  | tlbiReceipt (b : TlbiRef) (unit : Nat)
  /-- `SCRUB_PASS` (R406): A slice reads and corrects its HBM over each SCRUB_CTL.HOURS interval. -/
  | scrubPass (slice : Nat) (found : List (Nat × Bool))
  /-- `MPU_REGION_WRITE` (R238): A write to an MPU region register takes effect unless the region is locked. -/
  | mpuRegionWrite (n reg : Nat) (v : Dbl)
  /-- `KEY_RETIRE` (R261): Retires a tenant's other key slot, after any KEYUPDATE in progress for that tenant. -/
  | keyRetire (v : Dbl)
  /-- `COLD_RESET` (R470): VDD_AON rising resets the package and runs the boot order. -/
  | coldReset (hw : Hw)
  /-- `MGMT_WATCHDOG` (R470): 500 ms without a firmware service gives a WATCHDOG reset. -/
  | mgmtWatchdog
  /-- `PORT_RESET` (R471): PERSTp_N resets that port's link and functions. -/
  | portReset (p : Nat)
  /-- `POWER_RESUME` (R498): A die in DOWN whose PWRFAIL_N has been high for 10 ms starts again. -/
  | powerResume
  /-- `HOLDUP_RESAMPLE` (R483): A die HELD for HOLDUP re-samples HOLDUP_OK every 10 ms. -/
  | holdupResample
  /-- `RAIL_WAIT_END` (R517): When every rail is in range, the boot order proceeds past step 2. -/
  | railWaitEnd
  /-- `PWRFAIL_ASSERT` (R496): PWRFAIL_N low for 100 ns starts the power-fail sequence. -/
  | pwrfailAssert
  /-- `PWRFAIL_GLITCH` (R496): A PWRFAIL_N pulse shorter than 100 ns is counted in PF_GLITCH. -/
  | pwrfailGlitch
  /-- `HOLDUP_OK_FALL` (R499): HOLDUP_OK falling in service logs a POWER record and asserts ALERT_N. -/
  | holdupOkFall
  /-- `TEMPERATURE_UPDATE` (R529): The 1 ms temperature update refreshes TJ and HOT, and may trip. -/
  | temperatureUpdate (islands : List (Nat × Nat)) (hbmStacks : List (Nat × Nat))
  /-- `RAIL_LOW` (R518): A rail below range for 1 µs sets LOW and runs the power-fail sequence. -/
  | railLow (r : Nat)
  /-- `REFCLK_LOSS` (R524): A reference without an edge for 1 µs is lost, with the outcome that depends on the reference. -/
  | refclkLoss (r : RefClk)
  /-- `REFCLK_RETURN` (R524): A returning TB_REFCLK takes the timebase back within 1 ms, with no step backwards. -/
  | refclkReturn (r : RefClk)
  /-- `ISLAND_RATE_UPDATE` (R520): At the end of each 10 µs window, each island's RATE is updated. -/
  | islandRateUpdate (steps : List (Nat × Nat))
  /-- `TIMEBASE_TICK` (R13): The 64-bit timebase advances by 1 ns tick, or holds during a backward correction. -/
  | timebaseTick
  /-- `GET_INFO` (R486): Returns the device, version, key and nonce information. -/
  | getInfo (m : MbIn)
  /-- `WRITE_CONFIG` (R479): Writes a validated configuration block over the copy not selected. -/
  | writeConfig (m : MbIn)
  /-- `READ_CONFIG` (R486): Writes a configuration copy to host memory. -/
  | readConfig (m : MbIn)
  /-- `RUN_UNQUALIFIED` (R482): Orders an unqualified run of the combination in force. -/
  | runUnqualified (m : MbIn)
  /-- `LEDGER_NEW` (R489): Creates an empty ledger. -/
  | ledgerNew (m : MbIn)
  /-- `LOAD_IMAGE` (R490): Loads a piece of the checkpoint image, in order. -/
  | loadImage (m : MbIn)
  /-- `LOAD_BLOCKS` (R491): Checks and replays drained journal blocks. -/
  | loadBlocks (m : MbIn)
  /-- `REPLAY_END` (R492): Replays the store window, resolves postings and enters service. -/
  | replayEnd (m : MbIn)
  /-- `RESOLVE` (R495): Ends a participant posting held with an UNKNOWN outcome, by the operator's decision. -/
  | resolve (m : MbIn)
  /-- `QUIESCE` (R493): Stops ticket grants and starts draining the die to HELD. -/
  | quiesce (m : MbIn)
  /-- `QUIESCE_DRAINED` (R493): When every ticket has returned and every entry is decided, the block closes and the die enters HELD. -/
  | quiesceDrained
  /-- `RESUME` (R493): Returns a quiesced die to service without replay. -/
  | resume (m : MbIn)
  /-- `RESET` (R470): The mailbox RESET command gives a WARM reset, or a DIE reset on a PV-128D. -/
  | resetCmd (m : MbIn)
  /-- `IMAGE_WRITE` (R486): Writes an image into the slot not loaded at the last start and verifies it. -/
  | imageWrite (m : MbIn)
  /-- `SVN_COMMIT` (R475): Burns SVN fuse bits up to the running images' SVN. -/
  | svnCommit (m : MbIn)
  /-- `OPKEY_SET` (R488): Installs the operator's command key through the provisioning key. -/
  | opkeySet (m : MbIn)
  /-- `SEAL_KEYGEN` (R487): Draws and stores a new seal key. -/
  | sealKeygen (m : MbIn)
  /-- `DEBUG_OPEN` (R505): Opens debug access with a signed token, clearing the tenant key table. -/
  | debugOpen (m : MbIn)
  /-- `STANDBY_JOIN` (R494): Catches the standby up over the partner path and starts mirroring. -/
  | standbyJoin (m : MbIn)
  /-- `MAILBOX_OVERRUN` (R485): GO written while BUSY is ignored and sets OVERRUN. -/
  | mailboxOverrun
  /-- `IDCODE` (R505): JTAG IDCODE instruction. -/
  | idcode
  /-- `BYPASS` (R505): JTAG BYPASS instruction. -/
  | bypass (data : Bytes)
  /-- `SAMPLE_PRELOAD` (R505): JTAG SAMPLE/PRELOAD instruction. -/
  | samplePreload (data : Bytes)
  /-- `EXTEST` (R505): JTAG EXTEST, honoured only in BOOT or HELD. -/
  | extest (data : Bytes)
  /-- `MAILBOX_COMMAND_END` (R485): When a running mailbox command ends, the device writes MB_RESP, clears BUSY, sets DONE and raises the mailbox vector if IRQ_EN is 1. -/
  | mailboxCommandEnd
  /-- `HOLDUP_OK_RISE` (R499): HOLDUP_OK rising while the die is in service ends the ALERT_N assertion that its fall caused. -/
  | holdupOkRise
  /-- `FLOOR_UNIT_FAILURE` (R483): A floor unit failing while the die is in service makes the die quiesce as for QUIESCE and become HELD with reason FLOOR. -/
  | floorUnitFailure (u : FloorUnit)
  /-- `DIE_ENTERS_DOWN` (R143): At the deadline of Table 13.17 the die enters DOWN, whether or not the block close or any record write has finished. -/
  | dieEntersDown
  /-- `VDD_AON_REMOVAL` (R529): Removing VDD_AON releases the latched THERMTRIP_N and the reset hold, and the die loses all volatile state until VDD_AON rises again. -/
  | vddAonRemoval
  /-- `OMESQUE_PRIVATE_INSTRUCTION` (R505): An Omesque private JTAG instruction acts as the debug master while debug access is open, and has no effect otherwise. -/
  | omesquePrivateInstruction (op : DebugOp)
deriving DecidableEq, Repr

end Sys2Proof
end

