-- ==== Sys2Proof/Decode.lean ====
section
/-! DEFINITION. The commands that a word of the table's bits spells. No row of the table gives a command any bits: commands come as
register writes, messages, events and time, with the operands that Syntax.lean names. -/
namespace Sys2Proof

/-- No word spells a command of the block. -/
def decodeTableWord (_nbits _w : Nat) : Option Instr := none

end Sys2Proof
end

