-- ==== Sys2Proof/Config.lean ====
section
/-! DEFINITION. What an implementation fixes and what the spec leaves open, as constants with no body: no proof can see a value of
one, so a claim about the model is true whatever they are. -/
namespace Sys2Proof.Config

/-- A free value of width `w`; the state's `fresh` counter picks a new one each time (an undefined or unstated value). -/
opaque free (w : Nat) : Nat → BitVec w

/-- The random source of R325 and R149: draw number `n`, of width `w`. -/
opaque draw (w : Nat) : Nat → BitVec w

/-- SHA-256 (R123, R146), uninterpreted. -/
opaque sha256 : Bytes → BitVec 256

/-- SHA-384 (R146), uninterpreted. -/
opaque sha384 : Bytes → BitVec 384

/-- AES-256-CMAC of a message under a key (R255), uninterpreted. -/
opaque cmac : BitVec 256 → Bytes → BitVec 128

/-- AES-256-GCM opening of a 32-byte key: key, IV, additional data, wrapped key, tag (R252, R258). -/
opaque gcmOpen : BitVec 256 → BitVec 96 → Bytes → BitVec 256 → BitVec 128 → Option (BitVec 256)

/-- AES-256-GCM wrapping of a 32-byte key: key, IV, additional data, plain key; the wrapped key and its tag (R252). -/
opaque gcmSeal : BitVec 256 → BitVec 96 → Bytes → BitVec 256 → BitVec 256 × BitVec 128

/-- AES-256-GCM opening of an image body (R474). -/
opaque gcmOpenBody : BitVec 256 → BitVec 96 → Bytes → Bytes → BitVec 128 → Option Bytes

/-- The fused device key (R252). -/
opaque deviceKey : BitVec 256

/-- The fused die serial (Table 13.15). -/
opaque serial : Dbl

/-- The fused stepping is B0; otherwise it is A1 (R480). -/
opaque steppingB0 : Bool

/-- Whether an ECDSA P-384 signature (96 bytes) over a SHA-384 digest verifies under the Omesque image public key (R474). -/
opaque imageSigOk : BitVec 384 → Bytes → Bool

/-- The seal unit's signature: algorithm, private key, message, nonce draw; 64 bytes (R125). -/
opaque sealSign : Byte → BitVec 256 → Bytes → Nat → BitVec 512

/-- Nonce redraws of a signature (R149): 0 to 15, or 16 when the limit is met. -/
opaque nonceRedraws : Nat → Nat

/-- The public key of a private key under an algorithm (R487, R488). -/
opaque publicKey : Byte → BitVec 256 → BitVec 512

/-- The shared x of ECDH P-256 of a private scalar and a public point (R146, R488). -/
opaque ecdhX : BitVec 256 → BitVec 512 → BitVec 256

/-- ECDSA P-256 signature of a digest under a scalar, r then s; the last argument picks the nonce (R146, R149). -/
opaque p256Sign : BitVec 256 → BitVec 256 → Nat → BitVec 512

/-- Whether a P-256 ECDSA signature verifies: public point, digest, r and s (R146). -/
opaque p256Verify : BitVec 512 → BitVec 256 → BitVec 512 → Bool

/-- Whether a P-384 ECDSA signature verifies (R146). -/
opaque p384Verify : BitVec 768 → BitVec 384 → BitVec 768 → Bool

/-- Whether a point lies on P-256 (R148). -/
opaque onP256 : BitVec 512 → Bool

/-- Whether a point lies on P-384 (R148). -/
opaque onP384 : BitVec 768 → Bool

/-- Ed25519 signature of a message under a seed (R146). -/
opaque edSign : BitVec 256 → Bytes → BitVec 512

/-- Whether an Ed25519 signature verifies (R148, cofactored). -/
opaque edVerify : BitVec 256 → Bytes → BitVec 512 → Bool

/-- Whether an encoded Ed25519 point is of small order (R148). -/
opaque edSmallOrder : BitVec 256 → Bool

/-- Whether an encoded Ed25519 point has x = 0 (R148). -/
opaque edXZero : BitVec 256 → Bool

/-- The microcode ROM of the whisk engines, which the spec does not print (R160). -/
opaque rom : Nat → Dbl

/-- The dispatch table of the whisk engines, which the spec does not print (R158). -/
opaque dispatchTable : Byte → Half

/-- The HS unit's hash of a value (Table 4.1), which the spec does not print. -/
opaque hash : Dbl → Dbl

/-- Whether the trace write queue is full when a trace record would be written (R178); the argument numbers the records, written and dropped. -/
opaque traceFull : Nat → Bool

/-- What a companion or a unit the spec does not describe leaves: a free choice between two outcomes (R20). -/
opaque choice : Nat → Bool

/-- Word `n` of patch RAM that a patch body carries, none where it does not fill it (R160, R162); the spec does not print a patch's layout. -/
opaque patchWord : Bytes → Nat → Option Dbl

/-- Match register `n` that a patch body carries (R161, R162). -/
opaque patchMatch : Bytes → Nat → Dbl

/-- The device ID of the fabric's time master (R454), which no register names. -/
opaque masterDevice : Nat

/-- Stall steps that a core's counter at an offset has counted since it was last read (R292, R293): draw number `n`. -/
opaque stallSteps (n off : Nat) : Nat

/-- How many further interruption points a long operation runs past when it must stop (R357): draw number `n`. -/
opaque points : Nat → Nat

/-- What is written as a day total whose exact value a ledger amount cannot hold (R40, R50). -/
opaque dayTotal : Int → Nat

/-- The JTAG identification code (R505), which the spec does not print. -/
opaque idcode : Word

end Sys2Proof.Config
end

