-- ==== Sys2Proof/Machine/Bits.lean ====
section
/-! DEFINITION. Byte order (R14), fields of bytes, packed decimal (R28, R29) and the CRC of R430 and Table 13.8. -/
namespace Sys2Proof.Machine

/-- The low `n` bytes of a number, least significant first (R14). -/
def le : Nat → Nat → Bytes
  | 0, _ => []
  | n + 1, v => BitVec.ofNat 8 (v % 256) :: le n (v / 256)

/-- The number that bytes spell, least significant first (R14). -/
def ofLe : Bytes → Nat
  | [] => 0
  | b :: r => b.toNat + 256 * ofLe r

/-- The low `n` bytes of a number, most significant first (R125). -/
def be (n v : Nat) : Bytes := (le n v).reverse

/-- The number that bytes spell, most significant first. -/
def ofBe (b : Bytes) : Nat := ofLe b.reverse

/-- `len` bytes from offset `off`. -/
def slice (b : Bytes) (off len : Nat) : Bytes := (b.drop off).take len

/-- The little-endian number in `len` bytes at `off`. -/
def field (b : Bytes) (off len : Nat) : Nat := ofLe (slice b off len)

/-- The byte at `off`, zero beyond the end. -/
def byteAt (b : Bytes) (off : Nat) : Byte := (b[off]?).getD 0

/-- The 64-bit field at `off`. -/
def dblAt (b : Bytes) (off : Nat) : Dbl := BitVec.ofNat 64 (field b off 8)

/-- The 32-bit field at `off`. -/
def wordAt (b : Bytes) (off : Nat) : Word := BitVec.ofNat 32 (field b off 4)

/-- The 16-bit field at `off`. -/
def halfAt (b : Bytes) (off : Nat) : Half := BitVec.ofNat 16 (field b off 2)

/-- Whether every byte is zero. -/
def allZero (b : Bytes) : Bool := b.all fun x => x == 0

/-- `n` zero bytes. -/
def zeros (n : Nat) : Bytes := List.replicate n 0

/-- Cut or fill with zeros to `n` bytes. -/
def fit (n : Nat) (b : Bytes) : Bytes := (b ++ zeros (n - b.length)).take n

/-- Write bytes over bytes from `off`. -/
def patch (b : Bytes) (off : Nat) (p : Bytes) : Bytes := fit off (b.take off) ++ p ++ b.drop (off + p.length)

/-- Split into pieces of `n` bytes, at most `fuel` of them. -/
def pieces (n : Nat) : Nat → Bytes → List Bytes
  | 0, _ => []
  | f + 1, b => if b.isEmpty then [] else b.take n :: pieces n f (b.drop n)

/-- Fill with zeros up to a multiple of `n`. -/
def padTo (n : Nat) (b : Bytes) : Bytes := b ++ zeros ((n - b.length % n) % n)

/-- Bit `i` of a number. -/
def bitOf (v i : Nat) : Bool := v.testBit i

/-- Bits `hi` down to `lo` of a number. -/
def bits (v hi lo : Nat) : Nat := (v >>> lo) % 2 ^ (hi + 1 - lo)

/-- A Bool as a bit. -/
def b2n (b : Bool) : Nat := if b then 1 else 0

/-- A number that counts without wrapping past `top`. -/
def sat (top v : Nat) : Nat := min top v

/-! Packed decimal (R28). -/

/-- The nibbles of bytes, high nibble first. -/
def nibbles : Bytes → List Nat
  | [] => []
  | b :: r => (b.toNat / 16) :: (b.toNat % 16) :: nibbles r

/-- The number that decimal digits spell, most significant first. -/
def ofDigits (ds : List Nat) : Nat := ds.foldl (fun a d => a * 10 + d) 0

/-- `n` decimal digits of a number, most significant first. -/
def digitsOf : Nat → Nat → List Nat
  | 0, _ => []
  | n + 1, v => digitsOf n (v / 10) ++ [v % 10]

/-- Bytes of nibbles, high nibble first. -/
def ofNibbles : List Nat → Bytes
  | h :: l :: r => BitVec.ofNat 8 (h * 16 + l) :: ofNibbles r
  | _ => []

/-- The sign nibble of a packed amount. -/
def packSign (b : Bytes) : Nat := (nibbles b).getLastD 0

/-- The digits of a packed amount. -/
def packDigits (b : Bytes) : List Nat := (nibbles b).dropLast

/-- R30: every digit is 0 to 9 and the sign is 0xC, 0xD or 0xF. -/
def packOk (b : Bytes) : Bool :=
  (packDigits b).all (fun d => d ≤ 9) && (packSign b == 12 || packSign b == 13 || packSign b == 15)

/-- The magnitude of a packed amount. -/
def packMag (b : Bytes) : Nat := ofDigits (packDigits b)

/-- The value of a packed amount (R29): 0xD is minus, a zero is plus zero. -/
def unpack (b : Bytes) : Int := if packSign b = 13 then -(packMag b : Int) else (packMag b : Int)

/-- A value in `n` bytes of packed decimal, with sign 0xC or 0xD, zero as 0xC (R29). -/
def pack (n : Nat) (v : Int) : Bytes :=
  ofNibbles (digitsOf (2 * n - 1) v.natAbs ++ [if v < 0 then 13 else 12])

/-- 10^31 − 1, the largest magnitude of a ledger amount (R31). -/
def maxAmount : Int := 10 ^ 31 - 1

/-! CRC-32 of IEEE 802.3 (R430). -/

/-- One bit of the CRC. -/
def crcBit (c : Word) : Word := if c.getLsbD 0 then (c >>> 1) ^^^ 0xEDB88320#32 else c >>> 1

/-- One byte of the CRC. -/
def crcByte (c : Word) (b : Byte) : Word :=
  crcBit (crcBit (crcBit (crcBit (crcBit (crcBit (crcBit (crcBit (c ^^^ b.setWidth 32))))))))

/-- CRC-32 of IEEE 802.3 of a run of bytes. -/
def crc32 (b : Bytes) : Word := (b.foldl crcByte 0xFFFFFFFF#32) ^^^ 0xFFFFFFFF#32

/-- Insert into a rising list of numbers, once. -/
def insertUp (x : Nat) : List Nat → List Nat
  | [] => [x]
  | y :: r => if x < y then x :: y :: r else if x = y then y :: r else y :: insertUp x r

/-- A rising list with no repeats of the same numbers. -/
def sortUp (l : List Nat) : List Nat := l.foldr insertUp []

end Sys2Proof.Machine
end

