-- ==== Sys2Proof/Machine/StateBooks.lean ====
section
/-! DEFINITION. Plain data of the ledger, the journal, the tickets and the key unit: the parts of State that chapters 01, 02, 03 and 06 give. -/
namespace Sys2Proof.Machine

/-- The parts of Table 0.1 (R1, R2). -/
inductive Part where | pv32 | pv64 | pv128 | pv128d
deriving DecidableEq, Repr

/-- An account record (Table 1.3); amounts are their values, packed only where the spec shows bytes. `raw` keeps the bytes of a record
that was read back in a form that no engine writes (R40). -/
structure Account where
  id : Dbl := 0
  currency : Half := 0
  flags : Half := 0
  version : Word := 0
  ledger : Int := 0
  avail : Int := 0
  holds : Int := 0
  odLimit : Int := 0
  dayLimit : Int := 0
  dayTotal : Int := 0
  lastSeq : Nat := 0
  dayNumber : Word := 0
  raw : Option Bytes := none
deriving DecidableEq, Repr

/-- A hold entry (Table 2.8); a free entry is not listed. -/
structure Hold where
  account : Dbl := 0
  holdId : Word := 0
  currency : Half := 0
  placed : Int := 0
  remaining : Int := 0
  placeSeq : Nat := 0
  lastSeq : Nat := 0
deriving DecidableEq, Repr

/-- A suspense counter (R59) and the sequence number of its last change (Table 2.9). -/
structure Suspense where
  value : Int := 0
  lastSeq : Nat := 0
deriving DecidableEq, Repr

/-- A tenant directory entry (R65). -/
structure DirEntry where
  root : Nat := 0
  height : Nat := 0
deriving DecidableEq, Repr

/-- An index node (Table 1.7): a leaf holds entries, an internal node keys and children. -/
structure IdxNode where
  level : Nat := 0
  nversion : Word := 0
  next : Nat := 0
  entries : List (Nat × Nat) := []
  keys : List Nat := []
  children : List Nat := []
deriving DecidableEq, Repr

/-- The ledger state of a die (01): accounts by ID, holds by account and hold ID, suspense by currency field, the index, the day. -/
structure Ledger where
  accounts : Tbl Account := []
  slots : Nat := 0
  dir : Tbl DirEntry := []
  nodes : Tbl IdxNode := []
  nextNode : Nat := 1
  holds : Tbl Hold := []
  suspense : Tbl Suspense := []
  reversal : Tbl Nat := []
  day : Word := 0
  daySeq : Nat := 0
  dayStarts : List Nat := []
  revFloor : Nat := 1
deriving DecidableEq, Repr

/-- A journal record (Tables 3.2 and 3.4); `body` is the LEN − 1 slots after the header. -/
structure Rec where
  seq : Nat := 0
  kind : Byte := 0
  status : Byte := 0
  rflags : Byte := 0
  info : Half := 0
  tenant : Half := 0
  tray : Half := 0
  time : Half := 0
  traySeq : Word := 0
  ref : Dbl := 0
  body : Bytes := []
deriving DecidableEq, Repr

/-- Where a block of the ring stands (R122): open, closing while records of it are not durable, closed. -/
inductive BlkState where | opened | closing | closed
deriving DecidableEq, Repr

/-- A journal block (Table 3.6) and its records in ascending order. -/
structure Block where
  no : Nat := 0
  flags : Half := 0
  firstSeq : Nat := 0
  lastSeq : Nat := 0
  openTime : Nat := 0
  closeTime : Nat := 0
  device : Half := 0
  boot : Half := 0
  durableSeq : Nat := 0
  prevHash : BitVec 256 := 0
  state : BlkState := .opened
  recs : List Rec := []
deriving DecidableEq, Repr

/-- A seal request on its way (R124): the block it seals and its header values. -/
structure SealReq where
  block : Nat := 0
  seq : Nat := 0
  time : Nat := 0
  device : Half := 0
  boot : Half := 0
  head : BitVec 256 := 0
deriving DecidableEq, Repr

/-- Who waits for a record's durability. -/
inductive Waiter where
  /-- A whisk context, by engine and context, at an epoch. -/
  | ctx (e c : Nat) (epoch : Half)
  /-- A whisk context that its own microcode runs, at an epoch. -/
  | micro (e c : Nat) (epoch : Half)
  /-- The decision record of a coordinator entry. -/
  | decision (xseq : Nat)
  /-- The COMMIT or ABORT record of a participant entry. -/
  | part (key : Nat)
  /-- The CKPT_END of a checkpoint run by a context. -/
  | ckpt (e c : Nat) (epoch : Half)
  /-- The START record. -/
  | start
  /-- Nobody. -/
  | nobody
deriving DecidableEq, Repr

/-- A checkpoint being written (R138): its sequence number, what was in force at S, where its image goes, the lowest account ID that the
writer has not yet visited, and the records and holds that it has copied. -/
structure Ckpt where
  e : Nat := 0
  c : Nat := 0
  s : Nat := 0
  dest : Dbl := 0
  pages : Nat := 0
  day : Word := 0
  daySeq : Nat := 0
  revStart : Nat := 0
  fn : Nat := 0
  imaging : Bool := false
  next : Nat := 0
  accounts : Tbl Account := []
  holds : Tbl Hold := []
  written : Bool := false
deriving DecidableEq, Repr

/-- The journal controller and its registers (03). `sealDone` are the SEAL records that wait for the next seal tick (R124), `sealFailAt`
the time of the last failed seal, `filledAt` the time and block of the last close by filling (R151). -/
structure Journal where
  nextSeq : Nat := 1
  durable : Nat := 0
  blocks : List Block := []
  nextBlock : Nat := 1
  restart : Bool := false
  wm : Nat := 0
  drained : Nat := 0
  enable : Bool := false
  port : Bool := false
  slotsLog2 : Nat := 0
  drainFn : Nat := 0
  drainBase : Dbl := 0
  wmAddr : Dbl := 0
  cfgErr : Bool := false
  wmErr : Bool := false
  sealFault : Bool := false
  unsealed : Bool := false
  stopped : Bool := false
  stopAt : Nat := 0
  committed : Nat := 0
  wmReads : Nat := 0
  wmLastRead : Nat := 0
  starting : Bool := false
  sealReqs : List SealReq := []
  sealDone : List Rec := []
  sealFailAt : Option Nat := none
  filledAt : Option (Nat × Nat) := none
  sealedSeq : Nat := 0
  waiters : Tbl Waiter := []
  ckpt : Option Ckpt := none
  lastTick : Nat := 0
  lastClosed : Nat := 0
  lastHash : BitVec 256 := 0
deriving DecidableEq, Repr

/-- One key slot of a tenant key record (Table 6.14). -/
structure KeySlot where
  gen : Word := 0
  iv : BitVec 96 := 0
  key : BitVec 256 := 0
  tag : BitVec 128 := 0
deriving DecidableEq, Repr

/-- A generation and its unwrapped key, in the sieve's key table (R252). -/
structure LiveKey where
  gen : Word := 0
  key : BitVec 256 := 0
deriving DecidableEq, Repr

/-- A tenant's key record, key-table entry and TENANT_ISO entry (R252, Tables 6.9, 6.10). -/
structure TenantKey where
  a : KeySlot := {}
  b : KeySlot := {}
  commit : Dbl := 0
  cur : Option LiveKey := none
  other : Option LiveKey := none
  mpuViol : Word := 0
  loadFault : Bool := false
  unflipped : Bool := false
  retireWaiting : Nat := 0
deriving DecidableEq, Repr

/-- A seal key or provisioning key record of the control area (R487, R488). -/
structure KeyRec where
  alg : Byte := 0
  keyId : Half := 0
  iv : BitVec 96 := 0
  key : BitVec 256 := 0
  tag : BitVec 128 := 0
deriving DecidableEq, Repr

/-- The key unit and the MPU registers (06). -/
structure Guard where
  keys : Tbl TenantKey := []
  retireErr : Bool := false
  regions : Tbl Dbl := []
  logErr : Bool := false
  logBase : Dbl := 0
  logEnable : Bool := false
  logLog2 : Nat := 0
  logFn : Nat := 0
  logCount : Nat := 0
  storageKeys : Tbl Half := []
deriving DecidableEq, Repr

end Sys2Proof.Machine
end

