-- ==== Sys2Proof/Machine/Tbl.lean ====
section
/-! DEFINITION. Reading and writing sparse tables. A table lists its keys strictly rising; a write through `tset` lists no entry
that equals the value an unlisted key reads as. -/
namespace Sys2Proof.Machine

/-- The entry at a key. -/
def tget {α : Type} : Tbl α → Nat → Option α
  | [], _ => none
  | (k', v) :: r, k => if k = k' then some v else tget r k

/-- The entry at a key, or what an unlisted key reads as. -/
def tgetD {α : Type} (t : Tbl α) (k : Nat) (d : α) : α := (tget t k).getD d

/-- List an entry at a key. -/
def tput {α : Type} : Tbl α → Nat → α → Tbl α
  | [], k, v => [(k, v)]
  | (k', v') :: r, k, v =>
    if k < k' then (k, v) :: (k', v') :: r
    else if k = k' then (k, v) :: r
    else (k', v') :: tput r k v

/-- Take a key out. -/
def tdel {α : Type} : Tbl α → Nat → Tbl α
  | [], _ => []
  | (k', v') :: r, k => if k = k' then r else if k < k' then (k', v') :: r else (k', v') :: tdel r k

/-- Write a key of a table whose unlisted keys read as `d`. -/
def tset {α : Type} [DecidableEq α] (t : Tbl α) (k : Nat) (d v : α) : Tbl α :=
  if v = d then tdel t k else tput t k v

/-- Change the entry at a key, if it is listed. -/
def tmod {α : Type} (t : Tbl α) (k : Nat) (f : α → α) : Tbl α :=
  match tget t k with
  | none => t
  | some v => tput t k (f v)

/-- Strictly rising keys, none below `lo`. -/
def twfFrom {α : Type} : Nat → Tbl α → Bool
  | _, [] => true
  | lo, (k, _) :: r => decide (lo ≤ k) && twfFrom (k + 1) r

/-- Strictly rising keys. -/
def twf {α : Type} (t : Tbl α) : Bool := twfFrom 0 t

/-- No entry equals what an unlisted key reads as. -/
def tnodef {α : Type} [DecidableEq α] (t : Tbl α) (d : α) : Bool := t.all fun e => decide (e.2 ≠ d)

/-- The entries that a test keeps. -/
def tfilter {α : Type} (t : Tbl α) (p : Nat → α → Bool) : Tbl α := t.filter fun e => p e.1 e.2

/-- Change every entry. -/
def tmap {α : Type} (t : Tbl α) (f : Nat → α → α) : Tbl α := t.map fun e => (e.1, f e.1 e.2)

end Sys2Proof.Machine
end

