-- ==== Sys2Proof/Machine/Books.lean ====
section
/-! DEFINITION. The ledger model (01) as operations over the books alone: legs, the checks of R55, balances, holds, suspense, the index. -/
namespace Sys2Proof.Machine

/-! Status codes of Tables 1.5 and 2.12 that the books raise. -/
def stOk : Byte := 0x00
def stInsufficient : Byte := 0x10
def stFrozen : Byte := 0x11
def stClosed : Byte := 0x12
def stDayLimit : Byte := 0x13
def stCurrency : Byte := 0x14
def stImbalance : Byte := 0x15
def stDirection : Byte := 0x16
def stNoAccount : Byte := 0x17
def stAmountRange : Byte := 0x18
def stBalanceRange : Byte := 0x19
def stHoldState : Byte := 0x1A
def stHoldExceeded : Byte := 0x1B
def stExists : Byte := 0x1C
def stNotEmpty : Byte := 0x1D
def stFlagRule : Byte := 0x1E
def stSeqRule : Byte := 0x1F
def stKeyWrap : Byte := 0x34
def stQuota : Byte := 0x40
def stJournalSpace : Byte := 0x41
def stQuarantine : Byte := 0x42
def stCapacity : Byte := 0x43
def stHoldSpace : Byte := 0x44
def stTaskQueue : Byte := 0x45
def stBusy : Byte := 0x46
def stBuffer : Byte := 0x47
def stRemoteTimeout : Byte := 0x50
def stRemoteRefused : Byte := 0x51
def stPartnerLost : Byte := 0x52
def stAckTimeout : Byte := 0x53
def stNotLocal : Byte := 0x54
def stDeviceFault : Byte := 0x60
def stInconsistent : Byte := 0x61
def stContextReset : Byte := 0x62
def stMemoryFault : Byte := 0x63
def stJournalFault : Byte := 0x64

/-! Account flags (Table 1.4). -/
def fValid (a : Account) : Bool := a.flags.getLsbD 0
def fClosed (a : Account) : Bool := a.flags.getLsbD 1
def fFrozen (a : Account) : Bool := a.flags.getLsbD 2
def fOverdraft (a : Account) : Bool := a.flags.getLsbD 3
def fDebitOnly (a : Account) : Bool := a.flags.getLsbD 4
def fCreditOnly (a : Account) : Bool := a.flags.getLsbD 5
def fPosition (a : Account) : Bool := a.flags.getLsbD 6
def fDayLim (a : Account) : Bool := a.flags.getLsbD 7

/-- Whether a value fits a ledger amount (R31). -/
def inRange (v : Int) : Bool := decide (-maxAmount ≤ v) && decide (v ≤ maxAmount)

/-- The tenant key of an account ID (Table 1.1). -/
def idTenant (id : Dbl) : Nat := id.toNat >>> 51

/-- The account number of an account ID (Table 1.1). -/
def idNumber (id : Dbl) : Nat := id.toNat % 2 ^ 51

/-- R24: account number 0 and the last 65,536 numbers are reserved. -/
def idReserved (id : Dbl) : Bool := idNumber id == 0 || decide (0x7FFFFFFFF0000 ≤ idNumber id)

/-- The fields of an account record as 128 bytes (Table 1.3). -/
def fieldBytes (a : Account) : Bytes :=
  le 8 a.id.toNat ++ le 2 a.currency.toNat ++ le 2 a.flags.toNat ++ le 4 a.version.toNat ++
  pack 16 a.ledger ++ pack 16 a.avail ++ pack 16 a.holds ++ pack 16 a.odLimit ++ pack 16 a.dayLimit ++ pack 16 a.dayTotal ++
  le 8 a.lastSeq ++ le 4 a.dayNumber.toNat ++ zeros 4

/-- The fields that 128 bytes hold (Table 1.3). -/
def fieldsOf (b : Bytes) : Account :=
  { id := dblAt b 0, currency := halfAt b 8, flags := halfAt b 10, version := wordAt b 12,
    ledger := unpack (slice b 16 16), avail := unpack (slice b 32 16), holds := unpack (slice b 48 16),
    odLimit := unpack (slice b 64 16), dayLimit := unpack (slice b 80 16), dayTotal := unpack (slice b 96 16),
    lastSeq := field b 112 8, dayNumber := wordAt b 120 }

/-- The record that 128 bytes hold; bytes that its fields alone would not give again are kept beside them. -/
def accountOf (b : Bytes) : Account := { fieldsOf b with raw := if fieldBytes (fieldsOf b) = b then none else some b }

/-- The bytes a record was read back with, while none of its fields has changed since. -/
def rawBytes (a : Account) : Bytes :=
  match a.raw with
  | some b => if fieldsOf b = { a with raw := none } then b else fieldBytes a
  | none => fieldBytes a

/-- An account record as 128 bytes (Table 1.3). -/
def accountBytes (a : Account) : Bytes := rawBytes a

/-- R40: the six amounts of a record's bytes are packed decimal as the device writes it (R28, R29). -/
def amountsOk (b : Bytes) : Bool :=
  [16, 32, 48, 64, 80, 96].all fun o => packOk (slice b o 16) && pack 16 (unpack (slice b o 16)) == slice b o 16

/-- R40: the first condition, 1 to 7 in R40's order, that a record breaks. -/
def inconsistency (a : Account) (key : Nat) : Option Nat :=
  if a.avail ≠ a.ledger - a.holds then some 1
  else if a.holds < 0 ∨ a.odLimit < 0 ∨ a.dayLimit < 0 ∨ a.dayTotal < 0 then some 2
  else if !(inRange a.ledger && inRange a.avail && inRange a.holds && inRange a.odLimit && inRange a.dayLimit && inRange a.dayTotal && amountsOk (rawBytes a)) then some 3
  else if a.id.toNat ≠ key then some 4
  else if !fValid a then some 5
  else if fDebitOnly a && fCreditOnly a then some 6
  else if 256 ≤ a.flags.toNat ∨ 2 ^ 14 ≤ a.currency.toNat ∨ field (rawBytes a) 124 4 ≠ 0 then some 7
  else none

/-- A leg (Table 2.2) or a value slot (R74). -/
structure Leg where
  account : Dbl := 0
  currency : Half := 0
  lflags : Half := 0
  lparam : Word := 0
  amount : Int := 0
deriving DecidableEq, Repr

/-- A leg of 32 bytes. -/
def legOf (b : Bytes) : Leg :=
  { account := dblAt b 0, currency := halfAt b 8, lflags := halfAt b 10, lparam := wordAt b 12, amount := unpack (slice b 16 16) }

/-- A leg as 32 bytes. -/
def legBytes (l : Leg) : Bytes :=
  le 8 l.account.toNat ++ le 2 l.currency.toNat ++ le 2 l.lflags.toNat ++ le 4 l.lparam.toNat ++ pack 16 l.amount

/-- The 32-byte slots of a run of bytes. -/
def slots32 (b : Bytes) : List Bytes := pieces 32 (b.length / 32) b

/-- Number the legs of a posting from 0. -/
def numberLegs : Nat → List Leg → List (Nat × Leg)
  | _, [] => []
  | n, l :: r => (n, l) :: numberLegs (n + 1) r

/-- The negation of R92: the amounts of every leg change sign; LFLAGS and LPARAM play no part. -/
def negLegs (ls : List Leg) : List Leg := ls.map fun l => { l with amount := -l.amount, lflags := 0, lparam := 0 }

/-- The currencies among legs, each once. -/
def currenciesOf (ls : List Leg) : List Half := (ls.map (·.currency)).eraseDups

/-- The sum of the debits' magnitudes among legs of a currency. -/
def debitSum (ls : List Leg) (c : Half) : Int :=
  ls.foldl (fun a l => if l.currency = c ∧ l.amount < 0 then a - l.amount else a) 0

/-- The sum of the credits among legs of a currency. -/
def creditSum (ls : List Leg) (c : Half) : Int :=
  ls.foldl (fun a l => if l.currency = c ∧ 0 < l.amount then a + l.amount else a) 0

/-- R53: neither side of any currency exceeds 10^31 − 1. -/
def amountRangeOk (ls : List Leg) : Bool :=
  (currenciesOf ls).all fun c => decide (debitSum ls c ≤ maxAmount) && decide (creditSum ls c ≤ maxAmount)

/-- R52: within each currency the legs cancel. -/
def balanced (ls : List Leg) : Bool := (currenciesOf ls).all fun c => decide (debitSum ls c = creditSum ls c)

/-- Steps 1 and 2 of R55. -/
def postingRule (ls : List Leg) : Option Byte :=
  if !amountRangeOk ls then some stAmountRange else if !balanced ls then some stImbalance else none

/-- An account of the books. -/
def acct (l : Ledger) (id : Dbl) : Option Account := tget l.accounts id.toNat

/-- Write an account record. -/
def putAcct (l : Ledger) (a : Account) : Ledger := { l with accounts := tput l.accounts a.id.toNat a }

/-- The key of a hold entry: account and hold ID (R89). -/
def holdKey (id : Dbl) (h : Word) : Nat := id.toNat * 2 ^ 32 + h.toNat

/-- An active hold of an account. -/
def holdOf (l : Ledger) (id : Dbl) (h : Word) : Option Hold := tget l.holds (holdKey id h)

/-- R49: the day total in effect on a day. -/
def effDay (a : Account) (day : Word) : Int := if a.dayNumber = day then a.dayTotal else 0

/-- R44: the availability check of a debit of magnitude `m`. -/
def availOk (a : Account) (m : Int) : Bool :=
  fPosition a || (if fOverdraft a then decide (-a.odLimit ≤ a.avail - m) else decide (0 ≤ a.avail - m))

/-- R50: the day-limit check of a debit of magnitude `m`. -/
def dayOk (a : Account) (day : Word) (m : Int) : Bool :=
  !fDayLim a || fPosition a || decide (effDay a day + m ≤ a.dayLimit)

/-- R40, R50: a day total as a record can hold it; of a sum beyond 31 digits the spec gives no value, and some valid one is written. -/
def fitDay (v : Int) : Int := if 0 ≤ v ∧ v ≤ maxAmount then v else Int.ofNat (Config.dayTotal v % 10 ^ 31)

/-- R49, R50: the day total rises by `m` on a day. -/
def addDay (a : Account) (day : Word) (m : Int) : Account := { a with dayTotal := fitDay (effDay a day + m), dayNumber := day }

/-- R42, R50: apply a leg of an amount to a record. -/
def moveAcct (a : Account) (day : Word) (amt : Int) : Account :=
  let a' := { a with ledger := a.ledger + amt, avail := a.avail + amt }
  if amt < 0 then addDay a' day (-amt) else a'

/-- Step 3 of R55 for one leg: the refusal, if any. -/
def legRule (l : Ledger) (g : Leg) : Option Byte :=
  match acct l g.account with
  | none => some stNoAccount
  | some a =>
    if fClosed a then some stClosed
    else if fFrozen a then some stFrozen
    else if a.currency ≠ g.currency then some stCurrency
    else if (decide (g.amount < 0) && fCreditOnly a) || (decide (0 < g.amount) && fDebitOnly a) then some stDirection
    else if !(inRange (a.ledger + g.amount) && inRange (a.avail + g.amount)) then some stBalanceRange
    else if decide (g.amount < 0) && !availOk a (-g.amount) then some stInsufficient
    else if decide (g.amount < 0) && !dayOk a l.day (-g.amount) then some stDayLimit
    else none

/-- R42: the books after one leg. -/
def moveLeg (l : Ledger) (g : Leg) : Ledger :=
  match acct l g.account with
  | none => l
  | some a => putAcct l (moveAcct a l.day g.amount)

/-- R90: step 3 for leg 0 of CAPTURE. -/
def captureRule (l : Ledger) (g : Leg) : Option Byte :=
  match acct l g.account with
  | none => some stNoAccount
  | some a =>
    if fClosed a then some stClosed
    else if fFrozen a then some stFrozen
    else if a.currency ≠ g.currency then some stCurrency
    else match holdOf l g.account g.lparam with
      | none => some stHoldState
      | some h =>
        if h.remaining < -g.amount then some stHoldExceeded
        else if !inRange (a.ledger + g.amount) then some stBalanceRange
        else none

/-- R90: the books after leg 0 of CAPTURE; `seq` goes to the hold entry. -/
def moveCapture (l : Ledger) (g : Leg) (final : Bool) (seq : Nat) : Ledger :=
  match acct l g.account, holdOf l g.account g.lparam with
  | some a, some h =>
    let c := -g.amount
    let rest := h.remaining - c
    let freed := if final then rest else 0
    let a' := { a with ledger := a.ledger - c, holds := a.holds - c - freed, avail := a.avail + freed }
    let key := holdKey g.account g.lparam
    let holds := if final ∨ rest = 0 then tdel l.holds key
      else if c = 0 then l.holds
      else tput l.holds key { h with remaining := rest, lastSeq := seq }
    { putAcct l a' with holds := holds }
  | _, _ => l

/-- R55 step 3 and R56: evaluate numbered legs in turn against the books as the earlier ones leave them; the first failure. -/
def evalLegs : Ledger → List (Nat × Leg) → Ledger ⊕ (Byte × Nat)
  | l, [] => .inl l
  | l, (n, g) :: r =>
    match legRule l g with
    | some code => .inr (code, n)
    | none => evalLegs (moveLeg l g) r

/-- Suspense of a currency (R59). -/
def suspenseOf (l : Ledger) (c : Half) : Suspense := tgetD l.suspense c.toNat {}

/-- Add to a suspense counter under the LAST_SEQ test of R141. -/
def addSuspense (l : Ledger) (seq : Nat) (c : Half) (d : Int) : Ledger :=
  let s := suspenseOf l c
  if d = 0 ∨ seq ≤ s.lastSeq then l
  else { l with suspense := tset l.suspense c.toNat {} { value := s.value + d, lastSeq := seq } }

/-- Whether two records differ in a field other than VERSION and LAST_SEQ (R39). -/
def changed (a b : Account) : Bool := decide ({ a with version := b.version, lastSeq := b.lastSeq } ≠ b)

/-- R39 and the LAST_SEQ test of R141 for one account: keep, refuse or count the change from `l0` to `l1`. -/
def settleOne (l0 : Ledger) (seq : Nat) (l1 : Ledger) (id : Nat) : Ledger :=
  match tget l0.accounts id, tget l1.accounts id with
  | none, some b => { l1 with accounts := tput l1.accounts id { b with lastSeq := seq } }
  | some a, some b =>
    if seq ≤ a.lastSeq then { l1 with accounts := tput l1.accounts id a }
    else if changed a b then { l1 with accounts := tput l1.accounts id { b with version := a.version + 1, lastSeq := seq } }
    else { l1 with accounts := tput l1.accounts id a }
  | _, none => l1

/-- The account of a hold key. -/
def holdKeyAccount (k : Nat) : Nat := k / 2 ^ 32

/-- The holds of accounts whose record already carries `seq` or more stay as they were (R141). -/
def settleHolds (l0 l1 : Ledger) (seq : Nat) (ids : List Nat) : Ledger :=
  let late := ids.filter fun i => match tget l0.accounts i with | some a => decide (seq ≤ a.lastSeq) | none => false
  if late.isEmpty then l1
  else
    let keep := tfilter l1.holds fun k _ => !late.contains (holdKeyAccount k)
    let old := tfilter l0.holds fun k _ => late.contains (holdKeyAccount k)
    { l1 with holds := old.foldl (fun t e => tput t e.1 e.2) keep }

/-- Take the books from `l0` to `l1` as the effect of the record `seq` on the accounts named (R39, R141). -/
def settle (l0 l1 : Ledger) (seq : Nat) (ids : List Nat) : Ledger :=
  (ids.eraseDups).foldl (settleOne l0 seq) (settleHolds l0 l1 seq ids.eraseDups)

/-- R39: the second record of a POST2 does not count a change of its command again: where pair 0 has changed the account, VERSION stays. -/
def countOnce (l0 : Ledger) (seq : Nat) (l1 : Ledger) (id : Nat) : Ledger :=
  match tget l0.accounts id, tget l1.accounts id with
  | some a, some b => if a.lastSeq + 1 = seq ∧ b.lastSeq = seq then { l1 with accounts := tput l1.accounts id { b with version := a.version } } else l1
  | _, _ => l1

/-! The index (R65 to R68). -/

/-- What an insert below a node gives: the nodes, the next free number, and a split's separator and new node. -/
structure Ins where
  nodes : Tbl IdxNode
  next : Nat
  split : Option (Nat × Nat)
deriving DecidableEq, Repr

/-- Put an entry into a leaf body in account-number order. -/
def leafPut (num slot : Nat) : List (Nat × Nat) → List (Nat × Nat)
  | [] => [(num, slot)]
  | (k, s) :: r => if num < k then (num, slot) :: (k, s) :: r else (k, s) :: leafPut num slot r

/-- Insert into the leaf `n` (R67). DESIGN CHOICE (log 92): NVERSION of a node just created starts at 0; Table 1.7 gives it no first value. -/
def insLeaf (nodes : Tbl IdxNode) (next n : Nat) (nd : IdxNode) (last : Bool) (num slot : Nat) : Ins :=
  if nd.entries.length < 20 then
    ⟨tput nodes n { nd with entries := leafPut num slot nd.entries, nversion := nd.nversion + 1 }, next, none⟩
  else
    let atEnd := last && nd.entries.all fun e => decide (e.1 < num)
    let all := leafPut num slot nd.entries
    let cut := if atEnd then 20 else 11
    let low := all.take cut
    let high := all.drop cut
    let old := { nd with entries := low, nversion := nd.nversion + 1, next := next }
    let new : IdxNode := { level := 0, next := nd.next, entries := high }
    ⟨tput (tput nodes n old) next new, next + 1, some ((high.headD (0, 0)).1, next)⟩

/-- Put the new child `c` with separator `sep` after child `i` of the internal node `n` (R67). -/
def insChild (nodes : Tbl IdxNode) (next n : Nat) (nd : IdxNode) (last : Bool) (i sep c : Nat) : Ins :=
  let keys := nd.keys.take i ++ sep :: nd.keys.drop i
  let kids := nd.children.take (i + 1) ++ c :: nd.children.drop (i + 1)
  if kids.length ≤ 20 then
    ⟨tput nodes n { nd with keys := keys, children := kids, nversion := nd.nversion + 1 }, next, none⟩
  else
    let cut := if last && i + 1 = 20 then 20 else 11
    let old := { nd with keys := keys.take (cut - 1), children := kids.take cut, nversion := nd.nversion + 1 }
    let new : IdxNode := { level := nd.level, keys := keys.drop cut, children := kids.drop cut }
    ⟨tput (tput nodes n old) next new, next + 1, some (keys.getD (cut - 1) 0, next)⟩

/-- Insert below the node `n`, at most `fuel` levels (R68: 8). -/
def insNode : Nat → Tbl IdxNode → Nat → Nat → Bool → Nat → Nat → Ins
  | 0, nodes, next, _, _, _, _ => ⟨nodes, next, none⟩
  | f + 1, nodes, next, n, last, num, slot =>
    match tget nodes n with
    | none => ⟨nodes, next, none⟩
    | some nd =>
      if nd.level = 0 then insLeaf nodes next n nd last num slot
      else
        let i := (nd.keys.filter fun k => decide (k ≤ num)).length
        let r := insNode f nodes next (nd.children.getD i 0) (last && decide (i + 1 = nd.children.length)) num slot
        match r.split with
        | none => r
        | some (sep, c) =>
          match tget r.nodes n with
          | none => r
          | some nd' => insChild r.nodes r.next n nd' last i sep c

/-- Enter an account number and slot into its tenant's tree (R65 to R67). -/
def indexInsert (l : Ledger) (tenant num slot : Nat) : Ledger :=
  let d := tgetD l.dir tenant {}
  if d.root = 0 then
    { l with nodes := tput l.nodes l.nextNode { level := 0, entries := [(num, slot)] },
             dir := tput l.dir tenant { root := l.nextNode, height := 1 }, nextNode := l.nextNode + 1 }
  else
    let r := insNode 16 l.nodes l.nextNode d.root true num slot
    match r.split with
    | none => { l with nodes := r.nodes, nextNode := r.next }
    | some (sep, c) =>
      { l with nodes := tput r.nodes r.next { level := d.height, keys := [sep], children := [d.root, c] },
               dir := tput l.dir tenant { root := r.next, height := d.height + 1 }, nextNode := r.next + 1 }

/-- Walk the index to an account number's slot (R65, R66). -/
def walkNode : Nat → Tbl IdxNode → Nat → Nat → Option Nat
  | 0, _, _, _ => none
  | f + 1, nodes, n, num =>
    match tget nodes n with
    | none => none
    | some nd =>
      if nd.level = 0 then (nd.entries.find? fun e => e.1 == num).map (·.2)
      else walkNode f nodes (nd.children.getD (nd.keys.filter fun k => decide (k ≤ num)).length 0) num

/-- The slot the index holds for an account ID. -/
def indexWalk (l : Ledger) (id : Dbl) : Option Nat :=
  let d := tgetD l.dir (idTenant id) {}
  if d.root = 0 then none else walkNode 16 l.nodes d.root (idNumber id)

/-- An index node as 256 bytes (Table 1.7). -/
def nodeBytes (n : IdxNode) : Bytes :=
  if n.level = 0 then
    fit 256 ([2, 0] ++ le 2 n.entries.length ++ le 4 n.nversion.toNat ++ le 4 n.next ++ zeros 4 ++ (n.entries.map fun e => le 8 e.1 ++ le 4 e.2).flatten)
  else
    fit 256 ([1, BitVec.ofNat 8 n.level] ++ le 2 n.keys.length ++ le 4 n.nversion.toNat ++ zeros 8 ++
      fit 152 (n.keys.map (le 8)).flatten ++ fit 80 (n.children.map (le 4)).flatten)

/-- A tenant directory entry as 8 bytes (R65). -/
def dirBytes (d : DirEntry) : Bytes := le 4 d.root ++ le 1 d.height ++ zeros 3

/-- The nodes that a walk to an account number reads, from node `n` down (R65, R68). -/
def walkPath : Nat → Tbl IdxNode → Nat → Nat → List Nat
  | 0, _, _, _ => []
  | f + 1, nodes, n, num =>
    match tget nodes n with
    | none => []
    | some nd =>
      if nd.level = 0 then [n]
      else n :: walkPath f nodes (nd.children.getD (nd.keys.filter fun k => decide (k ≤ num)).length 0) num

/-- The nodes that a walk to an account ID reads. -/
def indexPath (l : Ledger) (id : Dbl) : List Nat :=
  let d := tgetD l.dir (idTenant id) {}
  if d.root = 0 then [] else walkPath 16 l.nodes d.root (idNumber id)

/-- Accounts a part with `k` stacks' worth of ledger memory holds (Table 1.8), in 16 M. -/
def accountCap (k : Nat) : Nat := 16000000 * k

/-- Index nodes of the index region (Table 1.8). -/
def nodeCap (k : Nat) : Nat := 1835008 * k

/-- Hold entries (R89). -/
def holdCap (k : Nat) : Nat := 32000000 * k

/-- Reversal entries (R93). -/
def reversalCap (k : Nat) : Nat := 16000000 * k

/-! Effects of records (R57, R141). -/

/-- R60: the debits of local legs with their suspense (a prepare).
DESIGN CHOICE (log 91): step 3 of R55 judged these debits after the earlier credits of the posting (R61), which Table 1.6 applies only
at the commit; until then a LEDGER or AVAIL can lie below the bound of R31 and R40, and the record holds that value. -/
def prepareEffect (l : Ledger) (seq : Nat) (legs : List (Nat × Leg)) (capture final : Bool) : Ledger :=
  let l1 := legs.foldl (fun x e =>
    if capture && e.1 = 0 then moveCapture x e.2 final seq
    else if e.2.amount < 0 then moveLeg x e.2 else x) l
  let l2 := settle l l1 seq (legs.map fun e => e.2.account.toNat)
  (currenciesOf (legs.map (·.2))).foldl (fun x c => addSuspense x seq c (debitSum (legs.map (·.2)) c)) l2

/-- R60: the credits of local legs with their suspense (a commit). -/
def commitEffect (l : Ledger) (seq : Nat) (legs : List (Nat × Leg)) : Ledger :=
  let l1 := legs.foldl (fun x e => if 0 < e.2.amount then moveLeg x e.2 else x) l
  let l2 := settle l l1 seq (legs.map fun e => e.2.account.toNat)
  (currenciesOf (legs.map (·.2))).foldl (fun x c => addSuspense x seq c (-(creditSum (legs.map (·.2)) c))) l2

/-- R51: the effective day totals, before a prepare, of the accounts that its legs name. -/
def daysOf (l : Ledger) (legs : List (Nat × Leg)) : Tbl Int :=
  legs.foldl (fun t e => match acct l e.2.account with | some a => tput t e.2.account.toNat (effDay a l.day) | none => t) []

/-- R51, R60: undo a debit of the prepare on a record: its day total goes back to what it was before the prepare, on the same business day. -/
def undoDebit (l : Ledger) (days : Tbl Int) (g : Leg) : Ledger :=
  match acct l g.account with
  | none => l
  | some a =>
    putAcct l { a with ledger := a.ledger - g.amount, avail := a.avail - g.amount,
                       dayTotal := if a.dayNumber = l.day then tgetD days g.account.toNat (fitDay (a.dayTotal + g.amount)) else a.dayTotal }

/-- R90: an abort restores the hold and the balance that leg 0 of a CAPTURE changed; `h` is the entry before the prepare. -/
def undoCapture (l : Ledger) (g : Leg) (final : Bool) (h : Hold) (seq : Nat) : Ledger :=
  match acct l g.account with
  | none => l
  | some a =>
    let c := -g.amount
    let freed := if final then h.remaining - c else 0
    { putAcct l { a with ledger := a.ledger + c, holds := a.holds + c + freed, avail := a.avail - freed } with
      holds := tput l.holds (holdKey g.account g.lparam) { h with lastSeq := seq } }

/-- R60: reverse the debits of local legs and their suspense (an abort). -/
def abortEffect (l : Ledger) (seq : Nat) (legs : List (Nat × Leg)) (capture final : Bool) (hold : Option Hold) (days : Tbl Int) : Ledger :=
  let l1 := legs.foldl (fun x e =>
    if capture && e.1 = 0 then (match hold with | some h => undoCapture x e.2 final h seq | none => x)
    else if e.2.amount < 0 then undoDebit x days e.2 else x) l
  let l2 := settle l l1 seq (legs.map fun e => e.2.account.toNat)
  (currenciesOf (legs.map (·.2))).foldl (fun x c => addSuspense x seq c (-(debitSum (legs.map (·.2)) c))) l2

/-- R88: place a hold. -/
def holdEffect (l : Ledger) (seq : Nat) (g : Leg) : Ledger :=
  match acct l g.account with
  | none => l
  | some a =>
    let h := -g.amount
    let a' := addDay { a with holds := a.holds + h, avail := a.avail - h } l.day h
    let e : Hold := { account := g.account, holdId := g.lparam, currency := a.currency, placed := h, remaining := h, placeSeq := seq, lastSeq := seq }
    settle l { putAcct l a' with holds := tput l.holds (holdKey g.account g.lparam) e } seq [g.account.toNat]

/-- R91: release a hold. -/
def releaseEffect (l : Ledger) (seq : Nat) (id : Dbl) (hid : Word) : Ledger :=
  match acct l id, holdOf l id hid with
  | some a, some h =>
    settle l { putAcct l { a with holds := a.holds - h.remaining, avail := a.avail + h.remaining } with
               holds := tdel l.holds (holdKey id hid) } seq [id.toNat]
  | _, _ => l

/-- R37, R94: create a record. DESIGN CHOICE (log 92): the records take slots, and splits take nodes, in ascending order from slot 0 and
node 1; the spec does not say which free one is taken. -/
def openEffect (l : Ledger) (seq : Nat) (g : Leg) (flagsReq : Half) (od dl : Int) : Ledger :=
  match acct l g.account with
  | some _ => l
  | none =>
    let a : Account := { id := g.account, currency := g.currency, flags := flagsReq ||| 1, odLimit := od, dayLimit := dl, lastSeq := seq, dayNumber := l.day }
    let l1 := { putAcct l a with slots := l.slots + 1 }
    indexInsert l1 (idTenant g.account) (idNumber g.account) l.slots

/-- Whether an OPEN of an ID finds a free record slot and free nodes (R69). -/
def openFits (l : Ledger) (k : Nat) (id : Dbl) : Bool :=
  decide (l.slots < accountCap k) &&
  decide ((indexInsert l (idTenant id) (idNumber id) l.slots).nextNode ≤ nodeCap k + 1)

/-- Change the flags of a record (R95, R96). -/
def flagEffect (l : Ledger) (seq : Nat) (id : Dbl) (f : Half → Half) : Ledger :=
  match acct l id with
  | none => l
  | some a => settle l (putAcct l { a with flags := f a.flags }) seq [id.toNat]

/-- R97: the flags that a SETLIMITS leaves. -/
def setFlags (flags mask values : Half) : Half := (flags &&& ~~~mask) ||| (values &&& mask)

/-- R97: SETLIMITS. -/
def limitsEffect (l : Ledger) (seq : Nat) (id : Dbl) (mask values : Half) (limMask : Byte) (od dl : Int) : Ledger :=
  match acct l id with
  | none => l
  | some a =>
    settle l (putAcct l { a with flags := setFlags a.flags mask values,
                                 odLimit := if limMask.getLsbD 0 then od else a.odLimit,
                                 dayLimit := if limMask.getLsbD 1 then dl else a.dayLimit }) seq [id.toNat]

/-- R93: the start of the reversal window of `revDays` days. -/
def revStart (l : Ledger) (revDays : Nat) : Nat := max l.revFloor ((l.dayStarts[revDays - 1]?).getD 1)

/-- R47, R93, R98: begin a new business day and drop the reversal entries below the new window. -/
def dayEffect (l : Ledger) (seq : Nat) (day : Word) (revDays : Nat) : Ledger :=
  if seq ≤ l.daySeq then l
  else
    let l1 := { l with day := day, daySeq := seq, dayStarts := (seq :: l.dayStarts).take 256 }
    { l1 with reversal := tfilter l1.reversal fun k _ => decide (revStart l1 revDays ≤ k) }

/-- R92: enter a reversal, if absent. -/
def reversalPut (l : Ledger) (orig seq : Nat) : Ledger :=
  match tget l.reversal orig with
  | some _ => l
  | none => { l with reversal := tput l.reversal orig seq }

/-- R84: apply the legs of an accepted posting as one apply. -/
def postEffect (l : Ledger) (seq : Nat) (legs : List (Nat × Leg)) : Ledger :=
  settle l (legs.foldl (fun x e => moveLeg x e.2) l) seq (legs.map fun e => e.2.account.toNat)

/-- R87: apply one pair of a POST2; the command counts once in each record that it changes (R39). -/
def pairEffect (l : Ledger) (seq : Nat) (legs : List (Nat × Leg)) (second : Bool) : Ledger :=
  let l1 := postEffect l seq legs
  if second then ((legs.map fun e => e.2.account.toNat).eraseDups).foldl (countOnce l seq) l1 else l1

/-- R90: apply the legs of an accepted CAPTURE. -/
def captureEffect (l : Ledger) (seq : Nat) (legs : List (Nat × Leg)) (final : Bool) : Ledger :=
  settle l (legs.foldl (fun x e => if e.1 = 0 then moveCapture x e.2 final seq else moveLeg x e.2) l) seq
    (legs.map fun e => e.2.account.toNat)

/-- The legs in the body slots of a record. -/
def bodyLegs (r : Rec) (skip : Nat) : List Leg := ((slots32 r.body).drop skip).map legOf

/-- The leg or value slot in body slot `i` of a record. -/
def legAt (r : Rec) (i : Nat) : Leg := legOf (slice r.body (32 * i) 32)

/-- RFLAGS.XDEV. -/
def rXdev (r : Rec) : Bool := r.rflags.getLsbD 3
/-- RFLAGS.PEER. -/
def rPeer (r : Rec) : Bool := r.rflags.getLsbD 2
/-- RFLAGS.INTERNAL. -/
def rInternal (r : Rec) : Bool := r.rflags.getLsbD 1
/-- RFLAGS.FINAL. -/
def rFinal (r : Rec) : Bool := r.rflags.getLsbD 4

/-- The local legs that a prepare record applies (R117, R141): those LOCAL names, negated for a REVERSE. -/
def prepareLegs (r : Rec) : List (Nat × Leg) :=
  if r.kind = 0x30 then numberLegs 0 (bodyLegs r 1)
  else
    let ls := if r.kind = 0x05 then negLegs (bodyLegs r 1) else bodyLegs r 1
    let mask := field r.body 6 2
    (numberLegs 0 ls).filter fun e => bitOf mask e.1

/-- What a commit or abort needs of its prepare: the local legs, and for a CAPTURE its hold. -/
structure XPrep where
  legs : List (Nat × Leg) := []
  capture : Bool := false
  final : Bool := false
  hold : Option Hold := none
  days : Tbl Int := []
  reverse : Bool := false
deriving DecidableEq, Repr

/-- R57, R141: the effect of a durable record with STATUS 0x00 on the books. `x` is what its prepare left, for a commit or abort. -/
def recordEffect (l : Ledger) (r : Rec) (x : XPrep) (revDays : Nat) : Ledger :=
  if r.status ≠ 0 ∨ 0xE0 ≤ r.kind.toNat then l
  else if r.kind = 0x31 then
    let l1 := commitEffect l r.seq x.legs
    if rXdev r && x.reverse then reversalPut l1 r.ref.toNat (field r.body 8 8) else l1
  else if r.kind = 0x32 then abortEffect l r.seq x.legs x.capture x.final x.hold x.days
  else if rXdev r || r.kind = 0x30 then prepareEffect l r.seq (prepareLegs r) (r.kind == 0x03) (rFinal r)
  else if r.kind = 0x01 then postEffect l r.seq (numberLegs 0 (bodyLegs r 0))
  else if r.kind = 0x06 then pairEffect l r.seq (numberLegs 0 (bodyLegs r 0)) (r.rflags.getLsbD 5)
  else if r.kind = 0x02 then holdEffect l r.seq (legAt r 0)
  else if r.kind = 0x03 then captureEffect l r.seq (numberLegs 0 (bodyLegs r 0)) (rFinal r)
  else if r.kind = 0x04 then releaseEffect l r.seq r.ref (wordAt r.body 0)
  else if r.kind = 0x05 then reversalPut (postEffect l r.seq (numberLegs 0 (negLegs (bodyLegs r 1)))) r.ref.toNat r.seq
  else if r.kind = 0x08 then
    openEffect l r.seq (legAt r 0) (BitVec.ofNat 16 (r.ref.toNat % 65536))
      (legAt r 1).amount (legAt r 2).amount
  else if r.kind = 0x09 then flagEffect l r.seq r.ref (· ||| 2)
  else if r.kind = 0x0A then flagEffect l r.seq r.ref (· ||| 4)
  else if r.kind = 0x0B then flagEffect l r.seq r.ref (· &&& 0xFFFB)
  else if r.kind = 0x0C then
    limitsEffect l r.seq r.ref (halfAt r.body 0) (halfAt r.body 2) (byteAt r.body 4)
      (legAt r 1).amount (legAt r 2).amount
  else if r.kind = 0x0D then dayEffect l r.seq (BitVec.ofNat 32 r.ref.toNat) revDays
  else l

/-- A hold entry as 64 bytes (Table 2.8). -/
def holdBytes (h : Hold) : Bytes :=
  le 8 h.account.toNat ++ le 4 h.holdId.toNat ++ [1, 0] ++ le 2 h.currency.toNat ++ pack 16 h.placed ++ pack 16 h.remaining ++
  le 8 h.placeSeq ++ le 8 h.lastSeq

/-- The hold entry that 64 bytes hold. -/
def holdOfBytes (b : Bytes) : Hold :=
  { account := dblAt b 0, holdId := wordAt b 8, currency := halfAt b 14, placed := unpack (slice b 16 16),
    remaining := unpack (slice b 32 16), placeSeq := field b 48 8, lastSeq := field b 56 8 }

end Sys2Proof.Machine
end

