-- ==== Sys2Proof/Machine/StateHost.lean ====
section
/-! DEFINITION. Plain data of the host link and the whisk engines: the parts of State that chapters 04 and 05 give. -/
namespace Sys2Proof.Machine

/-- What a command came in by. -/
inductive Origin where
  /-- Local tray `t` of function `f`. -/
  | tray (f t : Nat)
  /-- Port slot of a ladle core's frame. -/
  | port (core frame slot : Nat)
  /-- A PREPARE of a coordinator, by its participant entry. -/
  | peer (key : Nat)
deriving DecidableEq, Repr

/-- A command as the device keeps it after the sieve (R192): the 128-byte header, its extension bytes, and who sent it. -/
structure Cmd where
  desc : Bytes := []
  ext : Bytes := []
  tenant : Nat := 0
  trayNo : Option Nat := none
  traySeq : Word := 0
  pushed : Bool := false
  inner : Bool := false
  supervisor : Bool := false
  verifyKey : Option (BitVec 256) := none
deriving DecidableEq, Repr

/-- A completion before it is laid out (Table 5.6), with the DEST response that goes before it (R81). -/
structure Compl where
  status : Byte := 0
  info : Half := 0
  seq : Nat := 0
  avail : Int := 0
  hostTag : Half := 0
  fill : Bool := false
  pushed : Bool := false
  respAddr : Dbl := 0
  resp : Bytes := []
deriving DecidableEq, Repr

/-- Where a ticket is (R213): in transit, held, or its completion issued and its return due. -/
inductive TkState where | transit | held | issued
deriving DecidableEq, Repr

/-- A ticket that is not free, with the ticket entry of its command (R213, R175); `engine` is the engine its command was dispatched to. -/
structure Ticket where
  state : TkState := .transit
  origin : Origin := .tray 0 0
  cmd : Cmd := {}
  order : Nat := 0
  intact : Bool := true
  reserved : Nat := 0
  locked : Bool := false
  numbered : Bool := false
  result : Option Compl := none
  engine : Nat := 0
deriving DecidableEq, Repr

/-- The 64 k tickets and their quotas (05). -/
structure Tickets where
  held : Tbl Ticket := []
  nextOrder : Nat := 0
  fxReserve : Nat := 2048
  opReserve : Nat := 1024
  quotas : Tbl Nat := []
deriving DecidableEq, Repr

/-- A command the tray has taken and whose completion is not yet issued, in TRAY_SEQ order (R217). -/
structure Flight where
  seq : Word := 0
  ticket : Option Nat := none
  done : Option Compl := none
deriving DecidableEq, Repr

/-- A command that has passed the sieve and waits for its ticket (R215). -/
structure Waiting where
  cmd : Cmd := {}
  seq : Word := 0
  code : Option Byte := none
  spent : Nat := 0
  since : Option Nat := none
deriving DecidableEq, Repr

/-- A push assembly slot (R205). -/
structure PushSlot where
  half0 : Option Bytes := none
  half1 : Option Bytes := none
  first : Nat := 0
  whole : Nat := 0
deriving DecidableEq, Repr

/-- The tray's last journaled command (R136). -/
structure LastCmd where
  seq : Nat := 0
  kind : Byte := 0
  rflags : Byte := 0
  status : Byte := 0
  info : Half := 0
  traySeq : Word := 0
  undecided : Bool := false
deriving DecidableEq, Repr

/-- A tray (Tables 5.12 to 5.16, R198, R205, R208, R220, R227). `rdRuns` is what is still to come of each ring read, oldest first; `flr` marks
a tray of a reset function that is not IDLE yet (R229). -/
structure Tray where
  enable : Bool := false
  pushEn : Bool := false
  msixEn : Bool := false
  crBase : Dbl := 0
  cqBase : Dbl := 0
  cfg : Dbl := 0
  expect : Word := 1
  crHead : Word := 0
  crTail : Word := 0
  cqHead : Word := 0
  cfgErr : Bool := false
  readErr : Bool := false
  quar : Bool := false
  quarFill : Bool := false
  flight : List Flight := []
  waiting : Option Waiting := none
  ring : List Bytes := []
  headSince : Nat := 0
  rdIssued : Word := 0
  rdDone : Word := 0
  rdRuns : List Nat := []
  slots : Tbl PushSlot := []
  lastIssued : Word := 0
  lastCmd : Option LastCmd := none
  eggC : Nat := 0
  eggT0 : Nat := 0
  winStart : Option Nat := none
  window : Nat := 0
  unlogged : Nat := 0
  total : Nat := 0
  discard : Nat := 0
  flr : Bool := false
deriving DecidableEq, Repr

/-- A function: its map entry, setup registers, doorbell reads and MSI-X table (R188, R195, R202, R221). -/
structure Fn where
  valid : Bool := false
  tenant : Nat := 0
  ntrays : Nat := 0
  firstTray : Nat := 0
  dbBase : Dbl := 0
  dbPoll : Nat := 0
  dbPagesM1 : Nat := 0
  dbEnable : Bool := false
  dbViol : Bool := false
  dbErr : Bool := false
  dbReads : List Nat := []
  dbRerun : List Nat := []
  dbFollow : Tbl Nat := []
  trayReads : List Nat := []
  trayPolled : Tbl Nat := []
  vlogCount : Nat := 0
  vlog : Tbl Bytes := []
  fnMasked : Bool := false
  unmasked : List Nat := []
  pendingBits : List Nat := []
  resetting : Bool := false
deriving DecidableEq, Repr

/-- The host link: functions by number, trays by 2,048 × function + local tray, and its registers (Table 5.20). -/
structure HostLink where
  fns : Tbl Fn := []
  trays : Tbl Tray := []
  extUsed : Nat := 0
  mapErr : Bool := false
  vlogBase : Dbl := 0
  vlogEnable : Bool := false
  vlogLog2 : Nat := 0
  vlogFn : Nat := 0
  vlogCount : Nat := 0
deriving DecidableEq, Repr

/-- What the device has put out on a bus, a link or a pin, oldest first. -/
inductive Out where
  /-- A posted write of a function to host memory (R184). -/
  | dma (fn : Nat) (addr : Dbl) (data : Bytes)
  /-- A read of host memory that a function has issued. -/
  | read (fn : Nat) (addr : Dbl) (len : Nat)
  /-- An MSI-X message of an entry of a function (R221). -/
  | msix (fn entry : Nat)
  /-- An error reported through AER (R223). -/
  | aer (fn : Nat)
  /-- A flit sent on a link (Table 12.1); link 32 is the partner path (R456). -/
  | flit (link : Nat) (data : Bytes)
  /-- A TAP data register shifted out (R505). -/
  | tap (data : Bytes)
  /-- The SYNC_OUT pulse (R454). -/
  | syncOut (time : Nat)
deriving DecidableEq, Repr

/-- A doorbell entry as read: local tray, CR_TAIL, CQ_HEAD (R198). -/
structure DbEntry where
  t : Nat := 0
  tail : Word := 0
  head : Word := 0
deriving DecidableEq, Repr

/-- States of a context (Table 4.11). -/
inductive CtxState where | free | ready | waiting | sweeping
deriving DecidableEq, Repr

/-- STATE of a recovery entry (Table 4.14). -/
inductive RecState where | free | taken | appending | durable | applied | prepared
deriving DecidableEq, Repr

/-- A recovery entry (Table 4.14). -/
structure RecEntry where
  seq : Nat := 0
  state : RecState := .free
  nrec : Nat := 0
  ticket : Nat := 0
deriving DecidableEq, Repr

/-- How far a context's command is (R77). -/
inductive Phase where
  /-- No command, or a command not yet begun. -/
  | idle
  /-- Waits for locks. -/
  | locks
  /-- A FENCE waits for the tickets before it (R103). -/
  | fence
  /-- A DAYROLL holds or waits for its fence (R48). -/
  | dayroll
  /-- A KEYUPDATE writes its slot (R259 step 2). -/
  | keyWrite
  /-- The record is numbered and not yet durable. -/
  | appended
  /-- The checkpoint's image is being written (R138). -/
  | image
  /-- The posting is prepared, or its decision is not yet durable (Table 12.12). -/
  | xdev
deriving DecidableEq, Repr

/-- A result of a unit with a fixed step count that has not arrived yet: when it does, its result ports, guard flags, condition groups and store bytes (R153, R156, R159). -/
structure Late where
  due : Nat := 0
  ports : List (Nat × Dbl) := []
  flags : List (Nat × Bool) := []
  groups : List (Nat × Nat) := []
  off : Nat := 0
  bytes : Bytes := []
deriving DecidableEq, Repr

/-- A whisk context (R152, R164, R174). `store` is the 1 KiB context store, sparse; `queued` says that a priority append of it waits
for the controller to take it (R110), `appending` that its microcode has asked for an append that is not yet numbered. -/
structure Ctx where
  state : CtxState := .free
  pc : Half := 0
  store : Tbl Byte := []
  ports : Tbl Dbl := []
  flags : Byte := 0
  groups : Tbl Nat := []
  stack : List Half := []
  awaiting : List Nat := []
  pend : Tbl Nat := []
  late : List Late := []
  since : Nat := 0
  epoch : Half := 0
  entry : RecEntry := {}
  ticket : Option Nat := none
  ext : Bytes := []
  phase : Phase := .idle
  compl : Compl := {}
  acctRef : Option Dbl := none
  keys : List Dbl := []
  issued : Bool := false
  failed : Bool := false
  firstSeq : Nat := 0
  queued : Bool := false
  appending : Bool := false
deriving DecidableEq, Repr

/-- The registers and engines of chapter 04. Contexts are kept by 256 × engine + context. -/
structure Engines where
  enabled : Dbl := 0
  ctxs : Tbl Ctx := []
  lastOrd : Tbl Nat := []
  lastPrio : Tbl Nat := []
  lastEngine : Nat := 0
  steps : Tbl Nat := []
  resetting : List Nat := []
  tlb : Tbl (List Nat) := []
  resetTimes : Tbl (List Nat) := []
  engineResets : Tbl (List Nat) := []
  resets : Nat := 0
  rollfwd : Nat := 0
  patchId : Word := 0
  matchRegs : Tbl Dbl := []
  locked : Bool := false
  patchRam : Tbl Dbl := []
  traceEnable : Bool := false
  traceOneshot : Bool := false
  traceLog2 : Nat := 0
  traceFn : Nat := 0
  traceBase : Dbl := 0
  traceBytes : Nat := 0
  traceFilter : Dbl := 0
  traceLost : Nat := 0
  dayFence : Option (Nat × Nat) := none
deriving DecidableEq, Repr

/-- An owner tag (Table 4.12): KIND, UNIT, SLOT. -/
structure Owner where
  kind : Nat := 0
  unit : Nat := 0
  slot : Nat := 0
deriving DecidableEq, Repr

/-- A waiter of a lock, with the class of R169. -/
structure LockWait where
  owner : Owner := {}
  epoch : Half := 0
  prio : Bool := false
deriving DecidableEq, Repr

/-- A lock that is held: owner, epoch, queue (R169, R171); `lent` marks a frame's lock lent to a posting (R323), `spill` one whose entry lies in the lock spill area (R172). -/
structure Lock where
  owner : Owner := {}
  epoch : Half := 0
  lent : Option Nat := none
  waiters : List LockWait := []
  spill : Bool := false
deriving DecidableEq, Repr

end Sys2Proof.Machine
end

