-- ==== Sys2Proof/Machine/StateCore.lean ====
section
/-! DEFINITION. Plain data of the ladle cores, the event controller and the memory system: the parts of State that chapters 07 to 11 give. -/
namespace Sys2Proof.Machine

/-- States of an event source (R388). -/
inductive SrcState where | idle | pending | active
deriving DecidableEq, Repr

/-- An event source (Tables 10.16, 10.17). -/
structure Source where
  cfg : Dbl := 0
  tgt : BitVec 128 := 0
  state : SrcState := .idle
  cnt : Nat := 0
  t0 : Nat := 0
  lost : Nat := 0
  owner : Nat := 0
  level : Bool := false
deriving DecidableEq, Repr

/-- The event controller (10): sources by number, comparators (value, armed). -/
structure Events where
  srcs : Tbl Source := []
  cmps : Tbl (Nat × Bool) := []
deriving DecidableEq, Repr

/-- Coherence states of an L1 line that is held (Table 11.16). -/
inductive L1St where | m | o | e | s
deriving DecidableEq, Repr

/-- An L1 line: its state, the access key its fill was checked under, its write-granted bit (R250, R421), which of its bytes are dirty. -/
structure L1Line where
  st : L1St := .s
  key : Nat := 0
  wr : Bool := false
  dirty : BitVec 128 := 0
deriving DecidableEq, Repr

/-- Directory states of a line that some L1 holds (Table 11.16). -/
inductive DirSt where | shared | exclusive | owned
deriving DecidableEq, Repr

/-- A directory entry (R421): state, owner core, sharers; the cores whose request for ownership lost to the owner's (R425). An UNCACHED line has none. -/
structure DirLine where
  st : DirSt := .shared
  owner : Nat := 0
  sharers : List Nat := []
  losers : List Nat := []
deriving DecidableEq, Repr

/-- A TLBI broadcast that units have still to acknowledge (R418): cores 0 to 127, engines from 128, the partner die as 256, which `core` names too for a
broadcast that came from there. -/
structure Tlbi where
  core : Nat := 0
  kind : TlbiKind := .all
  left : List Nat := []
deriving DecidableEq, Repr

/-- Memory (11): bytes of HBM's general area and of the pantries by physical address, poisoned lines, L1s, directories, broadcasts, the registers of Table 11.6. -/
structure Mem where
  bytes : Tbl Byte := []
  poison : List Nat := []
  larder : List Nat := []
  l1 : Tbl L1Line := []
  dir : Tbl DirLine := []
  tlbis : List Tlbi := []
  ce : Nat := 0
  ue : Nat := 0
  ueValid : Bool := false
  ueOvf : Bool := false
  ueSlice : Nat := 0
  ueLine : Nat := 0
  ueSram : Bool := false
  scrubHours : Nat := 24
  scrubEn : Bool := true
  recalls : Nat := 0
deriving DecidableEq, Repr

/-- An accumulator (R329, R330): its signed value and its two sticky flags. -/
structure Acc where
  val : Int := 0
  ov : Bool := false
  dz : Bool := false
deriving DecidableEq, Repr

/-- An exception to take: vector, EADDR and the fields of EINFO (Table 10.10); `va` is the virtual address of an access whose walk met a bus error. -/
structure Exc where
  vec : Nat := 0
  cause : Nat := 0
  addr : Dbl := 0
  va : Dbl := 0
  acc : Nat := 0
  phys : Bool := false
  imp : Bool := false
  slotB : Bool := false
  entry : Bool := false
  ovr : Bool := false
  code : Nat := 0
deriving DecidableEq, Repr

/-- A block in a frame's fetch buffer (R275, R276): 16 bytes, or the fault its fetch met. -/
structure FetchBlk where
  addr : Nat := 0
  data : Bytes := []
  fault : Option Exc := none
deriving DecidableEq, Repr

/-- A written control register that is not yet in force (R288, R290): instructions still to run under the old value, or none: it waits for SYNC. -/
structure PendWrite where
  reg : Nat := 0
  val : Dbl := 0
  left : Option Nat := none
  /-- The place of a write of the MPU block among the die's writes of it (R240). -/
  ord : Nat := 0
deriving DecidableEq, Repr

/-- An exception that a long operation has met and that is still to be taken (R285, R287): its word, its address, the exception, PSW.MSK as it arose. -/
structure LopExc where
  word : Word := 0
  addr : Word := 0
  exc : Exc := {}
  msk : Bool := false
deriving DecidableEq, Repr

/-- Frame states (Table 10.2). -/
inductive FrameState where | off | stopped | ready | running | stalled | sleep | stopping | resetting
deriving DecidableEq, Repr

/-- What the instruction of a frame waits for. -/
inductive Wait where
  | idle
  /-- An L1 miss on a line, for reading or for ownership (R279, R422). -/
  | line (l : Nat) (own : Bool)
  /-- A network access (R279). -/
  | net
  /-- What a network access brought; the instruction goes on when it issues again. -/
  | filled (data : Bytes) (ok : Bool)
  /-- An unbuffered store or a CAS waits for the store buffer to empty (R280, R312). -/
  | drain
  /-- PPOST or PPOSTL waits for its ticket (R320), or, with slot 32, for a free slot. -/
  | grant (w : Word) (slot : Nat)
  /-- PWAIT waits for its posting. -/
  | port (w : Word) (slot : Nat)
  /-- ALOCK waits for its lock (R322). -/
  | lock (w : Word) (key : Nat)
  /-- AUNLOCK or AUNLOCKALL waits for lent locks (R323). -/
  | lent
  /-- CPS or CPR waits for the seal engine (R326): result area address and length. -/
  | seal (w : Word) (out : List Nat) (tag : Nat)
  /-- CX waits for its companion (R327): the block's addresses, the tag, when it was sent. -/
  | cx (w : Word) (blk : List Nat) (tag : Half) (since : Nat)
deriving DecidableEq, Repr

/-- A task frame (R362). -/
structure Frame where
  state : FrameState := .off
  g : Tbl Word := []
  d : Tbl Acc := []
  m : Tbl (Word × Word) := []
  repc : Word := 0
  repv : Bool := false
  lopw : Word := 0
  lopa : Word := 0
  lov : Bool := false
  pc : Word := 0
  fetch : List FetchBlk := []
  psw : Word := 3
  evb : Word := 0
  epc : Word := 0
  epsw : Word := 0
  einfo : Word := 0
  eaddr : Dbl := 0
  dfpc : Word := 0
  svp : Word := 0
  tcr : Word := 0
  ttb : Dbl := 0
  asid : Word := 0
  keyctl : Word := 0
  dlazy : Word := 0
  ssp : Word := 0
  ste : Option Exc := none
  epoch : Half := 0
  restored : Bool := false
  cmdErr : Bool := false
  pend : List PendWrite := []
  wait : Wait := .idle
  /-- A long operation in flight: its word and its address (R283). -/
  lop : Option (Word × Word) := none
  /-- PSW as the long operation in flight read it (R332), and the stores buffered before it that it waits for (R358). -/
  lopPsw : Word := 0
  lopSb : Nat := 0
  lopExc : Option LopExc := none
  /-- Repetitions still to run of the prefix at pc (R313). -/
  rep : Option Nat := none
  /-- Ladle-class commands held: ticket and handle (R317, Table 8.15). -/
  cmds : List (Nat × Word) := []
  ctag : Half := 0
  /-- The last instruction issued, while it may still be the first of a pair (R268). -/
  last : Option (Word × Word) := none
  /-- The address of a traced instruction whose trace exception is still to be taken (R376, R386). -/
  traceDue : Option Word := none
deriving DecidableEq, Repr

/-- A TLB entry (R416): level 1, 2 or 3, or 0 for a 64 KiB group. -/
structure TlbEntry where
  asid : Half := 0
  base : Nat := 0
  lv : Nat := 1
  e : Dbl := 0
deriving DecidableEq, Repr

/-- A store buffer entry (R280); `tlb` is the TLB entry that its address was translated under (R418). -/
structure SbEntry where
  pa : Nat := 0
  data : Bytes := []
  key : Nat := 0
  priv : Bool := false
  frame : Nat := 0
  epoch : Half := 0
  va : Nat := 0
  asid : Half := 0
  tlb : Option TlbEntry := none
deriving DecidableEq, Repr

/-- A walk-cache entry (R416): the table that maps a virtual range at a level. -/
structure WalkEntry where
  asid : Half := 0
  lv : Nat := 1
  tag : Nat := 0
  table : Nat := 0
deriving DecidableEq, Repr

/-- An entry of a core's priority stack (R392). -/
structure StackEntry where
  prio : Nat := 0
  src : Nat := 0
  frame : Nat := 0
deriving DecidableEq, Repr

/-- Where a port slot stands. -/
inductive SlotState where | waiting | posted | done
deriving DecidableEq, Repr

/-- A port slot of a core (R320, R321): its frame at an epoch, handle, command, parent ticket, completion area, DEST bytes, whether under lent locks. -/
structure PortSlot where
  state : SlotState := .waiting
  frame : Nat := 0
  epoch : Half := 0
  handle : Word := 0
  cmd : Cmd := {}
  parent : Option Nat := none
  ticket : Option Nat := none
  area : List Nat := []
  dest : List Nat := []
  locked : Bool := false
  order : Nat := 0
  status : Byte := 0
  /-- The code that the port's checks gave as the block was read, if they refused it (R320). -/
  refused : Option Byte := none
deriving DecidableEq, Repr

/-- A ladle core (07, 10). Frames not listed are OFF at their reset values. -/
structure Core where
  frames : Tbl Frame := []
  running : Option Nat := none
  som : Bool := false
  stack : List StackEntry := []
  eoiErr : Bool := false
  sb : List SbEntry := []
  /-- The frames that wait for lines, oldest first (R420). -/
  missQ : List Nat := []
  tlb : List TlbEntry := []
  walk : List WalkEntry := []
  slots : Tbl PortSlot := []
  /-- Postings whose blocks have been read and checked and that wait for a free slot, oldest first (R320). -/
  portWait : List PortSlot := []
  counts : Tbl Nat := []
  resets : List Nat := []
  starting : Bool := false
deriving DecidableEq, Repr

/-- A command in a ladle task queue (R317): ticket, grant time. -/
structure QEntry where
  ticket : Nat := 0
  granted : Nat := 0
deriving DecidableEq, Repr

/-- A CPS or CPR request at the seal engine (R326). -/
structure SealJob where
  core : Nat := 0
  frame : Nat := 0
  epoch : Half := 0
  func : Nat := 0
  input : Bytes := []
  keysel : Nat := 0
  outLen : Nat := 0
  tag : Nat := 0
  unit : Option Nat := none
deriving DecidableEq, Repr

/-- The ladle cores, their task queues, their seal-engine requests. -/
structure Cores where
  cores : Tbl Core := []
  queues : Tbl (List QEntry) := []
  jobs : List SealJob := []
  posts : Nat := 0
  mpuWrites : Nat := 0
deriving DecidableEq, Repr

end Sys2Proof.Machine
end

