-- ==== Sys2Proof/Machine/StateFabric.lean ====
section
/-! DEFINITION. Plain data of the fabric, the duplex, the management core and the board side: the parts of State that chapters 12, 13 and 14 give. -/
namespace Sys2Proof.Machine

/-- Link states (Table 12.4). -/
inductive LinkState where | disabled | training | lock | exchange | up | down
deriving DecidableEq, Repr

/-- A fabric link (Table 12.20, R429 to R435). `keeps` says that it trains with its retry buffer and sequence numbers kept, `retrainFrom` since when it
has retrained for want of progress, which R433 bounds. -/
structure Link where
  enable : Bool := false
  rate : Bool := false
  state : LinkState := .disabled
  reason : Byte := 0
  peer : Nat := 0
  peerLink : Nat := 0
  peerRole : Nat := 0
  since : Nat := 0
  fecUncorr : Nat := 0
  fecCorr : Nat := 0
  retrains : Nat := 0
  retryReqs : Nat := 0
  violTotal : Nat := 0
  violOpen : Nat := 0
  violStart : Option Nat := none
  txNext : Nat := 0
  unacked : List Bytes := []
  txQueue : List Bytes := []
  credits : Tbl Nat := []
  rxExpect : Nat := 0
  rxUsed : Tbl Nat := []
  rxParts : Tbl Bytes := []
  reqSent : Nat := 0
  reqAt : Nat := 0
  goodWords : Nat := 0
  badWords : Nat := 0
  lastWord : Nat := 0
  locked : Bool := false
  keeps : Bool := false
  retrainFrom : Option Nat := none
deriving DecidableEq, Repr

/-- Who meets the fate of a message sent with ESEQ (R441). -/
inductive MsgOwner where
  | coord (xseq : Nat)
  | part (key : Nat)
  | nobody
deriving DecidableEq, Repr

/-- An unacknowledged message (R441). -/
structure Sent where
  eseq : Nat := 0
  sentAt : Nat := 0
  owner : MsgOwner := .nobody
  timedOut : Bool := false
deriving DecidableEq, Repr

/-- The end-to-end window towards one endpoint (R441): next ESEQ, unacknowledged messages, sends that wait for a place, and the postings
whose send met no path once it had its place. -/
structure E2e where
  next : Nat := 0
  out : List Sent := []
  waiting : List (Msg × MsgOwner) := []
  lost : List Nat := []
deriving DecidableEq, Repr

/-- A participant as its coordinator sees it (R446). -/
structure XPart where
  ep : Nat := 0
  legnos : List Nat := []
  sent : Bool := false
  prepared : Bool := false
  refused : Option (Byte × Bool × Nat) := none
  done : Bool := false
  lastSend : Nat := 0
deriving DecidableEq, Repr

/-- Coordinator states (Table 12.12). -/
inductive CoordState where | preparing | committing | aborting | decided
deriving DecidableEq, Repr

/-- A coordinator's posting-table entry (R445), keyed by XSEQ. `ctx` is none once the fabric resolver has it. -/
structure Coord where
  state : CoordState := .preparing
  ctx : Option (Nat × Nat) := none
  ticket : Option Nat := none
  tenant : Half := 0
  tray : Half := 0
  traySeq : Word := 0
  rflags : Byte := 0
  op : Byte := 0
  ref : Dbl := 0
  cref : Dbl := 0
  legs : List Bytes := []
  localMask : Half := 0
  final : Bool := false
  hold : Option Hold := none
  parts : List XPart := []
  boot : Half := 0
  prepDurable : Bool := false
  prepFailed : Bool := false
  lastPrepare : Nat := 0
  cause : Byte := 0
  commit : Bool := false
  status : Byte := 0
  info : Half := 0
  rebuilt : Bool := false
  due : Bool := false
  days : Tbl Int := []
deriving DecidableEq, Repr

/-- States of a participant's posting (R448, R449). -/
inductive PartState where | waiting | taken | refusing | prepared | deciding | closed
deriving DecidableEq, Repr

/-- A participant's posting-table entry (R445), keyed by coordinator endpoint, BOOT and XSEQ. -/
structure PartEnt where
  state : PartState := .waiting
  src : Nat := 0
  xseq : Nat := 0
  boot : Half := 0
  slot : Bytes := []
  legs : List Bytes := []
  prio : Bool := false
  ticket : Option Nat := none
  ctx : Option (Nat × Nat) := none
  code : Byte := 0
  waitFrom : Nat := 0
  prepSeq : Nat := 0
  preparedAt : Nat := 0
  lastQuery : Nat := 0
  commit : Bool := false
  doneSeq : Nat := 0
  unknown : Bool := false
  due : Bool := false
  arrival : Nat := 0
  days : Tbl Int := []
deriving DecidableEq, Repr

/-- The fabric unit (12), `ep0` the endpoint that PLACE entries name from reset: registers, links, windows, posting tables, tombstones. -/
structure Fabric where
  device : Nat := 0
  ep0 : Nat := 0
  die : Bool := false
  epoch : Word := 0
  xm1 : Nat := 0
  ym1 : Nat := 0
  zm1 : Nat := 0
  cxLink : Nat := 0
  cxEn : Bool := false
  syncEn : Bool := false
  timeMaster : Bool := false
  enable : Bool := false
  timeLock : Bool := false
  timeErr : Bool := false
  epochErr : Bool := false
  abandon : Bool := false
  cfgErr : Bool := false
  violTotal : Nat := 0
  abandons : Nat := 0
  routes : Tbl Half := []
  place : Tbl Dbl := []
  shard : Tbl Half := []
  links : Tbl Link := []
  e2e : Tbl E2e := []
  coords : Tbl Coord := []
  parts : Tbl PartEnt := []
  tombs : Tbl Nat := []
  inbox : List (Nat × Msg) := []
  arrivals : Nat := 0
  timeReq : Option Nat := none
  lastTimeReq : Nat := 0
  lastSync : Nat := 0
deriving DecidableEq, Repr

/-- The partner of a PV-128D die (R456 to R464). -/
structure Duplex where
  role : Nat := 0
  stale : Bool := false
  solo : Bool := false
  alive : Bool := false
  takeovers : Nat := 0
  acked : Nat := 0
  lastFlit : Nat := 0
  lastMirror : Option Nat := none
  standbyAcked : Nat := 0
  applied : Nat := 0
  ring : List Rec := []
  ringAt : Nat := 0
deriving DecidableEq, Repr

/-- Device states (Table 13.1). -/
inductive DevState where | boot | held | service | quiescing | down
deriving DecidableEq, Repr

/-- What the end of a mailbox command does besides answering (R472, Table 13.13). -/
inductive AfterCmd where
  | nothing
  /-- RESET: a WARM reset once the response is written. -/
  | warmReset
  /-- Resume the boot order after the step given. -/
  | resumeAt (step : Nat)
deriving DecidableEq, Repr

/-- A mailbox command that runs: its answer once it is ready, what follows it, and whether its vector is withheld (R471, R485). -/
structure Running where
  resp : Bytes := []
  after : AfterCmd := .nothing
  silent : Bool := false
deriving DecidableEq, Repr

/-- The management core: state, mailbox, logs, control area, images, recovery (13). -/
structure Mgmt where
  state : DevState := .boot
  step : Nat := 0
  reason : Byte := 0
  unqual : Bool := false
  reduced : Bool := false
  resetKind : Byte := 1
  irqEn : Bool := true
  overrun : Bool := false
  done : Bool := false
  req : Tbl Byte := []
  resp : Bytes := []
  running : Option Running := none
  latched : Option Bytes := none
  flogBase : Dbl := 0
  flogEnable : Bool := false
  flogLog2 : Nat := 0
  flogFn : Nat := 0
  flogLast : Tbl Bytes := []
  flogStore : Tbl Bytes := []
  rstMailbox : Nat := 0
  rstWatchdog : Nat := 0
  rstResume : Nat := 0
  rstPort : Nat := 0
  pfGlitch : Nat := 0
  quiesceFor : Byte := 0
deriving DecidableEq, Repr

/-- The persistent control area, the boot flash, the fuses and what was loaded from them (R473 to R488). -/
structure Store where
  magic : Bool := false
  ledgerId : Dbl := 0
  bootCount : Nat := 0
  pfSeq : Nat := 0
  flogCount : Nat := 0
  cfgA : Bytes := []
  cfgB : Bytes := []
  cfg : Bytes := []
  cfgFromB : Bool := false
  sealKey : Option KeyRec := none
  sealPriv : Option (BitVec 256) := none
  provKey : Option KeyRec := none
  flash : Tbl Bytes := []
  loaded : Tbl Nat := []
  svn : Tbl Nat := []
  fwVersion : Word := 0
  abi : Half := 0
  hbmStacks : BitVec 4 := 15
  sealUnits : Byte := 255
  coresOut : List Nat := []
  enginesOut : List Nat := []
  slices : Word := 0xFFFFFFFF
  floorMissing : Dbl := 0
  debugOpen : Bool := false
  debugNonce : Dbl := 0
  tapIr : Byte := 0
  boundary : Bytes := []
deriving DecidableEq, Repr

/-- A recovery in progress (R490 to R492): the image received, its S and E, what has been replayed. -/
structure Recovery where
  image : Bytes := []
  loaded : Bool := false
  confirmed : Bool := false
  s : Nat := 0
  e : Nat := 0
  digest : BitVec 256 := 0
  nextBlock : Nat := 0
  lastHash : BitVec 256 := 0
  lastSeq : Nat := 0
  replayed : Bool := false
deriving DecidableEq, Repr

/-- Rails, clocks, temperatures and pins (14). -/
structure Board where
  pwrfail : Bool := false
  holdupOk : Bool := true
  powerFail : Bool := false
  thermtrip : Bool := false
  thermHi : Nat := 100
  dieTj : Nat := 0
  hbmTj : Nat := 0
  wasHot : Bool := false
  hot : Bool := false
  hbmHot : Bool := false
  hbmOver : Bool := false
  railOk : BitVec 9 := 511
  railLow : BitVec 9 := 0
  railWait : Bool := false
  tbOk : Bool := false
  tbLost : Bool := false
  fabOk : Bool := false
  pcie0Ok : Bool := false
  pcie1Ok : Bool := false
  rates : Tbl Nat := []
  rateWindow : Nat := 0
  islandTj : Tbl Nat := []
  addrSel : Nat := 0
deriving DecidableEq, Repr

end Sys2Proof.Machine
end

