-- ==== Sys2Proof/Machine/State.lean ====
section
/-! DEFINITION. The machine's state, the reasons a command can stop for, and the state after reset. -/
namespace Sys2Proof.Machine

/-- No command ends in a fault: the spec answers every breach with a completion, an exception, a log record or nothing at all. -/
inductive Fault where
deriving DecidableEq, Repr

/-- Why a command has no outcome. -/
inductive Refusal where
  /-- Raised by the dispatch for a command that has no meaning yet. Safe: no claim about that command can be proved. -/
  | notModelled (mnemonic : String)
deriving DecidableEq, Repr

/-- Everything the spec gives one die, with the queue of commands that wait. -/
structure State where
  /-- Commands that wait, first in first out. -/
  pending : List Instr := []
  /-- The part (R1, R2). -/
  part : Part := .pv128
  /-- The timebase (R13). -/
  tb : Nat := 0
  /-- Ticks that a backward correction still holds the timebase for (R13). -/
  tbHold : Nat := 0
  led : Ledger := {}
  jn : Journal := {}
  guard : Guard := {}
  eng : Engines := {}
  locks : Tbl Lock := []
  tk : Tickets := {}
  host : HostLink := {}
  ev : Events := {}
  cores : Cores := {}
  mem : Mem := {}
  fab : Fabric := {}
  dup : Duplex := {}
  mgmt : Mgmt := {}
  store : Store := {}
  recov : Recovery := {}
  board : Board := {}
  hw : Hw := {}
  /-- What the device has put out, oldest first: the model's own field, for claims about what the outside sees. -/
  out : List Out := []
  /-- How many free values and random draws have been taken: the model's own field. -/
  fresh : Nat := 0
deriving DecidableEq, Repr

/-- The die right after a cold reset begins, before the boot order runs (R470): everything at its reset value, both PFs' map entries valid (Table 5.3). -/
def State.reset : State :=
  { host := { fns := [(0, { valid := true }), (8192, { valid := true })] },
    tk := { quotas := [(0, 65536)] } }

end Sys2Proof.Machine
end

