-- ==== Sys2Proof/Machine/Ops.lean ====
section
/-! DEFINITION. The named operations that every family shares: what the part has, reading and writing one function, tray, context or
ticket, what the device puts out, events and device-fault records. -/
namespace Sys2Proof.Machine

/-- The outcome that goes on. -/
abbrev Res := Host.Outcome State Fault Refusal

/-! The part (Table 0.1). -/

/-- Whisk engines of a die. -/
def nEngines : Part → Nat | .pv32 => 16 | .pv64 => 32 | .pv128 => 64 | .pv128d => 64
/-- Ladle cores of a die. -/
def nCores : Part → Nat | .pv32 => 32 | .pv64 => 64 | .pv128 => 128 | .pv128d => 128
/-- Trays. -/
def nTrays : Part → Nat | .pv32 => 8192 | .pv64 => 16384 | .pv128 => 32768 | .pv128d => 32768
/-- Fabric links of a die. -/
def nLinks : Part → Nat | .pv32 => 8 | .pv64 => 16 | .pv128 => 32 | .pv128d => 32
/-- The highest tenant key of the part. -/
def maxTenant : Part → Nat | .pv32 => 2047 | .pv64 => 4095 | .pv128 => 8191 | .pv128d => 8191
/-- Virtual functions of a port (Table 5.1). -/
def nVfs : Part → Nat | .pv32 => 2048 | .pv64 => 2048 | .pv128 => 4096 | .pv128d => 4096
/-- Ring slots (R113). -/
def ringSlots : Part → Nat | .pv32 => 1984 | .pv64 => 4032 | .pv128 => 8128 | .pv128d => 8128
/-- Larder slices of a die. -/
def nSlices : Part → Nat | .pv32 => 8 | .pv64 => 16 | .pv128 => 32 | .pv128d => 32
/-- HBM stacks of a die. -/
def nStacks : Part → Nat | .pv32 => 1 | .pv64 => 2 | .pv128 => 4 | .pv128d => 4

/-- R233: a tenant key above the part's count is absent. -/
def absentKey (s : State) (t : Nat) : Bool := decide (maxTenant s.part < t)

/-- R185, R186: the function exists on the part. -/
def fnExists (p : Part) (f : Nat) : Bool :=
  decide (f < 16384) && decide (f % 8192 ≤ nVfs p) && (decide (f < 8192) || p != .pv32)

/-- How many of a 4-bit mask are set. -/
def popNat (n : Nat) : Nat → Nat
  | 0 => 0
  | k + 1 => b2n (bitOf n k) + popNat n k

/-- R483: the working set of stacks in use, 4, 2 or 1. -/
def stacksUsed (s : State) : Nat :=
  let n := popNat s.store.hbmStacks.toNat (nStacks s.part)
  if 4 ≤ n then 4 else if 2 ≤ n then 2 else n

/-! Function, tray, context and ticket. -/

def fnOf (s : State) (f : Nat) : Fn := tgetD s.host.fns f {}
def setFn (s : State) (f : Nat) (x : Fn) : State := { s with host := { s.host with fns := tset s.host.fns f {} x } }
def trayKey (f t : Nat) : Nat := f * 2048 + t
def trayOf (s : State) (f t : Nat) : Tray := tgetD s.host.trays (trayKey f t) {}
def setTray (s : State) (f t : Nat) (x : Tray) : State :=
  { s with host := { s.host with trays := tset s.host.trays (trayKey f t) {} x } }
def ctxKey (e c : Nat) : Nat := e * 256 + c
def ctxOf (s : State) (e c : Nat) : Ctx := tgetD s.eng.ctxs (ctxKey e c) {}
def setCtx (s : State) (e c : Nat) (x : Ctx) : State :=
  { s with eng := { s.eng with ctxs := tset s.eng.ctxs (ctxKey e c) {} x } }
def ticketOf (s : State) (k : Nat) : Option Ticket := tget s.tk.held k
def setTicket (s : State) (k : Nat) (x : Ticket) : State := { s with tk := { s.tk with held := tput s.tk.held k x } }
def dropTicket (s : State) (k : Nat) : State := { s with tk := { s.tk with held := tdel s.tk.held k } }

/-- Whether an engine is in service (Table 4.6). -/
def engineIn (s : State) (e : Nat) : Bool := decide (e < nEngines s.part) && s.eng.enabled.getLsbD e

/-- Contexts 248 to 255 are priority contexts (R152). -/
def isPrioCtx (c : Nat) : Bool := decide (248 ≤ c)

/-- R189: the tray number of local tray `t`. -/
def trayNumber (s : State) (f t : Nat) : Nat := (fnOf s f).firstTray + t

/-- The function and local tray of a tray number, among valid map entries. -/
def trayHome (s : State) (n : Nat) : Option (Nat × Nat) :=
  (s.host.fns.find? fun e => e.2.valid && decide (e.2.firstTray ≤ n) && decide (n < e.2.firstTray + e.2.ntrays)).map
    fun e => (e.1, n - e.2.firstTray)

/-- R232: an operator function, bound to tenant 0. -/
def isOperatorFn (s : State) (f : Nat) : Bool := (fnOf s f).valid && (fnOf s f).tenant == 0

/-! What goes out. -/

/-- Put something out. -/
def emit (s : State) (o : Out) : State := { s with out := s.out ++ [o] }

/-- A posted write of a function (R184). -/
def dmaOut (s : State) (fn : Nat) (a : Dbl) (b : Bytes) : State := emit s (.dma fn a b)

/-- R468: a record of a host log ring; while the die is HELD the only DMA is that of mailbox commands, and the record goes to its other places alone. -/
def ringOut (s : State) (fn : Nat) (a : Dbl) (b : Bytes) : State := if s.mgmt.state = .held then s else dmaOut s fn a b

/-- R468: while the die is HELD only the mailbox vector is sent. -/
def msixOut (s : State) (fn entry : Nat) : State :=
  if s.mgmt.state = .held ∧ ¬(fn = 0 ∧ entry = 2047) then s else emit s (.msix fn entry)

/-- A free value of width `w`, and the counter that makes the next one another. -/
def takeFree (w : Nat) (s : State) : BitVec w × State := (Config.free w s.fresh, { s with fresh := s.fresh + 1 })

/-- A random draw (R325) of width `w`. -/
def takeDraw (w : Nat) (s : State) : BitVec w × State := (Config.draw w s.fresh, { s with fresh := s.fresh + 1 })

/-! Trace (R178, Tables 4.15 to 4.18). -/

def trDispatch : Nat := 1
def trIssue : Nat := 2
def trWait : Nat := 3
def trWake : Nat := 4
def trLockReq : Nat := 5
def trLockGrant : Nat := 6
def trLockRel : Nat := 7
def trAppend : Nat := 8
def trDurable : Nat := 9
def trDone : Nat := 10
def trReset : Nat := 11
def trSweep : Nat := 12
def trRollfwd : Nat := 13
def trTrap : Nat := 14
def trLost : Nat := 15

/-- Table 4.17: the filter passes an event. -/
def traceWanted (s : State) (e c typ pc : Nat) : Bool :=
  let f := s.eng.traceFilter.toNat
  s.eng.traceEnable && (bitOf f 57 || bits f 63 58 == e) && (bitOf f 48 || bits f 56 49 == c) && bitOf f (32 + typ) &&
  (typ != trIssue || (decide (bits f 15 0 ≤ pc) && decide (pc ≤ bits f 31 16)))

/-- Write one trace record at its place in the ring; ONESHOT ends the trace when the ring is full. -/
def tracePut (s : State) (b : Bytes) : State :=
  let g := s.eng
  let s1 := emit s (.dma g.traceFn (g.traceBase + BitVec.ofNat 64 (g.traceBytes % 2 ^ g.traceLog2)) b)
  let n := g.traceBytes + 32
  { s1 with eng := { g with traceBytes := n, traceEnable := g.traceEnable && !(g.traceOneshot && decide (2 ^ g.traceLog2 ≤ n)) } }

/-- A trace record (Table 4.15). -/
def traceRecord (s : State) (e c typ word data : Nat) (guard : Bool) : Bytes :=
  let x := ctxOf s e c
  le 8 s.tb ++ [BitVec.ofNat 8 typ, BitVec.ofNat 8 (e % 64 + 64 * b2n s.fab.die), BitVec.ofNat 8 c, (x.flags &&& 0xFE) ||| BitVec.ofNat 8 (b2n guard)] ++
  le 2 x.pc.toNat ++ le 2 (x.ticket.getD 0) ++ le 8 word ++ le 8 data

/-- R178: an engine event, if the filter passes it. A full queue drops it; the first record after room returns is a LOST record. -/
def trace (s : State) (e c typ word data : Nat) (guard : Bool := false) : State :=
  if !traceWanted s e c typ (ctxOf s e c).pc.toNat then s
  else if Config.traceFull (s.eng.traceBytes / 32 + s.eng.traceLost) then { s with eng := { s.eng with traceLost := s.eng.traceLost + 1 } }
  else
    let s1 := if s.eng.traceLost = 0 then s
      else let s' := tracePut s (traceRecord s e c trLost 0 s.eng.traceLost false); { s' with eng := { s'.eng with traceLost := 0 } }
    if s1.eng.traceEnable then tracePut s1 (traceRecord s e c typ word data guard) else s1

/-! Event sources (R387, R388). -/

def srcOf (s : State) (n : Nat) : Source := tgetD s.ev.srcs n {}
def setSrc (s : State) (n : Nat) (x : Source) : State := { s with ev := { s.ev with srcs := tset s.ev.srcs n {} x } }

/-- R387: sources whose registers read as zero and that are never pending. -/
def srcReserved (n : Nat) : Bool :=
  (decide (0x144 ≤ n) && decide (n ≤ 0x14F)) || (decide (0x160 ≤ n) && decide (n ≤ 0x1FF)) || decide (0x3FF ≤ n)

def srcEn (x : Source) : Bool := x.cfg.getLsbD 0
def srcSense (x : Source) : Nat := bits x.cfg.toNat 7 6
def srcPrio (x : Source) : Nat := bits x.cfg.toNat 27 24
def srcCount (x : Source) : Nat := bits x.cfg.toNat 35 28
def srcTime (x : Source) : Nat := bits x.cfg.toNat 47 36
def srcFrame (x : Source) : Nat := bits x.cfg.toNat 55 50

/-- R388, R389: one event of an edge-sense source. -/
def srcEvent (tb : Nat) (x : Source) : Source :=
  if !srcEn x || srcSense x = 0 then x
  else match x.state with
    | .active => { x with lost := sat 65535 (x.lost + 1) }
    | .pending => x
    | .idle =>
      let n := x.cnt + 1
      if srcCount x ≤ n then { x with cnt := 0, t0 := if x.cnt = 0 then tb else x.t0, state := .pending }
      else { x with cnt := n, t0 := if x.cnt = 0 then tb else x.t0 }

/-- A pulse on a source's input (R387). -/
def pulseSrc (s : State) (n : Nat) : State :=
  if srcReserved n then s else setSrc s n (srcEvent s.tb (srcOf s n))

/-- R388: a level-sense source follows its input while it is not ACTIVE. -/
def srcFollow (x : Source) : Source :=
  if srcEn x && srcSense x = 0 && x.state != .active then
    { x with state := if x.level then .pending else .idle }
  else x

/-- The level of a level input becomes `b` (R387, R388). -/
def levelSrc (s : State) (n : Nat) (b : Bool) : State :=
  let x := srcOf s n
  let y := { x with level := b }
  let edge := (b && !x.level && (srcSense x = 1 || srcSense x = 3)) || (!b && x.level && (srcSense x = 2 || srcSense x = 3))
  setSrc s n (srcFollow (if edge then srcEvent s.tb y else y))

/-! Device-fault records (R501, R502). -/

/-- A device-fault record (R501). -/
def faultRec (tb : Nat) (kind code : Byte) (unit detail : Nat) (a0 a1 : Nat) : Bytes :=
  le 8 tb ++ [kind, code] ++ le 2 unit ++ le 4 detail ++ le 8 a0 ++ le 8 a1

/-- R502: write a device-fault record to the persistent log, FLOG_LAST and the host ring, and pulse source 0x151 (R504). -/
def logFault (s : State) (kind code : Byte) (unit detail a0 a1 : Nat) : State :=
  let r := faultRec s.tb kind code unit detail a0 a1
  let n := s.store.flogCount
  let s1 := { s with store := { s.store with flogCount := n + 1 }, mgmt := { s.mgmt with flogStore := tput s.mgmt.flogStore (n % 8192) r } }
  if s.board.powerFail then s1
  else
    let s2 := { s1 with mgmt := { s1.mgmt with flogLast := tput s1.mgmt.flogLast (n % 64) r } }
    let s3 := if s2.mgmt.flogEnable then
        ringOut s2 s2.mgmt.flogFn (s2.mgmt.flogBase + BitVec.ofNat 64 (32 * (n % 2 ^ s2.mgmt.flogLog2))) r
      else s2
    pulseSrc s3 0x151

/-! The configuration in force (Table 13.8). -/

def cfgRevDays (s : State) : Nat := max 1 (byteAt s.store.cfg 30).toNat
def cfgSealAlg (s : State) : Byte := byteAt s.store.cfg 31
def cfgDuplex (s : State) : Nat := bits (byteAt s.store.cfg 26).toNat 1 0
def cfgServing (s : State) : Bool := (byteAt s.store.cfg 26).getLsbD 7
def cfgCxTimeout (s : State) : Nat := field s.store.cfg 36 2
def cfgLadleEn (s : State) : Bool := (byteAt s.store.cfg 6).getLsbD 0
def cfgSealReq (s : State) : Bool := (byteAt s.store.cfg 6).getLsbD 1
def cfgDebugPermit (s : State) : Bool := (byteAt s.store.cfg 6).getLsbD 2
def cfgGen (s : State) : Nat := field s.store.cfg 8 8

/-- R4: the two dies mirror. -/
def mirrored (s : State) : Bool := cfgDuplex s == 1
/-- R4: the two dies share the account space. -/
def split (s : State) : Bool := cfgDuplex s == 2

/-- This die is the standby of a mirrored pair (R457). -/
def isStandby (s : State) : Bool := mirrored s && s.dup.role == 2

/-- R460, R464: the partner die is there and not lost. -/
def partnerThere (s : State) : Bool := s.part == .pv128d && s.dup.alive && !s.dup.solo && !s.dup.stale

/-- DEVICE of a block header (Table 3.6). -/
def deviceField (s : State) : Half := BitVec.ofNat 16 (s.fab.device + 1024 * b2n s.fab.die)

/-- BOOT of a block header (Table 3.6). -/
def bootField (s : State) : Half := BitVec.ofNat 16 s.store.bootCount

/-- The die's own endpoint (R436). -/
def ownEndpoint (s : State) : Nat := s.fab.device + 1024 * b2n s.fab.die

/-- The die serves commands (Table 13.1). -/
def inService (s : State) : Bool := s.mgmt.state == .service

/-- R497, R143: appends are taken. -/
def appendsOpen (s : State) : Bool := !s.board.powerFail && s.mgmt.state != .down

/-- R215: ticket grants run. -/
def grantsOpen (s : State) : Bool := inService s && !s.board.powerFail

/-- The first multiple of 64 at or after a time. -/
def up64 (t : Nat) : Nat := (t + 63) / 64 * 64

end Sys2Proof.Machine
end

