-- ==== Sys2Proof/Machine/Operands.lean ====
section
/-! DEFINITION. The operand forms of a command (Tables 2.1 to 2.7, 5.4, 5.5), where its accounts live (R438), and the checks of the
sieve over them (Table 5.17). -/
namespace Sys2Proof.Machine

/-! The header (Table 5.4). -/

def cOp (c : Cmd) : Nat := (byteAt c.desc 0).toNat
def cNlegs (c : Cmd) : Nat := bits (byteAt c.desc 1).toNat 4 0
def cHflags (c : Cmd) : Nat := (byteAt c.desc 2).toNat
def cNext (c : Cmd) : Nat := bits (cHflags c) 4 2
def cTag (c : Cmd) : Bool := bitOf (cHflags c) 1
def cPrioBit (c : Cmd) : Bool := bitOf (cHflags c) 0
def cKeygen (c : Cmd) : Nat := field c.desc 8 4
def cHostTag (c : Cmd) : Half := halfAt c.desc 12
/-- The header's TRAY_SEQ. -/
def cSeq (c : Cmd) : Word := wordAt c.desc 4
/-- The command's bytes: header, then extension descriptors (Table 5.18 OFFSET). -/
def cAll (c : Cmd) : Bytes := c.desc ++ c.ext
/-- Where slot `i` lies in the command's bytes. -/
def slotOff (i : Nat) : Nat := if i < 3 then 32 + 32 * i else 128 + 32 * (i - 3)
/-- Slot `i` of the command. -/
def cSlot (c : Cmd) (i : Nat) : Bytes := slice (cAll c) (slotOff i) 32
/-- PARAM (R72). -/
def cParam (c : Cmd) : Bytes := slice c.desc 16 16
/-- PARAM bytes 0 to 7. -/
def cP0 (c : Cmd) : Dbl := dblAt c.desc 16
/-- PARAM bytes 8 to 15. -/
def cP1 (c : Cmd) : Dbl := dblAt c.desc 24
/-- R191: the slots a command uses. -/
def cUsed (c : Cmd) : Nat := max (cNlegs c) 3 + b2n (cTag c)
/-- R191: the tag slot. -/
def tagSlot (c : Cmd) : Nat := max (cNlegs c) 3

/-- R82: the commands that PRIO runs in the priority class. -/
def prioOp (op : Nat) : Bool := op == 0x01 || op == 0x06 || op == 0x02 || op == 0x03 || op == 0x04 || op == 0x10
/-- R82: the command runs in the priority class. -/
def cPrio (c : Cmd) : Bool := cPrioBit c && prioOp (cOp c)

/-- Table 2.1: a ladle-class opcode. -/
def ladleOp (op : Nat) : Bool := decide (0x20 ≤ op) && decide (op ≤ 0x2F)
/-- Table 2.1: an opcode a host or a port may send (R70). -/
def hostOp (op : Nat) : Bool :=
  (decide (1 ≤ op) && decide (op ≤ 6)) || (decide (8 ≤ op) && decide (op ≤ 0x0D)) || (decide (0x10 ≤ op) && decide (op ≤ 0x13)) ||
  op == 0x18 || ladleOp op || op == 0x40 || op == 0x41
/-- Table 2.1, column Tag: a privileged command (R71). -/
def tagOp (op : Nat) : Bool :=
  op == 0x05 || (decide (8 ≤ op) && decide (op ≤ 0x0D)) || op == 0x13 || op == 0x18
/-- Table 2.1: an operator-only command. -/
def operatorOp (op : Nat) : Bool := op == 0x0D || op == 0x13

/-- R75, Table 2.3: NLEGS lies in the opcode's range. -/
def nlegsOk (op n : Nat) : Bool :=
  if op = 0x01 ∨ op = 0x03 ∨ op = 0x05 then decide (1 ≤ n) && decide (n ≤ 16)
  else if op = 0x06 ∨ op = 0x0C ∨ op = 0x18 then n == 2
  else if op = 0x02 ∨ op = 0x12 then n == 1
  else if op = 0x08 then n == 3
  else if ladleOp op then decide (n ≤ 3)
  else n == 0

/-- The slots that hold legs (Table 2.3). -/
def legSlots (c : Cmd) : List Nat :=
  let op := cOp c
  if op = 0x01 ∨ op = 0x03 ∨ op = 0x05 then List.range (cNlegs c)
  else if op = 0x02 ∨ op = 0x08 then [0]
  else []

/-- R97: LIMIT_MASK of SETLIMITS. -/
def limitMask (c : Cmd) : Byte := byteAt c.desc 28

/-- The value slots that are judged (R74, R94, R97). -/
def valueSlots (c : Cmd) : List Nat :=
  let op := cOp c
  if op = 0x08 then [1, 2]
  else if op = 0x0C then (if (limitMask c).getLsbD 0 then [0] else []) ++ (if (limitMask c).getLsbD 1 then [1] else [])
  else []

/-- Whether slot `i` is a leg that names a hold (R73). -/
def holdLeg (c : Cmd) (i : Nat) : Bool := (cOp c == 0x02 || cOp c == 0x03) && i == 0

/-- Where pair `k` of a POST2 lies (R86). -/
def pairOff (k : Nat) : Nat := 32 + 48 * k

/-- The two legs of pair `k` of a POST2 (R86). -/
def pairLegs (c : Cmd) (k : Nat) : List Leg :=
  let o := pairOff k
  let amt := unpack (slice c.desc (o + 24) 16)
  let cur := halfAt c.desc (o + 16)
  [{ account := dblAt c.desc o, currency := cur, amount := -amt }, { account := dblAt c.desc (o + 8), currency := cur, amount := amt }]

/-- The legs of a command as submitted. -/
def cLegs (c : Cmd) : List Leg := (legSlots c).map fun i => legOf (cSlot c i)

/-- The legs that a POST, CAPTURE or REVERSE applies (R92 negates a REVERSE's). -/
def effectiveLegs (c : Cmd) : List Leg := if cOp c = 0x05 then negLegs (cLegs c) else cLegs c

/-- PARAM names an account (Table 2.3). -/
def paramAccount (op : Nat) : Bool :=
  op == 0x04 || op == 0x09 || op == 0x0A || op == 0x0B || op == 0x0C || op == 0x10 || op == 0x11

/-- R26: the account IDs a command names, with where each lies. -/
def namedAccounts (c : Cmd) : List (Nat × Dbl) :=
  (if paramAccount (cOp c) then [(16, cP0 c)] else []) ++
  (legSlots c).map (fun i => (slotOff i, dblAt (cSlot c i) 0)) ++
  (if cOp c = 0x06 then [(32, dblAt c.desc 32), (40, dblAt c.desc 40), (80, dblAt c.desc 80), (88, dblAt c.desc 88)] else [])

/-! Placement (R438). -/

/-- The PLACE entry of a tenant key; an unwritten one names the device's own endpoint. -/
def placeOf (s : State) (t : Nat) : Dbl := tgetD s.fab.place t (BitVec.ofNat 64 s.fab.ep0)

/-- R438: the home endpoint of an account ID, if it has one. -/
def homeOf (s : State) (id : Dbl) : Option Nat :=
  let p := (placeOf s (idTenant id)).toNat
  if bitOf p 63 then
    let i := bits p 47 32 + (idNumber id >>> bits p 57 52) % 2 ^ bits p 51 48
    if 65535 < i then none else some (bits (tgetD s.fab.shard i 0).toNat 10 0)
  else some (bits p 10 0)

/-- R438: two endpoints name one home; in mirrored mode the die bit is ignored. -/
def sameEndpoint (s : State) (a b : Nat) : Bool := if mirrored s then a % 1024 == b % 1024 else a == b

/-- R438: the account is local to this device. -/
def isLocal (s : State) (id : Dbl) : Bool :=
  match homeOf s id with | none => false | some h => sameEndpoint s h (ownEndpoint s)

/-! The sieve (Table 5.17). A check that fails gives its code and the offset of the first failing field. -/

/-- A field of a command that must be zero under a mask: offset, length, mask (R15, R72). -/
structure Zero where
  off : Nat
  len : Nat
  mask : Nat
deriving DecidableEq, Repr

def zAll (off len : Nat) : Zero := ⟨off, len, 256 ^ len - 1⟩

/-- The reserved bytes of PARAM (Table 2.3). -/
def zParam (op : Nat) : List Zero :=
  if op = 0x01 ∨ op = 0x02 ∨ op = 0x12 then [zAll 24 8]
  else if op = 0x06 ∨ op = 0x40 ∨ op = 0x41 then [zAll 16 8, zAll 24 8]
  else if op = 0x03 then [⟨24, 1, 0xFE⟩, zAll 25 7]
  else if op = 0x04 ∨ op = 0x13 then [zAll 28 4]
  else if op = 0x08 then [zAll 18 6, zAll 24 8]
  else if op = 0x09 ∨ op = 0x0A ∨ op = 0x0B then [zAll 24 8]
  else if op = 0x0C then [⟨28, 1, 0xFC⟩, zAll 29 3]
  else if op = 0x0D then [zAll 20 4, zAll 24 8]
  else if op = 0x18 then [⟨16, 2, 0xE000⟩, zAll 18 2, zAll 24 8]
  else []

/-- The reserved bytes of the slots a command uses (R73, R74, R86, R97, R135, R258). -/
def zSlots (c : Cmd) : List Zero :=
  let op := cOp c
  ((legSlots c).map fun i =>
    let o := slotOff i
    if holdLeg c i then [(⟨o + 10, 2, 0xFFFE⟩ : Zero)] else [(⟨o + 10, 2, 0xFFFE⟩ : Zero), zAll (o + 12) 4]).flatten ++
  (if op = 0x08 then [zAll 64 16, zAll 96 16] else []) ++
  (if op = 0x0C then
    (if (limitMask c).getLsbD 0 then [zAll 32 16] else [zAll 32 32]) ++ (if (limitMask c).getLsbD 1 then [zAll 64 16] else [zAll 64 32])
   else []) ++
  (if op = 0x06 then [zAll 50 6, zAll 98 6] else []) ++
  (if op = 0x12 then
    [zAll 33 7] ++ (if byteAt c.desc 32 = 2 then [(⟨40, 8, 2 ^ 64 - 2 ^ 15⟩ : Zero)] else if byteAt c.desc 32 = 3 then [zAll 40 8] else []) ++ [zAll 48 16]
   else []) ++
  (if op = 0x18 then [zAll 44 4] else [])

/-- The slots a command does not use, and the reserved half of its tag slot (R72, R191, R255). -/
def zUnused (c : Cmd) : List Zero :=
  if cOp c = 0x06 then []
  else
    (((List.range (3 + 4 * cNext c)).filter fun i => decide (cNlegs c ≤ i) && !(cTag c && i == tagSlot c)).map
      fun i => zAll (slotOff i) 32) ++
    (if cTag c then [zAll (slotOff (tagSlot c) + 16) 16] else [])

/-- The lowest offset among those given. -/
def lowest : List Nat → Option Nat
  | [] => none
  | x :: r => match lowest r with | none => some x | some y => some (min x y)

/-- Step 3: the failing header fields. -/
def badHeader (c : Cmd) : List Nat :=
  let op := cOp c
  (if bits (byteAt c.desc 1).toNat 7 5 ≠ 0 ∨ 16 < cNlegs c then [1] else []) ++
  (if bits (cHflags c) 7 5 ≠ 0 ∨ cNext c ≠ (cUsed c - 3 + 3) / 4 ∨ (cTag c ∧ ¬ tagOp op) then [2] else []) ++
  (if byteAt c.desc 3 ≠ 0 then [3] else []) ++
  (if cKeygen c ≠ 0 ∧ ¬ cTag c then [8] else []) ++
  (if halfAt c.desc 14 ≠ 0 then [14] else [])

/-- Step 5: the failing reserved fields. -/
def badReserved (c : Cmd) : List Nat :=
  ((zParam (cOp c) ++ zSlots c ++ zUnused c).filter fun z => field (cAll c) z.off z.len &&& z.mask != 0).map (·.off)

/-- Where the currency fields of a command's legs lie. -/
def currencyOffs (c : Cmd) : List Nat :=
  (legSlots c).map (fun i => slotOff i + 8) ++ (if cOp c = 0x06 then [48, 96] else [])

/-- R33: one currency field is malformed. -/
def badCurrencyField (v : Nat) : Bool := v % 1024 == 0 || decide (999 < v % 1024) || decide (9 < bits v 13 10) || decide (bits v 15 14 ≠ 0)

/-- Step 8: the failing currency fields, one CODE under two EXPs among them. -/
def badCurrency (c : Cmd) : List Nat :=
  let vs := (currencyOffs c).map fun o => (o, field (cAll c) o 2)
  (vs.filter fun e => badCurrencyField e.2 || vs.any fun d => decide (d.1 < e.1) && d.2 % 1024 == e.2 % 1024 && d.2 != e.2).map (·.1)

/-- Where the amounts of a command lie. -/
def amountOffs (c : Cmd) : List Nat :=
  (legSlots c ++ valueSlots c).map (fun i => slotOff i + 16) ++ (if cOp c = 0x06 then [56, 104] else [])

/-- Step 9: the failing amounts (R30). -/
def badAmount (c : Cmd) : List Nat := (amountOffs c).filter fun o => !packOk (slice (cAll c) o 16)

/-- Step 10: the failing arguments (R73, R74, R81, R86, R88, R90, R94, R97, R135). -/
def badArgument (c : Cmd) : List Nat :=
  let op := cOp c
  let amt := fun i => unpack (slice (cSlot c i) 16 16)
  ((legSlots c).filter fun i => bitOf (field (cSlot c i) 10 2) 0 != holdLeg c i).map (fun i => slotOff i + 10) ++
  ((valueSlots c).filter fun i => decide (amt i < 0)).map (fun i => slotOff i + 16) ++
  (if op = 0x02 ∧ 0 ≤ amt 0 then [48] else []) ++
  (if op = 0x03 ∧ 0 < amt 0 then [48] else []) ++
  (if op = 0x06 then [56, 104].filter (fun o => packSign (slice c.desc o 16) == 13) else []) ++
  (if op = 0x08 then
    (if idReserved (dblAt (cSlot c 0) 0) then [32] else []) ++ (if amt 0 ≠ 0 then [48] else []) ++
    (if field c.desc 16 2 &&& 0xFF03 ≠ 0 then [16] else [])
   else []) ++
  (if op = 0x0C then
    (if field c.desc 24 2 &&& 0xFF07 ≠ 0 then [24] else []) ++
    (if halfAt c.desc 26 &&& ~~~(halfAt c.desc 24) ≠ 0 then [26] else [])
   else []) ++
  (if op = 0x11 ∧ cP1 c = 0 then [24] else []) ++
  (if (op = 0x12 ∨ op = 0x13) ∧ cP0 c = 0 then [16] else []) ++
  (if op = 0x12 ∧ ¬ (1 ≤ (byteAt c.desc 32).toNat ∧ (byteAt c.desc 32).toNat ≤ 3) then [32] else [])

/-- R25: a suspense view of tenant 0, and the currency field it shows. -/
def suspenseView (id : Dbl) : Option Half :=
  if id.toNat < 0x7FFFFFFFF0000 ∨ 0x7FFFFFFFF0000 + 10000 ≤ id.toNat then none
  else
    let n := id.toNat - 0x7FFFFFFFF0000
    if n % 1000 = 0 then none else some (BitVec.ofNat 16 (n / 1000 * 1024 + n % 1000))

/-- Step 11: the failing tenant bindings (R26, R102, R233). A suspense view fails none: its command completes with NO_ACCOUNT (R25). -/
def badBinding (s : State) (c : Cmd) : List Nat :=
  ((namedAccounts c).filter fun e => (suspenseView e.2).isNone && (absentKey s (idTenant e.2) || (c.tenant != 0 && idTenant e.2 != c.tenant))).map (·.1) ++
  (if cOp c = 0x18 then
    let t := field c.desc 16 2 % 8192
    if absentKey s t ∨ (c.tenant ≠ 0 ∧ t ≠ c.tenant) then [16] else []
   else [])

/-- A tenant's key record and key-table entry. -/
def keyOf (s : State) (t : Nat) : TenantKey := tgetD s.guard.keys t {}

/-- Write a tenant's key record. -/
def setKey (s : State) (t : Nat) (k : TenantKey) : State := { s with guard := { s.guard with keys := tset s.guard.keys t {} k } }

/-- R255: the tag message of a command. -/
def tagMessage (c : Cmd) : Bytes :=
  le 2 c.tenant ++ le 2 (c.trayNo.getD 0) ++ c.desc ++ slice c.ext 0 (32 * (tagSlot c - 3))

/-- R255: the tag verifies under a key. -/
def tagVerifies (c : Cmd) (k : LiveKey) : Bool := (Config.cmac k.key (tagMessage c)).toNat == ofLe (slice (cSlot c (tagSlot c)) 0 16)

/-- R256: a refusal at steps 12 to 14, or the key of the verifying slot. -/
def tagCheck (s : State) (c : Cmd) : Byte ⊕ BitVec 256 :=
  let k := keyOf s c.tenant
  match k.cur with
  | none => .inl 0x33
  | some cur =>
    let others := match k.other with | some o => [o] | none => []
    if cKeygen c ≠ 0 then
      match (cur :: others).find? fun x => x.gen.toNat == cKeygen c with
      | none => .inl 0x32
      | some x => if tagVerifies c x then .inr x.key else .inl 0x31
    else
      match (cur :: others).find? fun x => tagVerifies c x with
      | none => .inl 0x31
      | some x => .inr x.key

/-- The code and the offset of the first failing step of Table 5.17, or the command with its verifying key. `full` says whether a ladle-class command finds its task queue full.
DESIGN CHOICE (log 96): steps 12 to 14 are applied to a command with TAG 1 alone; Table 5.17 puts no such condition on step 12. -/
def sieve (s : State) (c : Cmd) (full : Bool) : (Byte × Nat) ⊕ Cmd :=
  let op := cOp c
  let at' : Byte → List Nat → Option (Byte × Nat) := fun code l => (lowest l).map fun o => (code, o)
  let early : List (Option (Byte × Nat)) :=
    [ if c.pushed && (cNext c != 0 || cTag c) then some (0x28, 2) else none,
      if hostOp op then none else some (0x21, 0),
      at' 0x20 (badHeader c),
      if nlegsOk op (cNlegs c) then none else some (0x22, 1) ]
  let priv : Option (Byte × Nat) := if operatorOp op && c.tenant != 0 then some (0x29, 0) else none
  let late : List (Option (Byte × Nat)) :=
    if ladleOp op then [priv, if full then some (stTaskQueue, 0) else none]
    else
      [ at' 0x20 (badReserved c), priv,
        if tagOp op && !cTag c then some (0x30, 2) else none,
        at' 0x24 (badCurrency c), at' 0x23 (badAmount c), at' 0x26 (badArgument c), at' 0x25 (badBinding s c) ]
  match (early ++ late).find? Option.isSome with
  | some (some r) => .inl r
  | _ =>
    if cTag c && !ladleOp op then
      match tagCheck s c with
      | .inl 0x32 => .inl (0x32, 8)
      | .inl code => .inl (code, slotOff (tagSlot c))
      | .inr k => .inr { c with verifyKey := some k }
    else .inr c

/-! What a command asks of the journal (R116, R128). -/

/-- R128: the reservation of a command. -/
def reservation (c : Cmd) : Nat :=
  let op := cOp c
  if op = 0x01 ∨ op = 0x03 ∨ op = 0x05 then (cNlegs c + 4) * 32
  else if op = 0x06 then 192
  else if op = 0x13 then 128
  else if ladleOp op then 0
  else if op = 0x02 ∨ op = 0x04 ∨ op = 0x12 then 64
  else if op = 0x08 ∨ op = 0x0C then 128
  else 32

/-- R77 step 2: every account ID a command names. -/
def lockIds (c : Cmd) : List Nat := (namedAccounts c).map fun e => e.2.toNat

/-- Table 2.4: the lock key of a REVERSE. -/
def reverseKey (orig : Nat) : Nat := 0x0007FFFFFFFF4000 + orig % 32768

/-- Table 2.4: the lock key of a KEYUPDATE. -/
def keyupdateKey (target : Nat) : Nat := 0x0007FFFFFFFFC000 + target

end Sys2Proof.Machine
end

