-- ==== Sys2Proof/Machine/Flags.lean ====
section
/-! DEFINITION. Flag computations: the completion's INFO and CFLAGS, the status bits of trays, tickets and the journal. -/
namespace Sys2Proof.Machine

/-- R79: the codes that LEGV goes with. -/
def legCode (st : Byte) : Bool :=
  let n := st.toNat
  (decide (0x10 ≤ n) && decide (n ≤ 0x14)) || n == 0x16 || n == 0x17 || n == 0x19 || n == 0x1A || n == 0x1B

/-- Table 2.5: INFO of a command refused at a leg, or of one that is not. -/
def infoOf (leg : Option Nat) : Half :=
  match leg with | none => 0 | some n => BitVec.ofNat 16 (16 + n % 16)

/-- Table 2.5: INFO of a POST2 from its pairs' codes and failing legs. -/
def infoPair (leg0 : Option Nat) (st1 : Byte) (leg1 : Option Nat) : Half :=
  infoOf leg0 ||| BitVec.ofNat 16 (st1.toNat * 256) |||
  (match leg1 with | none => 0 | some n => BitVec.ofNat 16 (64 + 32 * (n % 2)))

/-- Table 5.7. -/
def cflagsOf (fill pushed : Bool) (seq : Word) : Byte := BitVec.ofNat 8 (4 * b2n fill + 2 * b2n pushed + b2n (seq.getLsbD 16))

/-- A completion entry (Table 5.6). -/
def complBytes (c : Compl) (seq : Word) : Bytes :=
  pack 16 c.avail ++ le 8 c.seq ++ [c.status, cflagsOf c.fill c.pushed seq] ++ le 2 c.info.toNat ++ le 2 c.hostTag.toNat ++ le 2 seq.toNat

/-! TRAY_CFG (Table 5.14). -/
def crLog2 (t : Tray) : Nat := bits t.cfg.toNat 4 0
def cqLog2 (t : Tray) : Nat := bits t.cfg.toNat 9 5
def seqWait (t : Tray) : Nat := (bits t.cfg.toNat 13 10 + 1) * 4000
def eCount (t : Tray) : Nat := bits t.cfg.toNat 21 14
def eTime (t : Tray) : Nat := bits t.cfg.toNat 33 22
def waitLimit (t : Tray) : Nat := bits t.cfg.toNat 43 34 * 1000
def trayQuota (t : Tray) : Nat := bits t.cfg.toNat 63 48

/-- Table 5.15 RUNNING. -/
def trayRunning (t : Tray) : Bool := t.enable && !t.quar && !t.readErr

/-- R209: completion credit at EXPECT. -/
def hasCredit (t : Tray) : Bool := decide ((t.expect - t.cqHead).toNat ≤ 2 ^ cqLog2 t)

/-- R206, R208: how far a sequence lies from EXPECT, modulo 2^32. -/
def seqDist (t : Tray) (q : Word) : Nat := (q - t.expect).toNat

/-- The TRAY_SEQ in a half 0 or a ring slot. -/
def seqOf (b : Bytes) : Word := wordAt b 4

/-- The push slot's sequence, when both halves are in (R206). -/
def assembled (p : PushSlot) : Option Word :=
  match p.half0, p.half1 with | some h, some _ => some (seqOf h) | _, _ => none

/-- R206: the eligible push. -/
def eligiblePush (t : Tray) : Option (Nat × PushSlot) :=
  (t.slots.find? fun e => assembled e.2 == some t.expect)

/-- Slots that the command at CR_HEAD consumes (R199). -/
def ringNeed (b : Bytes) : Nat :=
  let n := bits (byteAt b 2).toNat 4 2
  if 4 < n then 1 else 1 + n

/-- The command at CR_HEAD, when every slot of it has been read (R199). -/
def ringHead (t : Tray) : Option (Bytes × Nat) :=
  match t.ring with
  | [] => none
  | b :: _ => if ringNeed b ≤ t.ring.length then some (b, ringNeed b) else none

/-- Table 5.15 WAIT_EXT (R199). -/
def waitExt (t : Tray) : Bool :=
  match t.ring with | [] => false | b :: _ => decide ((t.crTail - t.crHead).toNat < ringNeed b)

/-- The times from which later commands wait (R210). -/
def laterSince (t : Tray) : List Nat :=
  (t.slots.filterMap fun e => match assembled e.2 with
    | some q => if 0 < seqDist t q ∧ seqDist t q ≤ 15 then some e.2.whole else none
    | none => none) ++
  (match ringHead t with
    | some (b, _) => if 0 < seqDist t (seqOf b) ∧ seqDist t (seqOf b) ≤ 15 then [t.headSince] else []
    | none => [])

/-- A command is at EXPECT (R208). -/
def atExpect (t : Tray) : Bool :=
  (eligiblePush t).isSome || (match ringHead t with | some (b, _) => seqOf b == t.expect | none => false)

/-- R210: EXPECT goes unfilled while a later command waits: since when. -/
def gapSince (t : Tray) : Option Nat := if atExpect t then none else lowest (laterSince t)

/-- Table 5.15 WAIT_SEQ. -/
def waitSeq (t : Tray) : Bool := (gapSince t).isSome

/-- Table 5.15 WAIT_CRED: a command or a fill is at EXPECT and credit lacks. -/
def waitCred (tb : Nat) (t : Tray) : Bool :=
  t.enable && !hasCredit t &&
  ((trayRunning t && ((t.waiting.isNone && atExpect t) || (match gapSince t with | some g => decide (g + seqWait t ≤ tb) | none => false))) ||
   t.quarFill)

/-- Tickets of a local tray, held or in transit. -/
def trayHeld (s : State) (f t : Nat) : Nat :=
  (s.tk.held.filter fun e => decide (e.2.origin = .tray f t)).length

/-- Tickets of a tenant's tray commands, held or in transit (Table 5.22). -/
def tenantHeld (s : State) (k : Nat) : Nat :=
  (s.tk.held.filter fun e => (match e.2.origin with | .tray _ _ => true | _ => false) && e.2.cmd.tenant == k).length

/-- Table 5.21. -/
def tkFree (s : State) : Nat := 65536 - s.tk.held.length
def tkTransit (s : State) : Nat := (s.tk.held.filter fun e => decide (e.2.state = .transit)).length
def tkHeld (s : State) : Nat := (s.tk.held.filter fun e => decide (e.2.state ≠ .transit)).length

/-- Table 5.22: a tenant's quota. -/
def quotaOf (s : State) (k : Nat) : Nat := tgetD s.tk.quotas k 0

/-- Table 5.15 IDLE: no ticket held or in transit, and no read outstanding. -/
def trayIdle (s : State) (f t : Nat) : Bool :=
  let x := trayOf s f t
  trayHeld s f t == 0 && x.rdIssued == x.rdDone

/-! Space of the journal (R128, R129). -/

/-- Bytes of a record. -/
def recBytes (r : Rec) : Nat := 32 + r.body.length

/-- USED of a block (Table 3.6). -/
def blkUsed (b : Block) : Nat := 96 + (b.recs.map recBytes).foldl (· + ·) 0

/-- The open block. -/
def openBlock (j : Journal) : Option Block := j.blocks.find? fun b => decide (b.state = .opened)

/-- R128: free slots. -/
def freeSlots (s : State) : Nat := ringSlots s.part - (s.jn.blocks.filter fun b => decide (s.jn.wm < b.no)).length

/-- R129: the journal-space test of a reservation. -/
def spaceOk (s : State) (resv : Nat) : Bool :=
  decide ((s.jn.committed + resv : Int) ≤ ((freeSlots s : Int) - 32) * 64864 +
    (match openBlock s.jn with | some b => 65536 - (blkUsed b : Int) | none => 0))

/-- R167, R173: an engine that commands may be dispatched to: in service and not resetting. -/
def engineTakes (s : State) (e : Nat) : Bool := engineIn s e && !s.eng.resetting.contains e

/-- Free priority contexts of the engines that take commands, less those that tickets in transit are owed (R167). -/
def prioFree (s : State) : Bool :=
  let cap := 8 * ((List.range (nEngines s.part)).filter (engineTakes s)).length
  let used := (s.eng.ctxs.filter fun e => isPrioCtx (e.1 % 256) && engineTakes s (e.1 / 256) && decide (e.2.state ≠ .free)).length
  let owed := (s.tk.held.filter fun e => decide (e.2.state = .transit) && cPrio e.2.cmd).length
  decide (used + owed < cap)

/-- R214: the code of the first test that a tray's command fails. -/
def grantCode (s : State) (f t : Nat) (c : Cmd) : Option Byte :=
  let x := trayOf s f t
  if trayQuota x ≤ trayHeld s f t ∨ quotaOf s c.tenant ≤ tenantHeld s c.tenant ∨
     tkFree s ≤ (if c.tenant = 0 then 0 else s.tk.opReserve) + s.tk.fxReserve ∨
     (cPrio c ∧ ¬ prioFree s) then some stQuota
  else if !spaceOk s (reservation c) then some stJournalSpace
  else none

end Sys2Proof.Machine
end

