-- ==== Sys2Proof/Machine/Trays.lean ====
section
/-! DEFINITION. What the trays' commands share: completions in order, the egg timer, vectors, violation records, quarantine. -/
namespace Sys2Proof.Machine

/-- R221: neither the entry nor its function is masked. R468: a HELD die sends on the mailbox vector alone; DEDUCED (log 115): another entry waits with its Pending Bit. -/
def entryOpen (s : State) (f n : Nat) : Bool :=
  !(fnOf s f).fnMasked && (fnOf s f).unmasked.contains n && (s.mgmt.state != .held || (f == 0 && n == 2047))

/-- R221: a message owed through a Pending Bit goes out once nothing stops its entry. -/
def sendPending (s : State) (f : Nat) : State :=
  let fn := fnOf s f
  (fn.pendingBits.filter (entryOpen s f)).foldl (fun st n => msixOut st f n)
    (setFn s f { fn with pendingBits := fn.pendingBits.filter fun n => !entryOpen s f n })

/-- R221: send the message of an MSI-X entry, or set its Pending Bit while something stops it. -/
def raiseEntry (s : State) (f n : Nat) : State :=
  let fn := fnOf s f
  if !entryOpen s f n then setFn s f { fn with pendingBits := insertUp n fn.pendingBits }
  else msixOut s f n

/-- R220, R221: raise a tray's vector. -/
def raiseVector (s : State) (f t : Nat) : State :=
  let x := trayOf s f t
  let s1 := setTray s f t { x with eggC := 0, eggT0 := 0 }
  if !x.msixEn then s1 else raiseEntry s1 f t

/-- R220: a completion of the tray has been handed on. -/
def eggCount (s : State) (f t : Nat) : State :=
  let x := trayOf s f t
  let n := x.eggC + 1
  let s1 := setTray s f t { x with eggC := n, eggT0 := if x.eggC = 0 then s.tb else x.eggT0 }
  if eCount x ≤ n then raiseVector s1 f t else s1

/-- R194, R81: write a response and its completion entry. DEDUCED (log 97): R81 has the response issued first, R194 calls it ordered after the completion; R81's order is taken. -/
def writeCompl (s : State) (f t : Nat) (seq : Word) (c : Compl) : State :=
  let x := trayOf s f t
  let s1 := if c.resp.isEmpty then s else dmaOut s f c.respAddr c.resp
  let s2 := dmaOut s1 f (x.cqBase + BitVec.ofNat 64 (32 * (seq.toNat % 2 ^ cqLog2 x))) (complBytes c seq)
  eggCount (setTray s2 f t { trayOf s2 f t with lastIssued := seq }) f t

/-- The ticket's command has its completion issued: the ticket is due back, its extension descriptors leave the store (R107, R192). -/
def issueTicket (s : State) (k : Nat) : State :=
  match ticketOf s k with
  | none => s
  | some x =>
    let n := match x.origin with | .tray _ _ => x.cmd.ext.length / 128 | _ => 0
    setTicket { s with host := { s.host with extUsed := s.host.extUsed - n } } k { x with state := .issued }

/-- R217: issue the completions at the front of the tray's order that are ready. -/
def flushFlights : Nat → State → Nat → Nat → State
  | 0, s, _, _ => s
  | n + 1, s, f, t =>
    let x := trayOf s f t
    match x.flight with
    | [] => s
    | fl :: rest =>
      match fl.done with
      | none => s
      | some c =>
        if s.board.powerFail then s
        else
          let s1 := setTray s f t { x with flight := rest }
          let s2 := if x.enable then writeCompl s1 f t fl.seq c else s1
          let s3 := match fl.ticket with | some k => issueTicket s2 k | none => s2
          flushFlights n s3 f t

/-- Issue what is ready on a tray. -/
def flushTray (s : State) (f t : Nat) : State := flushFlights (trayOf s f t).flight.length s f t

/-- Mark the completion of a ticket's command ready. -/
def markDone (fl : List Flight) (k : Nat) (c : Compl) : List Flight :=
  fl.map fun x => if x.ticket = some k then { x with done := some c } else x

/-- A completion that carries no record and no balance (R211, R215). -/
def plainCompl (st : Byte) (hostTag : Half) (pushed : Bool) : Compl := { status := st, hostTag := hostTag, pushed := pushed }

/-! Violations (R225 to R227). -/

/-- A violation record (Table 5.18). -/
def violRec (tb : Nat) (kind code : Byte) (f tray tenant : Nat) (seq : Word) (off : Nat) (data : Bytes) : Bytes :=
  le 8 tb ++ [kind, code] ++ le 2 f ++ le 2 tray ++ le 2 tenant ++ le 4 seq.toNat ++ le 2 off ++ zeros 2 ++ fit 8 data

/-- R226: write a violation record to the operator's ring and the function's log. -/
def putViol (s : State) (f : Nat) (r : Bytes) : State :=
  let fn := fnOf s f
  let s1 := setFn s f { fn with vlog := tput fn.vlog (fn.vlogCount % 16) r, vlogCount := sat (2 ^ 64 - 1) (fn.vlogCount + 1) }
  let n := s1.host.vlogCount
  let s2 := if s1.host.vlogEnable then
      ringOut s1 s1.host.vlogFn (s1.host.vlogBase + BitVec.ofNat 64 (32 * (n % 2 ^ s1.host.vlogLog2))) r
    else s1
  { s2 with host := { s2.host with vlogCount := n + 1 } }

/-- An uncounted violation record of a tray. -/
def trayNote (s : State) (f t : Nat) (kind code : Byte) (seq : Word) (data : Bytes) : State :=
  putViol s f (violRec s.tb kind code f (trayNumber s f t) (fnOf s f).tenant seq 0 data)

/-- How many halves a push slot holds. -/
def halves (p : PushSlot) : Nat := b2n p.half0.isSome + b2n p.half1.isSome

/-- R227: quarantine a tray: held pushes are discarded and counted. -/
def quarantine (x : Tray) : Tray :=
  { x with quar := true, quarFill := true, slots := [],
           discard := sat 65535 (x.discard + (x.slots.map fun e => halves e.2).foldl (· + ·) 0) }

/-- R226, R227: a counted violation of a tray. -/
def violate (s : State) (f t : Nat) (kind code : Byte) (seq : Word) (off : Nat) (data : Bytes) : State :=
  let x := trayOf s f t
  let fresh := match x.winStart with | none => true | some w => decide (w + 1000000 ≤ s.tb)
  let n := min 1025 ((if fresh then 0 else x.window) + 1)
  let unl := if fresh then 0 else x.unlogged
  let x1 := { x with winStart := if fresh then some s.tb else x.winStart, window := n,
                     unlogged := if n ≤ 64 then unl else sat 31 (unl + 1), total := sat (2 ^ 32 - 1) (x.total + 1) }
  let x2 := if n = 1025 ∧ ¬ x.quar then quarantine x1 else x1
  let s1 := setTray s f t x2
  if n ≤ 64 then putViol s1 f (violRec s.tb kind code f (trayNumber s f t) (fnOf s f).tenant seq off data) else s1

/-- R206: the pushes that a rise of EXPECT leaves behind. -/
def dropStale (s : State) (f t : Nat) : State :=
  let x := trayOf s f t
  let stale := x.slots.filter fun e => match e.2.half0 with | some h => decide (2 ^ 31 ≤ seqDist x (seqOf h)) | none => false
  let s1 := setTray s f t { x with slots := tfilter x.slots fun k _ => !(stale.any fun e => e.1 == k) }
  stale.foldl (fun st e => match e.2.half0 with
    | some h => violate st f t 0x02 0x03 (seqOf h) 0 h
    | none => st) s1

/-- EXPECT rises by 1 (R208, R210). -/
def raiseExpect (s : State) (f t : Nat) : State :=
  let x := trayOf s f t
  dropStale (setTray s f t { x with expect := x.expect + 1 }) f t

/-- Write a fill completion for EXPECT (R210, R227). -/
def writeFill (s : State) (f t : Nat) (st : Byte) : State :=
  let x := trayOf s f t
  let fl : Flight := { seq := x.expect, done := some { status := st, fill := true } }
  raiseExpect (flushTray (setTray s f t { x with flight := x.flight ++ [fl] }) f t) f t

/-- The tray of an origin. -/
def originTray : Origin → Option (Nat × Nat)
  | .tray f t => some (f, t)
  | _ => none

/-- ORIGIN of Table 4.5. -/
def originBits (t : Ticket) : Nat :=
  (match t.origin with | .peer _ => 4 | .port _ _ _ => 2 | _ => 0) + b2n (cPrio t.cmd)

/-- R217: the flights of a tray that stand before a ticket's. -/
def flightsBefore (fl : List Flight) (k : Nat) : List Flight := fl.takeWhile fun x => x.ticket != some k

/-- R217: whether every command before a ticket's in its tray passes a test of its ticket, or has completed. -/
def beforeOk (s : State) (k : Nat) (p : Ticket → Bool) : Bool :=
  match ticketOf s k with
  | none => true
  | some x =>
    match originTray x.origin with
    | none => true
    | some (f, t) =>
      (flightsBefore (trayOf s f t).flight k).all fun fl =>
        fl.done.isSome || (match fl.ticket with
          | none => true
          | some j => match ticketOf s j with | none => true | some y => p y || ladleOp (cOp y.cmd))

/-- The tests of R214 again for a waiting command (R215): its code becomes that of the failing test, or none. -/
def retestTray (s : State) (key : Nat) (x : Tray) : Tray :=
  match x.waiting with
  | none => x
  | some w => if w.code.isNone then x else { x with waiting := some { w with code := grantCode s (key / 2048) (key % 2048) w.cmd } }

/-- R215: test every waiting command again. -/
def retestAll (s : State) : State :=
  if grantsOpen s then { s with host := { s.host with trays := tmap s.host.trays (retestTray s) } } else s

/-! Task queues (R317). -/

def queueOf (s : State) (q : Nat) : List QEntry := tgetD s.cores.queues q []
/-- A queue, and the level of its event source (R317, Table 10.14). -/
def setQueue (s : State) (q : Nat) (l : List QEntry) : State :=
  levelSrc { s with cores := { s.cores with queues := tset s.cores.queues q [] l } } q (!l.isEmpty)

/-- R317, R48: a ladle-class command that has its ticket enters the queue of its opcode; while a DAYROLL's fence is in force it stays in the ticket unit. -/
def enqueueLadle (s : State) (tk : Nat) : State :=
  match ticketOf s tk with
  | some t =>
    if t.state = .transit ∧ ladleOp (cOp t.cmd) ∧ s.eng.dayFence.isNone then
      let q := cOp t.cmd % 16
      setQueue (setTicket s tk { t with state := .held }) q (queueOf s q ++ [{ ticket := tk, granted := s.tb }])
    else s
  | none => s

/-- A ticket into a list in the order of grants. -/
def orderInto (e : Nat × Ticket) : List (Nat × Ticket) → List (Nat × Ticket)
  | [] => [e]
  | d :: r => if e.2.order < d.2.order then e :: d :: r else d :: orderInto e r

/-- R48: the ladle-class commands that a fence kept in the ticket unit enter their queues, in the order of their grants. -/
def enqueueHeld (s : State) : State :=
  (((s.tk.held.filter fun e => decide (e.2.state = .transit) && ladleOp (cOp e.2.cmd)).foldl (fun l e => orderInto e l) []).map (·.1)).foldl enqueueLadle s

/-- R215: grants stop: the time that waiting commands have spent stands still. -/
def pauseWaits (s : State) : State :=
  { s with host := { s.host with trays := tmap s.host.trays fun _ x =>
      match x.waiting with
      | none => x
      | some w => match w.since with
        | none => x
        | some b => { x with waiting := some { w with spent := w.spent + (s.tb - b), since := none } } } }

/-- R215: grants resume: waiting commands run on with the time they had left, and are tested again at once; the messages kept back while the die was HELD go out. -/
def resumeWaits (s : State) : State :=
  let s0 := s.host.fns.foldl (fun st e => sendPending st e.1) s
  retestAll { s0 with host := { s0.host with trays := tmap s0.host.trays fun _ x =>
      match x.waiting with
      | none => x
      | some w => if w.code.isSome then { x with waiting := some { w with since := some s0.tb } } else x } }

end Sys2Proof.Machine
end

