-- ==== Sys2Proof/Machine/JournalOps.lean ====
section
/-! DEFINITION. What the journal's commands share: records and blocks as bytes, the chain, appending a record, finding one. -/
namespace Sys2Proof.Machine

/-- LEN of a record (Table 3.2). -/
def recLen (r : Rec) : Nat := 1 + r.body.length / 32

/-- A record as bytes (Table 3.2). -/
def recordBytes (r : Rec) : Bytes :=
  le 8 r.seq ++ [r.kind, BitVec.ofNat 8 (recLen r), r.status, r.rflags] ++ le 2 r.info.toNat ++ le 2 r.tenant.toNat ++
  le 2 r.tray.toNat ++ le 2 r.time.toNat ++ le 4 r.traySeq.toNat ++ le 8 r.ref.toNat ++ r.body

/-- The record that bytes hold, whole slots of them. -/
def recordOf (b : Bytes) : Rec :=
  { seq := field b 0 8, kind := byteAt b 8, status := byteAt b 10, rflags := byteAt b 11, info := halfAt b 12, tenant := halfAt b 14,
    tray := halfAt b 16, time := halfAt b 18, traySeq := wordAt b 20, ref := dblAt b 24, body := slice b 32 (32 * ((byteAt b 9).toNat - 1)) }

/-- A block header (Table 3.6). -/
def headerBytes (b : Block) : Bytes :=
  le 4 0x4C4E524A ++ le 2 1 ++ le 2 b.flags.toNat ++ le 8 b.no ++ le 8 b.firstSeq ++ le 8 b.lastSeq ++ le 8 b.openTime ++
  le 8 b.closeTime ++ le 4 (blkUsed b) ++ le 2 b.device.toNat ++ le 2 b.boot.toNat ++ le 8 b.durableSeq ++ le 32 b.prevHash.toNat

/-- A block's bytes up to USED (R120). -/
def blockBytes (b : Block) : Bytes := headerBytes b ++ (b.recs.map recordBytes).flatten

/-- R123: the chain hash of a closed block. -/
def chainHash (b : Block) : BitVec 256 := Config.sha256 (blockBytes b)

/-- The records in a run of bytes. -/
def recordsOf : Nat → Bytes → List Rec
  | 0, _ => []
  | n + 1, b => if b.length < 32 ∨ byteAt b 9 = 0 then [] else
      recordOf b :: recordsOf n (b.drop (32 * (byteAt b 9).toNat))

/-- The block that a 64 KiB slot holds (R131), if its header is one. -/
def blockOf (b : Bytes) : Option Block :=
  let used := field b 48 4
  if field b 0 4 ≠ 0x4C4E524A ∨ field b 4 2 ≠ 1 ∨ used < 96 ∨ 65536 < used ∨ used % 32 ≠ 0 then none
  else some { no := field b 8 8, flags := halfAt b 6, firstSeq := field b 16 8, lastSeq := field b 24 8, openTime := field b 32 8,
              closeTime := field b 40 8, device := halfAt b 52, boot := halfAt b 54, durableSeq := field b 56 8,
              prevHash := BitVec.ofNat 256 (field b 64 32), state := .closed, recs := recordsOf 2048 (slice b 96 (used - 96)) }

/-- BFLAGS of a block opened now (Table 3.7). -/
def openFlags (s : State) : Half :=
  BitVec.ofNat 16 (16 * b2n s.jn.restart + 2 * b2n s.mgmt.unqual + b2n s.jn.unsealed)

/-- R122: the next block, opened by its first record. -/
def newBlock (s : State) (seq : Nat) : Block :=
  { no := s.jn.nextBlock, flags := openFlags s, firstSeq := seq, openTime := s.tb, device := deviceField s, boot := bootField s,
    prevHash := if s.jn.lastClosed + 1 = s.jn.nextBlock then s.jn.lastHash else 0 }

/-- Give a record its number and time in a block (R110, Table 3.2). -/
def stampRec (tb : Nat) (b : Block) (seq : Nat) (r : Rec) : Rec :=
  { r with seq := seq, time := BitVec.ofNat 16 (sat 65535 ((tb - b.openTime) / 64)) }

/-- Write a block over the one with its number. -/
def putBlock (bs : List Block) (b : Block) : List Block := bs.map fun x => if x.no = b.no then b else x

/-- Bytes of records numbered and not yet durable (R497). -/
def pendingBytes (j : Journal) : Nat :=
  ((j.blocks.flatMap (·.recs)).filter fun r => decide (j.durable < r.seq)).foldl (fun a r => a + recBytes r) 0

/-- R122: whether a record fits into the open block. -/
def fits (j : Journal) (r : Rec) : Bool :=
  match openBlock j with | none => false | some b => decide (blkUsed b + recBytes r ≤ 65536)

/-- R113: the blocks left once block `n` has taken its ring slot. -/
def slotFreed (s : State) (n : Nat) (bs : List Block) : List Block := bs.filter fun b => b.no + ringSlots s.part != n

/-- Number one record and place it in the open block; a full block begins to close and the next one opens (R110, R122). -/
def placeRec (s : State) (r : Rec) (w : Waiter) : State :=
  let j := s.jn
  let seq := j.nextSeq
  let waiters := match w with | .nobody => j.waiters | _ => tput j.waiters seq w
  match openBlock j with
  | some b =>
    if blkUsed b + recBytes r ≤ 65536 then
      { s with jn := { j with blocks := putBlock j.blocks { b with recs := b.recs ++ [stampRec s.tb b seq r] }, nextSeq := seq + 1, waiters := waiters } }
    else
      let n := newBlock s seq
      { s with jn := { j with blocks := slotFreed s n.no (putBlock j.blocks { b with state := .closing }) ++ [{ n with recs := [stampRec s.tb n seq r] }],
                              nextBlock := n.no + 1, restart := false, nextSeq := seq + 1, waiters := waiters, filledAt := some (s.tb, b.no) } }
  | none =>
    let n := newBlock s seq
    { s with jn := { j with blocks := slotFreed s n.no j.blocks ++ [{ n with recs := [stampRec s.tb n seq r] }],
                            nextBlock := n.no + 1, restart := false, nextSeq := seq + 1, waiters := waiters } }

/-- R110: a priority append of a whisk context is queued and not yet numbered. -/
def prioQueued (s : State) : Bool :=
  s.eng.ctxs.any fun x => x.2.queued && decide (x.2.state ≠ .free) && decide (x.2.state ≠ .sweeping)

/-- The request is one of the priority class (RFLAGS.PRIO, Table 3.3). -/
def prioRecs (rs : List Rec) : Bool := rs.all fun r => r.rflags.getLsbD 0

/-- Whether the controller takes an append now (R110, R112, R143, R497, and a free slot for a new block). An ordinary one waits behind a
priority one. -/
def canAppend (s : State) (rs : List Rec) : Bool :=
  appendsOpen s && !s.jn.stopped && (prioRecs rs || !prioQueued s) &&
  decide (pendingBytes s.jn + (rs.map recBytes).foldl (· + ·) 0 ≤ 1048576) &&
  (decide (0 < freeSlots s) || rs.all (fits s.jn))

/-- Number and place the records of one request (R87, R110): consecutive numbers. -/
def placeRecs (s : State) (rs : List Rec) (w : Waiter) : State := rs.foldl (fun st r => placeRec st r w) s

/-- The block that holds a sequence number, among those in the store. -/
def blockOfSeq (j : Journal) (seq : Nat) : Option Block := j.blocks.find? fun b => b.recs.any fun r => r.seq == seq

/-- The record of a sequence number, when its block is in the window (R137). -/
def recOfSeq (j : Journal) (seq : Nat) : Option (Block × Rec) :=
  match blockOfSeq j seq with
  | none => none
  | some b => if b.no ≤ j.wm then none else (b.recs.find? fun r => r.seq == seq).map fun r => (b, r)

/-- Every record in the window, ascending. -/
def windowRecs (j : Journal) : List Rec := (j.blocks.filter fun b => decide (j.wm < b.no)).flatMap (·.recs)

/-- R118: the durable decision record of a posting, by its XSEQ on this coordinator. -/
def decisionRec (j : Journal) (xseq : Nat) : Option Rec :=
  (windowRecs j).find? fun r => rXdev r && (r.kind == 0x31 || r.kind == 0x32) && field r.body 8 8 == xseq && decide (r.seq ≤ j.durable)

/-- SEALED_SEQ of the latest SEAL record among blocks (Table 3.8). -/
def latestSeal (bs : List Block) : Nat :=
  (((bs.flatMap (·.recs)).filter fun r => r.kind == 0xE0).getLast?.map fun r => field r.body 8 8).getD 0

/-- Records numbered and not yet durable that will be accepted (R88, R94: they take up room before they are applied). -/
def inFlight (j : Journal) : List Rec := ((j.blocks.flatMap (·.recs)).filter fun r => decide (j.durable < r.seq)).filter fun r => r.status == 0

/-- No seal can be made: SEAL_FAULT is set and the event controller told (R126, Table 10.14). -/
def sealFail (s : State) : State :=
  let s1 := { s with jn := { s.jn with unsealed := true, sealFault := true, sealFailAt := some s.tb } }
  if s.jn.sealFault then s1 else pulseSrc s1 0x141

/-- R126: a seal engine and a seal key are in service. -/
def canSeal (s : State) : Bool := s.store.sealUnits != 0 && s.store.sealPriv.isSome

/-- The cross-device slot (Table 3.5). -/
def xslot (xdev : Nat) (xstatus op : Byte) (boot localMask : Half) (xseq : Nat) (cref : Dbl) : Bytes :=
  le 2 xdev ++ [xstatus, op] ++ le 2 boot.toNat ++ le 2 localMask.toNat ++ le 8 xseq ++ le 8 cref.toNat ++ zeros 8

/-! The seal engine's units (R145). -/

/-- R145: a unit that may begin a ladle request: unit 0 only when no journal seal waits for it. -/
def unitServes (s : State) (u : Nat) : Bool := s.store.sealUnits.getLsbD u && decide (u < 8) && (u != 0 || s.jn.sealReqs.isEmpty)

/-- A unit has a ladle request in operation. -/
def unitBusy (s : State) (u : Nat) : Bool := s.cores.jobs.any fun j => j.unit == some u

/-- A unit begins the oldest request that no unit has begun. -/
def beginJob : List SealJob → Nat → List SealJob
  | [], _ => []
  | j :: r, u => if j.unit.isNone then { j with unit := some u } :: r else j :: beginJob r u

/-- R145: the units that are free begin ladle requests in arrival order; none leaves an operation that it has begun. DESIGN CHOICE (log 98): of
several free units the lowest begins first. -/
def startJobs (s : State) : State :=
  { s with cores := { s.cores with jobs := ((List.range 8).filter fun u => unitServes s u && !unitBusy s u).foldl beginJob s.cores.jobs } }

end Sys2Proof.Machine
end

