-- ==== Sys2Proof/Machine/LockOps.lean ====
section
/-! DEFINITION. Locks (R169 to R172): request, hand over, release, retag. -/
namespace Sys2Proof.Machine

/-- The owner tag of a whisk context (Table 4.12). -/
def ctxOwner (e c : Nat) : Owner := { kind := 0, unit := e, slot := c }
/-- The owner tag of a ladle frame. -/
def frameOwner (core frame : Nat) : Owner := { kind := 1, unit := core, slot := frame }
/-- The owner tag of the fabric resolver. -/
def resolverOwner : Owner := { kind := 2 }

/-- An owner tag as a word (Table 4.12). -/
def ownerWord (o : Owner) : Nat := o.kind * 2 ^ 30 + o.unit * 2 ^ 23 + o.slot * 2 ^ 15

/-- WORD of a lock's trace record: owner tag and epoch. -/
def lockWord (o : Owner) (ep : Half) : Nat := ownerWord o + ep.toNat * 2 ^ 32

/-- R169: the larder slice that serves a key's lock, selected by its hash. -/
def lockSlice (s : State) (key : Nat) : Nat := (Config.hash (BitVec.ofNat 64 key)).toNat % nSlices s.part

/-- R172: a new lock entry finds its slice's 16,384 entries taken and goes to the spill area. -/
def spills (s : State) (key : Nat) : Bool :=
  decide (16384 ≤ (s.locks.filter fun e => !e.2.spill && lockSlice s e.1 == lockSlice s key).length)

/-- A key's lock came from the spill area. -/
def spilled (s : State) (key : Nat) : Bool := match tget s.locks key with | some l => l.spill | none => false

/-- A lock event of a whisk context in the trace; a grant shows whether it came from the spill area (Table 4.18). -/
def traceLock (s : State) (typ : Nat) (o : Owner) (ep : Half) (key : Nat) : State :=
  if o.kind = 0 then trace s o.unit o.slot typ (lockWord o ep + 2 ^ 63 * b2n (typ == trLockGrant && spilled s key)) key else s

/-- R169: a waiter's place: priority ahead of ordinary, each class in order of arrival. -/
def enqueue (ws : List LockWait) (w : LockWait) : List LockWait :=
  if w.prio then (ws.takeWhile (·.prio)) ++ w :: ws.dropWhile (·.prio) else ws ++ [w]

/-- Whether an owner at an epoch holds a lock, or it is lent to its posting `lent` (R323). -/
def holdsLock (s : State) (o : Owner) (ep : Half) (lent : Option Nat) (key : Nat) : Bool :=
  match tget s.locks key with
  | none => false
  | some l => (decide (l.owner = o) && l.epoch == ep) || (lent.isSome && l.lent == lent)

/-- R169: request one lock; it is granted when free, and else the request joins the queue once. -/
def requestLock (s : State) (o : Owner) (ep : Half) (prio : Bool) (key : Nat) : State :=
  match tget s.locks key with
  | none => traceLock (traceLock { s with locks := tput s.locks key { owner := o, epoch := ep, spill := spills s key } } trLockReq o ep key) trLockGrant o ep key
  | some l =>
    if (decide (l.owner = o) && l.epoch == ep) || l.waiters.any (fun w => decide (w.owner = o) && w.epoch == ep) then s
    else traceLock { s with locks := tput s.locks key { l with waiters := enqueue l.waiters { owner := o, epoch := ep, prio := prio } } } trLockReq o ep key

/-- R169: request keys one at a time in ascending order; true once all are held. -/
def acquireAll (s : State) (o : Owner) (ep : Half) (prio : Bool) (lent : Option Nat) : List Nat → State × Bool
  | [] => (s, true)
  | k :: r =>
    if holdsLock s o ep lent k then acquireAll s o ep prio lent r
    else
      let s1 := requestLock s o ep prio k
      if holdsLock s1 o ep lent k then acquireAll s1 o ep prio lent r else (s1, false)

/-- R169: a released lock passes straight to the head waiter. -/
def passLock (l : Lock) : Option Lock :=
  match l.waiters with
  | [] => none
  | w :: r => some { owner := w.owner, epoch := w.epoch, waiters := r, spill := l.spill }

/-- Release one lock of an owner. -/
def releaseLock (s : State) (o : Owner) (ep : Half) (key : Nat) : State :=
  match tget s.locks key with
  | none => s
  | some l =>
    if decide (l.owner = o) && l.epoch == ep then
      let s1 := traceLock s trLockRel o ep key
      match passLock l with
      | none => { s1 with locks := tdel s1.locks key }
      | some l' => { s1 with locks := tput s1.locks key l' }
    else s

/-- The keys an owner holds at an epoch, ascending. -/
def ownedKeys (s : State) (o : Owner) (ep : Half) : List Nat :=
  (s.locks.filter fun e => decide (e.2.owner = o) && e.2.epoch == ep).map (·.1)

/-- Release every lock of an owner at an epoch. -/
def releaseOwner (s : State) (o : Owner) (ep : Half) : State :=
  (ownedKeys s o ep).foldl (fun st k => releaseLock st o ep k) s

/-- R175: withdraw an owner's queued requests. -/
def withdraw (s : State) (o : Owner) (ep : Half) : State :=
  { s with locks := tmap s.locks fun _ l => { l with waiters := l.waiters.filter fun w => !(decide (w.owner = o) && w.epoch == ep) } }

/-- R176: the fabric resolver takes the locks of an owner; the posting is named by its epoch's place, kept in `lent`. -/
def retag (s : State) (o : Owner) (ep : Half) (posting : Nat) : State :=
  { s with locks := tmap s.locks fun _ l =>
      if decide (l.owner = o) && l.epoch == ep then { l with owner := resolverOwner, epoch := 0, lent := some posting } else l }

/-- R171: the keys of an owner's dead locks: those of an epoch that is not its current one. -/
def deadKeys (s : State) (o : Owner) (cur : Half) : List Nat :=
  (s.locks.filter fun e => decide (e.2.owner = o) && e.2.epoch != cur).map (·.1)

/-- R175, R176: release every dead lock of an owner, whichever of its resets left it. -/
def releaseDead (s : State) (o : Owner) (cur : Half) : State :=
  (deadKeys s o cur).foldl (fun st k => match tget st.locks k with | some l => releaseLock st o l.epoch k | none => st) s

/-- R176: the fabric resolver takes every dead lock of an owner. -/
def retagDead (s : State) (o : Owner) (cur : Half) (posting : Nat) : State :=
  { s with locks := tmap s.locks fun _ l =>
      if decide (l.owner = o) && l.epoch != cur then { l with owner := resolverOwner, epoch := 0, lent := some posting } else l }

/-- Release the resolver's locks of one posting. -/
def releasePosting (s : State) (posting : Nat) : State :=
  ((s.locks.filter fun e => decide (e.2.owner = resolverOwner) && e.2.lent == some posting).map (·.1)).foldl
    (fun st k => match tget st.locks k with
      | none => st
      | some l => match passLock l with
        | none => { st with locks := tdel st.locks k }
        | some l' => { st with locks := tput st.locks k l' }) s

/-- Locks of a posting that the resolver holds from its start (R452): taken without a wait. -/
def seizeLocks (s : State) (posting : Nat) (keys : List Nat) : State :=
  keys.foldl (fun st k => { st with locks := tput st.locks k { owner := resolverOwner, lent := some posting } }) s

end Sys2Proof.Machine
end

