-- ==== Sys2Proof/Machine/FabricOps.lean ====
section
/-! DEFINITION. What the fabric's commands share: messages as bytes, routing (R437), flits and credits (R430 to R433), end-to-end
windows (R441), violations and NAKs (R442, R443). -/
namespace Sys2Proof.Machine

/-! Messages (Tables 12.7, 12.8). -/

def tyPrepare : Byte := 0x01
def tyCommit : Byte := 0x02
def tyAbort : Byte := 0x03
def tyPrepared : Byte := 0x04
def tyRefused : Byte := 0x05
def tyDone : Byte := 0x06
def tyQuery : Byte := 0x07
def tyOutcome : Byte := 0x08
def tyE2eAck : Byte := 0x09
def tyNak : Byte := 0x0A
def tyMirror : Byte := 0x0B
def tyMirrorAck : Byte := 0x0C
def tyCxReq : Byte := 0x0D
def tyCxResp : Byte := 0x0E
def tyHeartbeat : Byte := 0x0F

/-- A message as bytes (Table 12.7). -/
def msgBytes (m : Msg) : Bytes :=
  [m.typ, m.mflags] ++ le 2 m.dst.toNat ++ le 2 m.src.toNat ++ le 2 m.epoch.toNat ++ le 2 m.eseq.toNat ++ le 2 m.mlen.toNat ++
  le 4 m.reserved.toNat ++ le 8 m.xseq.toNat ++ le 8 m.arg.toNat ++ m.body

/-- The message that bytes hold. -/
def msgOf (b : Bytes) : Msg :=
  { typ := byteAt b 0, mflags := byteAt b 1, dst := halfAt b 2, src := halfAt b 4, epoch := halfAt b 6, eseq := halfAt b 8,
    mlen := halfAt b 10, reserved := wordAt b 12, xseq := dblAt b 16, arg := dblAt b 24, body := slice b 32 ((field b 10 2) - 32) }

/-- Table 12.8: the types that carry ESEQ. -/
def typeHasEseq (t : Byte) : Bool := decide (1 ≤ t.toNat) && decide (t.toNat ≤ 8)

/-- Table 12.8: the virtual channel of a type. -/
def typeVc (t : Byte) : Nat :=
  let n := t.toNat
  if n ≤ 3 ∨ n = 7 then 0
  else if n ≤ 0x0A then 1
  else if n = 0x0D ∨ n = 0x0E then 3
  else 2

/-! Links. -/

def linkOf (s : State) (k : Nat) : Link := tgetD s.fab.links k {}
def setLink (s : State) (k : Nat) (x : Link) : State := { s with fab := { s.fab with links := tset s.fab.links k {} x } }
/-- Write a link; a change of its state pulses its event source (Table 10.14). -/
def changeLink (s : State) (k : Nat) (x : Link) : State :=
  let s1 := setLink s k x
  if (linkOf s k).state ≠ x.state ∧ k < 32 then pulseSrc s1 (0x120 + k) else s1
def setFab (s : State) (f : Fabric) : State := { s with fab := f }

/-- The companion link of this die (Table 12.16, R455). Link numbers 32 to 63 are those of die 1 (R436). -/
def isCx (s : State) (k : Nat) : Bool := s.fab.cxEn && decide (k < 32) && s.fab.cxLink == k + 32 * b2n s.fab.die

/-- Table 12.3: a receiver pool's depth. Link 32 is the partner path. -/
def poolDepth (s : State) (k vc cls : Nat) : Nat :=
  if vc < 2 then (if cls = 0 then 256 else 128)
  else if vc = 2 then (if cls = 0 ∧ k = 32 then 512 else 0)
  else if cls = 0 ∧ isCx s k then 64 else 0

/-- A flit with its CRC (Table 12.1). -/
def flitBytes (fctl mfl : Byte) (lseq ack cred : Nat) (payload : Bytes) : Bytes :=
  let b := [fctl, mfl] ++ le 2 lseq ++ le 2 ack ++ le 2 cred ++ fit 52 payload
  b ++ le 4 (crc32 b).toNat

/-- ACK as sent on a link: the last LSEQ received in order, valid (Table 12.1). -/
def ackField (l : Link) : Nat := (l.rxExpect + 4095) % 4096 + 32768

/-- CRED as sent: the credits owed for the first pool that is owed any (Table 12.1). -/
def credField (l : Link) : Nat :=
  match l.rxUsed with | [] => 0 | (p, n) :: _ => p % 4 + 4 * (p / 4) + 8 * min 255 n

/-- The link once CRED has gone out. -/
def credSent (l : Link) : Link :=
  match l.rxUsed with | [] => l | (p, n) :: r => { l with rxUsed := if n ≤ 255 then r else (p, n - 255) :: r }

/-- Send a flit that carries no DATA (Table 12.2). -/
def sendCtrl (s : State) (k : Nat) (ftype : Byte) (payload : Bytes) : State :=
  let l := linkOf s k
  emit (setLink s k (credSent l)) (.flit k (flitBytes ftype 0 0 (ackField l) (credField l) payload))

/-- R431: IDLE flits, while credits are owed. -/
def idleOut : Nat → State → Nat → State
  | 0, s, _ => s
  | n + 1, s, k => if (linkOf s k).rxUsed.isEmpty then s else idleOut n (sendCtrl s k 0 []) k

/-- R431, R432: an accepted DATA flit is answered with an IDLE flit that carries its ACK, and with as many as return the credits of freed buffers:
no pool has more than 512 flits and CRED returns up to 255. -/
def answerData (s : State) (k : Nat) : State := idleOut 2 (sendCtrl s k 0 []) k

/-- Send, or send again, a DATA flit kept as its control bytes, LSEQ and payload. -/
def sendData (s : State) (k : Nat) (d : Bytes) : State :=
  let l := linkOf s k
  emit (setLink s k (credSent l)) (.flit k (flitBytes (byteAt d 0) (byteAt d 1) (field d 2 2) (ackField l) (credField l) (d.drop 4)))

/-- The credit pool of a flit by its FCTL: VC + 4 × CLASS. -/
def poolOf (fctl : Byte) : Nat := bits fctl.toNat 5 4 + 4 * bits fctl.toNat 6 6

/-- R432: the first waiting flit whose pool has a credit, and the flits that still wait: a pool without one holds back no other. -/
def pickFlit (cr : Tbl Nat) : List Bytes → Option (Bytes × List Bytes)
  | [] => none
  | d :: r => if 0 < tgetD cr (poolOf (byteAt d 0)) 0 then some (d, r) else (pickFlit cr r).map fun y => (y.1, d :: y.2)

/-- R432, R433: send waiting DATA flits while the window and the credits allow. -/
def pump : Nat → State → Nat → State
  | 0, s, _ => s
  | n + 1, s, k =>
    let l := linkOf s k
    match pickFlit l.credits l.txQueue with
    | none => s
    | some (d, rest) =>
      let p := poolOf (byteAt d 0)
      if l.state = .up ∧ l.unacked.length < 4095 then
        let kept := d.take 2 ++ le 2 l.txNext ++ d.drop 2
        pump n (sendData (setLink s k { l with txQueue := rest, unacked := l.unacked ++ [kept], txNext := (l.txNext + 1) % 4096,
                                               credits := tset l.credits p 0 (tgetD l.credits p 0 - 1) }) k kept) k
      else s

def pumpLink (s : State) (k : Nat) : State := pump (linkOf s k).txQueue.length s k

/-- R439: a message as the flits that carry it in a class. -/
def msgFlits (m : Msg) (cls : Nat) : List Bytes :=
  let ps := pieces 52 64 (msgBytes m)
  let fctl : Byte := BitVec.ofNat 8 (1 + 16 * typeVc m.typ + 64 * cls)
  (numberFrom 0 ps).map fun e => [fctl, BitVec.ofNat 8 (b2n (e.1 == 0) + 2 * b2n (e.1 + 1 == ps.length))] ++ fit 52 e.2
where numberFrom : Nat → List Bytes → List (Nat × Bytes)
  | _, [] => []
  | n, p :: r => (n, p) :: numberFrom (n + 1) r

/-! Coordinates and routing (R436, R437). -/

def coordX (d : Nat) : Nat := d % 16
def coordY (d : Nat) : Nat := d / 16 % 8
def coordZ (d : Nat) : Nat := d / 128 % 8

/-- R437: the routing entry that a destination device uses from here. -/
def routeEntry (s : State) (dst : Nat) : Option Half :=
  let d := s.fab.device
  let t := dst % 1024
  if coordX t ≠ coordX d then some (tgetD s.fab.routes (coordX t) 0)
  else if coordY t ≠ coordY d then some (tgetD s.fab.routes (16 + coordY t) 0)
  else if coordZ t ≠ coordZ d then some (tgetD s.fab.routes (24 + coordZ t) 0)
  else none

/-- The link of this die by which a link number of the device is reached, when it is UP: the other die's links lie behind the partner path (R436, R456). -/
def reachLink (s : State) (n : Nat) : Option Nat :=
  if n / 32 = b2n s.fab.die then (if (linkOf s (n % 32)).state = .up then some (n % 32) else none)
  else if s.part = .pv128d ∧ (linkOf s 32).state = .up then some 32 else none

/-- A link number is one of this die's. -/
def ownLink (s : State) (n : Nat) : Bool := n / 32 == b2n s.fab.die

/-- R437: the link and class a message leaves by, arriving in class `c`. A message that came over the partner path (`inner`) was sent here for a link of
this die, and does not go back: for PRIMARY where that is one of them, else for ALT, already in class 1 (DEDUCED, log 109). -/
def routeOut (s : State) (dst c : Nat) (inner : Bool := false) : Option (Nat × Nat) :=
  match routeEntry s dst with
  | none => none
  | some e =>
    let v := e.toNat
    let reach := fun n => if inner && !ownLink s n then none else reachLink s n
    match (if bitOf v 7 then reach (bits v 5 0) else none) with
    | some k => some (k, c)
    | none =>
      if bitOf v 15 ∧ (c = 0 ∨ (inner ∧ ¬ (bitOf v 7 ∧ ownLink s (bits v 5 0)))) then (reach (bits v 13 8)).map fun k => (k, 1) else none

/-- Put a message on a link. -/
def putOnLink (s : State) (k cls : Nat) (m : Msg) : State :=
  let l := linkOf s k
  pumpLink (setLink s k { l with txQueue := l.txQueue ++ msgFlits m cls }) k

/-- Put a message on the partner path (R456). -/
def putOnPartner (s : State) (m : Msg) : State := putOnLink s 32 (bits m.mflags.toNat 0 0) m

/-- MFLAGS with DETOUR and one more hop (Table 12.7, R437); the partner path is inside the device and no hop. -/
def hopFlags (m : Msg) (k cls : Nat) : Byte :=
  let v := m.mflags.toNat
  BitVec.ofNat 8 (cls + 2 * ((bits v 3 1 + b2n (decide (k < 32))) % 8) + (v / 16) * 16)

/-- R437: send a message on its way, `inner` if it came over the partner path; false when there is no path. -/
def transmit (s : State) (m : Msg) (inner : Bool := false) : State × Bool :=
  let dst := bits m.dst.toNat 10 0
  if dst % 1024 = s.fab.device then
    if (linkOf s 32).state = .up ∧ s.dup.alive then (putOnPartner s m, true) else (s, false)
  else if !s.fab.enable then (s, false)
  else match routeOut s dst (bits m.mflags.toNat 0 0) inner with
    | none => (s, false)
    | some (k, cls) => (putOnLink s k cls { m with mflags := hopFlags m k cls }, true)

/-- A message of this device to an endpoint. -/
def mkMsg (s : State) (typ : Byte) (ep : Nat) (xseq : Nat) (arg : Nat) (body : Bytes) : Msg :=
  { typ := typ, dst := BitVec.ofNat 16 ep, src := BitVec.ofNat 16 (ownEndpoint s), epoch := s.fab.epoch.setWidth 16,
    mlen := BitVec.ofNat 16 (32 + body.length), xseq := BitVec.ofNat 64 xseq, arg := BitVec.ofNat 64 arg, body := body }

/-- The partner's endpoint (R436). -/
def partnerEndpoint (s : State) : Nat := (ownEndpoint s + 1024) % 2048

/-- R458: this die mirrors its journal to its partner. -/
def mirrors (s : State) : Bool := ((mirrored s && s.dup.role == 1) || split s) && !s.dup.solo

/-- R439: records, in order, in groups of which each fits the body of a message; `acc` is the group begun, of `n` bytes. -/
def mirrorGroups (acc : List Rec) (n : Nat) : List Rec → List (List Rec)
  | [] => if acc.isEmpty then [] else [acc]
  | r :: rest =>
    let k := (recordBytes r).length
    if !acc.isEmpty && decide (2016 < n + k) then acc :: mirrorGroups [r] k rest else mirrorGroups (acc ++ [r]) (n + k) rest

/-- R458: send records to the partner as they are written to the store. -/
def mirrorOut (s : State) (rs : List Rec) : State :=
  if rs.isEmpty || !mirrors s then s
  else
    (mirrorGroups [] 0 rs).foldl (fun st g => putOnPartner st (mkMsg s tyMirror (partnerEndpoint s) 0 ((g.head?.map (·.seq)).getD 0) (g.map recordBytes).flatten))
      { s with dup := { s.dup with lastMirror := some (s.dup.lastMirror.getD s.tb) } }

/-- The records of a request as the block holds them. -/
def recsFrom (j : Journal) (seq : Nat) : List Rec := (j.blocks.flatMap (·.recs)).filter fun r => decide (seq ≤ r.seq)

/-- Append records as one request, mirrored to the partner where the mode asks for it (R110, R458). -/
def appendRecs (s : State) (rs : List Rec) (w : Waiter) : State :=
  let s1 := placeRecs s rs w
  if mirrors s then mirrorOut s1 (recsFrom s1.jn s.jn.nextSeq) else s1

def e2eOf (s : State) (ep : Nat) : E2e := tgetD s.fab.e2e ep {}
def setE2e (s : State) (ep : Nat) (x : E2e) : State := { s with fab := { s.fab with e2e := tset s.fab.e2e ep {} x } }

/-- R441: send a message that carries ESEQ, or let it wait for a place in the window; false when there is no path. -/
def sendSeq (s : State) (m : Msg) (o : MsgOwner) : State × Bool :=
  let ep := bits m.dst.toNat 10 0
  let w := e2eOf s ep
  if 64 ≤ w.out.length then (setE2e s ep { w with waiting := w.waiting ++ [(m, o)] }, true)
  else
    let r := transmit s { m with eseq := BitVec.ofNat 16 w.next }
    if r.2 then
      (setE2e r.1 ep { w with next := (w.next + 1) % 65536, out := w.out ++ [{ eseq := w.next, sentAt := s.tb, owner := o }] }, true)
    else (r.1, false)

/-- R446: a send that waited met no path: the posting it belongs to is noted. -/
def noteLost (s : State) (ep : Nat) : MsgOwner → State
  | .coord x => let w := e2eOf s ep; setE2e s ep { w with lost := w.lost ++ [x] }
  | _ => s

/-- Send the messages that wait for a place (R441). -/
def drainWaiting : Nat → State → Nat → State
  | 0, s, _ => s
  | n + 1, s, ep =>
    let w := e2eOf s ep
    match w.waiting with
    | [] => s
    | (m, o) :: r =>
      if 64 ≤ w.out.length then s
      else
        let q := sendSeq (setE2e s ep { w with waiting := r }) m o
        drainWaiting n (if q.2 then q.1 else noteLost q.1 ep o) ep

/-- A place in a window is freed (R441). -/
def freePlace (s : State) (ep eseq : Nat) : State :=
  let w := e2eOf s ep
  drainWaiting w.waiting.length (setE2e s ep { w with out := w.out.filter fun x => x.eseq != eseq }) ep

/-- R441: acknowledge a message that carries ESEQ. -/
def ackMsg (s : State) (m : Msg) : State :=
  if typeHasEseq m.typ then
    (transmit s (mkMsg s tyE2eAck (bits m.src.toNat 10 0) 0 1 (le 2 m.eseq.toNat))).1
  else s

/-- R443: a counted violation on a link. -/
def linkViolate (s : State) (k : Nat) (code : Byte) (src : Nat) (typ : Byte) : State :=
  let l := linkOf s k
  let fresh := match l.violStart with | none => true | some w => decide (w + 1000000 ≤ s.tb)
  let n := (if fresh then 0 else l.violOpen) + 1
  let l1 := { l with violTotal := sat (2 ^ 32 - 1) (l.violTotal + 1), violOpen := min 127 n, violStart := if fresh then some s.tb else l.violStart }
  let down := n = 64 ∧ l.state ≠ .down
  let l2 := if down then { l1 with state := .down, reason := 0x08, since := s.tb, unacked := [], txQueue := [], retrainFrom := none, keeps := false } else l1
  let s2 := changeLink { s with fab := { s.fab with violTotal := sat (2 ^ 64 - 1) (s.fab.violTotal + 1) } } k l2
  logFault s2 0x05 code k (src % 65536 + 65536 * typ.toNat) 0 0

/-- R442: answer a message with a NAK; E2E_ACK and NAK are never answered (R441). -/
def nakMsg (s : State) (m : Msg) (code : Byte) : State :=
  if m.typ = tyNak ∨ m.typ = tyE2eAck then s
  else (transmit s (mkMsg s tyNak (bits m.src.toNat 10 0) m.xseq.toNat (code.toNat + 65536 * m.eseq.toNat) (slice (msgBytes m) 0 32))).1

/-- R442: refuse a message that arrived on link `k`, counted or not. -/
def refuseMsg (s : State) (k : Nat) (m : Msg) (code : Byte) (counted : Bool) : State :=
  let s1 := nakMsg s m code
  if counted then linkViolate s1 k code (bits m.src.toNat 10 0) m.typ else s1

/-- Table 12.8 with R455: the types a kind of link carries. Link 32 is the partner path. -/
def typeOnLink (s : State) (k : Nat) (t : Byte) : Bool :=
  let n := t.toNat
  if isCx s k then n == 0x0E
  else if k = 32 then (decide (1 ≤ n) && decide (n ≤ 0x0C)) || n == 0x0F
  else decide (1 ≤ n) && decide (n ≤ 0x0A)

/-- R442: MLEN of a type (R439, R440). -/
def mlenOk (m : Msg) : Bool :=
  m.mlen.toNat == 32 + m.body.length && decide (m.body.length ≤ 2016) &&
  (let n := m.typ.toNat
   if n = 1 then m.body.length == 32 + 32 * (byteAt m.body 1).toNat
   else if n ≤ 8 then m.body.length == 0
   else if n = 9 then m.body.length == 2
   else if n = 0x0A then m.body.length == 32
   else if n = 0x0D ∨ n = 0x0E then m.body.length == 80
   else if n = 0x0B then decide (m.body.length % 32 = 0) else m.body.length == 0)

/-- R436: an endpoint inside the shape, naming a die the part has. -/
def inShape (s : State) (ep : Nat) : Bool :=
  decide (coordX (ep % 1024) ≤ s.fab.xm1) && decide (coordY (ep % 1024) ≤ s.fab.ym1) && decide (coordZ (ep % 1024) ≤ s.fab.zm1) &&
  (decide (ep < 1024) || s.part == .pv128d)

/-- R442: the NAK code of a message that arrives on link `k`, and whether it is counted. A companion has no epoch (R435) and DST 0x7FF (Table 12.7). -/
def msgFault (s : State) (k : Nat) (m : Msg) : Option (Byte × Bool) :=
  if !typeOnLink s k m.typ then some (0x03, true)
  else if !isCx s k && m.epoch != s.fab.epoch.setWidth 16 then some (0x04, true)
  else if !mlenOk m || m.reserved != 0 || bits m.mflags.toNat 7 5 != 0 || bits m.dst.toNat 15 11 != 0 || (!typeHasEseq m.typ && m.eseq != 0) then some (0x05, true)
  else if !isCx s k && !inShape s (bits m.dst.toNat 10 0) then some (0x07, true)
  else none

/-- The message is for this die to act on (R437, R457, R458). -/
def forUs (s : State) (m : Msg) : Bool :=
  let d := bits m.dst.toNat 10 0
  if m.typ = tyCxResp ∨ m.typ = tyMirror ∨ m.typ = tyMirrorAck ∨ m.typ = tyHeartbeat then true
  else if mirrored s then d % 1024 == s.fab.device && s.dup.role != 2 else d == ownEndpoint s

/-- Take the first message that a test picks out of the inbox. -/
def takeInbox (p : Msg → Bool) : List (Nat × Msg) → Option ((Nat × Msg) × List (Nat × Msg))
  | [] => none
  | x :: r => if p x.2 then some (x, r) else (takeInbox p r).map fun y => (y.1, x :: y.2)

/-- The message a row works on: its link and the state without it in the inbox. Another message is none of the row's. -/
def getMsg (s : State) (p : Msg → Bool) : MsgIn → Option (Nat × Msg × State)
  | .arrives k m => if p m then some (k, m, s) else none
  | .queued => (takeInbox p s.fab.inbox).map fun y => (y.1.1, y.1.2, { s with fab := { s.fab with inbox := y.2 } })

/-- Judge a message of a type that is for this die, then act on it (R441, R442). -/
def onMsg (s : State) (t : Byte) (i : MsgIn) (act : State → Nat → Msg → State) : State :=
  match getMsg s (fun m => decide (m.typ = t) && forUs s m) i with
  | none => s
  | some (k, m, s1) =>
    match msgFault s1 k m with
    | some (code, counted) => refuseMsg s1 k m code counted
    | none => act s1 k m

end Sys2Proof.Machine
end

