-- ==== Sys2Proof/Machine/Layout.lean ====
section
/-! DEFINITION. Where the ledger lies in HBM (R399, Tables 11.2 and 11.3), which lines a fetch of it reads, and the engines' own translation (R419). -/
namespace Sys2Proof.Machine

/-- R483, Table 11.2: the part whose column of the map a working set of stacks uses. -/
def mapPart (s : State) : Part := if stacksUsed s = 4 then .pv128 else if stacksUsed s = 2 then .pv64 else .pv32

/-- A row of Table 11.2. -/
def mapRow (s : State) (a b c : Nat) : Nat := match mapPart s with | .pv32 => a | .pv64 => b | _ => c

/-- Table 11.2: the base of the index region; the record region lies at 0. -/
def indexBase (s : State) : Nat := mapRow s 0x000080000000 0x000100000000 0x000200000000
/-- Table 11.2: the base of the ledger tables. -/
def tablesBase (s : State) : Nat := mapRow s 0x00009C000000 0x000138000000 0x000270000000
/-- Table 11.2: the base of the hold table. -/
def holdBase (s : State) : Nat := mapRow s 0x0000AC000000 0x000148000000 0x000280000000
/-- Table 11.2: the base of the reversal table. -/
def reversalBase (s : State) : Nat := mapRow s 0x00012C000000 0x000248000000 0x000480000000
/-- Table 11.2: the base of the general area. -/
def generalBase (s : State) : Nat := mapRow s 0x00013C000000 0x000268000000 0x0004C0000000
/-- Table 11.2: the base of the key region. -/
def keyBase (s : State) : Nat := mapRow s 0x0005FF400000 0x000BFE800000 0x0017FD000000
/-- Table 11.2: the end of HBM. -/
def hbmEnd (s : State) : Nat := mapRow s 0x000600000000 0x000C00000000 0x001800000000

/-- Table 11.3: a tenant's directory entry, 8 bytes. -/
def dirAddr (s : State) (tenant : Nat) : Nat := tablesBase s + 8 * tenant
/-- Table 11.3: the suspense counter of a currency field, 32 bytes. -/
def suspenseAddr (s : State) (cur : Half) : Nat := tablesBase s + 0x100000 + 32 * (cur.toNat / 1024 * 1000 + cur.toNat % 1024)
/-- Table 11.3: entry `i` of the lock spill area, 32 bytes. -/
def lockSpillAddr (s : State) (i : Nat) : Nat := tablesBase s + 0x1000000 + 32 * i
/-- Table 11.3, R419: the root of the engine tree. -/
def engineTree (s : State) : Nat := tablesBase s + 0x2000000
/-- Table 1.7: an index node, 256 bytes. DEDUCED (log 102): node n lies at entry n − 1 of the region, 0 naming none. -/
def nodeAddr (s : State) (n : Nat) : Nat := indexBase s + 256 * (n - 1)
/-- Table 2.8: entry `i` of the hold table, 64 bytes. -/
def holdAddr (s : State) (i : Nat) : Nat := holdBase s + 64 * i
/-- R93: entry `i` of the reversal table, 16 bytes. -/
def reversalAddr (s : State) (i : Nat) : Nat := reversalBase s + 16 * i

/-- The slice of a line (R403). -/
def sliceOf (s : State) (l : Nat) : Nat :=
  let a := l * 128
  let n := 8 * stacksUsed s
  (bits a 16 12 ^^^ bits a 21 17 ^^^ bits a 26 22 ^^^ bits a 31 27 ^^^ bits a 36 32 ^^^ bits a 41 37 ^^^ bits a 45 42) % (max n 1)

/-! What a fetch reads. -/

/-- The line of an account's record in HBM, by 128 bytes (Table 11.2). -/
def recLine (s : State) (id : Dbl) : Option Nat := indexWalk s.led id

/-- The two lines of an index node. -/
def nodeLines (s : State) (n : Nat) : List Nat := [nodeAddr s n / 128, nodeAddr s n / 128 + 1]

/-- The lines that a fetch of an account reads, in order: the directory entry, the nodes of the walk, the record (R65, R68, R77). -/
def fetchLines (s : State) (id : Dbl) : List Nat :=
  dirAddr s (idTenant id) / 128 :: ((indexPath s.led id).flatMap (nodeLines s) ++ (recLine s id).toList)

/-- The place of a key in a table: where a hold or reversal entry stands (log 95). -/
def keyPlace {α : Type} (k : Nat) : Tbl α → Nat → Option Nat
  | [], _ => none
  | e :: r, n => if e.1 = k then some n else keyPlace k r (n + 1)

/-- R406: the line of an active hold's entry is poisoned. -/
def holdPoisoned (s : State) (id : Dbl) (h : Word) : Bool :=
  match keyPlace (holdKey id h) s.led.holds 0 with | none => false | some i => s.mem.poison.contains (holdAddr s i / 128)

/-- R406: the line of an original's entry in the reversal table is poisoned. -/
def reversalPoisoned (s : State) (orig : Nat) : Bool :=
  match keyPlace orig s.led.reversal 0 with | none => false | some i => s.mem.poison.contains (reversalAddr s i / 128)

/-- R406: the line of a suspense counter is poisoned. -/
def suspensePoisoned (s : State) (cur : Half) : Bool := s.mem.poison.contains (suspenseAddr s cur / 128)

/-! The engine tree (R419). -/

/-- An engine's TLB, 64 entries, the newest first: the pages of 2 MiB that it holds. DEDUCED (log 103): leaves of the engine tree are of level 2. -/
def engTlb (s : State) (e : Nat) : List Nat := tgetD s.eng.tlb e []

/-- The page of a line in the engine tree. -/
def enginePage (l : Nat) : Nat := l / 16384

/-- R406, R419: what an engine's read of a line meets: 1 in its walk, whose root is poisoned, 0 in the line itself. -/
def lineFault (s : State) (e l : Nat) : Option Nat :=
  if !(engTlb s e).contains (enginePage l) && s.mem.poison.contains (engineTree s / 128) then some 1
  else if s.mem.poison.contains l then some 0 else none

/-- The TLB serves or takes a page. -/
def tlbTouch (t : List Nat) (p : Nat) : List Nat := (p :: t.filter (· != p)).take 64

/-- R419: engine `e` has translated the lines that a fetch reads, up to the first that fails. -/
def fetchTouch (s : State) (e : Nat) (ids : List Nat) : State :=
  let ls := (ids.flatMap fun k => fetchLines s (BitVec.ofNat 64 k)).takeWhile fun l => (lineFault s e l).isNone
  if ls.isEmpty then s else { s with eng := { s.eng with tlb := tset s.eng.tlb e [] ((ls.map enginePage).foldl tlbTouch (engTlb s e)) } }

/-- R418, R419: a TLBI.ALL removes every entry of an engine's TLB. -/
def clearEngTlb (s : State) (e : Nat) : State := { s with eng := { s.eng with tlb := tset s.eng.tlb e [] [] } }

/-- R77 step 3: the first fetch of engine `e` that is bad, in the order of the locks, and what it gives. -/
def fetchFault (s : State) (e : Nat) : List Nat → Option (Byte × Dbl × Nat)
  | [] => none
  | k :: r =>
    let id : Dbl := BitVec.ofNat 64 k
    match (fetchLines s id).findSome? (lineFault s e) with
    | some n => some (stMemoryFault, id, n)
    | none => match tget s.led.accounts k with
      | none => fetchFault s e r
      | some a => match inconsistency a k with
        | none => fetchFault s e r
        | some n => some (stInconsistent, id, n)

/-- A fault of the fetch is logged: kind 3 names the condition and the account (R40), kind 6 the line that a walk met (R419, Table 13.18a). -/
def logFetch (s : State) (f : Byte × Dbl × Nat) : State :=
  if f.1 = stInconsistent then logFault s 0x03 (BitVec.ofNat 8 f.2.2) 0 0 f.2.1.toNat 0
  else if f.2.2 = 1 then logFault s 0x06 0 (sliceOf s (engineTree s / 128)) 0 (engineTree s) 0
  else s

/-- R406: engines have written whole lines: they are no longer poisoned. -/
def unpoison (s : State) (ls : List Nat) : State := { s with mem := { s.mem with poison := s.mem.poison.filter fun l => !ls.contains l } }

end Sys2Proof.Machine
end

