-- ==== Sys2Proof/Machine/PostOps.lean ====
section
/-! DEFINITION. How a whisk context runs a command (R77 to R83): taking it, its locks, its checks, its records, its completion. -/
namespace Sys2Proof.Machine

/-- Hand a command's completion to whoever sent it (R79): its tray in order, its port slot, or nobody for a peer's. -/
def complete (s : State) (k : Nat) (c : Compl) : State :=
  match ticketOf s k with
  | none => s
  | some x =>
    match x.origin with
    | .tray f t =>
      if x.intact then
        let tr := trayOf s f t
        flushTray (setTray s f t { tr with flight := markDone tr.flight k c }) f t
      else
        let tr := trayOf s f t
        issueTicket (setTray s f t { tr with flight := tr.flight.filter fun x => x.ticket != some k }) k
    | .port _ _ _ => setTicket s k { x with result := some c }
    | .peer _ => issueTicket s k

/-- R80: the available balance a completion carries. -/
def availOf (s : State) (r : Option Dbl) : Int :=
  match r with
  | none => 0
  | some id => match acct s.led id with | none => 0 | some a => a.avail

/-- R128: take a ticket's reservation off the committed count. -/
def unreserve (s : State) (k : Nat) : State :=
  match ticketOf s k with
  | none => s
  | some x => setTicket { s with jn := { s.jn with committed := s.jn.committed - x.reserved } } k { x with reserved := 0 }

/-- R48, R449: a DAYROLL's fence ends: ladle-class commands enter their queues, and the PREPAREs that it held are taken as if they arrived now. -/
def endFence (s : State) (e c : Nat) : State :=
  if s.eng.dayFence = some (e, c) then
    enqueueHeld { s with eng := { s.eng with dayFence := none },
                         fab := { s.fab with parts := tmap s.fab.parts fun _ p => if p.state = .waiting then { p with waitFrom := s.tb } else p } }
  else s

/-- DONE: the context becomes FREE and keeps its epoch (R174). -/
def freeCtx (s : State) (e c : Nat) : State := endFence (setCtx s e c { epoch := (ctxOf s e c).epoch }) e c

/-- A completion from the fields a context keeps, for its ticket's command. -/
def complFor (s : State) (x : Ctx) (k : Nat) : Compl :=
  match ticketOf s k with
  | none => x.compl
  | some t => { x.compl with avail := availOf s x.acctRef, hostTag := cHostTag t.cmd, pushed := t.cmd.pushed }

/-- R77 step 7: release the locks, issue the completion, free the context. -/
def finishCtx (s : State) (e c : Nat) : State :=
  let x := ctxOf s e c
  let s1 := releaseOwner s (ctxOwner e c) x.epoch
  match x.ticket with
  | none => freeCtx s1 e c
  | some k =>
    let c' := complFor s x k
    freeCtx (complete (unreserve (trace s1 e c trDone c'.status.toNat c'.seq) k) k c') e c

/-- The completion of a command whose append was not made durable (R112); a POST2 carries the code in STATUS2 too (R87). -/
def jfault (x : Compl) (pair : Bool) : Compl :=
  { x with status := stJournalFault, info := if pair then 0x6400 else 0, seq := 0, respAddr := 0, resp := [] }

/-- The opcode of the command a context holds. -/
def ctxOp (s : State) (e c : Nat) : Option Nat :=
  match (ctxOf s e c).ticket with
  | none => none
  | some k => (ticketOf s k).map fun t => cOp t.cmd

/-- R112: a command whose append the controller will never make. -/
def failCtx (s : State) (e c : Nat) : State :=
  let x := ctxOf s e c
  finishCtx (setCtx s e c { x with compl := jfault x.compl (ctxOp s e c == some 0x06) }) e c

/-- Which unit a context waits on: the unit numbers of Table 4.1. -/
def unitLK : Nat := 4
def unitJA : Nat := 6
def unitFX : Nat := 9

/-- The context waits on a unit from now (R164). -/
def waitOn (s : State) (e c unit : Nat) : State :=
  let x := ctxOf s e c
  trace (setCtx s e c { x with state := .waiting, awaiting := insertUp unit x.awaiting, since := s.tb }) e c trWait (2 ^ unit) 0

/-- The port that shows a waited unit's status (Table 4.1). -/
def statusPort (unit : Nat) : Nat := if unit = 9 then 0x9E else 16 * unit + 15

/-- JA's answer to an append: the sequence number, and a status whose coding for success is not given (Table 4.1). -/
def jaAnswer (s : State) (e c seq : Nat) : State :=
  let f := takeFree 64 s
  let x := ctxOf f.2 e c
  setCtx f.2 e c { x with ports := tset (tset x.ports 0x6E 0 (BitVec.ofNat 64 seq)) 0x6F 0 f.1 }

/-- The context's awaited result of a unit has arrived (R164). -/
def wake (s : State) (e c unit : Nat) : State :=
  let x := ctxOf s e c
  let aw := x.awaiting.filter (· != unit)
  let s1 := setCtx s e c { x with awaiting := aw, state := if aw.isEmpty ∧ x.state = .waiting then .ready else x.state }
  if aw.isEmpty ∧ x.state = .waiting then trace s1 e c trWake unit (tgetD x.ports (statusPort unit) 0).toNat else s1

/-- RFLAGS of a command's record (Table 3.3). -/
def rflagsOf (x : Ticket) (extra : Nat) : Byte :=
  let internal := match x.origin with | .port _ _ _ => true | _ => false
  BitVec.ofNat 8 (extra + 2 * b2n internal + b2n (cPrio x.cmd))

/-- A record of a ticket's command (Table 3.2); its number and time come at the append. -/
def mkRec (x : Ticket) (kind st : Byte) (info : Half) (extra : Nat) (ref : Dbl) (body : Bytes) : Rec :=
  { kind := kind, status := st, rflags := rflagsOf x extra, info := info, tenant := BitVec.ofNat 16 x.cmd.tenant,
    tray := match x.cmd.trayNo with | some n => BitVec.ofNat 16 n | none => 0x8000,
    traySeq := match x.cmd.trayNo with | some _ => x.cmd.traySeq | none => 0, ref := ref, body := body }

/-- R174: NREC of a request. -/
def nrecOf (rs : List Rec) : Nat := rs.length

/-- R77 step 6: append a context's records; the context keeps what its completion will carry. A stopped controller fails the request at once (R112); one that cannot take it now leaves the context as it is, a priority request queued. -/
def appendFor (s : State) (e c k : Nat) (rs : List Rec) (compl : Compl) (acctRef : Option Dbl) (phase : Phase) (w : Waiter) (last : Bool) : State :=
  let x := ctxOf s e c
  if s.jn.stopped then failCtx (setCtx s e c { x with acctRef := acctRef }) e c
  else if !canAppend s rs then (if prioRecs rs then setCtx s e c { x with queued := true } else s)
  else
    let seq := s.jn.nextSeq
    let s1 := if last then unreserve s k else s
    let s2 := match ticketOf s1 k with | none => s1 | some t => setTicket s1 k { t with numbered := true, locked := true }
    let x2 := { x with phase := phase, queued := false, compl := { compl with seq := seq }, acctRef := acctRef, firstSeq := seq,
                       entry := { seq := seq, state := .appending, nrec := nrecOf rs, ticket := k } }
    waitOn (trace (appendRecs (setCtx s2 e c x2) rs w) e c trAppend ((rs.map recLen).foldl (· + ·) 0) seq) e c unitJA

/-- What the checks of a command decide: the code, INFO, the record or records, the account AVAIL shows, the response it owes. -/
structure Verdict where
  status : Byte := 0
  info : Half := 0
  recs : List Rec := []
  acct : Option Dbl := none
  respAddr : Dbl := 0
  resp : Bytes := []
deriving DecidableEq, Repr

/-- Take up a context's command: the recovery entry becomes TAKEN (R174). -/
def takeCmd (s : State) (e c k : Nat) : State :=
  let x := ctxOf s e c
  if x.phase = .idle ∧ x.entry.state = .free then setCtx s e c { x with entry := { state := .taken, ticket := k } } else s

/-- The command a READY context holds, when its opcode is `op`. -/
def cmdAt (s : State) (e c op : Nat) : Option (Nat × Ticket) :=
  let x := ctxOf s e c
  match x.state, x.ticket with
  | .ready, some k => match ticketOf s k with
    | some t => if cOp t.cmd = op then some (k, t) else none
    | none => none
  | _, _ => none

/-- The mark of the locks that a frame has lent to a posting (R323). -/
def lendMark (k : Nat) : Nat := 2 ^ 100 + k

/-- R80: the account whose balance a completion shows when a fetch has failed: none where the failing fetch, of `id`, was its own and brought no record. -/
def shownAfter (code : Byte) (id : Dbl) (shown : Option Dbl) : Option Dbl :=
  if code = stMemoryFault ∧ shown = some id then none else shown

/-- R77 steps 1 to 3 of a command whose locks are `keys`: with `go` once all are held and every record is good, with `bad` for a fetch that fails: its code, and what `shown` gives for AVAIL (R80). -/
def withLocks (s : State) (e c k : Nat) (keys : List Nat) (accounts : List Nat) (shown : Option Dbl) (go : State → State) (bad : State → Byte → Option Dbl → State) : State :=
  let x := ctxOf s e c
  match ticketOf s k with
  | none => s
  | some t =>
    if !beforeOk s k (·.locked) then s
    else
      let r := acquireAll s (ctxOwner e c) x.epoch (cPrio t.cmd) (if t.cmd.inner then some (lendMark k) else none) (sortUp keys)
      if !r.2 then waitOn (setCtx r.1 e c { ctxOf r.1 e c with phase := .locks }) e c unitLK
      else
        let s1 := setTicket r.1 k { t with locked := true }
        if !beforeOk s1 k (·.numbered) then s1
        else
          let s2 := fetchTouch s1 e (sortUp accounts)
          match fetchFault s1 e (sortUp accounts) with
          | some f => bad (logFetch s2 f) f.1 (shownAfter f.1 f.2.1 shown)
          | none => go s2

/-- Append what a verdict says. -/
def appendVerdict (s : State) (e c k : Nat) (v : Verdict) : State :=
  appendFor s e c k v.recs { status := v.status, info := v.info, respAddr := v.respAddr, resp := v.resp } v.acct .appended
    (.ctx e c (ctxOf s e c).epoch) true

/-- Run a command that appends one record or one pair: locality (R76), locks, fetch, its checks, the append. `judge` gives its verdict when all is well, `refuse` the one for a code that steps 1 or 3 raise. -/
def runCmd (s : State) (e c op : Nat) (keys : Cmd → List Nat) (judge : State → Ticket → Verdict) (refuse : Ticket → Byte → Verdict) : State :=
  match cmdAt s e c op with
  | none => s
  | some (k, t) =>
    let s0 := takeCmd s e c k
    if (namedAccounts t.cmd).any fun a => !isLocal s0 a.2 && (suspenseView a.2).isNone then
      withLocks s0 e c k [] [] none (fun st => appendVerdict st e c k (refuse t stNotLocal)) (fun st b _ => appendVerdict st e c k (refuse t b))
    else
      withLocks s0 e c k (keys t.cmd) (lockIds t.cmd) (((namedAccounts t.cmd).head?).map (·.2)) (fun st => appendVerdict st e c k (judge st t))
        (fun st b a => appendVerdict st e c k { refuse t b with acct := a })

/-- A verdict of one record whose kind is the opcode. -/
def oneRec (t : Ticket) (st : Byte) (leg : Option Nat) (extra : Nat) (ref : Dbl) (body : Bytes) (acct : Option Dbl) : Verdict :=
  let info := if legCode st then infoOf leg else 0
  { status := st, info := info, recs := [mkRec t (BitVec.ofNat 8 (cOp t.cmd)) st info extra ref body], acct := acct }

/-- The slots of a command as the bytes its record copies (R116). -/
def slotBytes (c : Cmd) (n : Nat) : Bytes := ((List.range n).map (cSlot c)).flatten

end Sys2Proof.Machine
end

