-- ==== Sys2Proof/Machine/Account.lean ====
section
/-! DEFINITION. The account commands (R94 to R97) and the reads (R99). -/
namespace Sys2Proof.Machine

/-- The books with the OPENs that are numbered and not yet applied: the slots and nodes they take are no longer free (R69). DESIGN CHOICE
(log 93): the spec does not say from when a command in flight takes them; here it does from its append. -/
def openBooks (s : State) : Ledger :=
  ((inFlight s.jn).filter fun r => r.kind == 0x08).foldl (fun l r => recordEffect l r {} (cfgRevDays s)) s.led

/-- R94: the checks of OPEN. -/
def openRule (s : State) (c : Cmd) : Option Byte :=
  let f := halfAt c.desc 16
  let id := dblAt (cSlot c 0) 0
  if (f.getLsbD 6 && c.tenant != 0) || (f.getLsbD 4 && f.getLsbD 5) then some stFlagRule
  else if (acct s.led id).isSome then some stExists
  else if !openFits (openBooks s) (stacksUsed s) id then some stCapacity
  else none

/-- OPEN (R94). -/
def execOpenAcct (e c : Nat) (s : State) : Res :=
  .next (runCmd s e c 0x08 lockIds
    (fun st t => oneRec t ((openRule st t.cmd).getD stOk) none 0 (cP0 t.cmd) (slotBytes t.cmd 3) (some (dblAt (cSlot t.cmd 0) 0)))
    fun t st => oneRec t st none 0 (cP0 t.cmd) (slotBytes t.cmd 3) none)

/-- A command on the account that PARAM names, with a record of one slot. -/
def runAccount (s : State) (e c op : Nat) (rule : State → Account → Option Byte) : State :=
  runCmd s e c op lockIds
    (fun st t =>
      let id := cP0 t.cmd
      let code := match acct st.led id with | none => stNoAccount | some a => (rule st a).getD stOk
      oneRec t code none 0 id [] (some id))
    fun t st => oneRec t st none 0 (cP0 t.cmd) [] none

/-- CLOSE (R95). -/
def execCloseAcct (e c : Nat) (s : State) : Res :=
  .next (runAccount s e c 0x09 fun _ a =>
    if fClosed a then some stClosed else if a.ledger ≠ 0 ∨ a.holds ≠ 0 then some stNotEmpty else none)

/-- FREEZE (R96). -/
def execFreeze (e c : Nat) (s : State) : Res :=
  .next (runAccount s e c 0x0A fun _ a => if fClosed a then some stClosed else none)

/-- THAW (R96). -/
def execThaw (e c : Nat) (s : State) : Res :=
  .next (runAccount s e c 0x0B fun _ a => if fClosed a then some stClosed else none)

/-- R97: the checks of SETLIMITS. -/
def limitsRule (c : Cmd) (a : Account) : Option Byte :=
  let mask := halfAt c.desc 24
  let f := setFlags a.flags mask (halfAt c.desc 26)
  if fClosed a then some stClosed
  else if (c.tenant ≠ 0 ∧ mask.getLsbD 6) ∨ (f.getLsbD 4 ∧ f.getLsbD 5) then some stFlagRule
  else none

/-- The record body of SETLIMITS (Table 3.4). -/
def limitsBody (c : Cmd) : Bytes := slice c.desc 24 8 ++ zeros 24 ++ slotBytes c 2

/-- SETLIMITS (R97). -/
def execSetlimits (e c : Nat) (s : State) : Res :=
  .next (runCmd s e c 0x0C lockIds
    (fun st t =>
      let id := cP0 t.cmd
      let code := match acct st.led id with | none => stNoAccount | some a => (limitsRule t.cmd a).getD stOk
      oneRec t code none 0 id (limitsBody t.cmd) (some id))
    fun t st => oneRec t st none 0 (cP0 t.cmd) (limitsBody t.cmd) none)

/-- The READBAL response (Table 2.9). -/
def balResponse (s : State) (id : Dbl) : Bytes :=
  match suspenseView id with
  | some cur =>
    let v := suspenseOf s.led cur
    let b := pack 20 v.value
    b.take 16 ++ (b.drop 16 ++ zeros 12) ++ zeros 16 ++ le 2 cur.toNat ++ zeros 6 ++ le 8 v.lastSeq
  | none => match acct s.led id with
    | none => zeros 64
    | some a => pack 16 a.ledger ++ pack 16 a.avail ++ pack 16 a.holds ++ le 2 a.currency.toNat ++ le 2 a.flags.toNat ++ le 4 a.version.toNat ++ le 8 a.lastSeq

/-- R99, R25: the code of a read of an account or, for READBAL by the operator, of a suspense view. -/
def readRule (s : State) (c : Cmd) (bal : Bool) : Byte :=
  let id := cP0 c
  if bal && c.tenant == 0 && (suspenseView id).isSome then (if (suspenseView id).any (suspensePoisoned s) then stMemoryFault else stOk)
  else if (acct s.led id).isSome then stOk else stNoAccount

/-- R81, R99: the response a read owes, laid out when its record is durable. -/
def readResponse (s : State) (c : Cmd) : Bytes :=
  if cOp c = 0x10 then (if cP1 c = 0 then [] else balResponse s (cP0 c))
  else match acct s.led (cP0 c) with | none => [] | some a => accountBytes a

/-- A read: its record is of one slot, its lock set empty for a suspense view. -/
def runRead (s : State) (e c op : Nat) (bal : Bool) : State :=
  runCmd s e c op (fun d => if bal && (suspenseView (cP0 d)).isSome then [] else lockIds d)
    (fun st t => { oneRec t (readRule st t.cmd bal) none 0 (cP0 t.cmd) [] (some (cP0 t.cmd)) with respAddr := cP1 t.cmd })
    fun t st => oneRec t st none 0 (cP0 t.cmd) [] none

/-- READBAL (R99). -/
def execReadbal (e c : Nat) (s : State) : Res := .next (runRead s e c 0x10 true)

/-- READREC (R99). -/
def execReadrec (e c : Nat) (s : State) : Res := .next (runRead s e c 0x11 false)

/-! JQUERY (R135 to R137). -/

/-- A JQUERY response (Table 3.14). -/
structure QueryResp where
  answer : Byte := 0
  status : Byte := 0
  info : Half := 0
  kind : Byte := 0
  rflags : Byte := 0
  tray : Half := 0
  seq : Nat := 0
  traySeq : Word := 0
  next : Nat := 0
  w32 : Nat := 0
  w40 : Nat := 0
  w48 : Nat := 0
  w56 : Nat := 0
deriving DecidableEq, Repr

/-- The response's 64 bytes. -/
def queryBytes (r : QueryResp) : Bytes :=
  [r.answer, r.status] ++ le 2 r.info.toNat ++ [r.kind, r.rflags] ++ le 2 r.tray.toNat ++ le 8 r.seq ++ le 4 r.traySeq.toNat ++ zeros 4 ++
  le 8 r.next ++ le 8 r.w32 ++ le 8 r.w40 ++ le 8 r.w48 ++ le 8 r.w56

/-- A coordinator's prepare record (R136). -/
def xdevPrepare (r : Rec) : Bool := rXdev r && (r.kind == 0x01 || r.kind == 0x03 || r.kind == 0x05)

/-- R136: ANSWER, STATUS and INFO for a command record. -/
def outcomeOf (j : Journal) (r : Rec) : Byte × Byte × Half :=
  if xdevPrepare r then
    match decisionRec j r.seq with
    | some d => (0, byteAt d.body 2, d.info)
    | none => (6, 0, 0)
  else (0, r.status, r.info)

/-- The tray a record names, zero when it names none. -/
def trayField (r : Rec) : Half := if r.tray.getLsbD 15 then 0 else r.tray

/-- The SEQ query (R136, R137), for a query numbered `own`. -/
def seqQuery (s : State) (tenant q own : Nat) : QueryResp :=
  if q = 0 ∨ own ≤ q then { answer := 1, next := own + 1 }
  else match recOfSeq s.jn q with
    | none => { answer := 2, next := own + 1 }
    | some (b, r) =>
      if tenant ≠ 0 ∧ (r.tenant.toNat ≠ tenant ∨ 0xE0 ≤ r.kind.toNat) then { answer := 0x0F, next := own + 1 }
      else
        let o := if r.kind = 0xE2 then (3, r.status, r.info) else if 0xE0 ≤ r.kind.toNat then (4, r.status, r.info) else outcomeOf s.jn r
        { answer := o.1, status := o.2.1, info := o.2.2, kind := r.kind, rflags := r.rflags, tray := trayField r, seq := q, traySeq := r.traySeq,
          next := own + 1, w32 := b.no }

/-- R136: whether a record counts as a command of its tray. -/
def trayCommand (n : Nat) (r : Rec) : Bool :=
  r.tray == BitVec.ofNat 16 n && !rInternal r && decide (r.kind.toNat < 0x30 ∨ (0x40 ≤ r.kind.toNat ∧ r.kind.toNat < 0xE0))

/-- R136: what the tray's last journaled command is known by. -/
def lastCmdOf (j : Journal) (r : Rec) : LastCmd :=
  let o := outcomeOf j r
  { seq := r.seq, kind := r.kind, rflags := r.rflags, status := o.2.1, info := o.2.2, traySeq := r.traySeq, undecided := o.1 == 6 }

/-- R136: the tray's last journaled command: the last one numbered and not yet durable, else the last durable one. -/
def lastJournaled (s : State) (n : Nat) (t : Tray) : Option LastCmd :=
  match ((windowRecs s.jn).filter fun r => decide (s.jn.durable < r.seq) && trayCommand n r).getLast? with
  | some r => some (lastCmdOf s.jn r)
  | none => t.lastCmd

/-- The TRAY query (R136, R137). -/
def trayQuery (s : State) (tenant n own : Nat) : QueryResp :=
  match trayHome s n with
  | none => if tenant ≠ 0 then { answer := 0x0F, next := own + 1 } else { answer := 5, tray := BitVec.ofNat 16 n, next := own + 1 }
  | some (f, t) =>
    if tenant ≠ 0 ∧ (fnOf s f).tenant ≠ tenant then { answer := 0x0F, next := own + 1 }
    else
      let x := trayOf s f t
      let base : QueryResp := { tray := BitVec.ofNat 16 n, next := own + 1, w32 := x.lastIssued.toNat, w40 := trayHeld s f t, w48 := (x.expect - 1).toNat }
      match lastJournaled s n x with
      | none => { base with answer := 5 }
      | some l => { base with answer := if l.undecided then 6 else 0, status := l.status, info := l.info, kind := l.kind, rflags := l.rflags,
                              seq := l.seq, traySeq := l.traySeq }

/-- The JOURNAL query (R136). -/
def journalQuery (s : State) (own : Nat) : QueryResp :=
  { seq := s.jn.sealedSeq, next := own + 1, w32 := s.jn.wm + 1, w40 := s.jn.lastClosed, w48 := s.jn.drained, w56 := s.jn.wm }

/-- A JQUERY of a QTYPE: its response describes the journal as its record is appended (R137). -/
def runQuery (s : State) (e c : Nat) (qtype : Byte) (answer : State → Cmd → QueryResp) : State :=
  match cmdAt s e c 0x12 with
  | none => s
  | some (_, t0) =>
    if byteAt t0.cmd.desc 32 ≠ qtype then s
    else runCmd s e c 0x12 (fun _ => [])
      (fun st t => { oneRec t stOk none 0 0 (cSlot t.cmd 0) none with respAddr := cP0 t.cmd, resp := queryBytes (answer st t.cmd) })
      fun t st => oneRec t st none 0 0 (cSlot t.cmd 0) none

/-- JQUERY with QTYPE SEQ (R136). -/
def execJquerySeq (e c : Nat) (s : State) : Res :=
  .next (runQuery s e c 1 fun st d => seqQuery st d.tenant (field d.desc 40 8) st.jn.nextSeq)

/-- JQUERY with QTYPE TRAY (R136). -/
def execJqueryTray (e c : Nat) (s : State) : Res :=
  .next (runQuery s e c 2 fun st d => trayQuery st d.tenant (field d.desc 40 8 % 32768) st.jn.nextSeq)

/-- JQUERY with QTYPE JOURNAL (R136). -/
def execJqueryJournal (e c : Nat) (s : State) : Res :=
  .next (runQuery s e c 3 fun st _ => journalQuery st st.jn.nextSeq)

end Sys2Proof.Machine
end

