-- ==== Sys2Proof/Machine/XdevOps.lean ====
section
/-! DEFINITION. Cross-device postings (R445 to R453, R533, R534): the coordinator's states, the participant's, and what their records do. -/
namespace Sys2Proof.Machine

/-- The name of a posting: coordinator endpoint, its BOOT, its XSEQ (R117). -/
def postKey (ep : Nat) (boot : Half) (xseq : Nat) : Nat := (ep * 65536 + boot.toNat) * 2 ^ 64 + xseq

def setCoord (s : State) (x : Nat) (v : Coord) : State := { s with fab := { s.fab with coords := tput s.fab.coords x v } }
def dropCoord (s : State) (x : Nat) : State := { s with fab := { s.fab with coords := tdel s.fab.coords x } }
def setPart (s : State) (p : Nat) (v : PartEnt) : State := { s with fab := { s.fab with parts := tput s.fab.parts p v } }
def dropPart (s : State) (p : Nat) : State := { s with fab := { s.fab with parts := tdel s.fab.parts p } }

/-- A participant's entry takes room in the posting table. -/
def partOpen (p : PartEnt) : Bool := match p.state with | .waiting => false | .closed => false | _ => true

/-- R445: a free entry of the posting table. -/
def tableFree (s : State) : Bool :=
  decide (s.fab.coords.length + (s.fab.parts.filter fun e => partOpen e.2).length < 131072)

/-- The participants of a posting, with the legs that each holds (R85). -/
def groupParts (s : State) : List (Nat × Leg) → List XPart
  | [] => []
  | (n, g) :: r =>
    let rest := groupParts s r
    match homeOf s g.account with
    | none => rest
    | some ep =>
      if sameEndpoint s ep (ownEndpoint s) then rest
      else match rest.find? fun p => p.ep == ep with
        | none => { ep := ep, legnos := [n] } :: rest
        | some _ => rest.map fun p => if p.ep = ep then { p with legnos := n :: p.legnos } else p

/-- LOCAL of Table 3.5: bit i for each leg that is local. -/
def localMaskOf (s : State) (legs : List (Nat × Leg)) : Half :=
  BitVec.ofNat 16 ((legs.filter fun e => isLocal s e.2.account).foldl (fun a e => a + 2 ^ e.1) 0)

/-- A nibble string, lowest first, as a number (Table 12.9 LEGNO). -/
def nibbleNum : List Nat → Nat
  | [] => 0
  | n :: r => n % 16 + 16 * nibbleNum r

/-- The prepare slot (Table 12.9). -/
def prepareSlot (op : Byte) (nlegs : Nat) (tenant : Half) (legnos : List Nat) (ref : Dbl) : Bytes :=
  [op, BitVec.ofNat 8 legnos.length, BitVec.ofNat 8 nlegs, 0] ++ le 2 tenant.toNat ++ zeros 2 ++ le 8 (nibbleNum legnos) ++ le 8 ref.toNat ++ zeros 8

/-- The PREPARE a coordinator sends a participant (Table 12.8). -/
def prepareMsg (s : State) (xseq : Nat) (v : Coord) (p : XPart) : Msg :=
  let m := mkMsg s tyPrepare p.ep xseq v.boot.toNat
    (prepareSlot v.op v.legs.length v.tenant p.legnos v.ref ++ (p.legnos.map fun n => v.legs.getD n []).flatten)
  { m with mflags := BitVec.ofNat 8 (16 * b2n (v.rflags.getLsbD 0)) }

/-- R446: send PREPARE to each participant; no path aborts (Table 2.6). -/
def sendPrepares (s : State) (xseq : Nat) : List XPart → State
  | [] => s
  | p :: r =>
    match tget s.fab.coords xseq with
    | none => s
    | some v =>
      let q := sendSeq s (prepareMsg s xseq v p) (.coord xseq)
      let v' := { v with lastPrepare := s.tb, cause := if q.2 ∨ v.cause ≠ 0 then v.cause else stPartnerLost,
                         parts := v.parts.map fun y => if y.ep = p.ep then { y with sent := q.2 } else y }
      sendPrepares (setCoord q.1 xseq v') xseq r

/-- R447: the completion code and INFO of an aborted posting. A code that names no ledger refusal of a leg counts as REMOTE_REFUSED (R109). -/
def abortStatus (v : Coord) : Byte × Half :=
  let legs := v.parts.filterMap fun p => match p.refused with | some (code, true, n) => if legCode code then some (n, code) else none | _ => none
  if v.prepFailed then (stJournalFault, 0)
  else match lowest (legs.map (·.1)) with
    | some n => (((legs.find? fun e => e.1 == n).map (·.2)).getD 0, infoOf (some n))
    | none => if v.parts.any fun p => p.refused.isSome then (stRemoteRefused, 0) else (v.cause, 0)

/-- The decision record of a coordinator's posting (R118, Table 3.4). -/
def decisionOf (s : State) (xseq : Nat) (v : Coord) (commit : Bool) (st : Byte) (info : Half) : Rec :=
  { kind := if commit then 0x31 else 0x32, rflags := (v.rflags &&& 0xEF) ||| 8, info := info, tenant := v.tenant, tray := v.tray, traySeq := v.traySeq,
    ref := v.ref, body := xslot (ownEndpoint s) st v.op v.boot v.localMask xseq v.cref }

/-- The event that ends PREPARING has come (Table 12.12): the decision it asks for. -/
def coordWants (v : Coord) : Option Bool :=
  if v.state = .preparing then
    if v.prepFailed || v.cause != 0 || v.parts.any fun p => p.refused.isSome then some false
    else if v.prepDurable && v.parts.all (·.prepared) then some true
    else none
  else none

/-- The command's reservation ends at its last append, the decision record (R128). -/
def unreserveOpt (s : State) : Option Nat → State
  | none => s
  | some k => unreserve s k

/-- Table 12.12: append the commit or abort record that a coordinator's entry is due, if the controller takes it; a voided one is due again (R534). -/
def coordAdvance (s : State) (xseq : Nat) : State :=
  match tget s.fab.coords xseq with
  | none => s
  | some v =>
    match coordWants v with
    | none =>
      if v.due then
        let r := decisionOf s xseq v v.commit v.status v.info
        if canAppend s [r] then appendRecs (setCoord s xseq { v with due := false }) [r] (.decision xseq) else s
      else s
    | some commit =>
      let st := if commit then (stOk, 0) else abortStatus v
      let r := decisionOf s xseq v commit st.1 st.2
      if canAppend s [r] then
        appendRecs (setCoord (unreserveOpt s v.ticket) xseq
          { v with state := if commit then .committing else .aborting, commit := commit, status := st.1, info := st.2 }) [r] (.decision xseq)
      else s

/-- An event that aborts a posting that is still PREPARING (R446). -/
def coordAbort (s : State) (xseq : Nat) (cause : Byte) : State :=
  match tget s.fab.coords xseq with
  | none => s
  | some v =>
    if v.state = .preparing then coordAdvance (setCoord s xseq { v with cause := if v.cause = 0 then cause else v.cause }) xseq
    else s

/-- What a coordinator's decision record needs of its prepare (R60). -/
def coordPrep (v : Coord) : XPrep :=
  if v.prepFailed then { reverse := v.op == 0x05 }
  else { legs := (numberLegs 0 (v.legs.map legOf)).filter fun e => v.localMask.getLsbD e.1, capture := v.op == 0x03, final := v.final, hold := v.hold, days := v.days, reverse := v.op == 0x05 }

/-- Close a DECIDED entry once DONE is in from every participant (Table 12.12). -/
def closeIfDone (s : State) (xseq : Nat) : State :=
  match tget s.fab.coords xseq with
  | none => s
  | some v => if v.state = .decided ∧ v.parts.all (·.done) then dropCoord s xseq else s

/-- Send the decision to a participant (Table 12.12). -/
def sendDecision (s : State) (xseq ep : Nat) : State :=
  match tget s.fab.coords xseq with
  | none => s
  | some v =>
    let s1 := setCoord s xseq { v with parts := v.parts.map fun p => if p.ep = ep then { p with lastSend := s.tb } else p }
    (sendSeq s1 (mkMsg s (if v.commit then tyCommit else tyAbort) ep xseq v.boot.toNat []) .nobody).1

/-- Table 12.12, COMMITTING and ABORTING: the decision record is durable and applied. -/
def coordDecided (s : State) (xseq : Nat) : State :=
  match tget s.fab.coords xseq with
  | none => s
  | some v =>
    let v1 : Coord := { v with state := .decided, parts := v.parts.map fun (p : XPart) => if v.commit ∨ p.sent then p else { p with done := true } }
    let eps := (v1.parts.filter fun (p : XPart) => !p.done).map (fun (p : XPart) => p.ep)
    let s1 := eps.foldl (fun st ep => sendDecision st xseq ep) (setCoord s xseq v1)
    let compl : Compl := { status := v.status, info := v.info, seq := if v.prepFailed then 0 else xseq }
    let s2 := match v.ctx with
      | some (e, c) =>
        let x := ctxOf s1 e c
        finishCtx (setCtx s1 e c { x with compl := { compl with respAddr := 0 }, acctRef := ((v.legs.head?).map fun b => dblAt b 0) }) e c
      | none =>
        let s' := releasePosting s1 (postKey (ownEndpoint s) v.boot xseq)
        match v.ticket with
        | none => s'
        | some k => match ticketOf s' k with
          | none => s'
          | some t => complete s' k { compl with avail := availOf s' ((v.legs.head?).map fun b => dblAt b 0), hostTag := cHostTag t.cmd, pushed := t.cmd.pushed }
    closeIfDone (match tget s2.fab.coords xseq with
      | none => s2
      | some v2 => setCoord s2 xseq { v2 with ctx := none, ticket := none }) xseq

/-- R533: the fabric resolver takes a prepared posting from a reset coordinator context: its locks, its ticket, its entry. -/
def handOver (s : State) (e c xseq : Nat) : State :=
  match tget s.fab.coords xseq with
  | none => s
  | some v =>
    let x := ctxOf s e c
    let s1 := retagDead s (ctxOwner e c) x.epoch (postKey (ownEndpoint s) v.boot xseq)
    let s2 := setCtx s1 e c { x with ticket := none, entry := {}, phase := .idle }
    coordAdvance (setCoord s2 xseq { v with ctx := none, prepDurable := true }) xseq

/-- R533, R447: a reset coordinator context whose prepare record failed: its locks go, its command completes JOURNAL_FAULT, the posting is aborted. -/
def prepLost (s : State) (e c xseq : Nat) : State :=
  match tget s.fab.coords xseq with
  | none => s
  | some v =>
    let x := ctxOf s e c
    let s1 := releaseDead s (ctxOwner e c) x.epoch
    let s2 := match x.ticket with
      | none => s1
      | some k => complete (unreserve s1 k) k (complFor s { x with compl := jfault x.compl false } k)
    coordAdvance (setCoord (setCtx s2 e c { x with ticket := none, entry := {}, phase := .idle }) xseq { v with ctx := none, ticket := none, prepFailed := true }) xseq

/-! Participants. -/

/-- Leave a tombstone of an XSEQ for 1 ms (R448, R449). -/
def tombstone (s : State) (p : Nat) : State := { s with fab := { s.fab with tombs := tput s.fab.tombs p (s.tb + 1000000) } }

/-- ARG of REFUSED (Table 12.8). -/
def refusedArg (code : Byte) (leg : Option Nat) : Nat :=
  code.toNat + match leg with | some n => if legCode code then 256 * (n % 16) + 4096 else 0 | none => 0

/-- Send REFUSED for a posting. -/
def sendRefused (s : State) (v : PartEnt) (code : Byte) (leg : Option Nat) : State :=
  (sendSeq s (mkMsg s tyRefused v.src v.xseq (refusedArg code leg) []) .nobody).1

/-- A ticket of the fabric unit returns (R448). -/
def returnTicket (s : State) (k : Option Nat) : State :=
  match k with
  | none => s
  | some n => retestAll (dropTicket (unreserve s n) n)

/-- R448: end a participant's posting with REFUSED and a tombstone. -/
def partRefused (s : State) (p : Nat) (v : PartEnt) (code : Byte) (leg : Option Nat) : State :=
  sendRefused (tombstone (returnTicket (dropPart s p) v.ticket) p) v code leg

/-- The COMMIT or ABORT record of a participant (Table 3.4). -/
def partDecisionRec (v : PartEnt) (commit : Bool) : Rec :=
  { kind := if commit then 0x31 else 0x32, rflags := BitVec.ofNat 8 (4 + b2n v.prio), tenant := halfAt v.slot 4, tray := 0x8000,
    body := xslot v.src 0 (byteAt v.slot 0) v.boot 0 v.xseq 0 }

/-- Put a numbered leg into a list in ascending order of numbers. -/
def legInto (e : Nat × Leg) : List (Nat × Leg) → List (Nat × Leg)
  | [] => [e]
  | d :: r => if e.1 < d.1 then e :: d :: r else d :: legInto e r

/-- The legs a participant carries, with their posting-wide numbers (Table 12.9), in ascending order of these (R61). -/
def partLegs (v : PartEnt) : List (Nat × Leg) :=
  ((numberLegs 0 (v.legs.map legOf)).map fun e => ((field v.slot 8 8) / 16 ^ e.1 % 16, e.2)).foldl (fun l e => legInto e l) []

/-- What a participant's decision record needs of its prepare (R60). -/
def partPrep (v : PartEnt) : XPrep := { legs := partLegs v, days := v.days }

/-- R448: a decision has reached a prepared posting: append its COMMIT or ABORT record. A controller that has stopped leaves it prepared (R534). -/
def partDecide (s : State) (p : Nat) (commit : Bool) : State :=
  match tget s.fab.parts p with
  | none => s
  | some v =>
    if v.state ≠ .prepared then s
    else
      let r := partDecisionRec v commit
      if canAppend s [r] then
        appendRecs (setPart (unreserveOpt s v.ticket) p { v with state := .deciding, commit := commit }) [r] (.part p)
      else s

/-- R534: append again the decision that a VOID replaced. -/
def partAdvance (s : State) (p : Nat) : State :=
  match tget s.fab.parts p with
  | none => s
  | some v =>
    let r := partDecisionRec v v.commit
    if v.due && canAppend s [r] then appendRecs (setPart s p { v with due := false }) [r] (.part p) else s

/-- Try again the decisions of one class that the controller could not take. -/
def advanceClass (s : State) (prio : Bool) : State :=
  let s1 := (s.fab.coords.filter fun e => e.2.rflags.getLsbD 0 == prio).foldl (fun st e => coordAdvance st e.1) s
  (s1.fab.parts.filter fun e => e.2.prio == prio).foldl (fun st e => partAdvance st e.1) s1

/-- Try again every decision that the controller could not take, those of the priority class first (R110, R534). -/
def advanceAll (s : State) : State := advanceClass (advanceClass s true) false

/-- R448: the COMMIT or ABORT record is durable and applied: release the locks, return the ticket, send DONE. -/
def partDecided (s : State) (p seq : Nat) : State :=
  match tget s.fab.parts p with
  | none => s
  | some v =>
    let s1 := releasePosting s p
    let s2 := setPart (returnTicket s1 v.ticket) p { v with state := .closed, ticket := none, ctx := none, doneSeq := seq }
    (sendSeq s2 (mkMsg s tyDone v.src v.xseq seq []) .nobody).1

/-- R448: the PREPARE record with STATUS 0x00 is durable and applied: PREPARED goes out and the resolver holds the locks. -/
def partPrepared (s : State) (p : Nat) : State :=
  match tget s.fab.parts p with
  | none => s
  | some v =>
    let s1 := match v.ctx with
      | some (e, c) => freeCtx (retag s (ctxOwner e c) (ctxOf s e c).epoch p) e c
      | none => s
    (sendSeq (setPart s1 p { v with state := .prepared, ctx := none, preparedAt := s.tb, lastQuery := s.tb })
      (mkMsg s tyPrepared v.src v.xseq v.prepSeq []) .nobody).1

/-- R448: a participant's context ends without preparing: locks released, context free. -/
def partCtxEnd (s : State) (v : PartEnt) : State :=
  match v.ctx with
  | some (e, c) => freeCtx (releaseOwner s (ctxOwner e c) (ctxOf s e c).epoch) e c
  | none => s

/-- R445, R446: begin a cross-device posting: append its prepare record, open its entry and send the PREPAREs. -/
def coordStart (s : State) (e c k : Nat) (t : Ticket) (legs : List (Nat × Leg)) (raw : List Bytes) (ref cref : Dbl) (hold : Option Hold) : State :=
  let op : Byte := BitVec.ofNat 8 (cOp t.cmd)
  let final := cOp t.cmd = 0x03 ∧ byteAt t.cmd.desc 24 = 1
  let boot := bootField s
  let mask := localMaskOf s legs
  let xseq := s.jn.nextSeq
  let r := mkRec t op 0 0 (8 + 16 * b2n (decide final)) ref (xslot (ownEndpoint s) 0 op boot mask xseq cref ++ slotBytes t.cmd (cNlegs t.cmd))
  if !tableFree s then s
  else if s.jn.stopped ∨ ¬ canAppend s [r] then appendFor s e c k [r] {} none .xdev (.ctx e c (ctxOf s e c).epoch) false
  else
    let s1 := appendFor s e c k [r] {} ((legs.head?).map (·.2.account)) .xdev (.ctx e c (ctxOf s e c).epoch) false
    let v : Coord := { ctx := some (e, c), ticket := some k, tenant := r.tenant, tray := r.tray, traySeq := r.traySeq, rflags := r.rflags, op := op,
                       ref := ref, cref := cref, legs := raw, localMask := mask, final := decide final, hold := hold, parts := groupParts s legs, boot := boot, lastPrepare := s.tb }
    coordAdvance (sendPrepares (setCoord s1 xseq v) xseq v.parts) xseq

end Sys2Proof.Machine
end

