-- ==== Sys2Proof/Machine/KeyOps.lean ====
section
/-! DEFINITION. The key unit (R252 to R261): commit words, unwrapping, the flip, what ends a KEYUPDATE without one. -/
namespace Sys2Proof.Machine

/-! The commit word (Table 6.15). -/
def cwActive (k : TenantKey) : Bool := k.commit.getLsbD 0
def cwOther (k : TenantKey) : Bool := k.commit.getLsbD 1
def cwPending (k : TenantKey) : Bool := k.commit.getLsbD 2
def cwPresent (k : TenantKey) : Bool := k.commit.getLsbD 3
def cwGen (k : TenantKey) : Nat := bits k.commit.toNat 63 32

/-- A commit word from its fields. -/
def commitWord (gen : Nat) (present pend other active : Bool) : Dbl :=
  BitVec.ofNat 64 (gen * 2 ^ 32 + 8 * b2n present + 4 * b2n pend + 2 * b2n other + b2n active)

/-- R259: the inactive slot is B when A is current, and A when no key is present. -/
def inactiveB (k : TenantKey) : Bool := cwPresent k && !cwActive k

/-- The slot with a letter. -/
def slotOfKey (k : TenantKey) (b : Bool) : KeySlot := if b then k.b else k.a
def setSlot (k : TenantKey) (b : Bool) (v : KeySlot) : TenantKey := if b then { k with b := v } else { k with a := v }

/-- R252: the additional data of a slot. -/
def slotAad (tenant : Nat) (b : Bool) (gen : Nat) : Bytes := le 2 tenant ++ [if b then 0x42 else 0x41] ++ le 4 gen

/-- R252: unwrap a slot under the device key. -/
def openSlot (tenant : Nat) (b : Bool) (v : KeySlot) : Option (BitVec 256) :=
  Config.gcmOpen Config.deviceKey v.iv (slotAad tenant b v.gen.toNat) v.key v.tag

/-- R252: a key wrapped for a slot. -/
def wrapSlot (tenant : Nat) (b : Bool) (gen : Word) (iv : BitVec 96) (key : BitVec 256) : KeySlot :=
  let w := Config.gcmSeal Config.deviceKey iv (slotAad tenant b gen.toNat) key
  { gen := gen, iv := iv, key := w.1, tag := w.2 }

/-- KEYUPDATE: TARGET. -/
def kTarget (c : Cmd) : Nat := field c.desc 16 2 % 8192
/-- KEYUPDATE: NEW_GEN. -/
def kGen (c : Cmd) : Word := wordAt c.desc 20

/-- R258: the key that a KEYUPDATE carries, unwrapped. -/
def newKey (c : Cmd) : Option (BitVec 256) :=
  match c.verifyKey with
  | none => none
  | some k =>
    Config.gcmOpen k (BitVec.ofNat 96 (field c.desc 32 12)) (slice c.desc 16 2 ++ le 4 (kGen c).toNat ++ le 2 c.tenant)
      (BitVec.ofNat 256 (field c.desc 48 32)) (BitVec.ofNat 128 (field c.desc 80 16))

/-- R259 step 1: the other slot leaves the table; PENDING is set. -/
def retireOther (k : TenantKey) (pend : Bool) : TenantKey :=
  { k with other := none, commit := commitWord (cwGen k) (cwPresent k) pend false (cwActive k) }

/-- R261: the KEY_RETIREs that waited act in turn: after a flip the first retires the other slot and a later one finds none; without a flip each fails. -/
def retireAfter (s : State) (t : Nat) (flipped : Bool) : State :=
  let k := keyOf s t
  if k.retireWaiting = 0 then s
  else
    let acts := flipped && cwOther k
    let s1 := setKey s t { (if acts then retireOther k false else k) with retireWaiting := 0 }
    if acts ∧ k.retireWaiting = 1 then s1 else { s1 with guard := { s1.guard with retireErr := true } }

/-- R259 step 3, R260: a KEYUPDATE ends without a flip. -/
def keyAbandon (s : State) (t : Nat) : State :=
  let k := keyOf s t
  if k.unflipped ∨ ¬ cwPending k then s
  else retireAfter (setKey s t { k with commit := commitWord (cwGen k) (cwPresent k) false (cwOther k) (cwActive k) }) t false

/-- R259 step 5: the flip, the key table's part. -/
def flipTable (k : TenantKey) (gen : Word) (key : BitVec 256) : TenantKey :=
  { k with cur := some { gen := gen, key := key }, other := if cwPresent k then k.cur else none }

/-- R259 step 5: the flip, the commit word's part. -/
def flipCommit (k : TenantKey) (gen : Word) : TenantKey :=
  { k with commit := commitWord gen.toNat true false (cwPresent k) (inactiveB k) }

/-- R259 step 5: the apply of an accepted KEYUPDATE. Whether the store completes the flip write is left to the outside; a failed one leaves the tenant unflipped. -/
def keyFlip (s : State) (c : Cmd) : State :=
  let t := kTarget c
  let k := keyOf s t
  match newKey c with
  | none => s
  | some key =>
    let ok := Config.choice s.fresh
    let s1 := { s with fresh := s.fresh + 1 }
    if ok then retireAfter (setKey s1 t (flipCommit (flipTable k (kGen c) key) (kGen c))) t true
    else retireAfter (logFault (setKey s1 t { flipTable k (kGen c) key with unflipped := true }) 0x07 0 t 0 0 0) t false

end Sys2Proof.Machine
end

