-- ==== Sys2Proof/Machine/GuardCmds.lean ====
section
/-! DEFINITION. Writes of the MPU region registers and of KEY_RETIRE (R237, R238, R261). -/
namespace Sys2Proof.Machine

/-- The register of a region: 0 BASE, 1 LIMIT, 2 MATCH, 3 ATTR (Tables 6.3 to 6.6). -/
def mpuReg (s : State) (n r : Nat) : Dbl := tgetD s.guard.regions (4 * n + r) 0

/-- The writable bits of a region register (Tables 6.3 to 6.6). -/
def mpuMask (r : Nat) : Dbl :=
  if r = 3 then 0xFFFF800000000007#64 else if r = 2 then 0xFFFFFFFFFFFF0000#64 else 0x00003FFFFFFFF000#64

/-- What a write leaves in a region register: reserved bits stay zero, and a write of MODE 3 leaves MODE as it was (R237). -/
def mpuNew (r : Nat) (old v : Dbl) : Dbl :=
  let w := v &&& mpuMask r
  if r = 2 ∧ bits v.toNat 31 30 = 3 then (w &&& ~~~0xC0000000#64) ||| (old &&& 0xC0000000#64) else w

/-- R238: a write of a region register; a locked region keeps its value. -/
def writeMpu (s : State) (n r : Nat) (v : Dbl) : State :=
  if 64 ≤ n ∨ 4 ≤ r ∨ (mpuReg s n 3).getLsbD 63 then s
  else { s with guard := { s.guard with regions := tset s.guard.regions (4 * n + r) 0 (mpuNew r (mpuReg s n r) v) } }

/-- A region register is written (R238, R240). -/
def execMpuRegionWrite (n reg : Nat) (v : Dbl) (s : State) : Res := .next (writeMpu s n reg v)

/-- R261: a write of KEY_RETIRE. -/
def writeKeyRetire (s : State) (v : Dbl) : State :=
  let t := bits v.toNat 12 0
  let k := keyOf s t
  let err := { s with guard := { s.guard with retireErr := true } }
  if absentKey s t ∨ k.unflipped then err
  else if cwPending k then setKey s t { k with retireWaiting := k.retireWaiting + 1 }
  else if !cwOther k then err
  else setKey s t (retireOther k false)

def execKeyRetire (v : Dbl) (s : State) : Res := .next (writeKeyRetire s v)

end Sys2Proof.Machine
end

