-- ==== Sys2Proof/Machine/MemOps.lean ====
section
/-! DEFINITION. The memory system every master shares: the physical map, the checks of R235, the MPU log, storage keys, the bytes, the
directories and the L1s (06, 11). -/
namespace Sys2Proof.Machine

/-! The physical map (R397 to R402). -/

def paJournal : Nat := 0x002000000000
def paPantry : Nat := 0x003000000000
def paControl : Nat := 0x003800000000
def paHost : Nat := 0x200000000000

/-- R361: frames of each core, as the configuration block selects (Table 13.8). -/
def nFrames (s : State) : Nat := match (bits (byteAt s.store.cfg 27).toNat 1 0) with | 0 => 8 | 1 => 16 | 2 => 32 | _ => 64

/-- Table 10.1: the size of pantry bank F. -/
def bankF (s : State) : Nat := 0x8000 - 512 * nFrames s

/-- A core that the part has and that is in service. -/
def coreIn (s : State) (c : Nat) : Bool := decide (c < nCores s.part) && !(s.store.coresOut.contains c)

/-- Where a physical address lies; `noPantry` is an unmapped offset of the pantry aliases (R401). -/
inductive Area where | ledger | general | keys | jcontrol | ring | pantry (c : Nat) | noPantry | mgmt | control | host | none
deriving DecidableEq, Repr

/-- Table 11.1: the area of a physical address. -/
def areaOf (s : State) (a : Nat) : Area :=
  if a < generalBase s then .ledger
  else if a < keyBase s then .general
  else if a < hbmEnd s then .keys
  else if paJournal ≤ a ∧ a < paJournal + 0x400000 then .jcontrol
  else if paJournal ≤ a ∧ a < paJournal + 0x400000 + 0x10000 * ringSlots s.part then .ring
  else if paPantry ≤ a ∧ a < paPantry + 0x2000000 then
    let c := (a - paPantry) / 0x40000
    if coreIn s c ∧ (a - paPantry) % 0x40000 < 0x20000 + bankF s then .pantry c else .noPantry
  else if paControl ≤ a ∧ a < paControl + 0x100000 then .mgmt
  else if paControl ≤ a ∧ a < paControl + 0x100000000 then .control
  else if paHost ≤ a ∧ a < paHost + 0x200000000000 then .host
  else .none

/-- An address in HBM. -/
def isHbm (s : State) (a : Nat) : Bool := decide (a < hbmEnd s)

/-! Masters and checks (R234 to R244). -/

inductive Acc3 where | read | write | exec
deriving DecidableEq, Repr

/-- ACC of Table 10.10 and ACCESS of Table 6.11. -/
def accNum : Acc3 → Nat | .read => 0 | .write => 1 | .exec => 2

/-- A master identity (Table 6.1); `task` is the frame of a ladle core. -/
structure Master where
  mtype : Nat := 1
  mid : Nat := 0
  priv : Bool := false
  key : Nat := 0
  task : Nat := 0
  buffered : Bool := false
deriving DecidableEq, Repr

def ladleMaster (c f : Nat) (priv : Bool) (key : Nat) : Master := { mid := c, priv := priv, key := key, task := f }
/-- The management core (Table 6.1). -/
def mgmtMaster : Master := { mtype := 0, priv := true }
/-- A whisk engine (Table 6.1). -/
def engineMaster (e : Nat) : Master := { mtype := 2, mid := e, priv := true }
/-- The DMA of a PCIe function: privileged for an operator function, else under its tenant's key (Table 6.1). -/
def fnMaster (s : State) (f : Nat) : Master := { mtype := 3, mid := f, priv := isOperatorFn s f, key := (fnOf s f).tenant }
/-- Fabric ingress of a link (Table 6.1); its key is that of the region that matches (`sliceKey`). -/
def linkMaster (k : Nat) : Master := { mtype := 4, mid := k }
/-- Debug, while debug access is open (Table 6.1). -/
def debugMaster : Master := { mtype := 5, priv := true }
/-- Fabric ingress from the duplex partner path (Table 6.1). -/
def partnerMaster : Master := { mtype := 4, mid := 32 }

/-- R237: an enabled region matches an access. -/
def regionMatches (s : State) (m : Master) (a n : Nat) : Bool :=
  let b := (mpuReg s n 0).toNat
  let l := (mpuReg s n 1).toNat
  let x := (mpuReg s n 2).toNat
  bitOf (mpuReg s n 3).toNat 62 && decide (bits b 45 12 ≤ a / 4096) && decide (a / 4096 ≤ bits l 45 12) &&
  (bitOf x 60 || bits x 63 61 == m.mtype) && ((bits x 59 46 ^^^ m.mid) &&& bits x 45 32) == 0 &&
  (bitOf x 16 || bits x 29 17 == m.key || (m.mtype == 4)) &&
  (bits x 31 30 == 0 || (bits x 31 30 == 1 && !m.priv) || (bits x 31 30 == 2 && m.priv))

/-- R237: the lowest-numbered region that matches. -/
def regionOf (s : State) (m : Master) (a : Nat) : Option Nat := (List.range 64).find? fun n => regionMatches s m a n

/-- The permission of a region for a kind of access. -/
def regionAllows (s : State) (n : Nat) (k : Acc3) : Bool :=
  (mpuReg s n 3).getLsbD (match k with | .read => 0 | .write => 1 | .exec => 2)

/-- A refusal: CAUSE of Table 6.11, REGION, the frame's storage key for KEY_MISMATCH. -/
structure Refuse where
  cause : Nat := 0
  region : Nat := 255
  fkey : Nat := 0
deriving DecidableEq, Repr

/-- Table 6.8: the default map of privileged masters. Its columns: management core 0, ladle core 1, whisk engine 2, function DMA 3, debug 5. -/
def defaultAllows (m : Master) (ar : Area) (k : Acc3) : Bool :=
  let pantry := m.mtype == 1 || ((m.mtype == 0 || m.mtype == 5) && k != .exec)
  match ar with
  | .general => m.mtype == 1 || ((m.mtype == 0 || m.mtype == 2 || m.mtype == 5) && k != .exec)
  | .pantry _ => pantry
  | .noPantry => pantry
  | .mgmt => (m.mtype == 0 && k != .exec) || (m.mtype == 5 && k == .read)
  | .control => (m.mtype == 0 || m.mtype == 1 || m.mtype == 2 || m.mtype == 5) && k != .exec
  | _ => false

/-- The storage key of a frame (R245, R246). -/
def storageKey (s : State) (fr : Nat) : Half := tgetD s.guard.storageKeys fr 0x2000

/-- R247: the storage-key rule. -/
def keyAllows (key : Nat) (sk : Half) (k : Acc3) : Bool :=
  key == 0 || key == bits sk.toNat 12 0 || (k == .read && !sk.getLsbD 13)

/-! The larder (R403, R404). -/

/-- R404: two lines share a set of a slice. DESIGN CHOICE (log 99): the set is the line number modulo 2,048; the spec gives no index. -/
def sameSet (s : State) (l m : Nat) : Bool := sliceOf s m == sliceOf s l && m % 2048 == l % 2048

/-- R404, Table 11.3: a pinned line, of the tenant directory. -/
def pinned (s : State) (l : Nat) : Bool := decide (tablesBase s / 128 ≤ l) && decide (l < tablesBase s / 128 + 512)

/-- The pinned lines of a line's set. -/
def pinnedIn (s : State) (l : Nat) : Nat :=
  ((List.range 512).filter fun i => sameSet s l (tablesBase s / 128 + i)).length

/-- A line is held in an L1. L1 lines are kept by core × 2^39 + line. -/
def inL1 (m : Mem) (l : Nat) : Bool := m.l1.any fun e => e.1 % 2 ^ 39 == l

/-- R421, R423: every L1 copy of a line goes, and its directory entry. -/
def recallMem (m : Mem) (l : Nat) : Mem := { m with l1 := tfilter m.l1 fun k _ => decide (k % 2 ^ 39 ≠ l), dir := tdel m.dir l }

/-- R404: the line that a full set gives up for line `l`: the least recently used one that no L1 holds, and where each is held in one, the least recently used. -/
def larderVictim (s : State) (l : Nat) : Option Nat :=
  let set := s.mem.larder.filter (sameSet s l)
  if set.length + pinnedIn s l < 16 then none
  else match set.reverse.find? fun x => !inL1 s.mem x with
    | some x => some x
    | none => set.getLast?

/-- R404: the slice serves a line: it is the most recently used one of its set. A line that an L1 holds is recalled before it is replaced. -/
def larderMem (s : State) (l : Nat) : Mem :=
  if pinned s l then s.mem
  else if s.mem.larder.contains l then { s.mem with larder := l :: s.mem.larder.filter (· != l) }
  else match larderVictim s l with
    | none => { s.mem with larder := l :: s.mem.larder }
    | some x => let m := recallMem s.mem x; { m with larder := l :: m.larder.filter (· != x) }

/-- The slice serves a line. -/
def larderTake (s : State) (l : Nat) : State := { s with mem := larderMem s l }

/-- The misses that stand in the miss queue of a line's slice: the frames that wait for a line of it that the larder does not hold. -/
def missQueue (s : State) (l : Nat) : Nat :=
  ((s.cores.cores.map fun c => (c.2.frames.filter fun f => match f.2.wait with
    | .line x _ => sliceOf s x == sliceOf s l && !s.mem.larder.contains x
    | _ => false).length)).foldl (· + ·) 0

/-- R404: after an L1 miss that missed in the larder too, with SE clear, the next line of the same frame is read into the larder while the slice's
miss queue is below half of its 512 entries. -/
def prefetch (s : State) (l : Nat) (missed : Bool) : State :=
  if missed && (l + 1) / 32 == l / 32 && decide (missQueue s l < 256) then larderTake s (l + 1) else s

/-- R248, R404: a grant of a slice: it serves the line, sets USE, and MOD when the grant is for writing. -/
def grantBits (s : State) (a : Nat) (wr : Bool) : State :=
  if !isHbm s a then s
  else
    let v := storageKey s (a / 4096) ||| 0x4000 ||| (if wr then 0x8000 else 0)
    larderTake { s with guard := { s.guard with storageKeys := tset s.guard.storageKeys (a / 4096) 0x2000 v } } (a / 128)

/-- The die is in service, or leaves it in order: SERVICE or QUIESCING (Table 13.1). -/
def hostServed (s : State) : Bool := s.mgmt.state == .service || s.mgmt.state == .quiescing

/-- R242: what no fixed area and no region decides. -/
def byDefault (m : Master) (ar : Area) (k : Acc3) : Option Refuse :=
  if !m.priv then some { cause := 1 } else if defaultAllows m ar k then none else some { cause := 3, region := 0xFE }

/-- R235, Table 6.2: the checks before the storage-key rule. A region with FN_EN 1 decides outside the host window too, and grants nothing there (R241).
The key a fabric ingress access carries is its region's (Table 6.1). -/
def mpuCheck (s : State) (m : Master) (a : Nat) (k : Acc3) : Option Refuse :=
  let fixed : Option Refuse := some { cause := 4 }
  match areaOf s a with
  | .ledger => if k ≠ .exec ∧ (m.mtype = 2 ∨ (m.mtype = 0 ∧ ¬ hostServed s)) then none else fixed
  | .keys => fixed
  | .jcontrol => if k ≠ .exec ∧ m.mtype = 0 then none else fixed
  | .ring => if k = .read ∧ (m.mtype = 0 ∨ (m.mtype = 1 ∧ m.priv)) then none else fixed
  | .host =>
    if m.mtype = 3 then (if k = .exec then fixed else none)
    else if m.mtype ≠ 1 then fixed
    else match regionOf s m a with
      | none => fixed
      | some n => if (mpuReg s n 3).getLsbD 47 && regionAllows s n k then none else fixed
  | ar =>
    match regionOf s m a with
    | some n => if !(mpuReg s n 3).getLsbD 47 && regionAllows s n k then none else some { cause := 2, region := n }
    | none => byDefault m ar k

/-- The access key an access is judged under at the slice. -/
def sliceKey (s : State) (m : Master) (a : Nat) : Nat :=
  if m.mtype = 4 then
    match regionOf s m a with
    | some n => if (mpuReg s n 2).getLsbD 16 then 0 else bits (mpuReg s n 2).toNat 29 17
    | none => 0
  else m.key

/-- R235: every check of an access to a physical address. -/
def checkPa (s : State) (m : Master) (a : Nat) (k : Acc3) : Option Refuse :=
  match mpuCheck s m a k with
  | some r => some r
  | none =>
    if !isHbm s a then none
    else if keyAllows (sliceKey s m a) (storageKey s (a / 4096)) k then none
    else some { cause := 5, region := (regionOf s m a).getD 0xFE, fkey := (storageKey s (a / 4096)).toNat }

/-- R241: the function that a ladle core's host-window access leaves under. -/
def hostFn (s : State) (m : Master) (a : Nat) : Nat :=
  match regionOf s m a with | none => 0 | some n => bits (mpuReg s n 3).toNat 61 48

/-- Table 6.11: an MPU log record. -/
def mpuRecord (tb : Nat) (m : Master) (a : Nat) (k : Acc3) (r : Refuse) : Bytes :=
  le 8 tb ++ [BitVec.ofNat 8 r.cause, BitVec.ofNat 8 (accNum k + 4 * b2n m.buffered + 8 * b2n m.priv)] ++
  le 2 (m.mtype * 8192) ++ le 2 m.mid ++ le 2 m.key ++ le 8 a ++
  [BitVec.ofNat 8 r.region, BitVec.ofNat 8 (if m.mtype = 1 then m.task else 0)] ++ le 2 r.fkey ++ zeros 4

/-- R243, R244: the MPU log record of a refusal, and the tenant's count. -/
def logRefusal (s : State) (m : Master) (a : Nat) (k : Acc3) (r : Refuse) : State :=
  let g := s.guard
  let s1 := if g.logEnable then
      ringOut s g.logFn (g.logBase + BitVec.ofNat 64 (32 * (g.logCount % 2 ^ g.logLog2))) (mpuRecord s.tb m a k r)
    else s
  let s2 := { s1 with guard := { s1.guard with logCount := g.logCount + 1 } }
  if m.key = 0 ∨ absentKey s m.key then s2
  else
    let t := keyOf s2 m.key
    setKey s2 m.key { t with mpuViol := if t.mpuViol = 0xFFFFFFFF then t.mpuViol else t.mpuViol + 1 }

/-- R243: a refused access of a whisk engine or of the management core: the MPU log record, and a device-fault record of kind PRIVILEGED (Table 13.18a). -/
def faultRefusal (s : State) (m : Master) (a : Nat) (k : Acc3) (r : Refuse) : State :=
  logFault (logRefusal s m a k r) 0x09 (BitVec.ofNat 8 r.cause) (m.mtype * 8192 + m.mid) 0 a 0

/-! Bytes. -/

/-- What an unlisted byte of HBM's general area or of a pantry reads as (DESIGN CHOICE, log 62). -/
def byteOf (s : State) (a : Nat) : Byte := tgetD s.mem.bytes a 0

/-- `n` bytes from a physical address. -/
def memBytes (s : State) (a : Nat) : Nat → Bytes
  | 0 => []
  | n + 1 => byteOf s a :: memBytes s (a + 1) n

/-- Write bytes into a table of bytes. -/
def putMem (t : Tbl Byte) (a : Nat) : Bytes → Tbl Byte
  | [] => t
  | b :: r => putMem (tset t a 0 b) (a + 1) r

/-- Write bytes at a physical address. -/
def setMemBytes (s : State) (a : Nat) (b : Bytes) : State := { s with mem := { s.mem with bytes := putMem s.mem.bytes a b } }

/-- The 128-byte line of a physical address. -/
def lineOfPa (a : Nat) : Nat := a / 128

/-- R406: a line reads as poisoned: it is, or the larder's copy of it holds an uncorrectable error. -/
def poisonedLine (s : State) (l : Nat) : Bool := s.mem.poison.contains l || (s.hw.larderBad.contains l && s.mem.larder.contains l)

/-- R406: an address lies in a poisoned line. -/
def poisoned (s : State) (a : Nat) : Bool := poisonedLine s (lineOfPa a)

/-- An uncorrectable error of a line: it is poisoned, counted and logged. -/
def uncorrectable (s : State) (slice l : Nat) (sram : Bool) : State :=
  let m := s.mem
  let m1 := { m with poison := insertUp l m.poison, ue := sat (2 ^ 64 - 1) (m.ue + 1) }
  { s with mem := if m.ueValid then { m1 with ueOvf := true } else { m1 with ueValid := true, ueSlice := slice, ueLine := l, ueSram := sram } }

/-- R406: an access has met an uncorrectable error of the larder's SRAM: it is counted and logged, and the line is poisoned from then on. -/
def noteSram (s : State) (l : Nat) : State :=
  if s.hw.larderBad.contains l && s.mem.larder.contains l && !s.mem.poison.contains l then
    uncorrectable { s with hw := { s.hw with larderBad := s.hw.larderBad.filter (· != l) } } (sliceOf s l) l true
  else s

/-! The directories and the L1s (R420 to R423). L1 lines are kept by core × 2^39 + line. -/

def l1Key (c l : Nat) : Nat := c * 2 ^ 39 + l
def l1Of (s : State) (c l : Nat) : Option L1Line := tget s.mem.l1 (l1Key c l)
def setMem (s : State) (m : Mem) : State := { s with mem := m }
def setL1 (s : State) (c l : Nat) (x : L1Line) : State := setMem s { s.mem with l1 := tput s.mem.l1 (l1Key c l) x }
def dropL1 (s : State) (c l : Nat) : State := setMem s { s.mem with l1 := tdel s.mem.l1 (l1Key c l) }
def dirOf (s : State) (l : Nat) : Option DirLine := tget s.mem.dir l
def setDir (s : State) (l : Nat) (d : DirLine) : State := setMem s { s.mem with dir := tput s.mem.dir l d }
def dropDir (s : State) (l : Nat) : State := setMem s { s.mem with dir := tdel s.mem.dir l }

/-- R423: every L1 copy of a line goes. -/
def invalidateLine (s : State) (l : Nat) : State := setMem s (recallMem s.mem l)

/-- R423: a read by a master other than an L1: an owner in M becomes O. -/
def masterRead (s : State) (l : Nat) : State :=
  match dirOf s l with
  | none => s
  | some d => match l1Of s d.owner l with
    | some x => if d.st = .exclusive ∧ x.st = .m then setDir (setL1 s d.owner l { x with st := .o }) l { st := .owned, owner := d.owner, sharers := [] } else s
    | none => s

/-- The core's copy of a line leaves its L1 with a write-back, or silently from S (R422). -/
def evict (s : State) (c l : Nat) : State :=
  match l1Of s c l with
  | none => s
  | some x =>
    let s1 := dropL1 s c l
    if x.st = .s then s1
    else match dirOf s1 l with
      | none => s1
      | some d =>
        if d.owner ≠ c then s1
        else if d.st = .owned then setDir s1 l { st := .shared, owner := 0, sharers := d.sharers }
        else if d.st = .shared then s1
        else dropDir s1 l

/-- A line that must leave core `c`'s L1 before line `l` enters its set: four ways of the set are full (R420). A line in S goes first. -/
def l1Victim (s : State) (c l : Nat) : Option Nat :=
  let set := s.mem.l1.filter fun e => decide (e.1 / 2 ^ 39 = c) && decide (e.1 % 2 ^ 39 % 64 = l % 64)
  if set.length < 4 then none
  else match set.find? fun e => decide (e.2.st = .s) with
    | some e => some (e.1 % 2 ^ 39)
    | none => (set.head?).map fun e => e.1 % 2 ^ 39

/-- R421: a directory entry that a full set of 8 ways gives up: its line is recalled from every L1. DESIGN CHOICE (log 99): the set is the line number
modulo 512 and the entry given up the first listed; the spec names neither. -/
def recallFor (s : State) (l : Nat) : State :=
  if (dirOf s l).isSome then s
  else
    let mine := s.mem.dir.filter fun e => decide (sliceOf s e.1 = sliceOf s l) && decide (e.1 % 512 = l % 512)
    if mine.length < 8 then s
    else match mine.head? with
      | none => s
      | some e =>
        let s1 := invalidateLine s e.1
        setMem s1 { s1.mem with recalls := sat (2 ^ 64 - 1) (s1.mem.recalls + 1) }

/-- Room for a line in a core's L1 and in its directory. -/
def makeRoom (s : State) (c l : Nat) : State :=
  recallFor (match l1Victim s c l with | none => s | some v => evict s c v) l

/-- R422, R250: what GetS does to the line. -/
def getShared (s : State) (c l : Nat) (key : Nat) : State :=
  let wr := keyAllows key (storageKey s (l / 32)) .write
  let s1 := grantBits (makeRoom s c l) (l * 128) wr
  match dirOf s1 l with
  | none =>
    if wr then setDir (setL1 s1 c l { st := .e, key := key, wr := true }) l { st := .exclusive, owner := c }
    else setDir (setL1 (grantBits (makeRoom s c l) (l * 128) false) c l { st := .s, key := key }) l { st := .shared, sharers := [c] }
  | some d =>
    let s2 := grantBits (makeRoom s c l) (l * 128) false
    let s3 := setL1 s2 c l { st := .s, key := key }
    match d.st with
    | .shared => setDir s3 l { d with sharers := insertUp c d.sharers }
    | .owned => setDir s3 l { d with sharers := insertUp c d.sharers }
    | .exclusive => match l1Of s3 d.owner l with
      | some x =>
        if x.st = .m then setDir (setL1 s3 d.owner l { x with st := .o }) l { st := .owned, owner := d.owner, sharers := [c] }
        else setDir (setL1 s3 d.owner l { x with st := .s, wr := false }) l { st := .shared, owner := 0, sharers := insertUp c [d.owner] }
      | none => setDir s3 l { st := .shared, owner := 0, sharers := [c] }

/-- R422, R250, R404: GetS. -/
def getS (s : State) (c l : Nat) (key : Nat) : State := prefetch (getShared s c l key) l (!s.mem.larder.contains l)

/-- The bytes of a line that an owner holds dirty. -/
def heldDirty (s : State) (l : Nat) : BitVec 128 :=
  match dirOf s l with
  | none => 0
  | some d => if d.st = .shared then 0 else match l1Of s d.owner l with | some x => x.dirty | none => 0

/-- R422, R404: GetM and Upgrade: every other copy goes, and the requester ends in M with the owner's data. A requester that had no copy has missed
in its L1. -/
def getM (s : State) (c l : Nat) (key : Nat) : State :=
  let s1 := invalidateLine s l
  let s2 := grantBits (makeRoom s1 c l) (l * 128) true
  prefetch (setDir (setL1 s2 c l { st := .m, key := key, wr := true, dirty := heldDirty s l }) l { st := .exclusive, owner := c }) l ((l1Of s c l).isNone && !s.mem.larder.contains l)

/-- What a core's L1 needs before it serves an access: nothing, a check-only request, or the line (R250, R422). -/
inductive L1Need where | hit | recheck | shared | own
deriving DecidableEq, Repr

def l1Need (s : State) (c l key : Nat) (wr : Bool) : L1Need :=
  match l1Of s c l with
  | none => if wr then .own else .shared
  | some x =>
    if wr ∧ ¬ (x.st = .m ∨ x.st = .e) then .own
    else if x.key ≠ key then .recheck else .hit

/-- R425: the access that asked for ownership has been performed: the requests that lost to it may be served. -/
def serveLosers (s : State) (l : Nat) : State :=
  match dirOf s l with | some d => if d.losers.isEmpty then s else setDir s l { d with losers := [] } | none => s

/-- The bytes of a line that `n` bytes at an address take. -/
def byteMask (a n : Nat) : BitVec 128 := BitVec.ofNat 128 ((2 ^ n - 1) * 2 ^ (a % 128))

/-- A store of `n` bytes into a line that the L1 owns: one held in E becomes M (R422), its bytes are dirty. -/
def dirtyL1 (s : State) (c a n : Nat) : State :=
  let l := lineOfPa a
  match l1Of s c l with
  | some x => serveLosers (setL1 s c l { x with st := if x.st = .e then .m else x.st, dirty := x.dirty ||| byteMask a n }) l
  | none => s

/-- The line is brought into the state that an access needs, at once. -/
def acquireLine (s : State) (c l key : Nat) (wr : Bool) : State :=
  match l1Need s c l key wr with
  | .hit => s
  | .recheck => grantBits s (l * 128) wr
  | .shared => getS s c l key
  | .own => getM s c l key

/-- A write of a master other than an L1 (R423): copies go, then the bytes are written. -/
def masterWrite (s : State) (a : Nat) (b : Bytes) : State := setMemBytes (grantBits (invalidateLine s (lineOfPa a)) a true) a b

/-- R406: a whisk engine or the management core has written all 128 bytes of a line: it is no longer poisoned. -/
def clearPoison (s : State) (a n : Nat) : State :=
  if a % 128 = 0 ∧ n = 128 then { s with mem := { s.mem with poison := s.mem.poison.filter (· != lineOfPa a) } } else s

/-- An access of `n` bytes from `a` by lines of 128 bytes: the address and length of each part. -/
def lineParts : Nat → Nat → Nat → List (Nat × Nat)
  | 0, _, _ => []
  | f + 1, a, n =>
    if n = 0 then []
    else
      let k := min n (128 - a % 128)
      (a, k) :: lineParts f (a + k) (n - k)

/-- The part of an access that is refused first (R235), with its refusal. -/
def refusedPart (s : State) (m : Master) (k : Acc3) (ps : List (Nat × Nat)) : Option (Nat × Refuse) :=
  ps.findSome? fun p => (checkPa s m p.1 k).map fun r => (p.1, r)

/-- A write of the management core, line by line: a line that is refused is not written (R243). -/
def mgmtWrite : Nat → State → Nat → Bytes → State
  | 0, s, _, _ => s
  | n + 1, s, a, b =>
    if b.isEmpty then s
    else
      let k := 128 - a % 128
      let p := b.take k
      let s1 := match checkPa s mgmtMaster a .write with
        | some r => faultRefusal s mgmtMaster a .write r
        | none => match areaOf s a with
          | .general => clearPoison (masterWrite s a p) a p.length
          | .pantry _ => setMemBytes s a p
          | _ => s
      mgmtWrite n s1 (a + k) (b.drop k)

/-- A write of bytes that may cross lines, by a master other than an L1. -/
def masterWriteAll : Nat → State → Nat → Bytes → State
  | 0, s, _, _ => s
  | n + 1, s, a, b =>
    if b.isEmpty then s
    else
      let k := 128 - a % 128
      masterWriteAll n (masterWrite s a (b.take k)) (a + k) (b.drop k)

/-- Bytes written to a list of physical addresses, one each: what an engine writes into a task's buffers (R320, R423). -/
def writeAddrs (s : State) (l : List Nat) (b : Bytes) : State :=
  (l.zip b).foldl (fun st e => masterWrite st e.1 [e.2]) s

/-- R406: the lines that a list of physical addresses holds whole, in order: an engine that writes them all clears their poison. -/
def wholeLines (l : List Nat) : List Nat :=
  l.filter fun a => a % 128 == 0 && (List.range 128).all fun i => l.contains (a + i)

/-- R234, R243, R406: whisk engine `e` writes bytes into a task's buffers, unless its master identity is refused there; whether it wrote them. -/
def engineWrite (s : State) (e : Nat) (l : List Nat) (b : Bytes) : State × Bool :=
  match refusedPart s (engineMaster e) .write ((l.take b.length).map fun a => (a, 1)) with
  | some r => (faultRefusal s (engineMaster e) r.1 .write r.2, false)
  | none => ((wholeLines (l.take b.length)).foldl (fun st a => clearPoison st a 128) (writeAddrs s l b), true)

end Sys2Proof.Machine
end

