-- ==== Sys2Proof/Machine/FrameOps.lean ====
section
/-! DEFINITION. Cores and frames: registers, the fields of PSW, counters, the event controller's claims, frame and core resets, the
choice of the next frame (07, 10). -/
namespace Sys2Proof.Machine

/-! Cores and frames. -/

def coreOf (s : State) (c : Nat) : Core := tgetD s.cores.cores c {}
def setCore (s : State) (c : Nat) (x : Core) : State := { s with cores := { s.cores with cores := tset s.cores.cores c {} x } }
def frameOf (s : State) (c f : Nat) : Frame := tgetD (coreOf s c).frames f {}
def setFrame (s : State) (c f : Nat) (x : Frame) : State :=
  let k := coreOf s c
  setCore s c { k with frames := tset k.frames f {} x }

/-- g(n) (R298). -/
def gReg (x : Frame) (n : Nat) : Word := if n = 0 then 0 else tgetD x.g n 0
/-- setg(n, v) (R298). -/
def setG (x : Frame) (n : Nat) (v : Word) : Frame := if n = 0 then x else { x with g := tset x.g n 0 v }
/-- pair(n) (R295). -/
def gPair (x : Frame) (n : Nat) : Dbl := gReg x (n + 1) ++ gReg x n
/-- setpair(n, v) (R295). -/
def setPair (x : Frame) (n : Nat) (v : Dbl) : Frame := setG (setG x n (v.extractLsb' 0 32)) (n + 1) (v.extractLsb' 32 32)
/-- An accumulator. -/
def dAcc (x : Frame) (k : Nat) : Acc := tgetD x.d k {}
def setD (x : Frame) (k : Nat) (a : Acc) : Frame := { x with d := tset x.d k {} a }
/-- A modulo descriptor: MB and ML. -/
def mDesc (x : Frame) (k : Nat) : Word × Word := tgetD x.m k (0, 0)
def setM (x : Frame) (k : Nat) (v : Word × Word) : Frame := { x with m := tset x.m k (0, 0) v }

/-! PSW (Table 10.8). -/

def pSuper (p : Word) : Bool := p.getLsbD 0
def pMsk (p : Word) : Bool := p.getLsbD 1
def pSug (p : Word) : Bool := p.getLsbD 2
def pSxg (p : Word) : Bool := p.getLsbD 3
def pZm (p : Word) : Bool := p.getLsbD 6
def pOv (p : Word) : Bool := p.getLsbD 7
def pDz (p : Word) : Bool := p.getLsbD 8
def pTr (p : Word) : Bool := p.getLsbD 9
def pDf (p : Word) : Bool := p.getLsbD 10
def pAk (p : Word) : Nat := bits p.toNat 28 16

/-- Set or clear a bit of a word. -/
def putBit (p : Word) (i : Nat) (b : Bool) : Word := if b then p ||| (1#32 <<< i) else p &&& ~~~(1#32 <<< i)

/-- The writable bits of PSW and EPSW. -/
def pswMask : Word := 0x1FFF07CF#32

/-! Step counters (Table 7.7), by offset. -/

/-- Add to a step counter, modulo 2^64 (R292). -/
def countStep (s : State) (c off n : Nat) : State :=
  let k := coreOf s c
  setCore s c { k with counts := tset k.counts off 0 ((tgetD k.counts off 0 + n) % 2 ^ 64) }

/-- Steps of one kind, which CS_STEPS counts too (R293). -/
def spend (s : State) (c off n : Nat) : State := countStep (countStep s c off n) c 0 n

def csIssue : Nat := 0x08
def csInstr : Nat := 0x10
def csPaired : Nat := 0x18
def csExtra : Nat := 0x20
def csBranch : Nat := 0x28
def csOther : Nat := 0x70

/-! Control registers (Table 8.2). -/

/-- The value of a control register in force. -/
def crNow (s : State) (c : Nat) (x : Frame) (r : Nat) : Dbl :=
  let w : Word → Dbl := fun v => v.setWidth 64
  match r with
  | 0 => w x.psw
  | 1 => w x.evb
  | 2 => w x.epc
  | 3 => w x.epsw
  | 4 => w x.einfo
  | 5 => x.eaddr
  | 6 => w x.dfpc
  | 7 => w x.svp
  | 8 => w (if s.part = .pv32 ∨ s.part = .pv64 then x.tcr ||| 0x8000#32 else x.tcr)
  | 9 => x.ttb
  | 10 => w x.asid
  | 11 =>
    let k := coreOf s c
    BitVec.ofNat 64 ((match nFrames s with | 8 => 0 | 16 => 1 | 32 => 2 | _ => 3) * 2 ^ 30 + (k.running.getD 0) * 2 ^ 24 + b2n k.som)
  | 12 => w x.dlazy
  | 13 => w x.keyctl
  | _ => 0

/-- What a read of a control register returns: the last value written, in force or not (R288, R290). -/
def crRead (s : State) (c : Nat) (x : Frame) (r : Nat) : Dbl :=
  match (x.pend.filter fun (p : PendWrite) => decide (p.reg = r)).getLast? with
  | some p => if r = 11 then (crNow s c x r &&& ~~~1#64) ||| (p.val &&& 1#64) else p.val
  | none => crNow s c x r

/-- What a write leaves of a value in a control register (Tables 10.8 to 10.10, 11.9 to 11.12); `old` is what a read would return. -/
def crMask (s : State) (r : Nat) (old v : Dbl) : Dbl :=
  match r with
  | 0 =>
    let w := v &&& pswMask.setWidth 64
    if w.getLsbD 1 then w else w &&& ~~~0x400#64
  | 1 => v &&& 0xFFFFFF00#64
  | 2 => v &&& 0xFFFFFFFC#64
  | 3 => v &&& pswMask.setWidth 64
  | 4 => v &&& 0xFFFFFBFF#64
  | 5 => v
  | 6 => v &&& 0xFFFFFFFC#64
  | 7 => v &&& 0xFFFFFFC0#64
  | 8 =>
    let had := if s.part = .pv32 ∨ s.part = .pv64 then 0x8000#64 else v &&& 0x8000#64
    let lv := if bits v.toNat 9 8 = 3 then old &&& 0x300#64 else v &&& 0x300#64
    had ||| lv ||| (v &&& 1#64)
  | 9 => v &&& 0x00003FFFFFFFF000#64
  | 10 => v &&& 0xFFFF#64
  | 11 => v &&& 1#64
  | 12 => v &&& 0xFFFFFFFB#64
  | 13 => v &&& 0x11FFF#64
  | _ => 0

/-- Put a value in force in a control register of a frame. -/
def crPut (x : Frame) (r : Nat) (v : Dbl) : Frame :=
  let w : Word := v.setWidth 32
  match r with
  | 0 => { x with psw := w }
  | 1 => { x with evb := w }
  | 2 => { x with epc := w }
  | 3 => { x with epsw := w }
  | 4 => { x with einfo := w }
  | 5 => { x with eaddr := v }
  | 6 => { x with dfpc := w }
  | 7 => { x with svp := w }
  | 8 => { x with tcr := w }
  | 9 => { x with ttb := v }
  | 10 => { x with asid := w }
  | 12 => { x with dlazy := w }
  | 13 => { x with keyctl := w }
  | _ => x

/-- Put a pending write in force: registers 0 to 13, and MPU block registers as 256 + offset / 8 (R240, R290). -/
def applyWrite (s : State) (c f : Nat) (p : PendWrite) : State :=
  if p.reg = 11 then
    let k := coreOf s c
    setCore s c { k with som := p.val.getLsbD 0 }
  else if p.reg < 256 then setFrame s c f (crPut (frameOf s c f) p.reg p.val)
  else s

/-! The event controller (R387 to R393). -/

/-- A source's target mask holds a core in service. -/
def srcTargets (s : State) (x : Source) (c : Nat) : Bool := coreIn s c && x.tgt.getLsbD c

/-- R390: the running priority: one above the top entry's PRIO must be met; an empty stack is below 0. -/
def abovePrio (k : Core) (p : Nat) : Bool := match k.stack.getLast? with | none => true | some e => decide (e.prio < p)

/-- R391, R390: the source of highest PRIO, ties to the lowest number, among those a test keeps. -/
def bestSource (s : State) (keep : Nat → Source → Bool) : Option (Nat × Source) :=
  (s.ev.srcs.filter fun e => decide (e.2.state = .pending) && keep e.1 e.2).foldl
    (fun (b : Option (Nat × Source)) e => match b with
      | none => some e
      | some x => if srcPrio x.2 < srcPrio e.2 then some e else some x) none

/-- R391: a claim by frame `f` of core `c`: the value read, and the state after. -/
def claim (s : State) (c f : Nat) : Dbl × State :=
  let k := coreOf s c
  if 8 ≤ k.stack.length then (0x3FF#64, s)
  else match bestSource s fun _ x => srcTargets s x c && abovePrio k (srcPrio x) with
    | none => (0x3FF#64, s)
    | some (n, x) =>
      let s1 := setSrc s n { x with state := .active, owner := c }
      (BitVec.ofNat 64 (srcPrio x * 2 ^ 16 + n), setCore s1 c { coreOf s1 c with stack := k.stack ++ [{ prio := srcPrio x, src := n, frame := f }] })

/-- R388, R392: the end of a source's service. -/
def endService (s : State) (n : Nat) : State := setSrc s n (srcFollow { srcOf s n with state := .idle, owner := 0 })

/-- R392: a write of EOI by frame `f` of core `c`. -/
def eoi (s : State) (c f : Nat) : State :=
  let k := coreOf s c
  match k.stack.getLast? with
  | none => s
  | some e =>
    if e.frame = f then endService (setCore s c { k with stack := k.stack.dropLast }) e.src
    else setCore s c { k with eoiErr := true }

/-- R390: a frame's MSK lets an interrupt through, and the frame can run. -/
def frameTakes (x : Frame) (msk : Bool) : Bool := (x.state == .ready || x.state == .running || x.state == .sleep) && !msk

/-- R390: the deliverable source of a core; `msk` gives a frame's MSK in place of its PSW's for the frame that executes an ERET (R393). -/
def deliverable (s : State) (c : Nat) (eretMsk : Option (Nat × Bool)) : Option (Nat × Source) :=
  let k := coreOf s c
  let mskOf : Nat → Bool := fun f => match eretMsk with
    | some (g, b) => if g = f then b else pMsk (frameOf s c f).psw
    | none => pMsk (frameOf s c f).psw
  if 8 ≤ k.stack.length then none
  else if (match k.running with | none => false | some r => mskOf r) then none
  else bestSource s fun _ x => srcTargets s x c && abovePrio k (srcPrio x) && decide (srcFrame x < nFrames s) && frameTakes (frameOf s c (srcFrame x)) (mskOf (srcFrame x))

/-! Which frame runs (R363, R367). -/

/-- R367: the next READY frame after `f`, in ascending number, wrapping. -/
def nextReady (s : State) (c f : Nat) : Option Nat :=
  let n := nFrames s
  ((List.range n).map fun i => (f + 1 + i) % n).find? fun g => (frameOf s c g).state == .ready

/-- A repeat that a switch or an entry interrupts is kept in REPC and REPV (R313). -/
def parkRep (x : Frame) : Frame :=
  match x.rep with
  | none => x
  | some n => { x with repc := BitVec.ofNat 32 n, repv := true, rep := none }

/-- The frame runs. -/
def runFrame (s : State) (c f : Nat) : State :=
  let s1 := setFrame s c f { frameOf s c f with state := .running }
  setCore s1 c { coreOf s1 c with running := some f }

/-- R363: a core with no running frame runs the next READY one after `f`, if there is one. -/
def pickAfter (s : State) (c f : Nat) : State :=
  match nextReady s c f with
  | none => s
  | some g => runFrame s c g

/-- R367: the running frame leaves for a state, and the next READY frame runs, in 1 step. -/
def leaveFrame (s : State) (c f : Nat) (st : FrameState) : State :=
  let s1 := setFrame s c f { parkRep (frameOf s c f) with state := st }
  pickAfter (spend (setCore s1 c { coreOf s1 c with running := none }) c csOther 1) c f

/-- A frame becomes READY, and runs at once when nothing does (R363). -/
def makeReady (s : State) (c f : Nat) : State :=
  let s1 := setFrame s c f { frameOf s c f with state := .ready }
  match (coreOf s1 c).running with
  | some _ => s1
  | none => pickAfter s1 c (f + nFrames s - 1)

/-- What ends a frame's wait: a RUNNING frame goes on, a STALLED one becomes READY, a STOPPING one may be STOPPED. -/
def endWait (s : State) (c f : Nat) (w : Wait) : State :=
  let s1 := setFrame s c f { frameOf s c f with wait := w }
  match (frameOf s1 c f).state with
  | .stalled => makeReady s1 c f
  | .stopping => setFrame s1 c f { frameOf s1 c f with state := if (frameOf s1 c f).lop.isSome then .stopping else .stopped }
  | _ => s1

/-! Port slots (R320, R321). -/

def slotOf (s : State) (c n : Nat) : Option PortSlot := tget (coreOf s c).slots n
def setSlotOf (s : State) (c n : Nat) (x : PortSlot) : State :=
  let k := coreOf s c
  setCore s c { k with slots := tput k.slots n x }

/-- The lowest free port slot of a core (which one the device takes is a DESIGN CHOICE, log 64). -/
def freeSlot (s : State) (c : Nat) : Option Nat := (List.range 32).find? fun n => (slotOf s c n).isNone

/-- A port handle (Table 8.15). -/
def portHandle (gen n : Nat) : Word := BitVec.ofNat 32 (gen % 256 * 256 + n)

/-- A completion entry in a completion area: CFLAGS 0, CSEQ 0 (R321). -/
def portEntry (c : Compl) : Bytes := complBytes { c with fill := false, pushed := false } 0

/-- R320, R321: a posting takes a free slot: it is refused there at once, which ends its PPOST and pulses the core's source, or it waits for its ticket. -/
def seatPosting (s : State) (c n : Nat) (p : PortSlot) : State :=
  let g := takeFree 8 s
  let h := portHandle g.1.toNat n
  match p.refused with
  | some code =>
    let s1 := writeAddrs g.2 p.area (portEntry (plainCompl code (cHostTag p.cmd) false))
    pulseSrc (setSlotOf s1 c n { p with handle := h, state := .done, status := code }) (0x010 + c)
  | none => setSlotOf g.2 c n { p with handle := h }

/-- The PPOST of a posting that has been given slot `n` goes on: with its handle, or with the wait for its ticket. -/
def seatedFrame (s : State) (c n : Nat) (p : PortSlot) : State :=
  match (frameOf s c p.frame).wait with
  | .grant w _ =>
    let h := ((slotOf s c n).map (·.handle)).getD 0
    if p.refused.isSome then endWait s c p.frame (.filled (le 4 h.toNat) true)
    else setFrame s c p.frame { frameOf s c p.frame with wait := .grant w n }
  | _ => s

/-- R320: the postings that wait for a slot take the slots that are free, oldest first. -/
def seatWaiters (c : Nat) : List PortSlot → State → State
  | [], s => s
  | p :: r, s =>
    match freeSlot s c with
    | none => s
    | some n =>
      let k := coreOf s c
      seatWaiters c r (seatedFrame (seatPosting (setCore s c { k with portWait := k.portWait.drop 1 }) c n p) c n p)

/-- A slot is freed, and a PPOST that waits for one may go on (R320). -/
def freeSlotOf (s : State) (c n : Nat) : State :=
  let k := coreOf s c
  let s1 := setCore s c { k with slots := tdel k.slots n }
  seatWaiters c (coreOf s1 c).portWait s1

/-! Frame and core resets (R366, R384). -/

/-- A completion with DEVICE_FAULT of a ladle-class command that a reset frame held (R319). -/
def abandonCmd (s : State) (tk : Nat) : State :=
  match ticketOf s tk with
  | none => s
  | some t => setTicket s tk { t with result := some { status := 0x60, hostTag := cHostTag t.cmd, pushed := t.cmd.pushed } }

/-- R366 step 8: the stack entries that a frame claimed. -/
def dropClaims (s : State) (c : Nat) (p : StackEntry → Bool) : State :=
  let k := coreOf s c
  ((k.stack.filter p).map (·.src)).foldl endService (setCore s c { k with stack := k.stack.filter fun e => !p e })

/-- R366: a frame's reset. Its locks are swept later (R176); a lock it waits for is no longer asked. Its port slots are freed, but those of postings that
run, which end with them (R320, Table 8.18). -/
def frameReset (s : State) (c f : Nat) : State :=
  let x := frameOf s c f
  let s1 := withdraw s (frameOwner c f) x.epoch
  let s2 := (x.cmds.map (·.1)).foldl abandonCmd s1
  let s3 := dropClaims s2 c fun e => decide (e.frame = f)
  let k := coreOf s3 c
  let s4 := setCore s3 c { k with
    slots := tfilter k.slots fun _ y => !(decide (y.frame = f) && y.epoch == x.epoch && decide (y.state ≠ .posted)),
    portWait := k.portWait.filter fun y => !(decide (y.frame = f) && y.epoch == x.epoch) }
  let s5 := setFrame s4 c f { state := .resetting, epoch := x.epoch + 1 }
  let s6 := seatWaiters c (coreOf s5 c).portWait s5
  if (coreOf s6 c).running = some f then
    pickAfter (spend (setCore s6 c { coreOf s6 c with running := none }) c csOther 1) c f
  else s6

/-- R366 step 10, R176: the sweeps of a frame reset end. Locks lent to a posting stay with it (R323). -/
def frameSwept (s : State) (c f : Nat) : State :=
  let x := frameOf s c f
  if x.state ≠ .resetting then s
  else
    let dead := (s.locks.filter fun e => decide (e.2.owner = frameOwner c f) && e.2.epoch != x.epoch && e.2.lent.isNone).map fun e => (e.1, e.2.epoch)
    let s1 := dead.foldl (fun st e => releaseLock st (frameOwner c f) e.2 e.1) s
    setFrame s1 c f { x with state := .off }

/-- Every frame of a core is reset and its L1 is written back and emptied (R384). -/
def coreClear (s : State) (c : Nat) : State :=
  let s0 := setCore s c { coreOf s c with running := none }
  let s1 := (List.range (nFrames s)).foldl (fun st f => frameReset (setCore st c { coreOf st c with running := none }) c f) s0
  let s2 := dropClaims s1 c fun _ => true
  let s3 := ((s2.mem.l1.filter fun e => decide (e.1 / 2 ^ 39 = c)).map fun e => e.1 % 2 ^ 39).foldl (fun st l => evict st c l) s2
  setCore s3 c { coreOf s3 c with running := none, som := false, counts := [], tlb := [], walk := [], eoiErr := false, starting := false }

/-- R384: a core reset, with its log record; the third within 1 s takes the core out of service. -/
def coreReset (s : State) (c f : Nat) : State :=
  let x := frameOf s c f
  let recent := (coreOf s c).resets.filter fun t => decide (s.tb < t + 1000000000)
  let s1 := coreClear s c
  let s2 := logFault s1 0x04 (BitVec.ofNat 8 f) c x.einfo.toNat x.dfpc.toNat x.eaddr.toNat
  if 2 ≤ recent.length then
    let s3 := { s2 with store := { s2.store with coresOut := insertUp c s2.store.coresOut } }
    logFault (setCore s3 c { coreOf s3 c with resets := recent ++ [s.tb] }) 0x02 2 c 0 0 0
  else setCore s2 c { coreOf s2 c with resets := recent ++ [s.tb], starting := true }

/-- R384: frame 0 starts at word 0 of the boot vector table once every sweep has ended. Its vector word is read with its first instruction's fetch address. -/
def readyToStart (s : State) (c : Nat) : Bool :=
  (coreOf s c).starting && coreIn s c && ((coreOf s c).frames.all fun e => decide (e.2.state ≠ .resetting))

/-! Commands of FRAME_CTL (R365). -/

def cmdRefused (s : State) (c f : Nat) : State := setFrame s c f { frameOf s c f with cmdErr := true }

/-- START (R365). -/
def frameStart (s : State) (c f : Nat) : State :=
  let x := frameOf s c f
  if x.state = .stopped ∨ (x.state = .off ∧ x.restored) then makeReady s c f else cmdRefused s c f

/-- A frame whose instruction waits, or that has a long operation in flight (R365). -/
def frameBusy (x : Frame) : Bool := x.lop.isSome || decide (x.wait ≠ .idle)

/-- STOP (R365). A RUNNING frame that waits, or that has a long operation in flight, becomes STOPPING. -/
def frameStop (s : State) (c f : Nat) : State :=
  let x := frameOf s c f
  match x.state with
  | .ready => setFrame s c f { parkRep x with state := if frameBusy x then .stopping else .stopped }
  | .sleep => setFrame s c f { parkRep x with state := if frameBusy x then .stopping else .stopped }
  | .stalled => setFrame s c f { parkRep x with state := .stopping }
  | .running => leaveFrame s c f (if frameBusy x then .stopping else .stopped)
  | _ => s

/-- A STOPPING frame whose stall and long operation have ended is STOPPED (R365). -/
def settleStop (s : State) (c f : Nat) : State :=
  let x := frameOf s c f
  if x.state = .stopping ∧ ¬ frameBusy x then setFrame s c f { x with state := .stopped } else s

/-- A command in FRAME_CTL.CMD: 1 START, 2 STOP, 3 RESET (Table 10.4); other values are reserved. -/
def frameCommand (s : State) (c f cmd : Nat) : State :=
  if nFrames s ≤ f ∨ ¬ coreIn s c then s
  else match cmd with
    | 1 => frameStart s c f
    | 2 => frameStop s c f
    | 3 => frameReset s c f
    | _ => s

/-! What the reset and the HELD state of a die do to its cores (R468, R470). -/

/-- R468: the ladle cores are held in core reset. -/
def holdAllCores (s : State) : State := (s.cores.cores.map (·.1)).foldl coreClear s

/-- R384, Table 13.4a: the ladle cores are due to start, if any runs. -/
def startAllCores (s : State) : State :=
  if !cfgLadleEn s ∨ (tget s.store.loaded 3).isNone then s
  else (List.range (nCores s.part)).foldl (fun st c => if coreIn st c then setCore st c { coreOf st c with starting := true } else st) s

/-- What a reset of the die leaves of the cores: epochs, unless it is cold (R171). -/
def coresAfterReset (k : Cores) (cold : Bool) : Cores :=
  if cold then {}
  else { cores := k.cores.foldl (fun (t : Tbl Core) e =>
      tset t e.1 {} { frames := e.2.frames.foldl (fun (u : Tbl Frame) y => tset u y.1 {} { epoch := y.2.epoch }) [] }) [] }

/-- What a reset of the die leaves of the memory registers: counts, unless it is cold (Table 11.6). -/
def memAfterReset (m : Mem) (cold : Bool) : Mem := if cold then {} else { ce := m.ce, ue := m.ue, recalls := m.recalls }

end Sys2Proof.Machine
end

