-- ==== Sys2Proof/Machine/HeldOps.lean ====
section
/-! DEFINITION. Entering HELD (R467, R468). -/
namespace Sys2Proof.Machine

/-- R474: the management core copies a ladle runtime body to LRT_BASE, under its own identity (R234, R248). -/
def copyRuntime (s : State) (b : Bytes) : State := mgmtWrite (b.length + 1) s (field s.store.cfg 48 8) b

/-- R318: the task queue of a ladle-class command's opcode is full: a command counts from when the sieve passes it, while it waits for its ticket too. -/
def taskQueueFull (s : State) (c : Cmd) : Bool :=
  let q := cOp c
  let waits := (s.host.trays.filter fun e => e.2.waiting.any fun w => decide (cOp w.cmd = q)).length
  let granted := (s.tk.held.filter fun e => decide (e.2.state = .transit) && decide (cOp e.2.cmd = q)).length
  decide (4096 ≤ (tgetD s.cores.queues (q % 16) []).length + waits + granted)

/-- R465, R468: the links of the fabric go to DISABLED; the partner path stays. -/
def linksOff (s : State) : State :=
  (List.range 32).foldl (fun st k =>
    let l := linkOf st k
    if l.state = .disabled then st
    else changeLink st k { l with state := .disabled, reason := 1, since := st.tb, unacked := [], txQueue := [], retrainFrom := none, keeps := false }) s

/-- Table 13.12: the mailbox vector, entry 2,047 of PF0, while IRQ_EN is 1. -/
def mailboxVector (s : State) : State := if s.mgmt.irqEn then raiseEntry s 0 2047 else s

/-- A die enters HELD with a reason: outputs withheld, links DISABLED, cores in reset, the mailbox vector, a record of kind HELD (R468, Table 13.18a). -/
def enterHeld (s : State) (reason : Byte) : State :=
  let s1 := mailboxVector (holdAllCores (linksOff { s with mgmt := { s.mgmt with state := .held, reason := reason } }))
  logFault s1 0x0D reason 0 (if reason = 0x07 then (s.store.floorMissing.toNat) % 2 ^ 32 else 0) 0 0

end Sys2Proof.Machine
end

