-- ==== Sys2Proof/Machine/HostOps.lean ====
section
/-! DEFINITION. What the host link's commands share: taking a command, doorbell reads, tray and function registers and resets (R188 to R230). -/
namespace Sys2Proof.Machine

/-- A local tray that its function has (R195). -/
def trayExists (s : State) (f t : Nat) : Bool := (fnOf s f).valid && decide (t < (fnOf s f).ntrays)

/-- Trays take commands and doorbells are read: in service or quiescing (Table 13.1), and not in the power-fail sequence (R497). -/
def hostRuns (s : State) : Bool := (s.mgmt.state == .service || s.mgmt.state == .quiescing) && !s.board.powerFail

/-- R192: extension descriptors leave the store. -/
def extFree (s : State) (c : Cmd) : State := { s with host := { s.host with extUsed := s.host.extUsed - c.ext.length / 128 } }

/-- A command as the sieve reads it from a tray. -/
def trayCmd (s : State) (f t : Nat) (desc ext : Bytes) (pushed : Bool) : Cmd :=
  { desc := desc, ext := ext, tenant := (fnOf s f).tenant, trayNo := some (trayNumber s f t), traySeq := seqOf desc, pushed := pushed }

/-- R208, R211: a command is taken at EXPECT and goes through the sieve. -/
def acceptCmd (s : State) (f t : Nat) (desc ext : Bytes) (pushed : Bool) : State :=
  let c := trayCmd s f t desc ext pushed
  let x := trayOf s f t
  match sieve s c (taskQueueFull s c) with
  | .inl (code, off) =>
    let fl : Flight := { seq := c.traySeq, done := some (plainCompl code (cHostTag c) pushed) }
    violate (flushTray (raiseExpect (setTray s f t { x with flight := x.flight ++ [fl] }) f t) f t) f t 0x01 code c.traySeq off desc
  | .inr c' =>
    let s1 := raiseExpect (setTray s f t { x with flight := x.flight ++ [{ seq := c.traySeq }], waiting := some { cmd := c', seq := c.traySeq } }) f t
    { s1 with host := { s1.host with extUsed := s1.host.extUsed + ext.length / 128 } }

/-- R199, R204: `n` slots of the ring are consumed; the next command's wait begins once its slots are all read (R210). -/
def consumeRing (tb : Nat) (x : Tray) (n : Nat) : Tray :=
  let y := { x with ring := x.ring.drop n, crHead := x.crHead + BitVec.ofNat 32 n }
  { y with headSince := if (ringHead y).isSome then tb else y.headSince }

/-- R208: what the tray takes now, if anything. -/
def takeCommand (s : State) (f t : Nat) : State :=
  let x := trayOf s f t
  if !hostRuns s || !trayRunning x || x.waiting.isSome then s
  else match eligiblePush x with
  | some (k, p) =>
    if hasCredit x then acceptCmd (setTray s f t { x with slots := tdel x.slots k }) f t (p.half0.getD [] ++ p.half1.getD []) [] true else s
  | none => match ringHead x with
    | none => s
    | some (b, n) =>
      let d := seqDist x (seqOf b)
      if 15 < d then
        violate (setTray s f t (consumeRing s.tb x n)) f t 0x03 (if 2 ^ 31 ≤ d then 0x01 else 0x02) (seqOf b) 0 b
      else if d = 0 ∧ hasCredit x ∧ s.host.extUsed + (n - 1) ≤ 16384 then
        acceptCmd (setTray s f t (consumeRing s.tb x n)) f t b ((x.ring.take n).drop 1).flatten false
      else s

/-! Tickets (R213 to R215). -/

/-- R215: the waiting command of a tray is refused for want of a ticket. -/
def refuseWaiting (s : State) (f t : Nat) (w : Waiting) (code : Byte) : State :=
  let x := trayOf s f t
  let c := plainCompl code (cHostTag w.cmd) w.cmd.pushed
  let fl := x.flight.map fun (y : Flight) => if y.seq = w.seq ∧ y.ticket.isNone ∧ y.done.isNone then { y with done := some c } else y
  flushTray (setTray (extFree s w.cmd) f t { x with waiting := none, flight := fl }) f t

/-- Grant a ticket to a command: it is in transit, and its reservation is committed (R128, R213). -/
def newTicket (s : State) (k : Nat) (o : Origin) (c : Cmd) (resv : Nat) : State :=
  { s with tk := { s.tk with held := tput s.tk.held k { origin := o, cmd := c, order := s.tk.nextOrder, reserved := resv }, nextOrder := s.tk.nextOrder + 1 },
           jn := { s.jn with committed := s.jn.committed + resv } }

/-- A ticket number that is free. -/
def ticketFree (s : State) (k : Nat) : Bool := decide (k < 65536) && (ticketOf s k).isNone

/-- R214, R215: test a tray's waiting command, and grant it ticket `k`, or note the code of the failed test, or refuse it at once. -/
def grantTray (s : State) (f t k : Nat) : State :=
  let x := trayOf s f t
  match x.waiting with
  | none => s
  | some w =>
    if x.quar || !grantsOpen s || !ticketFree s k then s
    else match grantCode s f t w.cmd with
      | none =>
        let fl := x.flight.map fun (y : Flight) => if y.seq = w.seq ∧ y.ticket.isNone ∧ y.done.isNone then { y with ticket := some k } else y
        setTray (newTicket s k (.tray f t) w.cmd (reservation w.cmd)) f t { x with waiting := none, flight := fl }
      | some code =>
        if waitLimit x = 0 then refuseWaiting s f t w code
        else setTray s f t { x with waiting := some { w with code := some code, since := some (w.since.getD s.tb) } }

/-- R167: the engine that takes the next command of a class: round-robin after the last one chosen. DESIGN CHOICE (log 94): after reset,
when none has been chosen, the turn starts at engine 1; the spec gives no starting point. -/
def chooseEngine (s : State) (prio : Bool) : Option Nat :=
  let n := nEngines s.part
  let free := fun (e : Nat) => (List.range 256).any fun c => isPrioCtx c == prio && decide ((ctxOf s e c).state = .free)
  ((List.range n).map fun i => (s.eng.lastEngine + 1 + i) % n).find? fun e => engineTakes s e && free e

/-- R167: put a ticket's command into a context: the descriptor in the context store, the program counter at 0, the ticket interface's ports and the group ORIGIN (Tables 4.1, 4.5). -/
def dispatchTo (s : State) (k e c : Nat) : State :=
  match ticketOf s k with
  | none => s
  | some t =>
    let store := ((List.range 128).zip (fit 128 t.cmd.desc)).foldl (fun (a : Tbl Byte) p => tset a (128 + p.1) 0 p.2) []
    let s1 := setCtx s e c { epoch := (ctxOf s e c).epoch, state := .ready, ticket := some k, ext := t.cmd.ext, store := store,
                             ports := tset (tset [] 0x7E 0 (BitVec.ofNat 64 (originBits t))) 0x7F 0 (BitVec.ofNat 64 k), groups := tset [] 7 0 (originBits t) }
    trace (setTicket s1 k { t with state := .held, engine := e }) e c trDispatch (cOp t.cmd) (t.cmd.trayNo.getD 0x8000 + 65536 * t.cmd.traySeq.toNat)

/-! Doorbells (R198 to R203). -/

/-- The granules of a page that hold entries of enabled trays (R202). -/
def granules (s : State) (f p : Nat) : List Nat :=
  (List.range 64).filter fun g => (List.range 8).any fun i => let t := p * 512 + g * 8 + i; trayExists s f t && (trayOf s f t).enable

/-- R202: read a page's granules, if any holds an entry of an enabled tray. -/
def readPage (s : State) (f p : Nat) : State :=
  let fn := fnOf s f
  let gs := granules s f p
  if gs.isEmpty then s
  else gs.foldl (fun st g => emit st (.read f (fn.dbBase + BitVec.ofNat 64 (p * 4096 + g * 64)) 64)) (setFn s f { fn with dbReads := insertUp p fn.dbReads })

/-- R202: what a nudge or a poll of a page does: a read, or one further read after the one outstanding. While the die is HELD nothing is read (R468) and the nudge is kept. -/
def askPage (s : State) (f p : Nat) : State :=
  let fn := fnOf s f
  if !fn.dbEnable || decide (fn.dbPagesM1 < p) then s
  else if fn.dbReads.contains p || !hostRuns s then setFn s f { fn with dbRerun := insertUp p fn.dbRerun }
  else readPage s f p

/-- R199: the ring slots from the last one asked for up to CR_TAIL are read, in runs that do not wrap. -/
def readRing (s : State) (f t : Nat) : State :=
  let x := trayOf s f t
  let n := (x.crTail - x.rdIssued).toNat
  let size := 2 ^ crLog2 x
  let first := x.rdIssued.toNat % size
  let run := min n (size - first)
  if n = 0 ∨ x.readErr then s
  else
    let s1 := emit (setTray s f t { x with rdIssued := x.crTail, rdRuns := x.rdRuns ++ (if run < n then [run, n - run] else [run]) }) (.read f (x.crBase + BitVec.ofNat 64 (128 * first)) (128 * run))
    if run < n then emit s1 (.read f x.crBase (128 * (n - run))) else s1

/-- A refused doorbell value (R201). -/
def refuseDb (s : State) (f : Nat) (e : DbEntry) (code : Byte) : State :=
  let s1 := setFn s f { fnOf s f with dbViol := true }
  violate s1 f e.t 0x05 code 0 0 (le 4 e.tail.toNat ++ le 4 e.head.toNat)

/-- R201: CR_TAIL of an entry as read. -/
def takeTail (s : State) (f : Nat) (e : DbEntry) : State :=
  let x := trayOf s f e.t
  if 2 ^ 31 ≤ (e.tail - x.crTail).toNat ∨ 2 ^ crLog2 x < (e.tail - x.crHead).toNat then refuseDb s f e 0x01
  else readRing (setTray s f e.t { x with crTail := e.tail }) f e.t

/-- R201: CQ_HEAD of an entry as read. -/
def takeHead (s : State) (f : Nat) (e : DbEntry) : State :=
  let x := trayOf s f e.t
  if 2 ^ 31 ≤ (e.head - x.cqHead).toNat ∨ 2 ^ 31 ≤ (x.lastIssued - e.head).toNat then refuseDb s f e 0x02
  else setTray s f e.t { x with cqHead := e.head }

/-- R198: the entry of local tray `t` in 8 bytes: CR_TAIL in bytes 0 to 3, CQ_HEAD in bytes 4 to 7, little-endian. -/
def dbEntry (t : Nat) (b : Bytes) : DbEntry := { t := t, tail := wordAt b 0, head := wordAt b 4 }

/-- R198: the entries in what was read: a page from its start, or one entry. -/
def dbEntries (src : DbSrc) (data : Bytes) : List DbEntry :=
  match src with
  | .page p => ((List.range (min 512 (data.length / 8))).zip (pieces 8 (min 512 (data.length / 8)) data)).map fun e => dbEntry (512 * p + e.1) e.2
  | .entry t => [dbEntry t data]

/-- The entries of a read that the device uses: those of enabled trays. -/
def usedEntries (s : State) (f : Nat) (src : DbSrc) (data : Bytes) : List DbEntry :=
  (dbEntries src data).filter fun e => trayExists s f e.t && (trayOf s f e.t).enable

/-- The read's source is outstanding (R202). -/
def dbOutstanding (fn : Fn) : DbSrc → Bool
  | .page p => fn.dbReads.contains p
  | .entry t => fn.trayReads.contains t

/-- A doorbell read ends; a nudge that came meanwhile has its further read issued (R202). -/
def endDbRead (s : State) (f : Nat) (src : DbSrc) (advance : Bool) : State :=
  let fn := fnOf s f
  match src with
  | .entry t => setFn s f { fn with trayReads := fn.trayReads.filter (· != t) }
  | .page p =>
    let follow := if advance ∧ fn.dbPoll ≠ 0 then tput fn.dbFollow p (s.tb + fn.dbPoll * 64) else tdel fn.dbFollow p
    let s1 := setFn s f { fn with dbReads := fn.dbReads.filter (· != p), dbRerun := fn.dbRerun.filter (· != p), dbFollow := follow }
    if fn.dbRerun.contains p then askPage s1 f p else s1

/-! Tray registers (R196, R197). -/

/-- R197: a tray stops taking commands: its push slots are emptied, its waiting command is dropped, the completions of its tickets will not be
written. A ticket whose command has ended and whose completion stood behind an unfinished one is due back at once. -/
def disableTray (s : State) (f t : Nat) : State :=
  let x := trayOf s f t
  let s1 := match x.waiting with | none => s | some w => extFree s w.cmd
  let fl := match x.waiting with
    | none => x.flight
    | some w => x.flight.filter fun (y : Flight) => !(decide (y.seq = w.seq) && y.ticket.isNone && y.done.isNone)
  let s2 := setTray s1 f t { x with enable := false, slots := [], waiting := none, flight := fl.filter fun (y : Flight) => y.done.isNone }
  let s3 := { s2 with tk := { s2.tk with held := tmap s2.tk.held fun _ (k : Ticket) => if k.origin = .tray f t then { k with intact := false } else k } }
  ((fl.filter fun (y : Flight) => y.done.isSome).filterMap (·.ticket)).foldl issueTicket s3

/-- The reset state of a tray (R196). -/
def inResetState (x : Tray) : Bool := x.expect == 1 && x.crHead == 0 && x.crTail == 0 && x.eggC == 0 && x.slots.isEmpty

/-- R196, R223: RESET of a tray; its set-up registers, its violation counts and its quarantine stay. -/
def resetTray (x : Tray) : Tray :=
  { x with expect := 1, crHead := 0, crTail := 0, cqHead := 0, readErr := false, quarFill := false, flight := [], waiting := none, ring := [], headSince := 0,
           rdIssued := 0, rdDone := 0, rdRuns := [], slots := [], lastIssued := 0, lastCmd := none, eggC := 0, eggT0 := 0 }

/-- R196: an enable that is refused. HELD and the standby of a mirrored pair take no commands (R468, R457). -/
def enableRefused (s : State) (f t : Nat) (x : Tray) : Bool :=
  let lg := fun n => decide (n < 6) || decide (16 < n)
  lg (crLog2 x) || lg (cqLog2 x) || eCount x == 0 || trayQuota x == 0 || !(fnOf s f).dbEnable || !inResetState x || x.flr ||
  ((fnOf s f).resetting && trayHeld s f t != 0) ||
  decide (s.mgmt.state = .held) || (mirrored s && s.dup.role == 2)

/-- A write of TRAY_CTL (Table 5.13). -/
def writeTrayCtl (s : State) (f t : Nat) (v : Dbl) : State :=
  if !trayExists s f t then s
  else
    let en := v.getLsbD 0
    let x0 := trayOf s f t
    let x1 := if v.getLsbD 2 ∧ ¬ x0.enable ∧ trayIdle s f t then resetTray x0 else x0
    let x2 := { x1 with pushEn := v.getLsbD 1, msixEn := v.getLsbD 3 }
    if en ∧ ¬ x0.enable then
      if enableRefused s f t x2 then setTray s f t { x2 with cfgErr := true } else setTray s f t { x2 with enable := true }
    else if ¬ en ∧ x0.enable then disableTray (setTray s f t x2) f t
    else setTray s f t x2

/-! Functions (R188, R229). -/

/-- The local trays of a function that are not in their default state. -/
def listedTrays (s : State) (f : Nat) : List Nat := (s.host.trays.filter fun e => e.1 / 2048 == f).map fun e => e.1 % 2048

/-- R229: a tray of a reset function returns to its reset state once it is IDLE. -/
def flrIdle (s : State) (f t : Nat) : State := if (trayOf s f t).flr && trayIdle s f t then setTray s f t {} else s

/-- R229: a tray of a reset function is disabled; its setup registers, its quarantine, its egg timer and its violation counts clear at once, its counters once it is IDLE. -/
def flrTray (s : State) (f t : Nat) : State :=
  let s1 := disableTray s f t
  let x := trayOf s1 f t
  flrIdle (setTray s1 f t { expect := x.expect, crHead := x.crHead, crTail := x.crTail, cqHead := x.cqHead, readErr := x.readErr, flight := x.flight,
                            rdIssued := x.rdIssued, rdDone := x.rdDone, rdRuns := x.rdRuns, lastIssued := x.lastIssued, lastCmd := x.lastCmd, flr := true }) f t

/-- R107, R229: a ticket returns, and with it a tray of a reset function may fall IDLE. -/
def endTicket (s : State) (k : Nat) : State :=
  match (ticketOf s k).bind fun x => originTray x.origin with
  | some (f, t) => flrIdle (dropTicket s k) f t
  | none => dropTicket s k

/-- The tickets whose return is due. -/
def dueTickets (s : State) : List Nat := (s.tk.held.filter fun e => decide (e.2.state = .issued)).map (·.1)

/-- R229: reset a function. -/
def resetFn (s : State) (f : Nat) : State :=
  let s1 := (listedTrays s f).foldl (fun st t => flrTray st f t) s
  let fn := fnOf s1 f
  setFn s1 f { valid := fn.valid, tenant := fn.tenant, ntrays := fn.ntrays, firstTray := fn.firstTray, vlogCount := fn.vlogCount, resetting := true }

/-- R188: the tray range of a map entry meets another valid entry's; an empty range meets none. -/
def mapOverlap (s : State) (f first n : Nat) : Bool :=
  decide (0 < n) && s.host.fns.any fun e => e.1 != f && e.2.valid && decide (0 < e.2.ntrays) && decide (first < e.2.firstTray + e.2.ntrays) && decide (e.2.firstTray < first + n)

/-- A write of a function map entry (Table 5.3, R188, R233). -/
def writeFnMap (s : State) (f : Nat) (v : Dbl) : State :=
  let n := v.toNat
  let fn := fnOf s f
  let tenant := if f % 8192 = 0 then 0 else bits n 44 32
  let nt := bits n 27 16
  let first := bits n 14 0
  if 16384 ≤ f then s
  else if fn.valid then
    if bitOf n 63 then s
    else
      let s1 := resetFn s f
      setFn s1 f { fnOf s1 f with valid := false, tenant := tenant, ntrays := nt, firstTray := first }
  else if bitOf n 63 then
    if !fnExists s.part f || absentKey s tenant || decide ((if f = 0 then 2047 else 2048) < nt) || decide (nTrays s.part < first + nt) || mapOverlap s f first nt then
      { s with host := { s.host with mapErr := true } }
    else setFn s f { fn with valid := true, tenant := tenant, ntrays := nt, firstTray := first, vlogCount := 0 }
  else setFn s f { fn with tenant := tenant, ntrays := nt, firstTray := first }

/-- R228: a write of QUAR_RELEASE. -/
def writeQuarRelease (s : State) (v : Dbl) : State :=
  match trayHome s (bits v.toNat 14 0) with
  | none => s
  | some (f, t) =>
    let x := trayOf s f t
    if x.quar then
      trayNote (setTray s f t { x with quar := false, quarFill := false, winStart := none, window := 0, unlogged := 0 }) f t 0x08 0x00 0 []
    else s

/-- A write of TK_RESERVE (Table 5.20). -/
def writeTkReserve (s : State) (v : Dbl) : State :=
  let fx := bits v.toNat 31 16
  let op := bits v.toNat 15 0
  { s with tk := { s.tk with fxReserve := if fx ≤ 8192 then fx else s.tk.fxReserve, opReserve := if op ≤ 8192 then op else s.tk.opReserve } }

/-- A write of a tenant's quota (Table 5.22, R233). -/
def writeQuota (s : State) (key : Nat) (v : Dbl) : State :=
  let q := bits v.toNat 16 0
  if 8191 < key ∨ absentKey s key ∨ 65536 < q then s
  else { s with tk := { s.tk with quotas := tset s.tk.quotas key 0 q } }

end Sys2Proof.Machine
end

