-- ==== Sys2Proof/Machine/JournalCmds.lean ====
section
/-! DEFINITION. The journal's events: durability and apply (R57, R111), write failure (R112, R534), seal ticks, closes and seals (R122 to R126), the drain (R131 to R133). -/
namespace Sys2Proof.Machine

/-- R111, R458: `n` may become the durable frontier, on a die that writes its own journal: numbered, above the frontier, below a stop, mirrored where mirroring runs, not between the two records of a POST2. -/
def durableOk (s : State) (n : Nat) : Bool :=
  let j := s.jn
  decide (j.durable < n) && decide (n < j.nextSeq) && (!j.stopped || decide (n < j.stopAt)) && (!mirrors s || decide (n ≤ s.dup.acked)) &&
  s.mgmt.state != .down && !isStandby s &&
  (match recOfSeq { j with wm := 0 } n with | some (_, r) => !(r.kind == 0x06 && !r.rflags.getLsbD 5) | none => false)

/-- The posting a cross-device record belongs to (Table 3.5). -/
def recPosting (r : Rec) : Nat := postKey (field r.body 0 2 % 2048) (halfAt r.body 4) (field r.body 8 8)

/-- What a durable commit or abort record needs of its prepare. -/
def prepFor (s : State) (r : Rec) : XPrep :=
  if rXdev r then (match tget s.fab.coords (field r.body 8 8) with | some v => coordPrep v | none => {})
  else (match tget s.fab.parts (recPosting r) with | some v => partPrep v | none => {})

/-- R51: a posting's entry keeps the day totals that its prepare is about to raise. -/
def noteDays (s : State) (r : Rec) : State :=
  if r.status ≠ 0 then s
  else if xdevPrepare r then { s with fab := { s.fab with coords := tmod s.fab.coords r.seq fun v => { v with days := daysOf s.led (prepareLegs r) } } }
  else if r.kind = 0x30 then { s with fab := { s.fab with parts := tmod s.fab.parts (recPosting r) fun v => { v with days := daysOf s.led (prepareLegs r) } } }
  else s

/-- R69, R406: the lines that the apply of an OPEN writes whole: the record's, and those of the nodes it makes. -/
def openedLines (s s' : State) (r : Rec) : List Nat :=
  if r.kind = 0x08 ∧ r.status = 0 then
    (recLine s' (legAt r 0).account).toList ++ ((List.range (s'.led.nextNode - s.led.nextNode)).map (s.led.nextNode + ·)).flatMap (nodeLines s')
  else []

/-- R57: apply a durable record to the books. -/
def applyRec (s : State) (r : Rec) : State :=
  let s1 := { noteDays s r with led := recordEffect s.led r (prepFor s r) (cfgRevDays s) }
  unpoison s1 (openedLines s s1 r)

/-- The ticket of a record's waiter, while its tray is intact. -/
def waiterTicket (s : State) (w : Waiter) : Option Ticket :=
  let k := match w with
    | .ctx e c _ => (ctxOf s e c).ticket
    | .decision x => match tget s.fab.coords x with | some v => v.ticket | none => none
    | _ => none
  match k with
  | none => none
  | some n => match ticketOf s n with | some t => if t.intact then some t else none | none => none

/-- R136: the tray's last journaled command follows a durable record. -/
def noteLast (s : State) (w : Waiter) (r : Rec) : State :=
  match waiterTicket s w with
  | none => s
  | some tk => match originTray tk.origin with
    | none => s
    | some (f, t) =>
      let x := trayOf s f t
      if rInternal r then s
      else if rXdev r && (r.kind == 0x31 || r.kind == 0x32) then
        match x.lastCmd with
        | some l => if l.seq = field r.body 8 8 then setTray s f t { x with lastCmd := some { l with status := byteAt r.body 2, info := r.info, undecided := false } } else s
        | none => s
      else if r.kind = 0x06 ∧ r.rflags.getLsbD 5 then s
      else setTray s f t { x with lastCmd := some { seq := r.seq, kind := r.kind, rflags := r.rflags, status := if xdevPrepare r then 0 else r.status,
                                                    info := if xdevPrepare r then 0 else r.info, traySeq := r.traySeq, undecided := xdevPrepare r } }

/-- The context whose record is durable, still at the epoch that asked for it. -/
def ctxLive (s : State) (e c : Nat) (ep : Half) : Bool := let x := ctxOf s e c; x.epoch == ep && x.state != .sweeping

/-- R174: the entry of a context once its record is durable. -/
def entryDurable (x : RecEntry) (r : Rec) : RecEntry :=
  { x with state := if r.status = 0 ∧ (xdevPrepare r ∨ r.kind = 0x30) then .prepared else .durable }

/-- R174: the entry of a context that its own microcode runs, once a record of it is durable: a prepared posting's stays PREPARED, a refusal is APPLIED. -/
def microDurable (x : RecEntry) (r : Rec) : RecEntry :=
  if x.state = .prepared then x else if r.status = 0 then entryDurable x r else { x with state := .applied }

/-- R79, R81: what the context's command does once its last record is durable and applied. -/
def ctxDurable (s : State) (e c : Nat) (r : Rec) : State :=
  let x := ctxOf s e c
  match x.ticket with
  | none => s
  | some k =>
    match ticketOf s k with
    | none => s
    | some t =>
      if xdevPrepare r then
        match tget s.fab.coords r.seq with
        | none => s
        | some v => coordAdvance (setCoord (wake (jaAnswer (setCtx s e c { x with entry := entryDurable x.entry r }) e c r.seq) e c unitJA) r.seq { v with prepDurable := true }) r.seq
      else if r.kind = 0x30 then
        let p := recPosting r
        if r.status = 0 then partPrepared s p
        else match tget s.fab.parts p with
          | none => s
          | some v => partRefused (partCtxEnd s v) p v r.status (if r.info.getLsbD 4 then some (bits r.info.toNat 3 0) else none)
      else if r.kind = 0x13 ∧ r.status = 0 then
        match s.jn.ckpt with
        | none => s
        | some q =>
          let q' := { q with day := s.led.day, daySeq := s.led.daySeq, revStart := revStart s.led (cfgRevDays s), imaging := true }
          wake (jaAnswer (setCtx { s with jn := { s.jn with ckpt := some q' } } e c { x with phase := .image, entry := { x.entry with state := .applied } }) e c r.seq) e c unitJA
      else if r.kind = 0x06 ∧ ¬ r.rflags.getLsbD 5 then s
      else
        let s1 := if r.kind = 0x18 ∧ r.status = 0 then keyFlip s t.cmd else s
        let resp := if (r.kind = 0x10 ∨ r.kind = 0x11) ∧ r.status = 0 then readResponse s1 t.cmd else x.compl.resp
        finishCtx (setCtx s1 e c { x with compl := { x.compl with resp := resp } }) e c

/-- R533: a reset participant context's PREPARE record is durable: PREPARED with the locks to the resolver, or REFUSED. -/
def sweptPart (s : State) (e c : Nat) (r : Rec) : State :=
  let p := recPosting r
  match tget s.fab.parts p with
  | none => s
  | some v =>
    let x := ctxOf s e c
    let s1 := setCtx s e c { x with ticket := none, entry := {}, phase := .idle }
    if r.status = 0 then partPrepared (setPart (retagDead s1 (ctxOwner e c) x.epoch p) p { v with ctx := none }) p
    else partRefused (releaseDead s1 (ctxOwner e c) x.epoch) p { v with ctx := none } r.status (if r.info.getLsbD 4 then some (bits r.info.toNat 3 0) else none)

/-- R138: the writer visits the next accounts in ascending order, up to `n` of them, until it meets one that is locked. -/
def visitAccounts : Nat → Tbl Lock → Tbl Hold → Ckpt → Tbl Account → Ckpt
  | 0, _, _, k, _ => k
  | _, _, _, k, [] => k
  | n + 1, locks, holds, k, (i, a) :: r =>
    if (tget locks i).isSome then k
    else visitAccounts n locks holds
      { k with next := i + 1, accounts := k.accounts ++ [(i, a)], holds := k.holds ++ tfilter holds fun h _ => holdKeyAccount h == i } r

/-- R138: how far the image writer has come when a record takes effect: any number of further accounts, which the spec leaves open. -/
def ckptVisit (s : State) : State :=
  match s.jn.ckpt with
  | none => s
  | some k =>
    if !k.imaging || k.written then s
    else
      { s with fresh := s.fresh + 1,
               jn := { s.jn with ckpt := some (visitAccounts (Config.points s.fresh) s.locks s.led.holds k (tfilter s.led.accounts fun i _ => decide (k.next ≤ i))) } }

/-- R111: one record becomes durable, takes effect, and is reported to who waits for it. A reset context's record is left to the sweeper (R175). -/
def recDurable (s : State) (r : Rec) : State :=
  let w := (tget s.jn.waiters r.seq).getD .nobody
  let sv := ckptVisit s
  let s0 := { sv with jn := { sv.jn with durable := r.seq, waiters := tdel s.jn.waiters r.seq } }
  let s1 := noteLast s0 w r
  match w with
  | .ctx e c ep =>
    let s1 := trace s1 e c trDurable 0 r.seq
    if ctxLive s1 e c ep then ctxDurable (applyRec s1 r) e c r
    else if xdevPrepare r then handOver (applyRec s1 r) e c r.seq
    else if r.kind = 0x30 then sweptPart (applyRec s1 r) e c r
    else
      let x := ctxOf s1 e c
      setCtx s1 e c { x with entry := entryDurable x.entry r }
  | .micro e c ep =>
    let x := ctxOf s1 e c
    if ctxLive s1 e c ep ∨ x.state = .sweeping then
      trace (setCtx s1 e c { x with entry := microDurable x.entry r }) e c trDurable 0 r.seq
    else s1
  | .decision x => coordDecided (applyRec s1 r) x
  | .part p => partDecided (applyRec s1 r) p r.seq
  | .ckpt e c ep =>
    let s2 := { s1 with jn := { s1.jn with ckpt := none } }
    if ctxLive s2 e c ep then finishCtx s2 e c else s2
  | .start => s1
  | .nobody => s1

/-- The blocks once the frontier is `n`: DURABLE_SEQ of each that is not closed. -/
def frontierBlocks (bs : List Block) (n : Nat) : List Block :=
  bs.map fun b => if b.state ≠ .closed ∧ b.firstSeq ≤ n then
    { b with durableSeq := min n (((b.recs.getLast?).map (·.seq)).getD n) } else b

/-- The records between the frontier and `n`, ascending. -/
def newlyDurable (j : Journal) (n : Nat) : List Rec := (j.blocks.flatMap (·.recs)).filter fun r => decide (j.durable < r.seq ∧ r.seq ≤ n)

/-- The store acknowledges a DURABLE_SEQ write of `n` (R111). -/
def execJournalDurable (n : Nat) (s : State) : Res :=
  .next (if durableOk s n then
      let s1 := (newlyDurable s.jn n).foldl recDurable { s with jn := { s.jn with blocks := frontierBlocks s.jn.blocks n } }
      advanceAll { s1 with jn := { s1.jn with durable := n } }
    else s)

/-- The VOID record over a failed one (R112, Table 3.4). -/
def voidOf (r : Rec) : Rec := { seq := r.seq, kind := 0xE2, tray := 0x8000, time := r.time, ref := r.kind.setWidth 64, body := zeros r.body.length }

/-- R112, R447, R448: the record a context waits for is not made durable. `stop` says that no later record will be either. -/
def ctxLost (s : State) (e c : Nat) (r : Rec) (stop : Bool) : State :=
  if r.kind = 0x30 then
    let p := recPosting r
    match tget s.fab.parts p with
    | none => s
    | some v => partRefused (partCtxEnd s v) p v stJournalFault none
  else if xdevPrepare r then
    match tget s.fab.coords r.seq with
    | none => failCtx s e c
    | some v =>
      if stop then failCtx (dropCoord s r.seq) e c
      else coordAdvance (setCoord s r.seq { v with prepFailed := true }) r.seq
  else
    let target := match (ctxOf s e c).ticket with
      | some k => match ticketOf s k with | some t => if cOp t.cmd = 0x18 then some (kTarget t.cmd) else none | none => none
      | none => none
    let s1 := match target with | some t => keyAbandon s t | none => s
    let s2 := if r.kind = 0x13 ∧ r.status = 0 then { s1 with jn := { s1.jn with ckpt := none } } else s1
    failCtx s2 e c

/-- What the loss of a record does to who waits for it (R112, R500, R534). -/
def recLost (s : State) (r : Rec) (stop : Bool) : State :=
  let w := (tget s.jn.waiters r.seq).getD .nobody
  let s0 := { s with jn := { s.jn with waiters := tdel s.jn.waiters r.seq } }
  match w with
  | .ctx e c ep =>
    if r.kind = 0x06 ∧ r.rflags.getLsbD 5 then s0
    else if ctxLive s0 e c ep then ctxLost s0 e c r stop
    else if xdevPrepare r then prepLost s0 e c r.seq
    else if r.kind = 0x30 then sweptPart s0 e c { r with status := stJournalFault, info := 0 }
    else
      let x := ctxOf s0 e c
      setCtx s0 e c { x with failed := true }
  | .micro e c _ =>
    let x := ctxOf s0 e c
    setCtx s0 e c { x with failed := true }
  | .decision x =>
    if stop then s0 else match tget s0.fab.coords x with
      | none => s0
      | some v => coordAdvance (setCoord s0 x { v with due := true }) x
  | .part p =>
    if stop then s0 else match tget s0.fab.parts p with
      | none => s0
      | some v => partAdvance (setPart s0 p { v with due := true }) p
  | .ckpt e c ep =>
    let s1 := { s0 with jn := { s0.jn with ckpt := none } }
    if ctxLive s1 e c ep then failCtx s1 e c else s1
  | .start => enterHeld s0 0x0E
  | .nobody => s0

/-- The records that a failed write takes with it: both of a POST2, else the one. -/
def failedRecs (j : Journal) (seq : Nat) : List Rec :=
  let all := j.blocks.flatMap (·.recs)
  match all.find? fun r => r.seq == seq with
  | none => []
  | some r =>
    if r.kind = 0x06 then all.filter fun x => x.kind == 0x06 && (x.seq == seq || (x.seq == seq + 1 && !r.rflags.getLsbD 5) || (x.seq + 1 == seq && r.rflags.getLsbD 5))
    else [r]

/-- R112: write VOID over the records given. -/
def voidBlocks (bs : List Block) (rs : List Rec) : List Block :=
  bs.map fun b => { b with recs := b.recs.map fun r => if rs.any (fun x => x.seq == r.seq) then voidOf r else r }

/-- R112: the controller stops at `k`. -/
def stopJournal (s : State) (k : Nat) : State :=
  let s1 := logFault { s with jn := { s.jn with stopped := true, stopAt := k } } 0x08 2 0 0 k 0
  let s2 := pulseSrc s1 0x142
  let lost := (s2.jn.blocks.flatMap (·.recs)).filter fun r => decide (k ≤ r.seq)
  enterHeld (lost.foldl (fun st r => recLost st r true) s2) 0x0E

/-- The store reports that it cannot write a record (R112): a VOID takes its place, or the controller stops. -/
def execJournalWriteFail (seq : Nat) (voidOk : Bool) (s : State) : Res :=
  .next (
    let rs := failedRecs s.jn seq
    if rs.isEmpty ∨ seq ≤ s.jn.durable ∨ s.jn.stopped ∨ s.mgmt.state = .down then s
    else if voidOk then
      let bs := voidBlocks s.jn.blocks rs
      let s1 := logFault { s with jn := { s.jn with blocks := bs, sealedSeq := if rs.any fun r => r.kind == 0xE0 then latestSeal bs else s.jn.sealedSeq } } 0x08 1 0 0 seq 0
      rs.foldl (fun st r => recLost st r false) (mirrorOut s1 (rs.map voidOf))
    else stopJournal s ((rs.head?.map (·.seq)).getD seq))

/-! Seal ticks and closes. -/

/-- A block holds at least one record of a command (R122). -/
def holdsCommand (b : Block) : Bool := b.recs.any fun r => decide (r.kind.toNat < 0xE0)

/-- R124: the SEAL records that are ready go into the block that is open as the tick occurs. None is written while blocks are UNSEALED (R126). -/
def placeSeals (s : State) : State :=
  match s.jn.sealDone with
  | [] => s
  | rs =>
    if s.jn.unsealed ∨ s.jn.stopped then { s with jn := { s.jn with sealDone := [] } }
    else if canAppend s rs then
      appendRecs { s with jn := { s.jn with sealDone := [], sealedSeq := ((rs.getLast?).map fun r => field r.body 8 8).getD s.jn.sealedSeq } } rs .nobody
    else s

/-- R122, R151: the block that a seal tick closes: one that has just filled at this instant, else the open one. -/
def tickBlock (s : State) : Option Block :=
  match (match s.jn.filledAt with
    | some (t, n) => if t = s.tb then s.jn.blocks.find? fun b => b.no == n && decide (b.state = .closing) else none
    | none => none) with
  | some b => some b
  | none => openBlock s.jn

/-- A seal tick (R122, R124, R126): the timebase has reached a multiple of 100,000. A seal that failed at this very instant leaves UNSEALED in force (R151). -/
def execSealTick (s : State) : Res :=
  .next (if s.tb % 100000 ≠ 0 ∨ s.tb = s.jn.lastTick ∨ s.mgmt.state = .down ∨ isStandby s then s
    else
      let s0 := placeSeals { s with jn := { s.jn with lastTick := s.tb } }
      match tickBlock s0 with
      | none => s0
      | some b =>
        if !holdsCommand b then s0
        else
          let s1 := { s0 with jn := { s0.jn with blocks := putBlock s0.jn.blocks { b with state := .closing, flags := b.flags ||| 4 } } }
          if !canSeal s1 then sealFail s1
          else if s1.jn.sealFailAt = some s1.tb then s1
          else { s1 with jn := { s1.jn with unsealed := false } })

/-- R132: the device reads the watermark double. -/
def readWm (s : State) : State :=
  emit { s with jn := { s.jn with wmReads := s.jn.wmReads + 1, wmLastRead := s.tb } } (.read s.jn.drainFn s.jn.wmAddr 8)

/-- R468, R496: the drain's DMA is permitted. -/
def drainRuns (s : State) : Bool :=
  s.jn.enable && !s.board.powerFail && (s.mgmt.state == .service || s.mgmt.state == .quiescing)

/-- JSTATUS.WAITING: a closed block waits for a free drain-ring slot (R130, R131). -/
def drainWaits (s : State) : Bool :=
  s.jn.enable && !s.jn.starting && decide (s.jn.wm + 2 ^ s.jn.slotsLog2 ≤ s.jn.drained) &&
  s.jn.blocks.any fun b => b.no == s.jn.drained + 1 && decide (b.state = .closed)

/-- R387: WAITING going from 0 to 1 pulses its source. -/
def waitPulse (s t : State) : State := if drainWaits t && !drainWaits s then pulseSrc t 0x143 else t

/-- The next block in the chain takes its PREV_HASH. -/
def linkNext (bs : List Block) (n : Nat) (h : BitVec 256) : List Block :=
  bs.map fun b => if b.no = n + 1 then { b with prevHash := h } else b

/-- Block `n` closes once every record in it is durable (R122, R123). -/
def execBlockClose (n : Nat) (s : State) : Res :=
  .next (match s.jn.blocks.find? fun b => b.no == n && decide (b.state = .closing) with
    | none => s
    | some b =>
      let last := ((b.recs.getLast?).map (·.seq)).getD 0
      if n ≠ s.jn.lastClosed + 1 ∨ s.jn.durable < last ∨ s.mgmt.state = .down then s
      else
        let b1 := { b with state := .closed, lastSeq := last, durableSeq := last, closeTime := s.tb,
                           flags := if s.board.powerFail then b.flags ||| 8 else b.flags }
        let h := chainHash b1
        let s1 := pulseSrc { s with jn := { s.jn with blocks := linkNext (putBlock s.jn.blocks b1) n h, lastClosed := n, lastHash := h } } 0x140
        let s1 := waitPulse s s1
        let s2 := if drainRuns s1 then readWm s1 else s1
        if b1.flags.getLsbD 2 ∧ ¬ s.board.powerFail then
          if canSeal s2 then
            { s2 with jn := { s2.jn with sealReqs := s2.jn.sealReqs ++ [{ block := n, seq := last, time := b1.closeTime, device := b1.device, boot := b1.boot, head := h }] } }
          else sealFail s2
        else s2)

/-- The message a seal signs (R125). -/
def sealMessage (q : SealReq) : Bytes :=
  le 2 q.device.toNat ++ le 2 q.boot.toNat ++ le 8 q.block ++ le 8 q.seq ++ le 8 q.time ++ le 32 q.head.toNat

/-- A seal request fails (R126). -/
def sealLost (s : State) (q : SealReq) : State := logFault (sealFail s) 0x08 3 0 0 q.seq 0

/-- The SEAL record (Table 3.8). -/
def sealRec (s : State) (q : SealReq) (priv : BitVec 256) (redraws : Nat) : Rec :=
  { kind := 0xE0, tray := 0x8000,
    body := le 8 q.block ++ le 8 q.seq ++ le 8 q.time ++ [cfgSealAlg s, BitVec.ofNat 8 redraws] ++
      le 2 (match s.store.sealKey with | some k => k.keyId.toNat | none => 0) ++ zeros 4 ++ le 32 q.head.toNat ++
      le 64 (Config.sealSign (cfgSealAlg s) priv (sealMessage q) s.fresh).toNat }

/-- Seal unit 0 answers the oldest seal request (R124, R126, R149): the SEAL record is ready for the next seal tick. It ends a ladle request that
it has begun before it takes the seal (R145). -/
def execSealResult (ok : Bool) (s : State) : Res :=
  .next (match s.jn.sealReqs with
    | [] => s
    | q :: rest =>
      if unitBusy s 0 then s
      else
      let s0 := startJobs { s with jn := { s.jn with sealReqs := rest } }
      match s.store.sealPriv with
      | none => sealLost s0 q
      | some priv =>
        let redraws := Config.nonceRedraws s.fresh
        let r := sealRec s q priv redraws
        if ¬ ok ∨ 16 ≤ redraws ∨ s.store.sealUnits = 0 then sealLost s0 q
        else if s.jn.stopped ∨ s.jn.unsealed then s0
        else { s0 with fresh := s.fresh + 1, jn := { s0.jn with sealDone := s0.jn.sealDone ++ [r] } })

/-! The drain. -/

/-- R177, R445: nothing holds block `b` back. -/
def drainable (s : State) (b : Block) : Bool :=
  let seqs := b.recs.map (·.seq)
  !(s.eng.ctxs.any fun x => decide (x.2.entry.state = .durable) && seqs.any fun q => decide (x.2.entry.seq ≤ q ∧ q < x.2.entry.seq + x.2.entry.nrec)) &&
  !(s.fab.coords.any fun x => seqs.contains x.1)

/-- R131: write a block to its drain-ring slot: the records first, the header last. -/
def copyBlock (s : State) (b : Block) : State :=
  let base := s.jn.drainBase + BitVec.ofNat 64 (((b.no - 1) % 2 ^ s.jn.slotsLog2) * 65536)
  dmaOut (dmaOut s s.jn.drainFn (base + 96) ((b.recs.map recordBytes).flatten)) s.jn.drainFn base (headerBytes b)

/-- The next closed block is copied into the drain ring (R131). -/
def execDrainBlockCopy (s : State) : Res :=
  .next (match s.jn.blocks.find? fun b => b.no == s.jn.drained + 1 && decide (b.state = .closed) with
    | none => s
    | some b =>
      if drainRuns s ∧ ¬ s.jn.starting ∧ b.no ≤ s.jn.wm + 2 ^ s.jn.slotsLog2 ∧ drainable s b then
        waitPulse s (copyBlock { s with jn := { s.jn with drained := b.no } } b)
      else s)

/-- A write of JCTL (Table 3.10, R468). -/
def writeJctl (s : State) (v : Dbl) : State :=
  let en := v.getLsbD 0
  if s.jn.enable then
    if en then s else { s with jn := { s.jn with enable := false, starting := false } }
  else
    let fn := bits v.toNat 31 16
    let k := bits v.toNat 12 8
    let s1 := { s with jn := { s.jn with drainFn := fn, slotsLog2 := k, port := v.getLsbD 1 } }
    if !en then s1
    else if k < 4 ∨ 13 < k ∨ ¬ isOperatorFn s fn ∨ s.mgmt.state = .held then { s1 with jn := { s1.jn with cfgErr := true } }
    else readWm { s1 with jn := { s1.jn with enable := true, starting := true } }

/-- Write JCTL (R131, R132). -/
def execDrainEnable (v : Dbl) (s : State) : Res := .next (writeJctl s v)

/-- The periodic watermark read falls due (R132). -/
def execWatermarkPoll (s : State) : Res :=
  .next (if drainRuns s ∧ ¬ s.jn.starting ∧ s.jn.wm < s.jn.drained ∧ s.jn.wmLastRead + 1000 ≤ s.tb then readWm s else s)

/-- A read of the watermark double returns (R132). -/
def execWatermarkRead (v : Dbl) (s : State) : Res :=
  .next (if s.jn.wmReads = 0 then s
    else
      let s0 := { s with jn := { s.jn with wmReads := s.jn.wmReads - 1 } }
      if !s0.jn.enable then s0
      else
        let ok := s0.jn.wm ≤ v.toNat ∧ v.toNat ≤ s0.jn.drained
        let s1 := if ok then { s0 with jn := { s0.jn with wm := v.toNat } } else { s0 with jn := { s0.jn with wmErr := true } }
        let s2 := if s1.jn.starting then { s1 with jn := { s1.jn with drained := s1.jn.wm, starting := false } } else s1
        advanceAll (retestAll (waitPulse s s2)))

/-- A read of the watermark double fails (R132). -/
def execWatermarkReadFail (s : State) : Res :=
  .next (if s.jn.wmReads = 0 then s
    else
      let s0 := { s with jn := { s.jn with wmReads := s.jn.wmReads - 1, wmErr := true } }
      let s1 := if s0.jn.starting then { s0 with jn := { s0.jn with drained := s0.jn.wm, starting := false } } else s0
      emit (waitPulse s s1) (.aer s1.jn.drainFn))

/-- Write JREDRAIN (R133). -/
def writeJredrain (s : State) (v : Dbl) : State :=
  let n := v.toNat
  if s.jn.enable ∧ s.jn.wm < n ∧ n ≤ s.jn.drained then
    match s.jn.blocks.find? fun b => b.no == n with
    | some b => if drainRuns s then copyBlock s b else s
    | none => s
  else { s with jn := { s.jn with wmErr := true } }

/-- Write JREDRAIN (R133). -/
def execJredrain (v : Dbl) (s : State) : Res := .next (writeJredrain s v)

end Sys2Proof.Machine
end

