-- ==== Sys2Proof/Machine/LinkCmds.lean ====
section
/-! DEFINITION. Fabric links: flits, retry, bring-up, violations, the timebase exchange, FAB_CTL (R428 to R435, R443, R454, R465). -/
namespace Sys2Proof.Machine

/-! Bring-up (R434, R435). -/

/-- The number by which the fabric knows this die's link `k` (R436). -/
def linkNumber (s : State) (k : Nat) : Nat := k % 32 + 32 * b2n s.fab.die

/-- The role this die has on a link (R435). -/
def linkRole (s : State) (k : Nat) : Nat := if k = 32 then 3 else if isCx s k then 1 else 0

/-- The shape fields of FAB_CTL (Table 12.16), bits 27 to 18. -/
def shapeField (s : State) : Nat := s.fab.xm1 * 64 + s.fab.ym1 * 8 + s.fab.zm1

/-- The IDENT payload (R435). -/
def identBytes (s : State) (k : Nat) : Bytes :=
  [3, 0] ++ le 2 (ownEndpoint s) ++ [BitVec.ofNat 8 (linkNumber s k), BitVec.ofNat 8 (linkRole s k)] ++ zeros 2 ++ le 4 s.fab.epoch.toNat ++
  le 2 (shapeField s) ++ zeros 2 ++ ((List.range 8).map fun i => le 2 (poolDepth s k (i % 4) (i / 4))).flatten

/-- A link goes DOWN with a reason: what it buffers is discarded (R433, R434). -/
def downLink (s : State) (k : Nat) (reason : Byte) : State :=
  changeLink s k { linkOf s k with state := .down, reason := reason, since := s.tb, unacked := [], txQueue := [], retrainFrom := none, keeps := false }

/-- A link starts to train afresh: sequence numbers, credits and buffers begin again. -/
def trainLink (s : State) (k : Nat) : State :=
  changeLink s k { linkOf s k with state := .training, reason := 0, since := s.tb, txNext := 0, unacked := [], txQueue := [], credits := [], rxExpect := 0,
                                   rxUsed := [], rxParts := [], reqSent := 0, locked := false, goodWords := 0, badWords := 0, keeps := false,
                                   retrainFrom := none }

/-- R434, R524: a link that is UP retrains and keeps its retry buffer and sequence numbers. -/
def retrainLink (s : State) (k : Nat) : State :=
  let l := linkOf s k
  changeLink s k { l with state := .training, since := s.tb, reqSent := 0, locked := false, goodWords := 0, badWords := 0, keeps := true, retrains := sat (2 ^ 32 - 1) (l.retrains + 1) }

/-- R433: a link retrains for want of progress; it has 10 ms to be UP again. -/
def retryRetrain (s : State) (k : Nat) : State :=
  let s1 := retrainLink s k
  setLink s1 k { linkOf s1 k with retrainFrom := some s.tb }

/-- The fabric unit runs its links: ENABLE is 1 and the die is not HELD (R465, R468). -/
def linksRun (s : State) : Bool := s.fab.enable && s.mgmt.state != .held && s.mgmt.state != .down

/-- A write of LINK_CTL (Table 12.20, R434). -/
def writeLinkCtl (s : State) (k : Nat) (v : Dbl) : State :=
  if nLinks s.part ≤ k then s
  else
    let en := v.getLsbD 0
    let s1 := setLink s k { linkOf s k with rate := v.getLsbD 7, enable := en }
    let l := linkOf s1 k
    if !en then (if l.state = .disabled then s1 else
      changeLink s1 k { l with state := .disabled, reason := 1, since := s.tb, unacked := [], txQueue := [], retrainFrom := none, keeps := false })
    else if !linksRun s1 then s1
    else if l.state = .disabled then trainLink s1 k
    else if v.getLsbD 1 ∧ l.state = .down then trainLink s1 k
    else if v.getLsbD 1 ∧ l.state = .up then retrainLink s1 k
    else s1

def execLinkEnable (k : Nat) (v : Dbl) (s : State) : Res := .next (writeLinkCtl s k v)

/-- R434: RETRAIN written with the other fields of LINK_CTL as they stand. -/
def execLinkRetrain (k : Nat) (s : State) : Res :=
  .next (
    let l := linkOf s k
    if k < nLinks s.part ∧ l.enable ∧ linksRun s then
      (if l.state = .down then trainLink s k else if l.state = .up then retrainLink s k else s)
    else s)

/-- R434, R524: training ends, given its reference clock. -/
def execTrainingDone (k : Nat) (s : State) : Res :=
  .next (
    let l := linkOf s k
    if l.state = .training ∧ s.board.fabOk then changeLink s k { l with state := .lock, since := s.tb } else s)

def execTrainingTimeout (k : Nat) (s : State) : Res :=
  .next (
    let l := linkOf s k
    if l.state = .training ∧ l.since + 500000000 ≤ s.tb then downLink s k 0x02 else s)

def execLockTimeout (k : Nat) (s : State) : Res :=
  .next (
    let l := linkOf s k
    if l.state = .lock ∧ l.since + 50000000 ≤ s.tb then downLink s k 0x03 else s)

/-- R433: a retry retrain that has not come UP within 10 ms. -/
def execRetrainDeadline (k : Nat) (s : State) : Res :=
  .next (
    let l := linkOf s k
    match l.retrainFrom with
    | none => s
    | some t => if l.state ≠ .up ∧ t + 10000000 ≤ s.tb then downLink s k 0x07 else s)

/-- R429: the header that follows a count: the mark and the next count. -/
def headerAfter (n : Nat) : BitVec 20 := BitVec.ofNat 20 (0x2B5 * 1024 + (n + 1) % 1024)

/-- R429: a receiver takes a codeword: four in a row that decode with the mark and with consecutive counts lock it, and eight in a row that are
uncorrectable or break either rule lose the lock. A locked receiver's count goes on over a bad codeword (DEDUCED, log 108). -/
def takeWord (l : Link) (w : Codeword) : Link :=
  let next := (l.lastWord + 1) % 1024
  let marked := w.ok && w.header.extractLsb' 10 10 == 0x2B5#10
  let n := (w.header.extractLsb' 0 10).toNat
  if l.locked then
    if marked && n == next then { l with badWords := 0, lastWord := next }
    else if 7 ≤ l.badWords then { l with locked := false, goodWords := 0, badWords := 0, lastWord := next }
    else { l with badWords := l.badWords + 1, lastWord := next }
  else if !marked then { l with goodWords := 0 }
  else
    let g := if l.goodWords ≠ 0 && n == next then l.goodWords + 1 else 1
    if 4 ≤ g then { l with locked := true, goodWords := 0, badWords := 0, lastWord := n } else { l with goodWords := g, lastWord := n }

/-- R429, R434: a link that listens takes codewords; one in LOCK whose receiver is locked goes on to EXCHANGE and sends its IDENT. -/
def hearWords (s : State) (k : Nat) (ws : List Codeword) : State :=
  let l := linkOf s k
  let l1 := ws.foldl takeWord l
  if ¬ (l.state = .lock ∨ l.state = .exchange ∨ l.state = .up) then s
  else if l.state = .lock ∧ l1.locked then sendCtrl (changeLink s k { l1 with state := .exchange, since := s.tb }) k 2 (identBytes s k)
  else setLink s k l1

/-- R429: the codewords that lock a receiver. -/
def execReceiverLock (w : LinkWords) (s : State) : Res := .next (hearWords s w.link w.words)

/-- R429: the codewords that lose a receiver's lock. -/
def execReceiverLockLoss (w : LinkWords) (s : State) : Res := .next (hearWords s w.link w.words)

/-! Receiving flits (R430 to R433, R442). -/

/-- R429: a codeword is taken once, at its first flit: its header, and what the FEC says of it. The partner path has no FEC (R456). -/
def countFec (s : State) (k : Nat) (w : FlitIn) : State :=
  let l := linkOf s k
  if w.place ≠ 0 ∨ k = 32 ∨ ¬ (l.state = .lock ∨ l.state = .exchange ∨ l.state = .up) then s
  else hearWords (setLink s k { l with fecUncorr := sat (2 ^ 32 - 1) (l.fecUncorr + b2n w.uncorrectable),
                                       fecCorr := sat (2 ^ 32 - 1) (l.fecCorr + b2n (w.corrected && !w.uncorrectable)) }) k
    [{ ok := !w.uncorrectable, header := w.head.getD (headerAfter l.lastWord) }]

/-- R430: a damaged flit. -/
def flitDamaged (w : FlitIn) : Bool :=
  w.data.length != 64 || w.uncorrectable || crc32 (w.data.take 60) != wordAt w.data 60

def flitType (b : Bytes) : Nat := bits (byteAt b 0).toNat 3 0
def ctrlCode (b : Bytes) : Nat := (byteAt b 8).toNat

/-- R442: a reserved FTYPE, CTRL code or bit. -/
def flitReserved (b : Bytes) : Bool :=
  let ft := flitType b
  decide (2 < ft) || bitOf (byteAt b 0).toNat 7 || decide (3 < (byteAt b 1).toNat) || decide (4095 < field b 2 2) || (ft != 1 && field b 2 2 != 0) ||
  bits (field b 4 2) 14 12 != 0 || decide (2047 < field b 6 2) || (ft == 2 && (ctrlCode b == 0 || decide (5 < ctrlCode b)))

/-- R433: the flits an ACK leaves unacknowledged. -/
def ackFlits (us : List Bytes) (a : Nat) : List Bytes :=
  if us.any fun d => field d 2 2 == a then (us.dropWhile fun d => field d 2 2 != a).drop 1 else us

/-- R431: take the ACK and CRED fields of a flit. -/
def takeAckCred (s : State) (k : Nat) (b : Bytes) : State :=
  let l := linkOf s k
  let a := field b 4 2
  let c := field b 6 2
  let pool := c % 4 + 4 * bits c 2 2
  let n := bits c 10 3
  pumpLink (setLink s k { l with unacked := if bitOf a 15 then ackFlits l.unacked (a % 4096) else l.unacked,
                                 credits := if n = 0 then l.credits else tset l.credits pool 0 (tgetD l.credits pool 0 + n) }) k

/-- R442: a flit that breaks the protocol is discarded, answered with a CTRL NAK and counted. -/
def badFlit (s : State) (k : Nat) (b : Bytes) (code : Byte) : State :=
  linkViolate (sendCtrl s k 2 ([2, code] ++ le 2 (field b 2 2 % 4096))) k code 0 0

/-- A flit arrives on a link in EXCHANGE or UP: damaged, breaking the protocol, or one that its row acts on. -/
def onFlit (s : State) (k : Nat) (w : FlitIn) (mine : Bytes → Bool) (act : State → State) (damaged : State → State) : State :=
  let s1 := countFec s k w
  let l := linkOf s1 k
  if 32 < k ∨ ¬ (l.state = .up ∨ l.state = .exchange) ∨ (k < 32 ∧ ¬ l.locked) then s1
  else
    let s2 := if k = 32 then { s1 with dup := { s1.dup with lastFlit := s.tb } } else s1
    if flitDamaged w then damaged s2
    else if flitReserved w.data then badFlit s2 k w.data 0x01
    else if mine w.data then act (takeAckCred s2 k w.data) else s2

/-- R433: ask for the expected flit again. -/
def sendRetryReq (s : State) (k : Nat) : State :=
  let l := linkOf s k
  sendCtrl (setLink s k { l with reqSent := l.reqSent + 1, reqAt := s.tb }) k 2 ([1, 0] ++ le 2 l.rxExpect)

/-- R433: a DATA flit is discarded; the first one asks for the expected flit. -/
def discardData (s : State) (k : Nat) : State :=
  let l := linkOf s k
  if l.state = .up ∧ l.reqSent = 0 then sendRetryReq s k else s

/-- R439: a message from the payloads of its flits. One whose MLEN does not fit its flits, or that has bytes beyond MLEN, keeps all of them as its body. -/
def assemble (b : Bytes) : Msg :=
  let n := field b 10 2
  if (n + 51) / 52 * 52 = b.length ∧ 32 ≤ n ∧ allZero (b.drop n) then msgOf b else { msgOf b with body := b.drop 32 }

/-- Flits that a pool's buffers hold: those of its message that is not whole yet. DEDUCED (log 110): the buffers of a message are freed when it is whole. -/
def poolHeld (l : Link) (p : Nat) : Nat := ((tget l.rxParts p).getD []).length / 52

/-- R432, R433, R439: an undamaged DATA flit. -/
def takeData (s : State) (k : Nat) (b : Bytes) : State :=
  let l := linkOf s k
  if l.state ≠ .up ∨ field b 2 2 ≠ l.rxExpect then discardData s k
  else
    let p := poolOf (byteAt b 0)
    let owed := tgetD l.rxUsed p 0
    let full := owed + poolHeld l p
    let l1 := { l with rxExpect := (l.rxExpect + 1) % 4096, reqSent := 0 }
    let som := bitOf (byteAt b 1).toNat 0
    let eom := bitOf (byteAt b 1).toNat 1
    let freed := { l1 with rxUsed := tput l1.rxUsed p (full + 1), rxParts := tdel l1.rxParts p }
    if poolDepth s k (p % 4) (p / 4) ≤ full then badFlit (setLink s k l1) k b 0x02
    else
      let part := tget l.rxParts p
      if som = part.isSome then badFlit (setLink s k freed) k b 0x01
      else
        let whole := part.getD [] ++ slice b 8 52
        if eom then
          let s1 := setLink s k freed
          answerData { s1 with fab := { s1.fab with inbox := s1.fab.inbox ++ [(k, assemble whole)] } } k
        else answerData (setLink s k { l1 with rxParts := tput l1.rxParts p whole }) k

def execDataFlit (k : Nat) (w : FlitIn) (s : State) : Res :=
  .next (onFlit s k w (fun b => flitType b == 1) (fun st => takeData st k w.data) (fun st => discardData st k))

def execIdleFlit (k : Nat) (w : FlitIn) (s : State) : Res :=
  .next (onFlit s k w (fun b => flitType b == 0) id id)

/-- A CTRL flit of a code. -/
def isCtrl (code : Nat) (b : Bytes) : Bool := flitType b == 2 && ctrlCode b == code

/-- R433: resend every flit from the named LSEQ onwards. -/
def execRetryReq (k : Nat) (w : FlitIn) (s : State) : Res :=
  .next (onFlit s k w (isCtrl 1) (fun st =>
    let l := linkOf st k
    (l.unacked.dropWhile fun d => field d 2 2 != field w.data 10 2 % 4096).foldl (fun a d => sendData a k d)
      (setLink st k { l with retryReqs := sat (2 ^ 32 - 1) (l.retryReqs + 1) })) id)

/-- R442: the peer reports a flit that it discarded; the message is lost (R441). -/
def execFlitNak (k : Nat) (w : FlitIn) (s : State) : Res := .next (onFlit s k w (isCtrl 2) id id)

/-- R435: how many coordinates of two devices differ, and the routing entry for the peer. -/
def topologyOk (s : State) (k peer : Nat) : Bool :=
  let d := s.fab.device
  let n := b2n (coordX peer != coordX d) + b2n (coordY peer != coordY d) + b2n (coordZ peer != coordZ d)
  n == 1 && (match routeEntry s peer with | none => false | some e => bitOf e.toNat 7 && bits e.toNat 5 0 == linkNumber s k)

/-- R435: the reason for which a peer's IDENT is refused. -/
def identFault (s : State) (k : Nat) (b : Bytes) : Option Byte :=
  let role := (byteAt b 13).toNat
  let pair := if linkRole s k = 0 then 0 else if linkRole s k = 1 then 2 else 3
  if role ≠ pair then some 0x09
  else if linkRole s k ≠ 1 ∧ field b 16 4 ≠ s.fab.epoch.toNat then some 0x04
  else if field b 20 2 ≠ shapeField s then some 0x05
  else if linkRole s k = 0 ∧ ¬ topologyOk s k (field b 10 2 % 1024) then some 0x06
  else none

/-- R435, R433: the peer's IDENT; an accepted one takes the link UP, and after a retry retrain the buffer is sent again. -/
def takeIdent (s : State) (k : Nat) (b : Bytes) : State :=
  let l := linkOf s k
  if l.state ≠ .exchange then s
  else match identFault s k b with
    | some r =>
      let s1 := downLink s k r
      if r = 0x04 then { s1 with fab := { s1.fab with epochErr := true } } else s1
    | none =>
      let cr := (List.range 8).foldl (fun (t : Tbl Nat) i => tset t i 0 (field b (24 + 2 * i) 2)) []
      let l1 := { l with state := .up, since := s.tb, keeps := false, peer := field b 10 2 % 2048, peerLink := (byteAt b 12).toNat % 64, peerRole := (byteAt b 13).toNat % 4,
                         credits := if l.keeps then l.credits else cr, retrainFrom := none }
      let s1 := changeLink s k l1
      pumpLink (l1.unacked.foldl (fun a d => sendData a k d) s1) k

def execIdent (k : Nat) (w : FlitIn) (s : State) : Res :=
  .next (onFlit s k w (isCtrl 3) (fun st => takeIdent st k w.data) id)

/-- R433: 2 µs without the expected flit. -/
def execRetryReqRepeat (k : Nat) (s : State) : Res :=
  .next (
    let l := linkOf s k
    if l.state = .up ∧ 0 < l.reqSent ∧ l.reqAt + 2000 ≤ s.tb then
      (if 8 ≤ l.reqSent then retryRetrain s k else sendRetryReq s k)
    else s)

/-- R443: a link's violation window closes. -/
def execLinkViolationWindowEnd (k : Nat) (s : State) : Res :=
  .next (
    let l := linkOf s k
    match l.violStart with
    | none => s
    | some w => if w + 1000000 ≤ s.tb then setLink s k { l with violStart := none, violOpen := 0 } else s)

/-! FAB_CTL (R465). -/

/-- Links of the part that FAB_CTL's shape may use: both dies' on a PV-128D (R436). -/
def partLinks (p : Part) : Nat := if p = .pv128d then 64 else nLinks p

/-- The fields of FAB_CTL other than ENABLE (Table 12.16). -/
def fabFields (f : Fabric) (v : Dbl) : Fabric :=
  let n := v.toNat
  { f with epoch := BitVec.ofNat 32 (bits n 63 32), xm1 := bits n 27 24, ym1 := bits n 23 21, zm1 := bits n 20 18, cxLink := bits n 17 12,
           cxEn := bitOf n 11, syncEn := bitOf n 10, timeMaster := bitOf n 9 }

/-- R465: an enable that is refused. -/
def fabRefused (s : State) (f : Fabric) : Bool :=
  decide (partLinks s.part < f.xm1 + f.ym1 + f.zm1 + b2n f.cxEn) ||
  decide (f.xm1 < coordX f.device) || decide (f.ym1 < coordY f.device) || decide (f.zm1 < coordZ f.device)

/-- Participant postings that the resolver holds (Table 12.17). -/
def resolverHeld (s : State) : Nat :=
  (s.fab.parts.filter fun p => decide (p.2.state = .prepared) || decide (p.2.state = .deciding)).length

/-- R434: the fabric unit starts: enabled links train. -/
def startLinks (s : State) : State :=
  (List.range (nLinks s.part)).foldl (fun st k => if linksRun st && (linkOf st k).enable && decide ((linkOf st k).state = .disabled) then trainLink st k else st) s

/-- A write of FAB_CTL (R465). -/
def writeFabCtl (s : State) (v : Dbl) : State :=
  let refuse := { s with fab := { s.fab with cfgErr := true } }
  if s.fab.enable then
    if v.getLsbD 0 then s
    else if s.fab.coords.isEmpty ∧ resolverHeld s = 0 then linksOff { s with fab := { s.fab with enable := false } }
    else refuse
  else
    let f := fabFields s.fab v
    if !v.getLsbD 0 then { s with fab := f }
    else if fabRefused s f then refuse
    else startLinks { s with fab := { f with enable := true } }

def execFabEnable (v : Dbl) (s : State) : Res := .next (if v.getLsbD 0 then writeFabCtl s v else s)

def execFabDisable (v : Dbl) (s : State) : Res := .next (if v.getLsbD 0 then s else writeFabCtl s v)

/-! Timebase alignment (R13, R454). -/

/-- R13: correct the timebase: forward by a step, backward by holding it. -/
def correctTime (s : State) (off : Int) : State :=
  let err := decide (1000 < off.natAbs)
  let s1 := { s with fab := { s.fab with timeLock := true, timeErr := s.fab.timeErr || err } }
  if 0 ≤ off then { s1 with tb := (s.tb + off.natAbs) % 2 ^ 64, tbHold := 0 } else { s1 with tbHold := off.natAbs }

/-- The time link: the first link of the route to the master (R454). -/
def timeLink (s : State) : Option Nat := (routeOut s Config.masterDevice 0).map (·.1)

/-- R454: a time request goes out every 125 µs. -/
def execTimeReqPeriod (s : State) : Res :=
  .next (
    if s.fab.timeMaster || !s.fab.enable || decide (s.tb < s.fab.lastTimeReq + 125000) then s
    else match timeLink s with
      | none => s
      | some k => sendCtrl { s with fab := { s.fab with timeReq := some s.tb, lastTimeReq := s.tb } } k 2 ([4] ++ zeros 7 ++ le 8 s.tb))

/-- R454: the peer answers with its arrival and send times. -/
def execTimeReq (k : Nat) (w : FlitIn) (s : State) : Res :=
  .next (onFlit s k w (isCtrl 4) (fun st => sendCtrl st k 2 ([5] ++ zeros 7 ++ le 8 st.tb ++ le 8 st.tb)) id)

/-- R454: the requester corrects its timebase by the offset. -/
def execTimeResp (k : Nat) (w : FlitIn) (s : State) : Res :=
  .next (onFlit s k w (isCtrl 5) (fun st =>
    match st.fab.timeReq with
    | none => st
    | some t1 =>
      if timeLink st ≠ some k then st
      else
        let t2 : Int := field w.data 16 8
        let t3 : Int := field w.data 24 8
        correctTime { st with fab := { st.fab with timeReq := none } } (((t2 - t1) + (t3 - st.tb)).tdiv 2)) id)

/-- R454: a rising edge of SYNC_IN aligns the timebase to the nearest multiple of 1 ms. -/
def execSyncInEdge (s : State) : Res :=
  .next (
    let r := s.tb % 1000000
    if !s.fab.syncEn then s
    else if r < 500000 then correctTime s (-(r : Int)) else correctTime s ((1000000 - r : Nat) : Int))

/-- R454: SYNC_OUT at each multiple of 1,000,000 ns, once. -/
def execSyncOutPulse (s : State) : Res :=
  .next (
    if s.fab.syncEn && s.tb % 1000000 == 0 && s.fab.lastSync != s.tb then emit { s with fab := { s.fab with lastSync := s.tb } } (.syncOut s.tb) else s)

end Sys2Proof.Machine
end

