-- ==== Sys2Proof/Machine/RecovOps.lean ====
section
/-! DEFINITION. Rebuilding the ledger: the scan of the ring (R144), replay (R141), a checkpoint image read back (R139, R490), what a restart does with open postings (R452). -/
namespace Sys2Proof.Machine

/-! The scan (R144, R492). -/

/-- Close a block at the frontier, and link the next one to it. -/
def cutBlock (tb n : Nat) (b : Block) : Block :=
  if b.state = .closed then b
  else
    let rs := b.recs.filter fun r => decide (r.seq ≤ n)
    let last := ((rs.getLast?).map (·.seq)).getD b.firstSeq
    { b with recs := rs, lastSeq := last, durableSeq := last, closeTime := tb, state := .closed }

/-- The ring as the scan leaves it: unclosed blocks closed at the frontier, blocks above it discarded. -/
def scanBlocks (tb : Nat) (j : Journal) : List Block :=
  let kept := j.blocks.filter fun b => decide (b.firstSeq ≤ j.durable)
  let firstCut := (kept.find? fun b => decide (b.state ≠ .closed)).map (·.no)
  (kept.foldl (fun (a : List Block × BitVec 256) b =>
    let b1 := cutBlock tb j.durable b
    let b2 := match firstCut with | some n => if n < b.no then { b1 with prevHash := a.2 } else b1 | none => b1
    (a.1 ++ [b2], chainHash b2)) ([], 0)).1

/-- R492: the store window: the longest run that ends at the highest block, has consecutive numbers and an unbroken chain. Taken from the highest block down. -/
def windowRun : List Block → Nat → List Block
  | [], _ => []
  | _, 0 => []
  | [b], _ => [b]
  | b :: c :: r, n + 1 => if c.no + 1 = b.no ∧ b.prevHash = chainHash c then b :: windowRun (c :: r) n else [b]

/-- R144, R492: the journal after the scan: numbers go on from the frontier, the next block opens with RESTART, W lies before the store window. -/
def scanJournal (s : State) : State :=
  let j := s.jn
  let bs := scanBlocks s.tb j
  let run := windowRun bs.reverse (ringSlots s.part)
  let top := ((bs.getLast?).map (·.no)).getD 0
  { s with jn := { j with blocks := bs, nextSeq := j.durable + 1, nextBlock := top + 1, restart := !bs.isEmpty,
                          wm := (((run.getLast?).map (·.no)).getD 1) - 1, drained := (((run.getLast?).map (·.no)).getD 1) - 1,
                          committed := 0, waiters := [], sealReqs := [], sealDone := [], sealedSeq := latestSeal bs, ckpt := none, lastClosed := top,
                          lastHash := ((bs.getLast?).map chainHash).getD 0 } }

/-! Replay (R141). -/

/-- The LAST_SEQ rule: where an account or a counter already stands at or above the record, it keeps what it has. -/
def mergeReplay (l l1 : Ledger) (seq : Nat) : Ledger :=
  let newer := fun (k : Nat) => match tget l.accounts k with | some a => decide (seq ≤ a.lastSeq) | none => false
  { l1 with
    accounts := tmap l1.accounts fun k a1 => if newer k then (tget l.accounts k).getD a1 else a1,
    holds := (l.holds.filter fun h => newer (holdKeyAccount h.1)).foldl (fun t h => tput t h.1 h.2) (tfilter l1.holds fun k _ => !newer (holdKeyAccount k)),
    suspense := tmap l1.suspense fun k c1 => match tget l.suspense k with | some c => if seq ≤ c.lastSeq then c else c1 | none => c1 }

/-- The hold that a CAPTURE's prepare uses, as it stands before it. -/
def holdBefore (l : Ledger) (r : Rec) : Option Hold :=
  if r.kind = 0x03 then (match prepareLegs r with | (0, g) :: _ => holdOf l g.account g.lparam | _ => none) else none

/-- R452: open the entry of a coordinator's prepare record. -/
def openCoord (s : State) (r : Rec) : State :=
  let legs := (slots32 r.body).drop 1
  let ls := if r.kind = 0x05 then negLegs (legs.map legOf) else legs.map legOf
  setCoord s r.seq { tenant := r.tenant, tray := r.tray, traySeq := r.traySeq, rflags := r.rflags, op := r.kind, ref := r.ref, cref := dblAt r.body 16,
                     legs := ls.map legBytes, localMask := halfAt r.body 6, final := rFinal r, hold := holdBefore s.led r, parts := (groupParts s (numberLegs 0 ls)).map fun p => { p with sent := true },
                     boot := halfAt r.body 4, prepDurable := true, rebuilt := true, lastPrepare := s.tb, days := daysOf s.led (prepareLegs r) }

/-- R452: open the entry of a participant's prepare record; `l` is the ledger before its effect. -/
def openPart (s : State) (l : Ledger) (r : Rec) : State :=
  let legs := (slots32 r.body).drop 1
  setPart s (recPosting r)
    { state := .prepared, src := field r.body 0 2 % 2048, xseq := field r.body 8 8, boot := halfAt r.body 4,
      slot := prepareSlot (byteAt r.body 3) legs.length r.tenant (List.range legs.length) 0, legs := legs, prio := r.rflags.getLsbD 0, prepSeq := r.seq,
      preparedAt := s.tb, lastQuery := s.tb, days := daysOf l (prepareLegs r) }

/-- R452: what a decision record does to its entry. -/
def closeEntry (s : State) (r : Rec) : State :=
  if rXdev r then
    match tget s.fab.coords (field r.body 8 8) with
    | none => s
    | some v => setCoord s (field r.body 8 8) { v with state := .decided, commit := r.kind == 0x31, status := byteAt r.body 2, info := r.info }
  else match tget s.fab.parts (recPosting r) with
    | none => s
    | some v => setPart s (recPosting r) { v with state := .closed, doneSeq := r.seq }

/-- Replay one record: its effect on the books under the LAST_SEQ rule, and on the posting tables. -/
def replayRec (s : State) (r : Rec) : State :=
  let opening := r.kind = 0x08 ∧ (acct s.led (legAt r 0).account).isSome
  let s1 := if r.status ≠ 0 ∨ opening then s
    else { s with led := mergeReplay s.led (recordEffect s.led r (prepFor s r) (cfgRevDays s)) r.seq }
  if r.status ≠ 0 then s1
  else if xdevPrepare r then { openCoord s r with led := s1.led }
  else if r.kind = 0x30 then openPart s1 s.led r
  else if r.kind = 0x31 ∨ r.kind = 0x32 then closeEntry s1 r
  else s1

/-- Replay records in ascending order from one above the last replayed; a gap ends the run (R141). A CKPT_END that names the loaded image confirms it (R491). -/
def replayRecs (s : State) (limit : Nat) : List Rec → State
  | [] => s
  | r :: rest =>
    if r.seq ≤ s.recov.lastSeq then replayRecs s limit rest
    else if r.seq ≠ s.recov.lastSeq + 1 ∨ limit < r.seq then s
    else
      let s1 := replayRec s r
      let c := r.kind = 0xE1 ∧ r.ref.toNat = s.recov.s ∧ field r.body 0 32 = s.recov.digest.toNat
      replayRecs { s1 with recov := { s1.recov with lastSeq := r.seq, confirmed := s1.recov.confirmed || decide c } } limit rest

/-! A checkpoint image read back (R139, R490). -/

/-- The counts and the length that an image's header page states. -/
structure ImgHead where
  s : Nat := 0
  e : Nat := 0
  day : Word := 0
  daySeq : Nat := 0
  revStart : Nat := 0
  n1 : Nat := 0
  n2 : Nat := 0
  n3 : Nat := 0
  n4 : Nat := 0
  digest : BitVec 256 := 0
deriving DecidableEq, Repr

def imgHead (b : Bytes) : ImgHead :=
  { s := field b 8 8, e := field b 16 8, day := wordAt b 24, daySeq := field b 32 8, revStart := field b 40 8, n1 := field b 48 8, n2 := field b 56 8,
    n3 := field b 64 8, n4 := field b 72 8, digest := BitVec.ofNat 256 (field b 96 32) }

/-- Bytes of a section, filled to whole pages. -/
def sectionLen (n size : Nat) : Nat := (n * size + 4095) / 4096 * 4096

/-- The whole image's length. -/
def imgLen (h : ImgHead) : Nat := 4096 + sectionLen h.n1 128 + sectionLen h.n2 64 + sectionLen h.n3 48 + sectionLen h.n4 16

/-- Entries of a section. -/
def entries (b : Bytes) (off n size : Nat) : List Bytes := (List.range n).map fun i => slice b (off + i * size) size

/-- R490: MAGIC, FORMAT and DEVICE of a header page. -/
def headBad (s : State) (b : Bytes) : Bool :=
  field b 0 4 != 0x54504B43 || field b 4 2 != 1 || halfAt b 6 != deviceField s

/-- R490: a count beyond the die's capacity. -/
def countsBad (s : State) (h : ImgHead) : Bool :=
  let k := stacksUsed s
  decide (accountCap k < h.n1) || decide (holdCap k < h.n2) || decide (10000 < h.n3) || decide (reversalCap k < h.n4)

/-- R490: the ledger that an image holds, its index built as the accounts come. The window goes on from its start at S and the DAYROLL that set its day (R141). -/
def imgLedger (b : Bytes) : Ledger :=
  let h := imgHead b
  let o2 := 4096 + sectionLen h.n1 128
  let o3 := o2 + sectionLen h.n2 64
  let o4 := o3 + sectionLen h.n3 48
  let l0 : Ledger := { day := h.day, daySeq := h.daySeq, revFloor := h.revStart, dayStarts := if h.daySeq = 0 then [] else [h.daySeq] }
  let l1 := (entries b 4096 h.n1 128).foldl (fun l x =>
    let a := accountOf x
    indexInsert { putAcct l a with slots := l.slots + 1 } (idTenant a.id) (idNumber a.id) l.slots) l0
  { l1 with
    holds := (entries b o2 h.n2 64).foldl (fun t x => let e := holdOfBytes x; tput t (holdKey e.account e.holdId) e) [],
    suspense := (entries b o3 h.n3 48).foldl (fun t x => tput t (field x 0 2) { value := unpack (slice x 16 20), lastSeq := field x 8 8 }) [],
    reversal := (entries b o4 h.n4 16).foldl (fun t x => tput t (field x 0 8) (field x 8 8)) [] }

/-! Open postings at a restart (R452). -/

/-- A coordinator posting without a decision is aborted with DEVICE_FAULT. -/
def presumeAbort (s : State) (x : Nat) : State :=
  match tget s.fab.coords x with
  | none => s
  | some v =>
    if v.state ≠ .preparing then s
    else
      let v1 := { v with state := .aborting, commit := false, status := stDeviceFault, info := 0 }
      let r := decisionOf s x v1 false stDeviceFault 0
      if canAppend s [r] then appendRecs (setCoord s x v1) [r] (.decision x) else setCoord s x { v1 with due := true }

/-- R452: undecided coordinator postings are aborted; prepared participant postings pass to the resolver with their locks. -/
def resolveXdev (s : State) : State :=
  let s1 := (s.fab.coords.map (·.1)).foldl presumeAbort s
  (s1.fab.parts.filter fun p => decide (p.2.state = .prepared)).foldl
    (fun st p => seizeLocks st p.1 ((partLegs p.2).map fun g => g.2.account.toNat)) s1

/-! Mirrored records (R458, R494). -/

/-- R458: a record from the serving die takes its place in this die's journal: the number and the time it came with. -/
def placeMirrored (s : State) (r : Rec) : State :=
  let s1 := placeRec { s with jn := { s.jn with nextSeq := r.seq } } r .nobody
  { s1 with jn := { s1.jn with blocks := s1.jn.blocks.map fun (b : Block) => { b with recs := b.recs.map fun (x : Rec) => if x.seq = r.seq then r else x } } }

/-- R112, R458: a VOID takes the place of a record already mirrored. -/
def replaceRec (s : State) (r : Rec) : State :=
  { s with jn := { s.jn with blocks := s.jn.blocks.map fun (b : Block) => { b with recs := b.recs.map fun (x : Rec) => if x.seq = r.seq then r else x } } }

/-- R458: tell the serving die the highest number written. -/
def ackMirror (s : State) (n : Nat) : State := putOnPartner s (mkMsg s tyMirrorAck (partnerEndpoint s) 0 n [])

/-! The START record (R500). -/

/-- The stepping as GET_INFO shows it. -/
def steppingByte : Byte := if Config.steppingB0 then 0xB0 else 0xA1

/-- START: reset kind, flags, combination, configuration, the frontier found. -/
def startRec (s : State) (takeover : Bool) (prev : Nat) : Rec :=
  { kind := 0xE3, tray := 0x8000, ref := BitVec.ofNat 64 s.store.bootCount,
    body := [s.mgmt.resetKind, BitVec.ofNat 8 (b2n s.mgmt.unqual + 2 * b2n s.jn.unsealed + 4 * b2n s.mgmt.reduced + 8 * b2n takeover), steppingByte, 0] ++
      le 4 s.store.fwVersion.toNat ++ le 4 s.eng.patchId.toNat ++ le 2 s.store.abi.toNat ++ zeros 2 ++ le 8 (cfgGen s) ++ le 8 prev }

end Sys2Proof.Machine
end

