-- ==== Sys2Proof/Machine/BootOps.lean ====
section
/-! DEFINITION. Reset kinds and the boot order (R470 to R483), images and configuration (R473 to R479), keys at a start (R254, R260, R487, R488). -/
namespace Sys2Proof.Machine

/-! Images (R473, R474). -/

/-- Flash slot of an image kind: A or B (Table 13.5). -/
def flashSlot (kind : Nat) (b : Bool) : Nat := 2 * kind + b2n b

/-- The size of a slot of a kind (Table 13.5). -/
def slotSize (kind : Nat) : Nat := if kind = 1 then 0x400000 else if kind = 2 then 0x100000 else 0x1000000

def imgVersion (b : Bytes) : Nat := field b 8 4
def imgSvn (b : Bytes) : Nat := (byteAt b 6).toNat
def imgBody (b : Bytes) : Bytes := slice b 1024 (field b 12 4)
def imgEnc (b : Bytes) : Bool := (byteAt b 5).getLsbD 0

/-- Step 1 of R474 for a kind. -/
def imgHeaderOk (kind : Nat) (b : Bytes) : Bool :=
  let n := (byteAt b 7).toNat
  decide (1024 ≤ b.length) && field b 0 4 == 0x4D495650 && (byteAt b 4).toNat == kind && decide (1 ≤ n) && decide (n ≤ 32) && bits (byteAt b 5).toNat 7 1 == 0 &&
  allZero (slice b 28 4) && allZero (slice b 48 16) && allZero (slice b (64 + 16 * n) (512 - 16 * n)) && allZero (slice b 576 352) &&
  field b 12 4 % 16 == 0 && decide (1024 + field b 12 4 ≤ b.length)

/-- Step 2 of R474. -/
def imgSigned (b : Bytes) : Bool := Config.imageSigOk (Config.sha384 (slice b 0 928 ++ imgBody b)) (slice b 928 96)

/-- R475: the fused SVN of a kind. -/
def fusedSvn (s : State) (kind : Nat) : Nat := tgetD s.store.svn kind 0

/-- Steps 1 to 3 of R474. -/
def imgVerifies (s : State) (kind : Nat) (b : Bytes) : Bool := imgHeaderOk kind b && imgSigned b && decide (fusedSvn s kind ≤ imgSvn b)

/-- The plain body of an image: step 4 of R474; a patch must be encrypted. -/
def imgPlain (kind : Nat) (b : Bytes) : Option Bytes :=
  if imgEnc b then Config.gcmOpenBody Config.deviceKey (BitVec.ofNat 96 (field b 16 12)) (slice b 0 16) (imgBody b) (BitVec.ofNat 128 (field b 32 16))
  else if kind = 2 then none else some (imgBody b)

/-- R474: the image a slot holds, if it is valid. -/
def validImage (s : State) (kind : Nat) (b : Bool) : Option Bytes :=
  match tget s.store.flash (flashSlot kind b) with
  | none => none
  | some img => if imgVerifies s kind img && (imgPlain kind img).isSome then some img else none

/-- R474: the slot and the image that a start loads: the higher VERSION, A when both are equal. -/
def chooseImage (s : State) (kind : Nat) : Option (Bool × Bytes) :=
  match validImage s kind false, validImage s kind true with
  | some a, some b => if imgVersion a < imgVersion b then some (true, b) else some (false, a)
  | some a, none => some (false, a)
  | none, some b => some (true, b)
  | none, none => none

/-- Note which slot of a kind was loaded. -/
def noteLoaded (s : State) (kind : Nat) (b : Bool) : State := { s with store := { s.store with loaded := tput s.store.loaded kind (b2n b) } }

/-- R480, R481: one tested-with entry matches the combination. -/
def entryMatches (s : State) (e : Bytes) : Bool :=
  (byteAt e 0).getLsbD (b2n Config.steppingB0) && decide (field e 4 4 ≤ s.store.fwVersion.toNat) && decide (s.store.fwVersion.toNat ≤ field e 8 4) &&
  field e 12 4 == s.eng.patchId.toNat && field e 2 2 == s.store.abi.toNat

/-- R481: an image holds a matching entry. -/
def imageTested (s : State) (b : Bytes) : Bool := (List.range (byteAt b 7).toNat).any fun i => entryMatches s (slice b (64 + 16 * i) 16)

/-- The image loaded of a kind. -/
def loadedImage (s : State) (kind : Nat) : Option Bytes :=
  match tget s.store.loaded kind with | none => none | some b => tget s.store.flash (flashSlot kind (b == 1))

/-- R481: the combination is qualified: every image that was loaded holds a matching entry. -/
def qualified (s : State) : Bool :=
  [1, 2, 3].all fun k => match loadedImage s k with | none => true | some b => imageTested s b

/-! Configuration (R477, R478). -/

/-- R478: a copy is intact. -/
def cfgIntact (b : Bytes) : Bool :=
  b.length == 256 && field b 0 4 == 0x47464E43 && field b 4 2 == 1 && wordAt b 252 == crc32 (b.take 252)

/-- R478, CONFIG_PART: it names more than the part has. -/
def cfgPartBad (p : Part) (b : Bytes) : Bool :=
  let dup := bits (byteAt b 26).toNat 1 0
  (p != .pv128d && dup != 0) || (p == .pv128d && dup == 0) || decide (nVfs p < field b 32 2) ||
  decide ((if p = .pv32 then 0 else nVfs p) < field b 34 2) || (p == .pv32 && byteAt b 29 != 0)

/-- Table 11.2: an address of the general area of a part with its full set of stacks (log 114: step 2 judges before step 4 has tested the stacks). -/
def inGeneral (p : Part) (a : Nat) : Bool :=
  match p with
  | .pv32 => decide (0x00013C000000 ≤ a) && decide (a < 0x0005FF400000)
  | .pv64 => decide (0x000268000000 ≤ a) && decide (a < 0x000BFE800000)
  | .pv128 | .pv128d => decide (0x0004C0000000 ≤ a) && decide (a < 0x0017FD000000)

/-- R478, CONFIG_INVALID: a field out of range or a reserved field not zero; with LADLE_EN, a BOOT field that breaks its rule. -/
def cfgInvalid (p : Part) (b : Bytes) : Bool :=
  let lrt := field b 48 8
  decide (7 < field b 6 2) || field b 8 8 == 0 || field b 16 8 == 0 || decide (1023 < field b 24 2) || bits (byteAt b 26).toNat 6 2 != 0 ||
  bits (byteAt b 26).toNat 1 0 == 3 || decide (3 < (byteAt b 27).toNat) || decide (2 < (byteAt b 28).toNat) || decide (2 < (byteAt b 29).toNat) || byteAt b 30 == 0 ||
  !(byteAt b 31 == 1 || byteAt b 31 == 2) || field b 36 2 == 0 || decide (1000 < field b 36 2) || field b 38 2 != 0 || !allZero (slice b 64 188) ||
  ((byteAt b 6).getLsbD 0 &&
    (field b 40 4 % 256 != 0 || field b 44 4 % 2 != 1 || lrt % 4096 != 0 || !inGeneral p lrt || decide (field b 56 8 < lrt) || decide (lrt + 0x1000000 ≤ field b 56 8)))

/-- R478: the copy selected: the higher GEN, A when both are equal; true for B. -/
def cfgSelect (s : State) : Option (Bool × Bytes) :=
  let a := s.store.cfgA
  let b := s.store.cfgB
  if cfgIntact a && cfgIntact b then (if field a 8 8 < field b 8 8 then some (true, b) else some (false, a))
  else if cfgIntact a then some (false, a)
  else if cfgIntact b then some (true, b)
  else none

/-! Keys at a start (R254, R260, R487, R488). -/

/-- R260: the accepted KEYUPDATE of a tenant whose PENDING is 1, among the records up to the frontier. -/
def keyRecord (s : State) (t : Nat) (gen : Word) : Bool :=
  (windowRecs s.jn).any fun r => r.kind == 0x18 && r.status == 0 && decide (r.seq ≤ s.jn.durable) && r.ref.toNat % 65536 == t && bits r.ref.toNat 63 32 == gen.toNat

/-- R260: resolve a record whose PENDING is 1 at a restart. A slot that step 2 of R259 had not yet written holds no newer generation, and the old state stands (R262, Table 6.16). -/
def resolveKey (s : State) (t : Nat) (k : TenantKey) : TenantKey :=
  if !cwPending k then k
  else
    let gen := (slotOfKey k (inactiveB k)).gen
    if (if cwPresent k then cwGen k else 0) < gen.toNat ∧ keyRecord s t gen = true then flipCommit k gen
    else { k with commit := commitWord (cwGen k) (cwPresent k) false (cwOther k) (cwActive k) }

/-- R254: load one tenant's keys into the key table. -/
def loadKey (s : State) (t : Nat) : State :=
  let k := resolveKey s t (keyOf s t)
  if !cwPresent k then setKey s t { k with cur := none, other := none }
  else
    let a := slotOfKey k (cwActive k)
    let o := slotOfKey k (!cwActive k)
    let cur := if a.gen.toNat = cwGen k then openSlot t (cwActive k) a else none
    let oth := if cwOther k ∧ o.gen.toNat < cwGen k then openSlot t (!cwActive k) o else none
    let badO := cwOther k && oth.isNone
    let s1 := setKey s t { k with cur := cur.map fun x => { gen := a.gen, key := x }, other := if cur.isSome then oth.map fun x => { gen := o.gen, key := x } else none,
                                  loadFault := cur.isNone || badO }
    let s2 := if cur.isNone then logFault s1 0x07 0 t 0 0 0 else s1
    if badO then logFault s2 0x07 1 t 0 0 0 else s2

/-- R487, R126: the seal key of the control area; one of another ALG, or that fails to unwrap, is absent. -/
def loadSeal (s : State) : State :=
  let priv := match s.store.sealKey with
    | none => none
    | some k => if k.alg = cfgSealAlg s then Config.gcmOpen Config.deviceKey k.iv ([k.alg] ++ le 2 k.keyId.toNat) k.key k.tag else none
  let s1 := { s with store := { s.store with sealPriv := priv } }
  if canSeal s1 then { s1 with jn := { s1.jn with unsealed := false } } else sealFail s1

/-- A new key record of the control area, drawn and wrapped under the device key. -/
def drawKey (s : State) (alg : Byte) (keyId : Half) : KeyRec × BitVec 256 × State :=
  let d := takeDraw 256 s
  let i := takeDraw 96 d.2
  let w := Config.gcmSeal Config.deviceKey i.1 ([alg] ++ le 2 keyId.toNat) d.1
  ({ alg := alg, keyId := keyId, iv := i.1, key := w.1, tag := w.2 }, d.1, i.2)

/-- R488: the provisioning key, drawn at the first start whose control area has none. -/
def loadProv (s : State) : State :=
  match s.store.provKey with
  | some _ => s
  | none => let r := drawKey s 0 0; { r.2.2 with store := { r.2.2.store with provKey := some r.1 } }

/-! The service floor (R483). -/

/-- R483: what the self-tests found of the units the part has (Table 0.1), taken into service; each that fails is
logged. -/
def inventory (s : State) : State :=
  let h := s.hw
  let mask := 2 ^ nStacks s.part - 1
  let st := h.hbmStacks.toNat &&& mask
  let full := 2 ^ nSlices s.part - 1
  let sl := h.slices.toNat &&& full
  let eo := h.enginesOut.filter fun e => decide (e < nEngines s.part)
  let co := h.coresOut.filter fun c => decide (c < nCores s.part)
  let en := (List.range (nEngines s.part)).foldl (fun a e => if eo.contains e then a else a + 2 ^ e) 0
  let reduced := st != mask || sl != full || h.sealUnits != 0xFF || !eo.isEmpty || !co.isEmpty || !h.port0 || !h.sieve || !h.journal
  let miss := (mask - st) * 2 ^ 56 + (full - sl)
  let s1 := { s with store := { s.store with hbmStacks := BitVec.ofNat 4 st, slices := BitVec.ofNat 32 sl, sealUnits := h.sealUnits, coresOut := sortUp co, enginesOut := sortUp eo,
                                             floorMissing := BitVec.ofNat 64 miss },
                     eng := { s.eng with enabled := BitVec.ofNat 64 en }, mgmt := { s.mgmt with reduced := reduced } }
  let out := fun (code : Byte) (ns : List Nat) (st : State) => ns.foldl (fun a n => logFault a 0x02 code n 0 0 0) st
  out 5 ((List.range 8).filter fun i => !h.sealUnits.getLsbD i)
    (out 4 ((List.range (nStacks s.part)).filter fun i => !bitOf st i)
      (out 3 ((List.range (nSlices s.part)).filter fun i => !bitOf sl i) (out 2 (sortUp co) (out 1 (sortUp eo) s1))))

/-- R483: below the service floor. -/
def belowFloor (s : State) : Bool :=
  let h := s.hw
  !h.smc || !h.port0 || stacksUsed s == 0 || h.slices.toNat &&& (2 ^ nSlices s.part - 1) == 0 || !h.sieve || !h.journal || s.eng.enabled == 0

/-! The boot order (Table 13.4). A step answers the state it leaves and, when it fails, the HELD reason. -/

def bootRom (s : State) : State × Option Byte :=
  let d := takeDraw 64 s
  let s0 := { d.2 with store := { d.2.store with debugNonce := d.1 } }
  if !s0.hw.smc || !s0.hw.rom then (s0, some 0x0F)
  else match chooseImage s0 1 with
    | none => (s0, some 0x0F)
    | some (b, img) =>
      let s1 := noteLoaded s0 1 b
      ({ s1 with store := { s1.store with fwVersion := BitVec.ofNat 32 (imgVersion img) } }, none)

def bootConfig (s : State) : State × Option Byte :=
  match cfgSelect s with
  | none => (s, some 0x01)
  | some (b, c) =>
    if cfgPartBad s.part c then (s, some 0x03)
    else if cfgInvalid s.part c then (s, some 0x02)
    else
      let s1 := { s with store := { s.store with cfg := c, cfgFromB := b }, fab := { s.fab with device := field c 24 2 % 1024, ep0 := field c 24 2 % 1024 + 1024 * b2n s.fab.die } }
      let role := if cfgDuplex s1 = 0 then 0 else if cfgDuplex s1 = 2 then 3 else if cfgServing s1 = s1.fab.die ∧ ¬ s1.hw.partner then 1 else 2
      ({ s1 with dup := { s1.dup with role := role, solo := role == 1 || (role == 3 && !s1.hw.partner), alive := s1.part == .pv128d && s1.hw.partner } }, none)

/-- Step 3: the ports are released and the mailbox opens; the partner path of a PV-128D comes up beside them (R456, R468). -/
def bootLink (s : State) : State × Option Byte :=
  if s.part = .pv128d then (sendCtrl (setLink { s with dup := { s.dup with lastFlit := s.tb } } 32 { linkOf s 32 with state := .exchange, since := s.tb, locked := true }) 32 2 (identBytes s 32), none) else (s, none)

def bootInventory (s : State) : State × Option Byte :=
  let s1 := inventory s
  (s1, if belowFloor s1 then some 0x07 else none)

def bootImages (s : State) : State × Option Byte :=
  let s1 := match chooseImage s 2 with
    | none => { s with eng := { s.eng with patchId := 0 } }
    | some (b, img) => let t := noteLoaded s 2 b; { t with eng := { t.eng with patchId := BitVec.ofNat 32 (imgVersion img) } }
  let s2 := match (if cfgLadleEn s1 then chooseImage s1 3 else none) with
    | none => { s1 with store := { s1.store with abi := 0 } }
    | some (b, img) => let t := noteLoaded s1 3 b; { t with store := { t.store with abi := BitVec.ofNat 16 (imgVersion img) } }
  (s2, if qualified s2 then none else some 0x06)

def bootSupply (s : State) : State × Option Byte :=
  let s1 := loadSeal s
  if !s1.board.holdupOk then (s1, some 0x08)
  else (s1, if cfgSealReq s1 ∧ ¬ canSeal s1 then some 0x09 else none)

/-- R160, R162: patch RAM and the match registers from the verified patch, then locked. -/
def loadPatch (s : State) : State :=
  match loadedImage s 2 with
  | none => { s with eng := { s.eng with locked := true } }
  | some img => match imgPlain 2 img with
    | none => s
    | some body =>
      { s with eng := { s.eng with locked := true,
                                   patchRam := (List.range 8192).filterMap fun n => (Config.patchWord body n).map fun w => (n, w),
                                   matchRegs := ((List.range 32).map fun n => (n, Config.patchMatch body n &&& 0x800000001FFF7FFF#64)).filter fun e => decide (e.2 ≠ 0) } }

/-- The ladle runtime body goes to LRT_BASE (R474). -/
def loadRuntime (s : State) : State :=
  match loadedImage s 3 with
  | none => s
  | some img => match imgPlain 3 img with | none => s | some body => copyRuntime s body

def bootLoad (s : State) : State × Option Byte :=
  let s1 := loadRuntime (loadPatch (loadProv { s with guard := { s.guard with storageKeys := [] } }))
  ((s1.guard.keys.map (·.1)).foldl loadKey s1, none)

def bootLedger (s : State) : State × Option Byte :=
  if !s.store.magic then (s, some 0x04)
  else if s.store.ledgerId ≠ dblAt s.store.cfg 16 then (s, some 0x05)
  else
    let s1 := scanJournal { s with store := { s.store with bootCount := s.store.bootCount + 1 } }
    if s.dup.role = 2 then ({ s1 with dup := { s1.dup with stale := true } }, some 0x0B) else (s1, none)

/-- Step 9: START is written; a new ledger goes on into service, any other is rebuilt through the mailbox (R489, R500). -/
def bootRestart (s : State) : State × Option Byte :=
  let fresh := s.jn.blocks.isEmpty
  let s1 := appendRecs { s with led := {}, recov := {} } [startRec s false s.jn.durable] .start
  ({ s1 with jn := { s1.jn with wm := max s1.jn.wm (s1.jn.nextBlock - 1 - ringSlots s.part) } }, if fresh then none else some 0x0A)

/-- Step 10: the die enters service: cores start, links may train, grants run. -/
def bootService (s : State) : State × Option Byte :=
  (resumeWaits (startLinks (startAllCores (pulseSrc { s with mgmt := { s.mgmt with state := .service, reason := 0 } } 0x150))), none)

/-- The steps in order. -/
def bootSteps : List (State → State × Option Byte) :=
  [bootRom, bootConfig, bootLink, bootInventory, bootImages, bootSupply, bootLoad, bootLedger, bootRestart, bootService]

/-- R517: a rail out of range when step 2 ends makes the die wait before step 3. -/
def railsWait (s : State) (n : Nat) : Bool := n == 3 && s.board.railOk != 511

/-- R472: run the steps from number `n`; a step that fails enters HELD with its reason. -/
def runSteps : List (State → State × Option Byte) → Nat → State → State
  | [], _, s => s
  | f :: r, n, s =>
    if railsWait s n then { s with board := { s.board with railWait := true } }
    else
      let q := f s
      match q.2 with
      | some reason => enterHeld q.1 reason
      | none => runSteps r (n + 1) { q.1 with mgmt := { q.1.mgmt with step := n } }

/-- R472: the boot order from step `n`; a die that leaves HELD resumes at the step that held it. -/
def bootFrom (s : State) (n : Nat) : State :=
  runSteps (bootSteps.drop (n - 1)) n { s with mgmt := { s.mgmt with state := if s.mgmt.state = .held then .boot else s.mgmt.state, reason := 0 } }

/-! Resets (R470). -/

/-- What a reset of the die leaves: the journal ring, the control area, fuses and flash; unless it is cold, the timebase and every count kept since cold reset. -/
def resetState (s : State) (cold : Bool) : State :=
  let keep := fun (n : Nat) => if cold then 0 else n
  let keys := s.guard.keys.foldl (fun (t : Tbl TenantKey) e =>
    tset t e.1 {} { a := e.2.a, b := e.2.b, commit := e.2.commit, mpuViol := if cold then 0 else e.2.mpuViol }) []
  let fns := if s.part = .pv32 then [(0, { valid := true })] else State.reset.host.fns
  { State.reset with
    pending := s.pending, part := s.part, hw := s.hw, out := s.out, fresh := s.fresh, tb := keep s.tb,
    jn := { blocks := s.jn.blocks, durable := s.jn.durable, nextSeq := s.jn.durable + 1, nextBlock := s.jn.nextBlock },
    guard := { keys := keys, logCount := keep s.guard.logCount },
    host := { fns := fns, vlogCount := keep s.host.vlogCount },
    eng := { ctxs := if cold then [] else (s.eng.ctxs.foldl (fun (t : Tbl Ctx) e => tset t e.1 {} { epoch := e.2.epoch }) []), resets := keep s.eng.resets, rollfwd := keep s.eng.rollfwd },
    mem := memAfterReset s.mem cold,
    cores := coresAfterReset s.cores cold,
    fab := { die := s.fab.die, violTotal := keep s.fab.violTotal, abandons := keep s.fab.abandons },
    dup := { takeovers := keep s.dup.takeovers },
    mgmt := { flogStore := s.mgmt.flogStore, rstMailbox := keep s.mgmt.rstMailbox, rstWatchdog := keep s.mgmt.rstWatchdog, rstResume := keep s.mgmt.rstResume,
              rstPort := keep s.mgmt.rstPort, pfGlitch := keep s.mgmt.pfGlitch },
    store := { s.store with cfg := [], cfgFromB := false, sealPriv := none, loaded := [], fwVersion := 0, abi := 0, hbmStacks := 15, sealUnits := 255, coresOut := [],
                            enginesOut := [], slices := BitVec.ofNat 32 (2 ^ nSlices s.part - 1), floorMissing := 0, debugOpen := false, debugNonce := 0 },
    board := { s.board with powerFail := false, thermHi := 100, wasHot := false, hot := false, railLow := 0, railWait := false, tbLost := !s.board.tbOk,
                            rates := [], islandTj := [], dieTj := 0, hbmTj := 0, hbmHot := false, hbmOver := false } }

/-- R470: a reset of the die of a kind, and the boot order. On a PV-128D every one but COLD has kind DIE. -/
def dieReset (s : State) (kind : Byte) : State :=
  let s1 := resetState s (kind == 1)
  bootFrom { s1 with mgmt := { s1.mgmt with resetKind := if kind ≠ 1 ∧ s.part = .pv128d then 6 else kind } } 1

end Sys2Proof.Machine
end

