-- ==== Sys2Proof/Machine/BoardCmds.lean ====
section
/-! DEFINITION. Resets, power, rails, clocks, temperatures and the test port (R470, R496 to R499, R505, R517 to R530). -/
namespace Sys2Proof.Machine

/-- R483, R493: the die stops service. -/
def beginQuiesce (s : State) (reason : Byte) : State :=
  pulseSrc (pauseWaits { s with mgmt := { s.mgmt with state := .quiescing, quiesceFor := reason } }) 0x153

/-- The open block begins to close (R122). -/
def closingBlocks (bs : List Block) : List Block := bs.map fun b => if b.state = .opened then { b with state := .closing } else b

/-- R143, R496: the power-fail sequence begins: grants, the sieve, the drain and appends stop, the open block closes. -/
def beginPowerFail (s : State) : State :=
  if s.board.powerFail ∨ s.mgmt.state = .down then s
  else
    let s1 := pauseWaits s
    { s1 with board := { s1.board with powerFail := true }, mgmt := { s1.mgmt with state := .quiescing },
              jn := { s1.jn with blocks := closingBlocks s1.jn.blocks } }

/-- R470: VDD_AON rises. `hw` is what the self-tests will find and the pins show. -/
def execColdReset (hw : Hw) (s : State) : Res :=
  .next (dieReset { s with hw := hw, board := { holdupOk := hw.holdup, railOk := hw.railOk, tbOk := hw.tbRef, fabOk := hw.fabRef, pcie0Ok := hw.pcie0Ref, pcie1Ok := hw.pcie1Ref, addrSel := hw.addrSel % 4 } } 1)

/-- R470: the management core's watchdog expires. -/
def execMgmtWatchdog (s : State) : Res :=
  .next (dieReset { s with mgmt := { s.mgmt with rstWatchdog := sat 65535 (s.mgmt.rstWatchdog + 1) } } 3)

/-- R470, R471: PERST of a port: every function of the port is reset; the drain stops when it used the port; a mailbox command's vector is withheld. -/
def execPortReset (p : Nat) (s : State) : Res :=
  .next (
    if 2 ≤ p ∨ (p = 1 ∧ s.part = .pv32) then s
    else
      let s1 := ((s.host.fns.map (·.1)).filter fun f => f / 8192 == p).foldl resetFn s
      let s2 := if s1.jn.port = decide (p = 1) then { s1 with jn := { s1.jn with enable := false, wmReads := 0 } } else s1
      let run := if p = 0 then s2.mgmt.running.map fun (r : Running) => { r with silent := true } else s2.mgmt.running
      { s2 with mgmt := { s2.mgmt with running := run, rstPort := sat 65535 (s2.mgmt.rstPort + 1) } })

/-- R498, R518: a die in DOWN whose PWRFAIL_N has stayed high, and whose rails have stayed in range, for 10 ms. After a thermal trip it stays in reset. -/
def execPowerResume (s : State) : Res :=
  .next (
    if s.mgmt.state ≠ .down ∨ s.board.thermtrip then s
    else dieReset { s with board := { s.board with pwrfail := false, railOk := 511 }, mgmt := { s.mgmt with rstResume := sat 65535 (s.mgmt.rstResume + 1) } } 4)

/-- Table 13.11: HELD for HOLDUP samples HOLDUP_OK again. -/
def execHoldupResample (s : State) : Res :=
  .next (if s.mgmt.state = .held ∧ s.mgmt.reason = 0x08 ∧ s.board.holdupOk then bootFrom s 6 else s)

/-- R517: every rail is in range and the boot order goes on at step 3. -/
def execRailWaitEnd (s : State) : Res :=
  .next (if s.board.railWait then bootFrom { s with board := { s.board with railWait := false, railOk := 511 } } 3 else s)

/-- R496: PWRFAIL_N has been low for 100 ns. -/
def execPwrfailAssert (s : State) : Res := .next (beginPowerFail { s with board := { s.board with pwrfail := true } })

/-- R496: a low pulse of less than 100 ns. -/
def execPwrfailGlitch (s : State) : Res := .next { s with mgmt := { s.mgmt with pfGlitch := sat (2 ^ 32 - 1) (s.mgmt.pfGlitch + 1) } }

/-- Table 13.17: the sequence ends: PF_SEQ is raised, the POWER record written, the die is DOWN. -/
def execDieEntersDown (s : State) : Res :=
  .next (
    if !s.board.powerFail then s
    else
      let s1 := logFault { s with store := { s.store with pfSeq := s.store.pfSeq + 1 } } 0x0C 1 0 0 0 0
      { s1 with mgmt := { s1.mgmt with state := .down }, board := { s1.board with powerFail := false } })

/-- VDD_AON is removed: all volatile state is lost. -/
def execVddAonRemoval (s : State) : Res := .next { resetState s true with board := {} }

/-- R499: HOLDUP_OK falls. -/
def execHoldupOkFall (s : State) : Res :=
  .next (
    let s1 := { s with board := { s.board with holdupOk := false } }
    if s.mgmt.state = .service ∧ ¬ s.board.powerFail ∧ s.board.holdupOk then pulseSrc (logFault s1 0x0C 2 0 0 0 0) 0x154 else s1)

/-- R499: HOLDUP_OK rises. -/
def execHoldupOkRise (s : State) : Res := .next { s with board := { s.board with holdupOk := true } }

/-- The highest value of a table. -/
def maxVal (t : Tbl Nat) : Nat := t.foldl (fun a e => max a e.2) 0

/-- R529: a thermal trip: latched, and the power-fail sequence runs. -/
def tripNow (s : State) : State := beginPowerFail { s with board := { s.board with thermtrip := true } }

/-- R520, R527 to R530: the 1 ms temperature update. Temperatures are codes, °C + 64. -/
def execTemperatureUpdate (islands : List (Nat × Nat)) (hbmStacks : List (Nat × Nat)) (s : State) : Res :=
  .next (
    let tj := (islands.filter fun e => decide (e.1 < 256) && decide (e.2 < 256)).foldl (fun (t : Tbl Nat) e => tset t e.1 0 e.2) s.board.islandTj
    let die := maxVal tj
    let hbm := maxVal (hbmStacks.filter fun e => decide (e.2 < 256))
    let hot := decide (s.board.thermHi + 64 ≤ die)
    let s1 := { s with board := { s.board with islandTj := tj, dieTj := die, hbmTj := hbm, hot := hot, wasHot := s.board.wasHot || hot,
                                               hbmHot := decide (85 + 64 ≤ hbm), hbmOver := decide (95 + 64 < hbm) } }
    if 120 + 64 ≤ die ∨ 105 + 64 ≤ hbm then tripNow s1 else s1)

/-- R518: a rail has been below range for 1 µs. -/
def execRailLow (r : Nat) (s : State) : Res :=
  .next (
    if 9 ≤ r ∨ s.board.powerFail ∨ ¬ (s.mgmt.state = .service ∨ s.mgmt.state = .quiescing ∨ s.mgmt.state = .held) then s
    else
      let bit : BitVec 9 := BitVec.ofNat 9 (2 ^ r)
      beginPowerFail { s with board := { s.board with railLow := s.board.railLow ||| bit, railOk := s.board.railOk &&& ~~~bit } })

/-- R524: a link loses its reference and retrains. -/
def loseRef (s : State) (k : Nat) : State :=
  let l := linkOf s k
  match l.state with
  | .disabled => s
  | .down => s
  | .up => retrainLink s k
  | _ => changeLink s k { l with state := .training, since := s.tb, locked := false, goodWords := 0, badWords := 0 }

/-- R524: a reference clock is lost. -/
def execRefclkLoss (r : RefClk) (s : State) : Res :=
  .next (match r with
    | .tb => { s with board := { s.board with tbOk := false, tbLost := true } }
    | .fab => (List.range 32).foldl loseRef { s with board := { s.board with fabOk := false } }
    | .pcie0 => { s with board := { s.board with pcie0Ok := false } }
    | .pcie1 => { s with board := { s.board with pcie1Ok := false } })

/-- R524: a reference clock returns. -/
def execRefclkReturn (r : RefClk) (s : State) : Res :=
  .next (match r with
    | .tb => { s with board := { s.board with tbOk := true } }
    | .fab => { s with board := { s.board with fabOk := true } }
    | .pcie0 => { s with board := { s.board with pcie0Ok := true } }
    | .pcie1 => { s with board := { s.board with pcie1Ok := true } })

/-- R11, Table 14.11: a 10,000 ns window of the timebase has ended: the rates of the islands from the steps that each counted in it. Each window is taken once. -/
def execIslandRateUpdate (steps : List (Nat × Nat)) (s : State) : Res :=
  .next (
    if s.tb / 10000 = s.board.rateWindow then s
    else { s with board := { s.board with rateWindow := s.tb / 10000,
                                          rates := (steps.filter fun e => decide (e.1 < 256)).foldl (fun (t : Tbl Nat) e => tset t e.1 0 (e.2 / 10 % 65536)) s.board.rates } })

/-- R13: one tick of 1 ns; a backward correction is taken by holding. -/
def execTimebaseTick (s : State) : Res :=
  .next (if 0 < s.tbHold then { s with tbHold := s.tbHold - 1 } else { s with tb := (s.tb + 1) % 2 ^ 64 })

/-- ALERT_N is asserted (R530). -/
def alertAsserted (s : State) : Bool :=
  s.board.hot || s.board.hbmOver || s.board.railLow != 0 || s.board.tbLost || (!s.board.holdupOk && s.mgmt.state == .service) || s.board.railWait

/-- R483: a unit of the service floor fails while the die is in service: it quiesces and will be HELD with FLOOR. -/
def execFloorUnitFailure (u : FloorUnit) (s : State) : Res :=
  .next (
    let hw := match u with
      | .mgmtCore => { s.hw with smc := false }
      | .port0 => { s.hw with port0 := false }
      | .hbm => { s.hw with hbmStacks := 0 }
      | .sieveTicket => { s.hw with sieve := false }
      | .engines => { s.hw with enginesOut := List.range (nEngines s.part) }
      | .journal => { s.hw with journal := false }
    let miss : Dbl := match u with | .hbm => BitVec.ofNat 64 ((2 ^ nStacks s.part - 1) * 2 ^ 56 + (2 ^ nSlices s.part - 1)) | _ => 0
    let s1 := { s with hw := hw, store := { s.store with floorMissing := s.store.floorMissing ||| miss } }
    if s.mgmt.state = .service then beginQuiesce s1 0x07
    else if s.mgmt.state = .quiescing ∧ ¬ s.board.powerFail then { s1 with mgmt := { s1.mgmt with quiesceFor := 0x07 } }
    else s1)

/-! The test port (R505). -/

/-- A value shifted out of the TAP. -/
def tapOut (s : State) (b : Bytes) : State := emit s (.tap b)

def execIdcode (s : State) : Res := .next (tapOut { s with store := { s.store with tapIr := 1 } } (le 4 Config.idcode.toNat))

/-- BYPASS: what goes in comes out one bit later. -/
def bypass (s : State) (data : Bytes) : State :=
  tapOut { s with store := { s.store with tapIr := 0xFF } } (le data.length (ofLe data * 2))

def execBypass (data : Bytes) (s : State) : Res := .next (bypass s data)

/-- The boundary register as captured: the levels at the balls, which no rule of the model gives. -/
def captureBoundary (s : State) (data : Bytes) (ir : Byte) : State :=
  let r := takeFree (8 * data.length) s
  tapOut { r.2 with store := { r.2.store with tapIr := ir, boundary := data } } (le data.length r.1.toNat)

def execSamplePreload (data : Bytes) (s : State) : Res := .next (captureBoundary s data 2)

/-- EXTEST is honoured in BOOT and HELD; elsewhere it acts as BYPASS. -/
def execExtest (data : Bytes) (s : State) : Res :=
  .next (if s.mgmt.state = .boot ∨ s.mgmt.state = .held then captureBoundary s data 0 else bypass s data)

end Sys2Proof.Machine
end

