-- ==== Sys2Proof/Machine/Control.lean ====
section
/-! DEFINITION. The device, key and control commands: DAYROLL (R48, R98), CHECKPOINT (R101, R138 to R140), KEYUPDATE (R102, R259), FENCE and NOP (R103, R104). -/
namespace Sys2Proof.Machine

/-- A record with the REF of PARAM 0–7 and no body, for a command that names no account. -/
def bareRec (t : Ticket) (st : Byte) (ref : Dbl) : Verdict := oneRec t st none 0 ref [] none

/-- R98: NEW_DAY is not greater than the current day. -/
def dayBad (s : State) (c : Cmd) : Bool := decide ((wordAt c.desc 16).toNat ≤ s.led.day.toNat)

/-- DAYROLL (R48, R98): refused at once, waiting behind a fence in force, or the fence itself. -/
def execDayroll (e c : Nat) (s : State) : Res :=
  .next (match cmdAt s e c 0x0D with
    | none => s
    | some (k, t) =>
      let s0 := takeCmd s e c k
      match s0.eng.dayFence with
      | some _ => setCtx s0 e c { ctxOf s0 e c with phase := .dayroll }
      | none => withLocks s0 e c k [] [] none
          (fun st =>
            if dayBad st t.cmd then appendVerdict st e c k (bareRec t stSeqRule (cP0 t.cmd))
            else setCtx { st with eng := { st.eng with dayFence := some (e, c) } } e c { ctxOf st e c with phase := .dayroll })
          (fun st b _ => appendVerdict st e c k (bareRec t b (cP0 t.cmd))))

/-- R48 step 2: every command dispatched is accepted or refused, every posting prepared here is decided. -/
def fenceDrained (s : State) (e c : Nat) : Bool :=
  (s.eng.ctxs.all fun x => x.1 == ctxKey e c || decide (x.2.state = .free) || decide (x.2.phase = .image) || decide (x.2.phase = .dayroll)) &&
  (s.fab.coords.all fun x => decide (x.2.state = .decided)) &&
  (s.fab.parts.all fun x => !partOpen x.2)

/-- The fence of a DAYROLL has drained: its record is appended (R48 step 3). -/
def execDayrollFenceDrained (e c : Nat) (s : State) : Res :=
  .next (match cmdAt s e c 0x0D with
    | none => s
    | some (k, t) =>
      if s.eng.dayFence = some (e, c) ∧ fenceDrained s e c then appendVerdict s e c k (bareRec t stOk (cP0 t.cmd)) else s)

/-! CHECKPOINT. -/

/-- The accounts of an image: those that the writer has copied, and the rest as they stand when it takes its last copies (R138). -/
def imageAccounts (s : State) (k : Ckpt) : Tbl Account := k.accounts ++ tfilter s.led.accounts fun i _ => decide (k.next ≤ i)

/-- The active holds of an image, each copied with its account (R138). -/
def imageHolds (s : State) (k : Ckpt) : Tbl Hold := k.holds ++ tfilter s.led.holds fun i _ => decide (k.next ≤ holdKeyAccount i)

/-- The sections of an image (Table 3.16). -/
def imageSections (s : State) (k : Ckpt) : List Bytes :=
  let l := s.led
  [ ((imageAccounts s k).map fun a => accountBytes a.2).flatten,
    ((imageHolds s k).map fun h => holdBytes h.2).flatten,
    ((l.suspense.filter fun x => x.2.lastSeq != 0).map fun x => le 2 x.1 ++ zeros 6 ++ le 8 x.2.lastSeq ++ pack 20 x.2.value ++ zeros 12).flatten,
    (l.reversal.map fun r => le 8 r.1 ++ le 8 r.2).flatten ]

/-- The four sections, each padded to a 4 KiB boundary (R139). -/
def imageBody (s : State) (k : Ckpt) : Bytes := ((imageSections s k).map (padTo 4096)).flatten

/-- R139: DIGEST. -/
def imageDigest (s : State) (k : Ckpt) : BitVec 256 := Config.sha256 (imageBody s k)

/-- The header page (Table 3.15). -/
def imageHeader (s : State) (k : Ckpt) : Bytes :=
  let l := s.led
  fit 4096 (le 4 0x54504B43 ++ le 2 1 ++ le 2 (deviceField s).toNat ++ le 8 k.s ++ le 8 s.jn.durable ++ le 4 k.day.toNat ++ le 4 (cfgRevDays s) ++
    le 8 k.daySeq ++ le 8 k.revStart ++ le 8 (imageAccounts s k).length ++ le 8 (imageHolds s k).length ++
    le 8 (l.suspense.filter fun x => x.2.lastSeq != 0).length ++ le 8 l.reversal.length ++ zeros 16 ++ le 32 (imageDigest s k).toNat)

/-- The image's length (R139). -/
def imageLen (s : State) (k : Ckpt) : Nat := 4096 + (imageBody s k).length

/-- CHECKPOINT (R101): BUSY, BUFFER, or accepted at its own number. -/
def execCheckpoint (e c : Nat) (s : State) : Res :=
  .next (match cmdAt s e c 0x13 with
    | none => s
    | some (k, t) =>
      let s0 := takeCmd s e c k
      let pages := (wordAt t.cmd.desc 24).toNat
      withLocks s0 e c k [] [] none
        (fun st =>
          if st.jn.ckpt.isSome then appendVerdict st e c k (bareRec t stBusy 0)
          else if pages * 4096 < imageLen st {} then appendVerdict st e c k (bareRec t stBuffer 0)
          else
            let v := bareRec t stOk 0
            let s1 := appendFor st e c k v.recs {} none .appended (.ctx e c (ctxOf st e c).epoch) false
            if (ctxOf s1 e c).phase = .appended then
              let fn := match t.origin with | .tray f _ => f | _ => 0
              { s1 with jn := { s1.jn with ckpt := some { e := e, c := c, s := st.jn.nextSeq, dest := cP0 t.cmd, pages := pages, fn := fn } } }
            else s1)
        (fun st b _ => appendVerdict st e c k (bareRec t b 0)))

/-- R138: no account that the writer has still to visit is locked, so every remaining copy may be taken. -/
def copyFree (s : State) (k : Ckpt) : Bool := s.locks.all fun l => decide (l.1 < k.next) || (tget s.led.accounts l.1).isNone

/-- The CKPT_END record (Table 3.4). -/
def ckptEnd (s : State) (k : Ckpt) : Rec :=
  { kind := 0xE1, tray := 0x8000, ref := BitVec.ofNat 64 k.s,
    body := le 32 (imageDigest s k).toNat ++ le 8 (imageLen s k) ++ le 8 s.jn.durable ++ zeros 16 }

/-- Where an image goes: to host memory, or to the bytes that a port posting's DEST names (R320). -/
def writeImage (s : State) (e c : Nat) (k : Ckpt) (b : Bytes) : State :=
  match ((ctxOf s e c).ticket.bind (ticketOf s)).map (fun (t : Ticket) => t.origin) with
  | some (.port core _ n) => (match tget (coreOf s core).slots n with | some x => (engineWrite s e x.dest b).1 | none => s)
  | _ => dmaOut s k.fn k.dest b

/-- The image of a checkpoint is written and CKPT_END appended (R138, R140): the writer visits the accounts that are left. -/
def execCheckpointImageWritten (e c : Nat) (s : State) : Res :=
  .next (match s.jn.ckpt with
    | none => s
    | some k =>
      let x := ctxOf s e c
      if k.e ≠ e ∨ k.c ≠ c ∨ x.phase ≠ .image ∨ k.written ∨ ¬ copyFree s k then s
      else if k.pages * 4096 < imageLen s k then
        finishCtx { setCtx s e c { x with compl := { x.compl with status := stBuffer } } with jn := { s.jn with ckpt := none } } e c
      else if s.jn.stopped then
        failCtx { s with jn := { s.jn with ckpt := none } } e c
      else
        let r := ckptEnd s k
        if !canAppend s [r] then s
        else
          let s1 := writeImage s e c k (imageHeader s k ++ imageBody s k)
          let s2 := match x.ticket with | some t => unreserve s1 t | none => s1
          waitOn (appendRecs { s2 with jn := { s2.jn with ckpt := some { k with written := true } } } [r] (.ckpt e c x.epoch)) e c unitJA)

/-! KEYUPDATE. -/

/-- R102, R258, R259: the checks of KEYUPDATE. -/
def keyRule (s : State) (c : Cmd) : Option Byte :=
  let k := keyOf s (kTarget c)
  if (kGen c).toNat ≤ (if cwPresent k then cwGen k else 0) then some stSeqRule
  else if (newKey c).isNone then some stKeyWrap
  else if k.unflipped then some stDeviceFault
  else none

/-- KEYUPDATE (R102, R259): checks and step 1; the slot write of step 2 begins. -/
def execKeyupdate (e c : Nat) (s : State) : Res :=
  .next (match cmdAt s e c 0x18 with
    | none => s
    | some (k, t) =>
      if (ctxOf s e c).phase = .keyWrite then s
      else
        let s0 := takeCmd s e c k
        let target := kTarget t.cmd
        withLocks s0 e c k [keyupdateKey target] [] none
          (fun st => match keyRule st t.cmd with
            | some code => appendVerdict st e c k (bareRec t code (cP0 t.cmd))
            | none => setCtx (setKey st target (retireOther (keyOf st target) true)) e c { ctxOf st e c with phase := .keyWrite })
          (fun st b _ => appendVerdict st e c k (bareRec t b (cP0 t.cmd))))

/-- The store acknowledges every granule of the slot, or cannot complete step 1 or 2 (R259 steps 2 to 4). -/
def execKeySlotWriteAck (e c : Nat) (ok : Bool) (s : State) : Res :=
  .next (match cmdAt s e c 0x18 with
    | none => s
    | some (k, t) =>
      let v := bareRec t (if ok then stOk else stDeviceFault) (cP0 t.cmd)
      if (ctxOf s e c).phase ≠ .keyWrite ∨ (¬ s.jn.stopped ∧ ¬ canAppend s v.recs) then s
      else if !ok then appendVerdict (keyAbandon s (kTarget t.cmd)) e c k v
      else match newKey t.cmd with
        | none => s
        | some key =>
          let target := kTarget t.cmd
          let d := takeDraw 96 s
          let r := keyOf d.2 target
          let b := inactiveB r
          let s1 := setKey d.2 target (setSlot r b (wrapSlot target b (kGen t.cmd) d.1 key))
          appendVerdict (if s.jn.stopped then keyAbandon s1 target else s1) e c k v)

/-! FENCE and NOP. -/

/-- R103: a ticket that a FENCE of a function, or of the operator, waits for. -/
def fenceWaits (op : Bool) (fn : Option Nat) (order : Nat) (y : Ticket) : Bool :=
  decide (y.order < order) && decide (y.state ≠ .issued) &&
  (op || (match fn, y.origin with | some f, .tray g _ => f == g | _, _ => false))

/-- R103: every command granted before the FENCE has had its completion issued. -/
def fenceClear (s : State) (t : Ticket) : Bool :=
  let fn := match t.origin with | .tray f _ => some f | _ => none
  !(s.tk.held.any fun y => fenceWaits (t.cmd.tenant == 0) fn t.order y.2)

/-- R103: append the FENCE's record once it is clear; until then it waits. -/
def runFence (s : State) (e c : Nat) : State :=
  match cmdAt s e c 0x40 with
  | none => s
  | some (k, t) =>
    let s0 := takeCmd s e c k
    if fenceClear s0 t then
      withLocks s0 e c k [] [] none (fun st => appendVerdict st e c k (bareRec t stOk 0)) (fun st b _ => appendVerdict st e c k (bareRec t b 0))
    else setCtx s0 e c { ctxOf s0 e c with phase := .fence }

/-- FENCE (R103). -/
def execFence (e c : Nat) (s : State) : Res := .next (runFence s e c)

/-- The last completion that a FENCE waits for has been issued (R103). -/
def execFenceRelease (e c : Nat) (s : State) : Res :=
  .next (if (ctxOf s e c).phase = .fence then runFence s e c else s)

/-- NOP (R104). -/
def execNop (e c : Nat) (s : State) : Res :=
  .next (runCmd s e c 0x41 (fun _ => []) (fun _ t => bareRec t stOk 0) fun t b => bareRec t b 0)

end Sys2Proof.Machine
end

