-- ==== Sys2Proof/Machine/EngineOps.lean ====
section
/-! DEFINITION. Resetting contexts and engines, and what the sweepers do (R173 to R176, R533). -/
namespace Sys2Proof.Machine

/-! Reset causes (Table 4.13). -/
def causeWatchdog : Byte := 1
def causeEcc : Byte := 2
def causeTrap : Byte := 3
def causeIllegal : Byte := 4
def causeOperator : Byte := 5
def causeEngine : Byte := 6

/-- R171, R175: stop a context, raise its epoch, discard what is addressed to the old one, withdraw its queued requests. A prepared posting goes to the fabric resolver. -/
def stopCtx (s : State) (e c : Nat) (cause : Byte) (code : Nat) : State :=
  let x := ctxOf s e c
  let s0 := trace s e c trReset (cause.toNat + 256 * code) (x.epoch.toNat + 65536 * (x.epoch + 1).toNat)
  if x.state = .free then setCtx s0 e c { x with epoch := x.epoch + 1 }
  else
    let s1 := withdraw s0 (ctxOwner e c) x.epoch
    let s2 := setCtx s1 e c { x with epoch := x.epoch + 1, state := .sweeping, awaiting := [], pend := [], late := [] }
    if x.entry.state = .prepared ∧ x.phase = .xdev then handOver s2 e c x.entry.seq else s2

/-- The times within the last `w` ns. -/
def recent (tb w : Nat) (l : List Nat) : List Nat := l.filter fun t => decide (tb < t + w)

/-- R173: a context of the engine is still being swept. -/
def sweepsOn (s : State) (e : Nat) : Bool := s.eng.ctxs.any fun y => y.1 / 256 == e && decide (y.2.state = .sweeping)

/-- R173: reset every context of an engine; the third engine reset within 1 s takes the engine out of service. -/
def resetEngine (s : State) (e : Nat) (cause : Byte) : State :=
  let held := ((List.range 256).filter fun c => (ctxOf s e c).state != .free).length
  let s1 := (List.range 256).foldl (fun st c => stopCtx st e c cause 0) s
  let times := s.tb :: recent s.tb 1000000000 (tgetD s.eng.engineResets e [])
  let s2 := { s1 with eng := { s1.eng with resets := sat (2 ^ 32 - 1) (s1.eng.resets + 256), resetting := if sweepsOn s1 e then insertUp e s1.eng.resetting else s1.eng.resetting,
                                           engineResets := tput s1.eng.engineResets e times, resetTimes := tdel s1.eng.resetTimes e } }
  let s3 := logFault s2 0x01 cause (256 * e) (2 ^ 31) held 0
  if 3 ≤ times.length then
    logFault { s3 with eng := { s3.eng with enabled := s3.eng.enabled &&& ~~~(BitVec.ofNat 64 (2 ^ e)) } } 0x02 1 e 0 0 0
  else s3

/-- R173: reset one context; the eighth within 1 ms resets its engine. -/
def resetCtx (s : State) (e c : Nat) (cause : Byte) (code : Nat) : State :=
  let x := ctxOf s e c
  let s1 := stopCtx s e c cause code
  let times := s.tb :: recent s.tb 1000000 (tgetD s.eng.resetTimes e [])
  let s2 := { s1 with eng := { s1.eng with resets := sat (2 ^ 32 - 1) (s1.eng.resets + 1), resetTimes := tput s1.eng.resetTimes e times } }
  let s3 := logFault s2 0x01 cause (256 * e + c) x.pc.toNat x.entry.seq 0
  if 8 ≤ times.length then resetEngine s3 e causeEngine else s3

/-- R175, R176: the sweep of a context ends: its dead locks are free and it is FREE. -/
def sweptFree (s : State) (e c : Nat) : State :=
  let x := ctxOf s e c
  let s1 := freeCtx (releaseDead s (ctxOwner e c) x.epoch) e c
  if sweepsOn s1 e then s1
  else { s1 with eng := { s1.eng with resetting := s1.eng.resetting.filter (· != e) } }

/-- R175: a completion by the sweeper. An entry that is not intact gives none: the ticket is reclaimed. -/
def sweptCompl (s : State) (e c : Nat) (compl : Compl) : State :=
  let x := ctxOf s e c
  match x.ticket with
  | none => s
  | some k =>
    let s1 := unreserve s k
    if x.issued then s1 else complete s1 k (complFor s1 { x with compl := compl } k)

/-- The participant's posting that a context evaluates (R448). -/
def partOfCtx (s : State) (e c : Nat) : Option (Nat × PartEnt) :=
  s.fab.parts.find? fun p => p.2.ctx == some (e, c)

/-- R260: a KEYUPDATE of a reset context that ends without its flip; one that still waited for its lock had not begun step 1. -/
def sweptKey (s : State) (e c : Nat) : State :=
  match (ctxOf s e c).ticket with
  | none => s
  | some k => match ticketOf s k with
    | some t => if cOp t.cmd = 0x18 ∧ (ctxOf s e c).phase ≠ .idle ∧ (ctxOf s e c).phase ≠ .locks then keyAbandon s (kTarget t.cmd) else s
    | none => s

/-- R175: the records of a context's recovery entry. -/
def entryRecs (s : State) (x : Ctx) : List Rec :=
  (s.jn.blocks.flatMap (·.recs)).filter fun r => decide (x.entry.seq ≤ r.seq ∧ r.seq < x.entry.seq + x.entry.nrec)

/-- The code a POST2 or other command completes with, from its records (R79). -/
def recsCompl (rs : List Rec) (x : Ctx) : Compl :=
  match rs with
  | [] => x.compl
  | [r] => { x.compl with status := r.status, info := r.info, seq := r.seq }
  | r0 :: r1 :: _ =>
    let leg := fun (r : Rec) => if r.info.getLsbD 4 then some (bits r.info.toNat 3 0) else none
    { x.compl with status := r0.status, seq := r0.seq, info := infoPair (leg r0) r1.status (leg r1) }

end Sys2Proof.Machine
end

