-- ==== Sys2Proof/Machine/Micro.lean ====
section
/-! DEFINITION. The whisk engine's move words (R153 to R161): fetch, decode, guards, moves, units, sequencing. The context store is laid out as
x0–x15 at 0, the descriptor at 128, four record lines at 256, scratch at 768. -/
namespace Sys2Proof.Machine

/-! The context store. -/

def ctxBytes (x : Ctx) (off n : Nat) : Bytes := (List.range n).map fun i => tgetD x.store ((off + i) % 1024) 0

def putBytes (x : Ctx) (off : Nat) (b : Bytes) : Ctx :=
  { x with store := (b.foldl (fun (a : Nat × Tbl Byte) v => (a.1 + 1, tset a.2 ((off + a.1) % 1024) 0 v)) (0, x.store)).2 }

def lineOff (n : Nat) : Nat := 256 + 128 * (n % 4)
def scratchOff : Nat := 768

/-- The value at a port: a context register, an operand or result port, a literal (Table 4.1). -/
def portVal (x : Ctx) (target : Half) (p : Nat) : Dbl :=
  if p = 0 then 0
  else if p < 16 then BitVec.ofNat 64 (ofLe (ctxBytes x (8 * p) 8))
  else if p = 0xF0 then target.setWidth 64
  else if 0xC0 ≤ p then BitVec.ofNat 64 (p - 0xC0)
  else tgetD x.ports p 0

/-- Store a value at a port; x0 discards it (R152). -/
def setPort (x : Ctx) (p : Nat) (v : Dbl) : Ctx :=
  if p = 0 then x
  else if p < 16 then putBytes x (8 * p) (le 8 v.toNat)
  else { x with ports := tset x.ports p 0 v }

/-- Table 4.1: ports that do not exist. -/
def portReserved (p : Nat) : Bool :=
  !(decide (p < 0x1A) || p == 0x1E || p == 0x1F || (decide (0x20 ≤ p) && decide (p ≤ 0x27)) || p == 0x2E || p == 0x2F ||
    (decide (0x30 ≤ p) && decide (p ≤ 0x32)) || p == 0x3E || p == 0x3F || (decide (0x40 ≤ p) && decide (p ≤ 0x43)) || p == 0x4F ||
    (decide (0x50 ≤ p) && decide (p ≤ 0x57)) || p == 0x5F || (decide (0x60 ≤ p) && decide (p ≤ 0x63)) || p == 0x6E || p == 0x6F ||
    (decide (0x70 ≤ p) && decide (p ≤ 0x72)) || p == 0x7E || p == 0x7F || p == 0x80 || p == 0x82 || (decide (0x90 ≤ p) && decide (p ≤ 0x93)) || p == 0x9E ||
    p == 0xA0 || p == 0xA1 || p == 0xAE || (decide (0xC0 ≤ p) && decide (p ≤ 0xF0)))

/-- Table 4.1: trigger ports. -/
def portTrigger (p : Nat) : Bool :=
  (decide (0x12 ≤ p) && decide (p ≤ 0x19)) || (decide (0x22 ≤ p) && decide (p ≤ 0x27)) || p == 0x31 || p == 0x32 ||
  (decide (0x41 ≤ p) && decide (p ≤ 0x43)) || (decide (0x52 ≤ p) && decide (p ≤ 0x57)) || p == 0x62 || p == 0x63 || p == 0x71 || p == 0x72 ||
  p == 0x82 || p == 0x92 || p == 0x93 || p == 0xA1

/-- Table 4.1: result ports. -/
def portResult (p : Nat) : Bool :=
  p == 0x1E || p == 0x1F || p == 0x2E || p == 0x2F || p == 0x3E || p == 0x3F || p == 0x4F || p == 0x5F || p == 0x6E || p == 0x6F || p == 0x7E ||
  p == 0x7F || p == 0x9E || p == 0xAE

/-- Table 4.1: trigger ports whose result is pending until it arrives (Wait). -/
def portWait (p : Nat) : Bool :=
  p == 0x31 || p == 0x32 || p == 0x41 || (decide (0x52 ≤ p) && decide (p ≤ 0x57)) || p == 0x62 || p == 0x71 || p == 0x93

/-! The word (Table 4.2). -/

structure MoveWord where
  guardSel : Nat
  seqOp : Nat
  cond : Nat
  ways : Nat
  srcA : Nat
  dstA : Nat
  srcB : Nat
  dstB : Nat
  target : Half
  reservedBits : Nat
deriving DecidableEq, Repr

def moveWordOf (w : Dbl) : MoveWord :=
  let n := w.toNat
  ⟨bits n 63 60, bits n 59 56, bits n 55 52, bits n 51 50, bits n 47 40, bits n 39 32, bits n 31 24, bits n 23 16, w.setWidth 16, bits n 49 48⟩

def emptyMove (src dst : Nat) : Bool := src == 0 && dst == 0

/-- A move that R155 makes illegal. -/
def moveBad (seqOp src dst : Nat) : Bool :=
  portReserved src || portReserved dst || decide (0xC0 ≤ dst) || portResult dst ||
  (src == 0xF0 && (seqOp == 1 || seqOp == 2 || seqOp == 3))

/-- R155: the word is illegal. -/
def wordIllegal (w : MoveWord) : Bool :=
  moveBad w.seqOp w.srcA w.dstA || moveBad w.seqOp w.srcB w.dstB ||
  (!emptyMove w.srcA w.dstA && !emptyMove w.srcB w.dstB && (w.dstA == w.dstB || (portTrigger w.dstA && portTrigger w.dstB && w.dstA / 16 == w.dstB / 16))) ||
  w.reservedBits != 0 || decide (8 < w.seqOp) || decide (8 < w.cond) || (w.seqOp != 2 && (w.cond != 0 || w.ways != 0))

/-- R160, R161: the word at an address; none in unused space. -/
def fetchWord (s : State) (pc : Half) : Option Dbl :=
  let a := pc.toNat
  if 0xA000 ≤ a then none
  else if 0x8000 ≤ a then some (tgetD s.eng.patchRam (a - 0x8000) 0x0800000000000002)
  else match s.eng.matchRegs.find? fun m => m.2.getLsbD 63 && bits m.2.toNat 14 0 == a with
    | some m => some (tgetD s.eng.patchRam (bits m.2.toNat 28 16) 0x0800000000000002)
    | none => some (Config.rom a)

/-- R156: the guard of a word. Flags: bit n is Gn. -/
def guardHolds (x : Ctx) (g : Nat) : Bool :=
  if g = 0 then true else if g < 8 then x.flags.getLsbD g else if g = 8 then false else !x.flags.getLsbD (g - 8)

/-- Set guard flags. -/
def setFlagsG (f : Byte) (l : List (Nat × Bool)) : Byte :=
  l.foldl (fun a e => if e.2 then a ||| BitVec.ofNat 8 (2 ^ e.1) else a &&& ~~~(BitVec.ofNat 8 (2 ^ e.1))) f

/-- A result arrives (R153, R156). -/
def arriveLate (x : Ctx) (l : Late) : Ctx :=
  let x1 := l.ports.foldl (fun y p => { y with ports := tset y.ports p.1 0 p.2 }) x
  let x2 := { x1 with flags := setFlagsG x1.flags l.flags, groups := l.groups.foldl (fun t g => tset t g.1 0 g.2) x1.groups }
  if l.bytes.isEmpty then x2 else putBytes x2 l.off l.bytes

/-- Put a result into a list in the order in which results arrive. -/
def dueInto (l : Late) : List Late → List Late
  | [] => [l]
  | d :: r => if l.due < d.due then l :: d :: r else d :: dueInto l r

/-- Deliver what is due at a step, in the order of arrival. -/
def arriveDue (x : Ctx) (step : Nat) : Ctx :=
  ((x.late.filter fun l => decide (l.due ≤ step)).foldl (fun a l => dueInto l a) []).foldl arriveLate { x with late := x.late.filter fun l => !decide (l.due ≤ step) }

/-- R159: the four bits of a condition group. Group 0 is made of the guard flags. -/
def condBits (x : Ctx) (cond : Nat) : Nat :=
  if cond = 0 then bits x.flags.toNat 4 1 else tgetD x.groups cond 0 % 16

/-! Units with a fixed step count. -/

/-- The ALU (Table 4.1). Shifts by 64 or more, and RES after CMPU, are free values. -/
def aluOp (p : Nat) (a b free : Dbl) : Dbl :=
  if p = 0x12 then a + b else if p = 0x13 then a - b else if p = 0x14 then a &&& b else if p = 0x15 then a ||| b else if p = 0x16 then a ^^^ b
  else if p = 0x17 then (if 64 ≤ b.toNat then free else a <<< b.toNat)
  else if p = 0x18 then (if 64 ≤ b.toNat then free else a >>> b.toNat)
  else free

/-- The ALU's result, its guard flags and its FLAGS port, whose layout is not given: a free value. After CMPU G1 is that of the free RES. -/
def aluLate (due p : Nat) (a b free flags : Dbl) : Late :=
  let r := aluOp p a b free
  let n := if p = 0x19 then decide (a.toNat < b.toNat) else r.getLsbD 63
  { due := due, ports := [(0x1E, r), (0x1F, flags)], flags := [(1, r == 0), (2, n)] }

/-- The low 31 or 39 digits of a value, its sign kept (Table 4.1). -/
def cutDigits (n : Nat) (v : Int) : Int := if v < 0 then -((v.natAbs % 10 ^ n : Nat) : Int) else ((v.natAbs % 10 ^ n : Nat) : Int)

/-- The amounts that CHK reads are packed decimal. -/
def chkOk (x : Ctx) (a b : Nat) : Bool :=
  packOk (slice (ctxBytes x a 32) 16 16) && [32, 64, 80, 96].all fun o => packOk (slice (ctxBytes x b 128) o 16)

/-- DEC: CHK of a leg at A against a record line at B (group LEG, Table 4.5). -/
def chkBits (s : State) (x : Ctx) (a b : Nat) : Nat :=
  let g := legOf (ctxBytes x a 32)
  let r := fieldsOf (ctxBytes x b 128)
  let m := -g.amount
  8 * b2n (r.currency != g.currency) + 4 * b2n ((decide (g.amount < 0) && fCreditOnly r) || (decide (0 < g.amount) && fDebitOnly r)) +
  2 * b2n (decide (g.amount < 0) && !dayOk r s.led.day m) + b2n (decide (g.amount < 0) && !availOk r m)

/-- What the spec leaves open of a DEC operation: where the result is written, its carry, the FLAGS port, and the result of operands that are not packed decimal. -/
structure DecOpen where
  off : Nat := 0
  carry : Bool := false
  flags : Dbl := 0
  bad : BitVec 160 := 0
deriving DecidableEq, Repr

/-- DEC (Table 4.1): the result's bytes, its flags and its condition group; a result of operands that are not packed decimal is free, and its flags are its own. -/
def decLate (s : State) (x : Ctx) (step p : Nat) (a b : Nat) (o : DecOpen) : Late :=
  if p = 0x27 then
    let bits4 := if chkOk x a b then chkBits s x a b else o.flags.toNat % 16
    { due := step + 3, ports := [(0x2F, o.flags)], groups := [(3, bits4)] }
  else
    let wide := p == 0x26
    let n := if wide then 20 else 16
    let ok := packOk (ctxBytes x a n) && (p == 0x25 || packOk (ctxBytes x b n))
    let bad := le n o.bad.toNat
    let va := unpack (ctxBytes x a n)
    let vb := unpack (ctxBytes x b n)
    let v := if !ok then unpack bad else if p = 0x22 ∨ p = 0x26 then va + vb else if p = 0x25 then -va else va - vb
    let range := decide (maxAmount < (v.natAbs : Int))
    let w := cutDigits (if wide then 39 else 31) v
    { due := step + (if wide then 4 else 2), flags := [(3, decide (v < 0)), (4, v == 0), (5, range)],
      groups := [(1, 8 * b2n o.carry + 4 * b2n range + 2 * b2n (v == 0) + b2n (decide (v < 0)))],
      ports := if p = 0x24 then [(0x2F, o.flags)] else [(0x2E, BitVec.ofNat 64 o.off), (0x2F, o.flags)],
      off := o.off, bytes := if p = 0x24 then [] else if ok then pack n w else bad }

/-- The open values of one DEC operation. -/
def decOpen (s : State) : DecOpen × State :=
  let f := takeFree 11 s
  let g := takeFree 64 f.2
  let h := takeFree 160 g.2
  ({ off := f.1.toNat % 1024, carry := f.1.getLsbD 10, flags := g.1, bad := h.1 }, h.2)

/-! Units that act at once and units that are waited for. -/

/-- Mark a unit's result pending (R165). -/
def pendOn (s : State) (e c unit p : Nat) : State := let x := ctxOf s e c; setCtx s e c { x with pend := tput x.pend unit p }

/-- The record that JA.APPEND names in scratch. -/
def scratchRec (x : Ctx) : Rec :=
  let n := (tgetD x.ports 0x61 0).toNat
  recordOf (fit (32 * n) (ctxBytes x (scratchOff + (tgetD x.ports 0x60 0).toNat % 256) (32 * n)))

/-- R217: whether every command before the context's in its tray passes a test of its ticket. -/
def turnOf (s : State) (e c : Nat) (p : Ticket → Bool) : Bool :=
  match (ctxOf s e c).ticket with | none => true | some k => beforeOk s k p

/-- Mark the ticket of a context's command. -/
def markTicket (s : State) (e c : Nat) (f : Ticket → Ticket) : State :=
  match (ctxOf s e c).ticket with
  | none => s
  | some k => match ticketOf s k with | some t => setTicket s k (f t) | none => s

/-- R110, R174, R217: an append that the context has asked for is numbered, once its turn has come and the controller takes it. A prepared posting's entry stays PREPARED. -/
def tryAppend (s : State) (e c : Nat) : State :=
  let x := ctxOf s e c
  let r := scratchRec x
  if !x.appending then s
  else if s.jn.stopped then setCtx s e c { x with failed := true, appending := false, queued := false }
  else if !(turnOf s e c (·.numbered) && canAppend s [r]) then setCtx s e c { x with queued := prioRecs [r] }
  else
    let seq := s.jn.nextSeq
    let ent := x.entry
    let entry := if ent.state = .prepared then ent
      else { ent with seq := if ent.nrec = 0 then seq else ent.seq, state := .appending, nrec := ent.nrec + 1, ticket := x.ticket.getD 0 }
    let s1 := markTicket s e c fun t => { t with numbered := true, locked := true }
    trace (appendRecs (setCtx s1 e c { x with entry := entry, firstSeq := seq, appending := false, queued := false }) [r] (.micro e c x.epoch)) e c trAppend (recLen r) seq

/-- JA.APPEND: the record in scratch is to be appended (R110, R174). -/
def microAppend (s : State) (e c : Nat) : State :=
  let s1 := pendOn s e c 6 0x62
  tryAppend (setCtx s1 e c { ctxOf s1 e c with appending := true, firstSeq := 0 }) e c

/-- LK.ACQ: the lock is requested once every earlier command of the tray has its locks (R169, R217). -/
def tryLock (s : State) (e c : Nat) : State :=
  let x := ctxOf s e c
  if turnOf s e c (·.locked) then requestLock s (ctxOwner e c) x.epoch (isPrioCtx c) (tgetD x.ports 0x40 0).toNat else s

/-- CQ.ISSUE: the completion in scratch is issued (R79). -/
def microIssue (s : State) (e c : Nat) : State :=
  let x := ctxOf s e c
  let b := ctxBytes x (scratchOff + (tgetD x.ports 0x80 0).toNat % 256) 32
  match x.ticket with
  | none => s
  | some k =>
    if x.issued then s
    else
      let pushed := match ticketOf s k with | some t => t.cmd.pushed | none => false
      trace (complete (unreserve (setCtx s e c { x with issued := true }) k) k
        { status := byteAt b 24, info := halfAt b 26, seq := field b 16 8, avail := unpack (b.take 16), hostTag := halfAt b 28, pushed := pushed })
        e c trDone (byteAt b 24).toNat (field b 16 8)

/-- FX.SEND: a message in scratch goes to a device. -/
def microSend (s : State) (e c : Nat) : State :=
  let x := ctxOf s e c
  let off := scratchOff + (tgetD x.ports 0x91 0).toNat % 256
  let len := field (ctxBytes x (off + 10) 2) 0 2
  let m := msgOf (ctxBytes x off (min len 256))
  (sendSeq s { m with dst := BitVec.ofNat 16 ((tgetD x.ports 0x90 0).toNat % 2048), src := BitVec.ofNat 16 (ownEndpoint s), epoch := s.fab.epoch.setWidth 16 } .nobody).1

/-- Start the operation that a trigger port names. -/
def trigger (s : State) (e c step p : Nat) : State :=
  let x := ctxOf s e c
  let addLate := fun (st : State) (l : Late) => let y := ctxOf st e c; setCtx st e c { y with late := y.late ++ [l] }
  if portWait p ∧ p ≠ 0x62 ∧ p ≠ 0x41 ∧ p ≠ 0x93 then pendOn s e c (p / 16) p
  else if p < 0x20 then
    let f := takeFree 64 s
    let g := takeFree 64 f.2
    addLate g.2 (aluLate (step + 1) p (tgetD x.ports 0x10 0) (tgetD x.ports 0x11 0) f.1 g.1)
  else if p < 0x30 then
    let o := decOpen s
    addLate o.2 (decLate s x step p ((tgetD x.ports 0x20 0).toNat % 1024) ((tgetD x.ports 0x21 0).toNat % 1024) o.1)
  else if p = 0x41 then pendOn (tryLock s e c) e c unitLK p
  else if p = 0x42 ∨ p = 0x43 then
    let f := takeFree 64 (if p = 0x42 then releaseLock s (ctxOwner e c) x.epoch (tgetD x.ports 0x40 0).toNat else releaseOwner s (ctxOwner e c) x.epoch)
    addLate f.2 { due := step + 1, ports := [(0x4F, f.1)] }
  else if p = 0x62 then microAppend s e c
  else if p = 0x63 then setCtx s e c { x with entry := { x.entry with state := if x.entry.state = .prepared then .prepared else .applied } }
  else if p = 0x72 then (match x.ticket with | some k => issueTicket (unreserve s k) k | none => s)
  else if p = 0x82 then microIssue s e c
  else if p = 0x92 then microSend s e c
  else if p = 0x93 then pendOn (microSend s e c) e c unitFX p
  else if p = 0xA1 then addLate s { due := step + 4, ports := [(0xAE, Config.hash (tgetD x.ports 0xA0 0))] }
  else s

/-- R155: a move writes its destination. -/
def putMove (s : State) (e c src dst : Nat) (v : Dbl) : State :=
  if emptyMove src dst then s else setCtx s e c (setPort (ctxOf s e c) dst v)

/-- R152: a move into a trigger port starts what the port names, once both destinations of the word are written. -/
def startMove (s : State) (e c step src dst : Nat) : State :=
  if emptyMove src dst || !portTrigger dst then s else trigger s e c step dst

/-- R155: both moves of a word, in one step. -/
def doMoves (s : State) (e c step : Nat) (w : MoveWord) (va vb : Dbl) : State :=
  startMove (startMove (putMove (putMove s e c w.srcA w.dstA va) e c w.srcB w.dstB vb) e c step w.srcA w.dstA) e c step w.srcB w.dstB

/-! Results of the units that are waited for (Table 4.1). `v` is what the unit reports where the outside decides: 3 for an uncorrectable memory error, the outcome of a fabric wait. -/

/-- A result with its ports and groups. -/
def resultNow (s : State) (e c : Nat) (ports : List (Nat × Dbl)) (groups : List (Nat × Nat)) (flags : List (Nat × Bool)) : State :=
  setCtx s e c (arriveLate (ctxOf s e c) { ports := ports, groups := groups, flags := flags })

/-- The account in a record slot, among the books. -/
def accountInSlot (l : Ledger) (slot : Nat) : Option Account :=
  (l.accounts.find? fun a => indexWalk l a.2.id == some slot).map (·.2)

/-- Group AF of a fetched record (Table 4.5). -/
def afBits (code : Nat) (a : Account) : Nat := 8 * b2n (fFrozen a) + 4 * b2n (fClosed a) + code

/-- AF (Table 4.1): records by slot. DESIGN CHOICE (log 95): the index of HFETCH and HSTORE is a place among the active holds, that of
SFETCH and SSTORE is exponent × 1,000 + code as in R25, with the counter and its LAST_SEQ in the first 32 bytes of the line; the spec names neither.
DEDUCED (log 95): STATUS is the code of group AF, which the worked example of R159 keeps in a register. -/
def afResult (s : State) (e c p v : Nat) : State :=
  let x := ctxOf s e c
  let i := (tgetD x.ports 0x50 0).toNat
  let off := lineOff (tgetD x.ports 0x51 0).toNat
  let done := fun (st : State) (code : Nat) (bits4 : Nat) => resultNow st e c [(0x5F, BitVec.ofNat 64 code)] [(2, bits4)] [(6, code == 0)]
  if v = 3 then done s 3 3
  else if p = 0x52 then
    if s.mem.poison.contains i then done s 3 3
    else match accountInSlot s.led i with
      | none => done s 1 1
      | some a =>
        let code := if (inconsistency a a.id.toNat).isSome then 2 else 0
        done (setCtx s e c (putBytes x off (accountBytes a))) code (afBits code a)
  else if p = 0x53 then
    let a := accountOf (ctxBytes x off 128)
    done { s with led := putAcct s.led a, mem := { s.mem with poison := s.mem.poison.filter (· != i) } } 0 (afBits 0 a)
  else if p = 0x54 then
    if s.mem.poison.contains (holdAddr s i / 128) then done s 3 3
    else match s.led.holds[i]? with
    | none => done s 1 1
    | some h => done (setCtx s e c (putBytes x off (holdBytes h.2))) 0 0
  else if p = 0x55 then
    let b := ctxBytes x off 64
    let h := holdOfBytes b
    let k := holdKey h.account h.holdId
    done { s with led := { s.led with holds := if byteAt b 12 = 1 then tput s.led.holds k h else tdel s.led.holds k } } 0 0
  else
    let cur : Half := BitVec.ofNat 16 (i / 1000 * 1024 + i % 1000)
    let y := suspenseOf s.led cur
    if p = 0x56 ∧ suspensePoisoned s cur then done s 3 3
    else if p = 0x56 then done (setCtx s e c (putBytes x off (pack 20 y.value ++ zeros 4 ++ le 8 y.lastSeq))) 0 0
    else
      let b := ctxBytes x off 32
      done { s with led := { s.led with suspense := tset s.led.suspense cur.toNat {} { value := unpack (b.take 20), lastSeq := field b 24 8 } } } 0 0

/-- IDX (R65 to R67): a walk, or an insert into the next free record slot. -/
def idxResult (s : State) (e c p : Nat) : State :=
  let id := tgetD (ctxOf s e c).ports 0x30 0
  let done := fun (st : State) (slot code : Nat) => resultNow st e c [(0x3E, BitVec.ofNat 64 slot), (0x3F, BitVec.ofNat 64 code)] [(8, code)] []
  if p = 0x31 then (match indexWalk s.led id with | some n => done s n 0 | none => done s 0 1)
  else if openFits s.led (stacksUsed s) id then
    done { s with led := { indexInsert s.led (idTenant id) (idNumber id) s.led.slots with slots := s.led.slots + 1 } } s.led.slots 0
  else done s 0 2

/-- TK.EXT: an extension descriptor of the command into scratch (R152). -/
def extResult (s : State) (e c : Nat) : State :=
  let x := ctxOf s e c
  match x.ticket with
  | none => s
  | some k => match ticketOf s k with
    | none => s
    | some t => setCtx s e c (putBytes x scratchOff (fit 128 (slice t.cmd.ext (128 * (tgetD x.ports 0x70 0).toNat) 128)))

/-- JA: the answer to an append (R111, R112), with a STATUS whose coding the spec does not give; none while neither has come. -/
def jaResult (s : State) (e c : Nat) : Option State :=
  let x := ctxOf s e c
  let f := takeFree 64 s
  if x.failed then some (resultNow f.2 e c [(0x6E, 0), (0x6F, f.1)] [(4, if s.jn.stopped then 1 else 2)] [])
  else if x.firstSeq ≠ 0 ∧ x.firstSeq ≤ s.jn.durable then some (resultNow f.2 e c [(0x6E, BitVec.ofNat 64 x.firstSeq), (0x6F, f.1)] [(4, 0)] [])
  else none

/-- What a unit does for a result that has not come yet: the lock's request, the append. -/
def unitRetry (s : State) (e c unit : Nat) : State :=
  if unit = 4 then tryLock s e c else if unit = 6 then tryAppend s e c else s

/-- The result of a waited unit arrives for a context (R164, R165). -/
def unitResult (s : State) (e c unit p v : Nat) : Option State :=
  if unit = 3 then some (idxResult s e c p)
  else if unit = 4 then
    let x := ctxOf s e c
    let f := takeFree 64 s
    if holdsLock s (ctxOwner e c) x.epoch none (tgetD x.ports 0x40 0).toNat then some (resultNow f.2 e c [(0x4F, f.1)] [] []) else none
  else if unit = 5 then some (afResult s e c p v)
  else if unit = 6 then jaResult s e c
  else if unit = 7 then some (extResult s e c)
  else if unit = 9 then some (resultNow s e c [(0x9E, BitVec.ofNat 64 v)] [(6, v % 16)] [])
  else none

/-! Issue. -/

/-- R166: the first READY context of a class after the last that issued. -/
def pickCtx (s : State) (e : Nat) (prio : Bool) : Option Nat :=
  let ready := (s.eng.ctxs.filter fun y => y.1 / 256 == e && isPrioCtx (y.1 % 256) == prio && decide (y.2.state = .ready) && decide (y.2.phase = .idle)).map fun y => y.1 % 256
  let last := tgetD (if prio then s.eng.lastPrio else s.eng.lastOrd) e 255
  match ready.find? fun c => decide (last < c) with | some c => some c | none => ready.head?

/-- The unit of a result port that the context still awaits (R165). -/
def pendingSource (x : Ctx) (p : Nat) : Option Nat := if portResult p ∧ (tget x.pend (p / 16)).isSome then some (p / 16) else none

/-- The context leaves issue until the units it awaits have answered. -/
def awaitUnits (s : State) (e c : Nat) (units : List Nat) : State :=
  let x := ctxOf s e c
  if units.isEmpty then s
  else trace (setCtx s e c { x with state := .waiting, awaiting := units, since := s.tb }) e c trWait ((units.map fun u => 2 ^ u).foldl (· + ·) 0) 0

/-- R157: the sequencing of a word whose guard is true. -/
def sequence (s : State) (e c : Nat) (w : MoveWord) : State :=
  let x := ctxOf s e c
  let next := x.pc + 1
  let go := fun (pc : Half) => setCtx s e c { x with pc := pc }
  match w.seqOp with
  | 0 => go next
  | 1 => go w.target
  | 2 => go (w.target ||| BitVec.ofNat 16 (condBits x w.cond % 2 ^ (w.ways + 1)))
  | 3 => if 4 ≤ x.stack.length then resetCtx s e c causeIllegal 0 else setCtx s e c { x with pc := w.target, stack := next :: x.stack }
  | 4 => match x.stack with | [] => resetCtx s e c causeIllegal 0 | r :: st => setCtx s e c { x with pc := r, stack := st }
  | 5 => go (Config.dispatchTable (byteAt (ctxBytes x 128 1) 0))
  | 6 => awaitUnits (go next) e c (x.pend.map (·.1))
  | 7 => freeCtx s e c
  | _ => trace (resetCtx s e c causeTrap (w.target.toNat % 256)) e c trTrap (w.target.toNat % 256) 0

/-- Issue one word of a context (R155 to R157). One that reads a pending result makes its moves, waits, and is issued again (R165). An
uncorrectable error of the control store resets the engine (Table 4.13). -/
def issueWord (s : State) (e c step : Nat) : State :=
  let x := arriveDue (ctxOf s e c) step
  let x := { x with flags := setFlagsG x.flags [(7, isPrioCtx c)] }
  let s0 := setCtx s e c x
  if s.hw.wordBad.contains x.pc.toNat then resetEngine s0 e causeEcc
  else match fetchWord s x.pc with
  | none => resetCtx s0 e c causeIllegal 0
  | some raw =>
    let w := moveWordOf raw
    if wordIllegal w then resetCtx s0 e c causeIllegal 0
    else
      let g := guardHolds x w.guardSel
      if !g then
        let s1 := trace s0 e c trIssue raw.toNat 0 false
        setCtx s1 e c { x with pc := x.pc + 1 }
      else
        let waits := ([w.srcA, w.srcB].filterMap (pendingSource x)).eraseDups
        let va := portVal x w.target w.srcA
        let vb := portVal x w.target w.srcB
        let s1 := trace s0 e c trIssue raw.toNat (if w.dstA < 16 ∧ 0 < w.dstA then va.toNat else if w.dstB < 16 ∧ 0 < w.dstB then vb.toNat else 0) true
        let s2 := doMoves s1 e c step w va vb
        if waits.isEmpty then sequence s2 e c w else awaitUnits s2 e c waits

end Sys2Proof.Machine
end

