-- ==== Sys2Proof/Machine/EngineCmds.lean ====
section
/-! DEFINITION. The whisk engines' events (R155, R164 to R178). -/
namespace Sys2Proof.Machine

/-- Whether engines run words: the die is neither HELD nor DOWN (R468). -/
def enginesRun (s : State) (e : Nat) : Bool := engineIn s e && (s.mgmt.state == .service || s.mgmt.state == .quiescing)

/-- R173: a READY context of the engine whose store holds an uncorrectable error. -/
def badCtx (s : State) (e : Nat) : Option Nat :=
  (s.hw.ctxBad.find? fun k => k / 256 == e && decide ((ctxOf s e (k % 256)).state = .ready)).map fun k => k % 256

/-- R173: an uncorrectable error in a context store resets the context; the store is then written anew. -/
def eccReset (s : State) (e c : Nat) : State :=
  resetCtx { s with hw := { s.hw with ctxBad := s.hw.ctxBad.filter (· != ctxKey e c) } } e c causeEcc 0

/-- An engine issues one word from a READY context, priority contexts first (R155, R166); a context store that shows an error resets its context (R173). -/
def execMoveWordIssue (e : Nat) (s : State) : Res :=
  .next (if !enginesRun s e then s
    else match badCtx s e with
    | some c => eccReset s e c
    | none =>
      let step := tgetD s.eng.steps e 0 + 1
      let s0 := { s with eng := { s.eng with steps := tput s.eng.steps e step } }
      match pickCtx s e true with
      | some c => issueWord { s0 with eng := { s0.eng with lastPrio := tput s0.eng.lastPrio e c } } e c step
      | none => match pickCtx s e false with
        | some c => issueWord { s0 with eng := { s0.eng with lastOrd := tput s0.eng.lastOrd e c } } e c step
        | none => s0)

/-- The result of a unit that a context awaits arrives (R164, R165). -/
def execUnitResultArrival (e c unit : Nat) (v : Dbl) (s : State) : Res :=
  .next (
    let x := ctxOf s e c
    match tget x.pend unit with
    | none => s
    | some p =>
      if x.state = .free ∨ x.state = .sweeping then s
      else match unitResult s e c unit p v.toNat with
        | none => unitRetry s e c unit
        | some s1 =>
          let y := ctxOf s1 e c
          wake (setCtx s1 e c { y with pend := tdel y.pend unit }) e c unit)

/-- A context has waited for one result for 2 ms (R168). -/
def execContextWatchdog (e c : Nat) (s : State) : Res :=
  .next (
    let x := ctxOf s e c
    if x.state = .waiting ∧ x.since + 2000000 ≤ s.tb then resetCtx s e c causeWatchdog 0 else s)

/-- A write of WE_RESET (Table 4.7). -/
def writeWeReset (s : State) (v : Dbl) : State :=
  let e := bits v.toNat 5 0
  if !engineIn s e then s
  else if v.getLsbD 16 then resetEngine s e causeOperator
  else resetCtx s e (bits v.toNat 15 8) causeOperator 0

/-- Write WE_RESET with ALL 0 (R163, R173). -/
def execWeResetContext (v : Dbl) (s : State) : Res := .next (writeWeReset s v)

/-- Write WE_RESET with ALL 1 (R163, R173). -/
def execWeResetEngine (v : Dbl) (s : State) : Res := .next (writeWeReset s v)

/-- STATE of a recovery entry as a number (Table 4.14). -/
def recStateNum : RecState → Nat
  | .free => 0 | .taken => 1 | .appending => 2 | .durable => 3 | .applied => 4 | .prepared => 5

/-- How many account records differ between two ledgers (Table 4.18, ROLLFWD). -/
def accountsWritten (a b : Ledger) : Nat := (b.accounts.filter fun e => tget a.accounts e.1 != some e.2).length

/-- R175, R533: the fabric resolver takes a posting that a context's microcode has prepared: its locks, its ticket, its entry of the posting table, which is opened from the prepare record where the context opened none. -/
def adoptPrepared (s : State) (e c : Nat) : State :=
  let x := ctxOf s e c
  let freed := fun (st : State) => sweptFree (setCtx st e c { ctxOf st e c with ticket := none, entry := {} }) e c
  match (entryRecs s x).head? with
  | none => sweptFree s e c
  | some r =>
    if xdevPrepare r then
      let s1 := if (tget s.fab.coords r.seq).isSome then s else openCoord s r
      match tget s1.fab.coords r.seq with
      | none => freed s1
      | some v =>
        let s2 := retagDead s1 (ctxOwner e c) x.epoch (postKey (ownEndpoint s) v.boot r.seq)
        coordAdvance (freed (setCoord s2 r.seq { v with ctx := none, ticket := x.ticket, prepDurable := true })) r.seq
    else if r.kind = 0x30 then
      let p := recPosting r
      let s1 := if (tget s.fab.parts p).isSome then s else openPart s s.led r
      match tget s1.fab.parts p with
      | none => freed s1
      | some v => freed (setPart (retagDead s1 (ctxOwner e c) x.epoch p) p { v with ctx := none, ticket := x.ticket })
    else sweptFree s e c

/-- The sweepers finish with a reset context (R175, R176, R260, R533). -/
def sweepEnd (s : State) (e c : Nat) : State :=
  let x := ctxOf s e c
  if x.state ≠ .sweeping ∨ (x.entry.state = .appending ∧ ¬ x.failed) then s
  else
    let s0 := trace s e c trSweep (recStateNum x.entry.state) x.entry.seq
    match partOfCtx s0 e c with
    | some (p, v) => partRefused (sweptFree (setPart s0 p { v with ctx := none }) e c) p { v with ctx := none } stContextReset none
    | none =>
      let s1 := match s0.jn.ckpt with
        | some k => if k.e = e ∧ k.c = c ∧ ¬ k.written then { s0 with jn := { s0.jn with ckpt := none } } else s0
        | none => s0
      match x.entry.state with
      | .free | .taken => sweptFree (sweptCompl (sweptKey s1 e c) e c { x.compl with status := stContextReset, info := if ctxOp s1 e c = some 0x06 then 0x6200 else 0, seq := 0 }) e c
      | .appending => sweptFree (sweptCompl (sweptKey s1 e c) e c (jfault x.compl (ctxOp s1 e c == some 0x06))) e c
      | .durable =>
        let rs := entryRecs s1 x
        let s2 := rs.foldl applyRec s1
        let s3 := match x.ticket with
          | some k => match ticketOf s2 k with
            | some t => if cOp t.cmd = 0x18 ∧ (rs.head?.map fun (r : Rec) => r.status) = some 0 then keyFlip s2 t.cmd else s2
            | none => s2
          | none => s2
        let s4 := trace { s3 with eng := { s3.eng with rollfwd := sat (2 ^ 32 - 1) (s3.eng.rollfwd + 1) } } e c trRollfwd (accountsWritten s1.led s2.led) x.entry.seq
        sweptFree (sweptCompl s4 e c (recsCompl rs x)) e c
      | .applied => sweptFree (sweptCompl s1 e c (recsCompl (entryRecs s1 x) x)) e c
      | .prepared => adoptPrepared s1 e c

/-- The sweep of a reset context ends (R175, R176). -/
def execSweepEnd (e c : Nat) (s : State) : Res := .next (advanceAll (sweepEnd s e c))

/-- A write of WTRACE_CTL (Table 4.16). -/
def writeTraceCtl (s : State) (v : Dbl) : State :=
  let g := s.eng
  let en := v.getLsbD 0
  if g.traceEnable then
    { s with eng := { g with traceOneshot := v.getLsbD 1, traceEnable := en } }
  else
    let k := bits v.toNat 12 8
    let fn := bits v.toNat 31 16
    let g1 := { g with traceFn := fn, traceLog2 := k, traceOneshot := v.getLsbD 1 }
    if en ∧ 12 ≤ k ∧ k ≤ 30 ∧ isOperatorFn s fn then { s with eng := { g1 with traceEnable := true, traceBytes := 0, traceLost := 0 } }
    else { s with eng := g1 }

/-- Write WTRACE_CTL (R178). -/
def execTraceEnable (v : Dbl) (s : State) : Res := .next (writeTraceCtl s v)

end Sys2Proof.Machine
end

