-- ==== Sys2Proof/Machine/Lending.lean ====
section
/-! DEFINITION. Port slots, and the account locks that a frame lends to its PPOSTL postings (R320, R323). -/
namespace Sys2Proof.Machine

/-- The account IDs that a command names. -/
def cmdIds (c : Cmd) : List Nat := (namedAccounts c).map fun e => e.2.toNat

/-! Lending (R323). A lent lock carries 2^100 + the ticket of the posting that it is lent to. -/

/-- Whether an earlier PPOSTL posting of the same frame still runs. -/
def lockedBefore (s : State) (c n : Nat) : Bool :=
  match slotOf s c n with
  | none => false
  | some x => (coreOf s c).slots.any fun e => e.2.locked && decide (e.2.frame = x.frame) && e.2.epoch == x.epoch && decide (e.2.state ≠ .done) && decide (e.2.order < x.order)

/-- Whether a port posting is dispatched only later: one of its frame's locked postings runs before it. -/
def holdsBack (s : State) (tk : Nat) : Bool :=
  match ticketOf s tk with
  | some t => (match t.origin with
    | .port c _ n => (match slotOf s c n with | some x => x.locked && lockedBefore s c n | none => false)
    | _ => false)
  | none => false

/-- The frame's locks pass to a posting as its context takes it. -/
def lendLocks (s : State) (tk : Nat) : State :=
  match ticketOf s tk with
  | some t => (match t.origin with
    | .port c _ n => (match slotOf s c n with
      | some x => if x.locked then
          (cmdIds x.cmd).foldl (fun st k => match tget st.locks k with
            | some l => if l.owner = frameOwner c x.frame ∧ l.epoch = x.epoch then { st with locks := tput st.locks k { l with lent := some (lendMark tk) } } else st
            | none => st) s
        else s
      | none => s)
    | _ => s)
  | none => s

/-- The locks return to the frame; a frame reset since then gives them up (R176). -/
def returnLocks (s : State) (tk : Nat) : State :=
  ((s.locks.filter fun e => e.2.lent == some (lendMark tk)).map (·.1)).foldl (fun st k => match tget st.locks k with
    | some l =>
      let st1 := { st with locks := tput st.locks k { l with lent := none } }
      if l.owner.kind = 1 ∧ (frameOf st l.owner.unit l.owner.slot).epoch ≠ l.epoch ∧ (frameOf st l.owner.unit l.owner.slot).state ≠ .resetting
      then releaseLock st1 l.owner l.epoch k else st1
    | none => st) s

end Sys2Proof.Machine
end

