-- ==== Sys2Proof/Machine/HostCmds.lean ====
section
/-! DEFINITION. The commands of trays and the host link (05). -/
namespace Sys2Proof.Machine

/-- R208: the tray takes the eligible push, or the command at CR_HEAD. -/
def execTrayCommandTake (f t : Nat) (s : State) : Res := .next (takeCommand s f t)

/-- R206: the subcode of a push write, if it breaks a rule. -/
def pushFault (x : Tray) (po : Nat) (data : Bytes) : Option Byte :=
  let k := po / 128
  let p := tgetD x.slots k {}
  if 0x800 ≤ po ∨ po % 64 ≠ 0 ∨ data.length ≠ 64 then some 0x01
  else if !x.pushEn then some 0x02
  else if po % 128 = 0 ∧ 15 < seqDist x (seqOf data) then some 0x03
  else if po % 128 = 0 ∧ (seqOf data).toNat % 16 ≠ k then some 0x04
  else if (if po % 128 = 0 then p.half0 else p.half1).isSome then some 0x05
  else none

/-- The TRAY_SEQ of a push as its half 0 tells it, or 0. -/
def pushSeq (x : Tray) (po : Nat) (data : Bytes) : Word :=
  if po % 128 = 0 ∧ data.length = 64 ∧ po < 0x800 then seqOf data
  else if po % 64 = 0 ∧ po < 0x800 then match (tgetD x.slots (po / 128) {}).half0 with | some h => seqOf h | none => 0
  else 0

/-- A write to the push BAR (R205, R206, R227). -/
def execPushHalfWrite (f off : Nat) (data : Bytes) (s : State) : Res :=
  .next (
    let t := off / 4096
    let po := off % 4096
    let x := trayOf s f t
    if !trayExists s f t || !x.enable || s.board.powerFail then s
    else if x.quar then setTray s f t { x with discard := sat 65535 (x.discard + 1) }
    else match pushFault x po data with
      | some code =>
        let x1 := if code = 0x05 then { x with slots := tdel x.slots (po / 128) } else x
        violate (setTray s f t x1) f t 0x02 code (pushSeq x po data) 0 data
      | none =>
        let p := tgetD x.slots (po / 128) { first := s.tb }
        let q := if po % 128 = 0 then { p with half0 := some data } else { p with half1 := some data }
        setTray s f t { x with slots := tput x.slots (po / 128) (if halves q = 2 then { q with whole := s.tb } else q) })

/-- A half has been held for 8 µs without the other (R206). -/
def execPushHalfTimeout (f t k : Nat) (s : State) : Res :=
  .next (
    let x := trayOf s f t
    match tget x.slots k with
    | none => s
    | some p =>
      if halves p = 1 ∧ p.first + 8000 ≤ s.tb then
        violate (setTray s f t { x with slots := tdel x.slots k }) f t 0x02 0x06 (match p.half0 with | some h => seqOf h | none => 0) 0
          (p.half0.getD (p.half1.getD []))
      else s)

/-- A write of FN_NUDGE (R202). The drain function's nudge also has the watermark read (R132). -/
def writeNudge (s : State) (f : Nat) (v : Dbl) : State :=
  let s1 := askPage s f (v.toNat % 4)
  if (fnOf s f).valid && s.jn.drainFn == f && drainRuns s then readWm s1 else s1

def execFnNudge (f : Nat) (v : Dbl) (s : State) : Res := .next (writeNudge s f v)

/-- R201, R202: doorbell values arrive. -/
def execDoorbellReadCompletion (f : Nat) (src : DbSrc) (data : Bytes) (s : State) : Res :=
  .next (
    if !dbOutstanding (fnOf s f) src then s
    else
      let us := usedEntries s f src data
      let before := us.map fun e => ((trayOf s f e.t).crTail, (trayOf s f e.t).cqHead)
      let s1 := us.foldl (fun st e => takeHead (takeTail st f e) f e) s
      let after := us.map fun e => ((trayOf s1 f e.t).crTail, (trayOf s1 f e.t).cqHead)
      endDbRead s1 f src (before != after))

/-- R223: a doorbell read fails. -/
def execDoorbellReadFail (f : Nat) (src : DbSrc) (s : State) : Res :=
  .next (
    if !dbOutstanding (fnOf s f) src then s
    else
      let s1 := setFn s f { fnOf s f with dbErr := true }
      let s2 := putViol s1 f (violRec s.tb 0x06 0x02 f 0x8000 (fnOf s f).tenant 0 0 [])
      endDbRead (emit s2 (.aer f)) f src false)

/-- R202: the follow-up read of a page falls due. -/
def execDoorbellFollowupPoll (f page : Nat) (s : State) : Res :=
  .next (
    let fn := fnOf s f
    match tget fn.dbFollow page with
    | none => s
    | some due => if due ≤ s.tb ∧ hostRuns s then askPage (setFn s f { fn with dbFollow := tdel fn.dbFollow page }) f page else s)

/-- R202: the entry of a tray that waits for credit or extensions is read. -/
def execWaitingTrayPoll (f t : Nat) (s : State) : Res :=
  .next (
    let fn := fnOf s f
    let x := trayOf s f t
    let every := if fn.dbPoll = 0 then 1000 else fn.dbPoll * 64
    if trayExists s f t && x.enable && fn.dbEnable && hostRuns s && (waitCred s.tb x || waitExt x) && !fn.trayReads.contains t &&
       decide (tgetD fn.trayPolled t 0 + every ≤ s.tb) then
      emit (setFn s f { fn with trayReads := insertUp t fn.trayReads, trayPolled := tput fn.trayPolled t s.tb })
        (.read f (fn.dbBase + BitVec.ofNat 64 (t / 512 * 4096 + t % 512 * 8)) 8)
    else s)

/-- What is still to come of the ring reads after `n` slots of them. -/
def runsAfter : Nat → List Nat → List Nat
  | _, [] => []
  | n, r :: rs => if n < r then (r - n) :: rs else runsAfter (n - r) rs

/-- R199: ring slots arrive, in the order asked for. -/
def execRingReadCompletion (f t : Nat) (data : Bytes) (s : State) : Res :=
  .next (
    let x := trayOf s f t
    let n := data.length / 128
    if data.length % 128 ≠ 0 ∨ (x.rdIssued - x.rdDone).toNat < n then s
    else
      let y := { x with rdDone := x.rdDone + BitVec.ofNat 32 n, rdRuns := runsAfter n x.rdRuns, ring := if x.enable ∧ ¬ x.readErr then x.ring ++ pieces 128 n data else x.ring }
      flrIdle (setTray s f t { y with headSince := if (ringHead x).isNone ∧ (ringHead y).isSome then s.tb else y.headSince }) f t)

/-- R223: the oldest read of ring slots that is outstanding fails, on a disabled tray too. -/
def execRingReadFail (f t : Nat) (s : State) : Res :=
  .next (
    let x := trayOf s f t
    if x.rdIssued = x.rdDone then s
    else
      let s1 := setTray s f t { x with readErr := true, rdDone := match x.rdRuns with | [] => x.rdIssued | r :: _ => x.rdDone + BitVec.ofNat 32 r, rdRuns := x.rdRuns.drop 1 }
      let s2 := emit (trayNote s1 f t 0x06 0x01 0 []) (.aer f)
      flrIdle (if x.readErr then s2 else raiseVector s2 f t) f t)

/-- R210: the gap at EXPECT has lasted SEQ_WAIT. -/
def execSeqWaitFill (f t : Nat) (s : State) : Res :=
  .next (
    let x := trayOf s f t
    match gapSince x with
    | none => s
    | some g =>
      if hostRuns s ∧ trayRunning x ∧ g + seqWait x ≤ s.tb ∧ hasCredit x then
        violate (writeFill s f t 0x27) f t 0x04 0x27 x.expect 0 []
      else s)


/-- R231: the ticket returns that are due are tested before the end of a WAIT_LIMIT. -/
def returnDue (s : State) : State := if (dueTickets s).isEmpty then s else retestAll ((dueTickets s).foldl endTicket s)

/-- R215, R231: WAIT_LIMIT has passed. -/
def execWaitLimitExpiry (f t : Nat) (s : State) : Res :=
  .next (
    let s1 := returnDue s
    let x := trayOf s1 f t
    match x.waiting with
    | none => s
    | some w => match w.code, w.since with
      | some code, some b =>
        if grantsOpen s ∧ waitLimit x ≤ w.spent + (s.tb - b) then refuseWaiting s1 f t w code else s
      | _, _ => if (trayOf s f t).waiting.any (·.code.isSome) then s1 else s)

/-- A PREPARE's ticket: its own rows dispatch it (R449). -/
def isPeer : Origin → Bool
  | .peer _ => true
  | _ => false

/-- R167: a command in transit goes to a FREE context of its class. A DAYROLL's fence holds dispatch (R48). -/
def execDispatch (tk c : Nat) (s : State) : Res :=
  .next (match ticketOf s tk with
    | none => s
    | some t =>
      if t.state ≠ .transit ∨ isPeer t.origin ∨ ladleOp (cOp t.cmd) ∨ holdsBack s tk ∨ s.eng.dayFence.isSome ∨ ¬ hostRuns s ∨ 256 ≤ c ∨ isPrioCtx c ≠ cPrio t.cmd then s
      else match chooseEngine s (cPrio t.cmd) with
        | none => s
        | some e =>
          if (ctxOf s e c).state = .free then dispatchTo (lendLocks { s with eng := { s.eng with lastEngine := e } } tk) tk e c else s)

/-- R107: a ticket returns; waiting commands are tested again (R215). -/
def execTicketReturn (tk : Nat) (s : State) : Res :=
  .next (match ticketOf s tk with
    | none => s
    | some t => if t.state = .issued then retestAll (endTicket s tk) else s)

/-- R220: the time trigger of the egg timer. -/
def execEggTimerTime (f t : Nat) (s : State) : Res :=
  .next (
    let x := trayOf s f t
    if eTime x ≠ 0 ∧ 0 < x.eggC ∧ up64 (x.eggT0 + eTime x * 64) ≤ s.tb then raiseVector s f t else s)

/-- R221: an entry of the MSI-X table, or the whole function, is unmasked. -/
def execMsixUnmask (f : Nat) (entry : Option Nat) (s : State) : Res :=
  .next (
    let fn := fnOf s f
    if !fnExists s.part f then s
    else match entry with
      | none => sendPending (setFn s f { fn with fnMasked := false }) f
      | some n => if n < 2048 then sendPending (setFn s f { fn with unmasked := insertUp n fn.unmasked }) f else s)

/-- R227: the fill of a quarantined tray, after the last completion of a granted command. -/
def execQuarantineFill (f t : Nat) (s : State) : Res :=
  .next (
    let x := trayOf s f t
    if hostRuns s && x.enable && x.quar && x.quarFill && x.flight.isEmpty && x.waiting.isNone && hasCredit x then
      let s1 := writeFill (setTray s f t { x with quarFill := false }) f t stQuarantine
      trayNote (raiseVector s1 f t) f t 0x07 0x42 x.expect []
    else s)

/-- R227: a violation window closes. -/
def execViolationWindowEnd (f t : Nat) (s : State) : Res :=
  .next (
    let x := trayOf s f t
    match x.winStart with
    | none => s
    | some w => if w + 1000000 ≤ s.tb then setTray s f t { x with winStart := none, window := 0, unlogged := 0 } else s)

def execQuarRelease (v : Dbl) (s : State) : Res := .next (writeQuarRelease s v)

/-- R196: TRAY_CTL written with ENABLE 1. -/
def execTrayEnable (f t : Nat) (v : Dbl) (s : State) : Res := .next (if v.getLsbD 0 then writeTrayCtl s f t v else s)

/-- R197: TRAY_CTL written with ENABLE 0. -/
def execTrayDisable (f t : Nat) (v : Dbl) (s : State) : Res := .next (if v.getLsbD 0 then s else writeTrayCtl s f t v)

/-- R196: TRAY_CTL written with RESET 1. -/
def execTrayReset (f t : Nat) (v : Dbl) (s : State) : Res := .next (if v.getLsbD 2 then writeTrayCtl s f t v else s)

/-- R188: a function map entry written with VALID 1. -/
def execFunctionBind (f : Nat) (v : Dbl) (s : State) : Res := .next (if v.getLsbD 63 then writeFnMap s f v else s)

/-- R188, R229: a function map entry written with VALID 0. -/
def execFunctionUnbind (f : Nat) (v : Dbl) (s : State) : Res := .next (if v.getLsbD 63 then s else writeFnMap s f v)

/-- R229: a function-level reset. -/
def execFunctionLevelReset (f : Nat) (s : State) : Res := .next (if fnExists s.part f then resetFn s f else s)

/-- R229: VF Enable of a port is cleared. -/
def execVfEnableClear (port : Nat) (s : State) : Res :=
  .next (((s.host.fns.map (·.1)).filter fun f => f / 8192 == port && f % 8192 != 0).foldl resetFn s)

/-- R229: every ticket of a reset function has returned. -/
def execFlrComplete (f : Nat) (s : State) : Res :=
  .next (
    let fn := fnOf s f
    if fn.resetting && !(s.tk.held.any fun e => match e.2.origin with | .tray g _ => g == f | _ => false) then
      setFn s f { fn with resetting := false }
    else s)

/-- R230: TK_RESERVE. -/
def execTkReserveWrite (v : Dbl) (s : State) : Res := .next (writeTkReserve s v)

/-- R230: a tenant's quota. -/
def execTenantQuotaWrite (key : Nat) (v : Dbl) (s : State) : Res := .next (writeQuota s key v)

end Sys2Proof.Machine
end

