-- ==== Sys2Proof/Machine/CtlSpace.lean ====
section
/-! DEFINITION. Control space as a ladle core or the management core reaches it: core pages, the event controller block, the MPU block
(R239, R240, R292, R364, R394, R400). -/
namespace Sys2Proof.Machine

/-! The MPU block (Table 6.7), by management BAR offset. -/

/-- What a register of the MPU block reads as. -/
def mpuBlockRead (s : State) (off : Nat) : Dbl :=
  let g := s.guard
  if off = 0x9000 then BitVec.ofNat 64 (b2n g.logErr)
  else if off = 0x9008 then g.logBase
  else if off = 0x9010 then BitVec.ofNat 64 (g.logFn * 2 ^ 16 + g.logLog2 * 2 ^ 8 + b2n g.logEnable)
  else if off = 0x9018 then BitVec.ofNat 64 g.logCount
  else if 0x9100 ≤ off ∧ off < 0x9900 then mpuReg s ((off - 0x9100) / 32) ((off - 0x9100) % 32 / 8)
  else if off = 0x9A08 then BitVec.ofNat 64 (b2n g.retireErr)
  else 0

/-- A write of MPU_LOG_CTL. -/
def writeMpuLog (s : State) (v : Dbl) : State :=
  let g := s.guard
  let en := v.getLsbD 0
  if g.logEnable then { s with guard := { g with logEnable := en } }
  else
    let k := bits v.toNat 12 8
    let fn := bits v.toNat 31 16
    let g1 := { g with logFn := fn, logLog2 := k }
    if !en then { s with guard := g1 }
    else if 7 ≤ k ∧ k ≤ 20 ∧ isOperatorFn s fn then { s with guard := { g1 with logEnable := true } }
    else { s with guard := { g1 with logErr := true } }

/-- A write of a register of the MPU block. -/
def mpuBlockWrite (s : State) (off : Nat) (v : Dbl) : State :=
  let g := s.guard
  if off = 0x9000 then { s with guard := { g with logErr := g.logErr && !v.getLsbD 0 } }
  else if off = 0x9008 then (if g.logEnable then s else { s with guard := { g with logBase := v &&& 0xFFFFFFFFFFFFF000#64 } })
  else if off = 0x9010 then writeMpuLog s v
  else if 0x9100 ≤ off ∧ off < 0x9900 then writeMpu s ((off - 0x9100) / 32) ((off - 0x9100) % 32 / 8) v
  else if off = 0x9A00 then writeKeyRetire s v
  else if off = 0x9A08 then { s with guard := { g with retireErr := g.retireErr && !v.getLsbD 0 } }
  else s

/-! The event controller block (R394). -/

def srcMask : Dbl := 0x00FCFFFFFF0000C1#64

/-- SRC_STATn (Table 10.17). -/
def srcStat (x : Source) : Dbl :=
  BitVec.ofNat 64 (x.lost * 2 ^ 48 + x.cnt * 2 ^ 32 + x.owner * 2 ^ 16 + 4 * b2n x.level + 2 * b2n (x.state == .active) + b2n (x.state == .pending))

/-- A write of SRC_CFGn. -/
def writeSrcCfg (s : State) (n : Nat) (v : Dbl) : State :=
  if srcReserved n then s
  else
    let x := srcOf s n
    let w := v &&& srcMask
    if srcEn x then
      if w.getLsbD 0 then s
      else setSrc s n { x with cfg := x.cfg &&& ~~~1#64, state := if x.state = .pending then .idle else x.state }
    else
      let y := { x with cfg := w &&& ~~~1#64 }
      if !w.getLsbD 0 ∨ (srcSense y ≠ 0 ∧ srcCount y = 0) then setSrc s n y
      else setSrc s n (srcFollow { y with cfg := w, lost := 0, cnt := 0 })

/-- EC_SET: one event for a software source (R394). -/
def writeEcSet (s : State) (v : Dbl) : State :=
  let n := bits v.toNat 9 0
  if 0x200 ≤ n ∧ n ≤ 0x3FE then pulseSrc s n else s

/-- Comparator `k` fires, if it is armed and the timebase has reached its value (R394). -/
def fireCmp (s : State) (k : Nat) : State :=
  match tget s.ev.cmps k with
  | some (v, true) => if v ≤ s.tb then pulseSrc { s with ev := { s.ev with cmps := tput s.ev.cmps k (v, false) } } (0x110 + k) else s
  | _ => s

/-- A write of TB_CMPk arms it; it fires at once when its value has passed (R394). -/
def writeCmp (s : State) (k : Nat) (v : Dbl) : State :=
  if 16 ≤ k then s else fireCmp { s with ev := { s.ev with cmps := tput s.ev.cmps k (v.toNat, true) } } k

def evRead (s : State) (off : Nat) : Dbl :=
  if off < 0x8000 then
    let n := off / 32
    if srcReserved n then 0
    else match off % 32 / 8 with
      | 0 => (srcOf s n).cfg
      | 1 => (srcOf s n).tgt.extractLsb' 0 64
      | 2 => (srcOf s n).tgt.extractLsb' 64 64
      | _ => srcStat (srcOf s n)
  else if 0x8100 ≤ off ∧ off < 0x8180 then BitVec.ofNat 64 (tgetD s.ev.cmps ((off - 0x8100) / 8) (0, false)).1
  else 0

def evWrite (s : State) (off : Nat) (v : Dbl) : State :=
  if off < 0x8000 then
    let n := off / 32
    if srcReserved n then s
    else
      let x := srcOf s n
      match off % 32 / 8 with
      | 0 => writeSrcCfg s n v
      | 1 => setSrc s n { x with tgt := (x.tgt.extractLsb' 64 64 ++ v) }
      | 2 => setSrc s n { x with tgt := (v ++ x.tgt.extractLsb' 0 64) }
      | _ => s
  else if off = 0x8000 then writeEcSet s v
  else if 0x8100 ≤ off ∧ off < 0x8180 then writeCmp s ((off - 0x8100) / 8) v
  else s

/-! Core control pages (Tables 10.3 to 10.5, 10.18). -/

def stateNum : FrameState → Nat
  | .off => 0 | .stopped => 1 | .ready => 2 | .running => 3 | .stalled => 4 | .sleep => 5 | .stopping => 6 | .resetting => 7

/-- Port slots of a frame in use (R362). -/
def portsOf (s : State) (c f : Nat) : Nat := ((coreOf s c).slots.filter fun e => decide (e.2.frame = f) && e.2.epoch == (frameOf s c f).epoch).length

/-- Locks that a frame holds (R322). -/
def locksOf (s : State) (c f : Nat) : List Nat := ownedKeys s (frameOwner c f) (frameOf s c f).epoch

/-- FRAME_CTLn (Table 10.4). -/
def frameCtl (s : State) (c f : Nat) : Dbl :=
  let x := frameOf s c f
  BitVec.ofNat 64 (x.epoch.toNat * 2 ^ 48 + min 15 (portsOf s c f) * 2 ^ 32 + (locksOf s c f).length * 2 ^ 22 + x.cmds.length * 2 ^ 17 +
    256 * b2n x.cmdErr + 8 * b2n x.restored + stateNum x.state)

/-- RPRIO (Table 10.18). -/
def rprio (k : Core) : Dbl :=
  BitVec.ofNat 64 (b2n k.eoiErr * 2 ^ 36 + k.stack.length * 2 ^ 32 + ((List.range k.stack.length).map fun i => ((k.stack[i]?).map (·.prio)).getD 0 * 16 ^ i).foldl (· + ·) 0)

/-- REQ (Table 10.18). -/
def reqOf (s : State) (c : Nat) : Dbl :=
  match deliverable s c none with
  | none => 0x3FF#64
  | some (n, x) => BitVec.ofNat 64 (2 ^ 31 + srcPrio x * 2 ^ 16 + n)

/-- R293: the stall steps of a core since its counters were last read, in each counter of Table 7.7 and in CS_STEPS. The spec's steps are not modelled one by one:
how many there were is a free value. -/
def countStalls (s : State) (c : Nat) : State :=
  [0x30, 0x38, 0x40, 0x48, 0x50, 0x58, 0x60, 0x68].foldl (fun st off => spend st c off (Config.stallSteps s.fresh off)) { s with fresh := s.fresh + 1 }

/-- A read of a register of core `c`'s page by frame `f`, and the state after: a read of CLAIM claims. -/
def pageRead (s : State) (c off f : Nat) : Dbl × State :=
  let k := coreOf s c
  if off < 0x78 then let s1 := countStalls s c; (BitVec.ofNat 64 (tgetD (coreOf s1 c).counts off 0), s1)
  else if off = 0x200 then claim s c f
  else if off = 0x210 then (rprio k, s)
  else if off = 0x218 then (reqOf s c, s)
  else if 0x240 ≤ off ∧ off < 0x280 then
    (match k.stack[(off - 0x240) / 8]? with | none => 0 | some e => BitVec.ofNat 64 (e.frame * 2 ^ 16 + e.src), s)
  else if 0x400 ≤ off ∧ off < 0x400 + 16 * nFrames s then
    (if off % 16 = 0 then frameCtl s c ((off - 0x400) / 16) else (((frameOf s c ((off - 0x400) / 16)).ssp &&& 0xFFFFFFF8#32).setWidth 64), s)
  else (0, s)

/-- A write of a register of core `c`'s page by frame `f`. -/
def pageWrite (s : State) (c off f : Nat) (v : Dbl) : State :=
  if off = 0x208 then eoi s c f
  else if off = 0x210 then
    let k := coreOf s c
    setCore s c { k with eoiErr := k.eoiErr && !v.getLsbD 36 }
  else if 0x400 ≤ off ∧ off < 0x400 + 16 * nFrames s then
    let g := (off - 0x400) / 16
    if off % 16 = 8 then setFrame s c g { frameOf s c g with ssp := v.setWidth 32 &&& 0xFFFFFFF8#32 }
    else
      let s1 := if v.getLsbD 8 then setFrame s c g { frameOf s c g with cmdErr := false } else s
      frameCommand s1 c g (bits v.toNat 7 4)
  else s

/-! Control space by offset (Table 11.4). An access moves bytes of one 8-byte register: a narrower write leaves a read-write register's
other bytes as they were, and gives zeros to the other bytes of a register that acts on what is written (DESIGN CHOICE, log 65). -/

/-- Whether a register of control space acts on the value written, so that bytes not written count as zero. -/
def ctlActs (off : Nat) : Bool :=
  (decide (0x100000 ≤ off) && decide (off < 0x101000) && (off % 0x1000 == 0 || off % 0x1000 == 0xA00 || off % 0x1000 == 0xA08)) ||
  off == 0x208000 ||
  (decide (0x1000000 ≤ off) && (off % 0x1000 == 0x208 || off % 0x1000 == 0x210 || (decide (0x400 ≤ off % 0x1000) && off % 16 == 0)))

/-- Whether a register exists at an 8-byte aligned offset of control space (R400). -/
def ctlExists (s : State) (off : Nat) : Bool :=
  decide (off < 0x101000) || (decide (0x200000 ≤ off) && decide (off < 0x210000)) ||
  (decide (0x1000000 ≤ off) && decide ((off - 0x1000000) / 0x1000 < nCores s.part))

/-- The writes of the MPU block's register `r` that wait for a SYNC, of whichever task. -/
def mpuPends (s : State) (r : Nat) : List PendWrite :=
  s.cores.cores.flatMap fun k => k.2.frames.flatMap fun x => x.2.pend.filter fun (p : PendWrite) => decide (p.reg = 256 + r)

/-- R290: the value last written to the MPU block's register `r`, while it is not in force. -/
def mpuPend (s : State) (r : Nat) : Option Dbl :=
  ((mpuPends s r).foldl (fun (b : Option PendWrite) p => match b with
    | none => some p
    | some q => if q.ord < p.ord then some p else some q) none).map (·.val)

/-- R290: a read of a register of the MPU block, by management BAR offset: what it will hold once its last write is in force. -/
def mpuRead (s : State) (off : Nat) : Dbl :=
  match mpuPend s ((off - 0x9000) / 8) with
  | none => mpuBlockRead s off
  | some v => mpuBlockRead (mpuBlockWrite s off v) off

/-- A read of the 8-byte register at an offset, by frame `f` of core `c`. A management core page reads as a free value. -/
def ctlReadReg (s : State) (_c f off : Nat) : Dbl × State :=
  if off < 0x100000 then takeFree 64 s
  else if off < 0x101000 then (mpuRead s (0x9000 + (off - 0x100000)), s)
  else if off < 0x210000 then (evRead s (off - 0x200000), s)
  else pageRead s ((off - 0x1000000) / 0x1000) ((off - 0x1000000) % 0x1000) f

/-- A write of the 8-byte register at an offset, by frame `f` of core `c`, in supervisor mode or not. A write of the MPU block waits for SYNC (R290);
a user-mode task cannot write it (R239): such a write changes nothing (DEDUCED, log 100). -/
def ctlWriteReg (s : State) (c f off : Nat) (sup : Bool) (v : Dbl) : State :=
  if off < 0x100000 then s
  else if off < 0x101000 ∧ ¬ sup then s
  else if off < 0x101000 then
    let x := frameOf s c f
    let s1 := { s with cores := { s.cores with mpuWrites := s.cores.mpuWrites + 1 } }
    setFrame s1 c f { x with pend := x.pend ++ [{ reg := 256 + (off - 0x100000) / 8, val := v, ord := s.cores.mpuWrites }] }
  else if off < 0x210000 then evWrite s (off - 0x200000) v
  else pageWrite s ((off - 0x1000000) / 0x1000) ((off - 0x1000000) % 0x1000) f v

/-- A read of `n` bytes within one register. -/
def ctlRead (s : State) (c f off n : Nat) : Bytes × State :=
  let r := ctlReadReg s c f (off / 8 * 8)
  (slice (le 8 r.1.toNat) (off % 8) n, r.2)

/-- A write of bytes within one register. -/
def ctlWrite (s : State) (c f off : Nat) (sup : Bool) (b : Bytes) : State :=
  let o := off / 8 * 8
  let old := if b.length = 8 ∨ ctlActs o ∨ o < 0x100000 then zeros 8 else le 8 (ctlReadReg s c f o).1.toNat
  ctlWriteReg s c f o sup (dblAt (patch old (off % 8) b) 0)

/-- Put one pending write in force, the MPU block's too (R240, R290). -/
def applyPend (s : State) (c f : Nat) (p : PendWrite) : State :=
  if 256 ≤ p.reg then mpuBlockWrite s (0x9000 + 8 * (p.reg - 256)) p.val else applyWrite s c f p

/-- SYNC, action 4: the pending writes apply in program order (R290). -/
def applyAll (s : State) (c f : Nat) : State :=
  let x := frameOf s c f
  x.pend.foldl (fun st p => applyPend st c f p) (setFrame s c f { x with pend := [] })

/-- R289: a synchronous exception in a shadow: the shadowed writes take effect first. -/
def applyShadows (s : State) (c f : Nat) : State :=
  let x := frameOf s c f
  (x.pend.filter fun (p : PendWrite) => p.left.isSome).foldl (fun st p => applyPend st c f p)
    (setFrame s c f { x with pend := x.pend.filter fun (p : PendWrite) => p.left.isNone })

/-- R288: one instruction of a shadow has been executed; a write whose third has been takes effect. -/
def tickShadows (s : State) (c f : Nat) : State :=
  let x := frameOf s c f
  if x.pend.isEmpty then s
  else
    let ticked := x.pend.map fun (p : PendWrite) => { p with left := p.left.map (· - 1) }
    (ticked.filter fun (p : PendWrite) => decide (p.left = some 0)).foldl (fun st p => applyPend st c f p)
      (setFrame s c f { x with pend := ticked.filter fun (p : PendWrite) => decide (p.left ≠ some 0) })

/-- An open shadow of a write of PSW, EVB or TASKCTL (R288). -/
def inShadow (x : Frame) : Bool := x.pend.any fun (p : PendWrite) => p.left.isSome

end Sys2Proof.Machine
end

