-- ==== Sys2Proof/Machine/LadleDecode.lean ====
section
/-! DEFINITION. Ladle instruction words (R299, R300, R338): their fields, which operation a legal word names, its pairing class and the
general registers it reads and writes (R267, R268). -/
namespace Sys2Proof.Machine

/-- The operations that instruction words name: one for each row of the table that is an instruction. -/
inductive LOp where
  | add | mul | muld | mulds | divu | divs | remu | rems | sel | longLiteralOp | shiftImmediate | lui | addi | compareImmediate
  | load | store | ldf | stf | cas | mtm | mfmb | mfml | bz | bnz | j | call | jr | callr | shortOperationWord | repi | repu
  | sync | syncTlb | dbar | yield | svc | brk | eret | eretDoubleFault | mfc | mtc | savl | savu | rstl | rstu
  | tlbiVa | tlbiAsid | tlbiAll | keyset | keyget | keyclr
  | ppost | ppostl | pwait | ptest | lqtake | lcompl | alock | aunlock | aunlockall
  | cpsEcdsaP256Sign | cpsEcdsaP256Verify | cpsEcdhP256 | cpsEcdsaP384Verify | cpsEd25519Sign | cpsEd25519Verify | cpsAesCmacVerify
  | cpsSha256 | cpsSha384 | cpr | cx
  | addp | subp | mulp | divp | cmpp | movp | negp | absp | clrp | shrp | shrpr | tstp | ldp | stp | addpMemory | subpMemory | macp
  | cvzd | cvdz | cvbd | cvdb | mvs | mvsx | edit | editm | cls | scn | sct
deriving DecidableEq, Repr

/-- Bits `hi` down to `lo` of an instruction word. -/
def wf (w : Word) (hi lo : Nat) : Nat := bits w.toNat hi lo

def fMajor (w : Word) : Nat := wf w 30 25
def fRd (w : Word) : Nat := wf w 24 20
def fRa (w : Word) : Nat := wf w 19 15
def fRb (w : Word) : Nat := wf w 14 10
def fFunc (w : Word) : Nat := wf w 9 0

/-- sext(v, k) to 32 bits (R298). -/
def sext (k v : Nat) : Word := if bitOf v (k - 1) then BitVec.ofNat 32 (2 ^ 32 + v - 2 ^ k) else BitVec.ofNat 32 v
/-- sext(v, k) as an integer. -/
def sextI (k v : Nat) : Int := if bitOf v (k - 1) then (v : Int) - 2 ^ k else v

def evenReg (n : Nat) : Bool := n % 2 == 0

/-- No two numbers of a list are equal. -/
def allDistinct : List Nat → Bool
  | [] => true
  | x :: r => !r.contains x && allDistinct r

/-! Decimal and string fields (Table 9.4). -/
def daDd (w : Word) : Nat := wf w 19 17
def daDa (w : Word) : Nat := wf w 16 14
def daDb (w : Word) : Nat := wf w 13 11
def daExt (w : Word) : Nat := wf w 10 0
def dmDk (w : Word) : Nat := wf w 21 19
def dmBase (w : Word) : Nat := wf w 18 14
def dmLen (w : Word) : Nat := wf w 13 9 + 1
def dxDk (w : Word) : Nat := wf w 24 22
def dxGa (w : Word) : Nat := wf w 21 17
def dxGb (w : Word) : Nat := wf w 16 12
def dxLen (w : Word) : Nat := if bitOf w.toNat 11 then 16 else 8
def dxP (w : Word) : Bool := bitOf w.toNat 10
def dcDk (w : Word) : Nat := wf w 20 18
def dcRa (w : Word) : Nat := wf w 17 13
def dcRb (w : Word) : Nat := wf w 12 8
def dcN (w : Word) : Nat := wf w 7 2
def dlRa (w : Word) : Nat := wf w 20 16
def dlRb (w : Word) : Nat := wf w 15 11
def dlRc (w : Word) : Nat := wf w 10 6
def dlDk (w : Word) : Nat := wf w 5 3
def dsRd (w : Word) : Nat := wf w 20 16
def dsRa (w : Word) : Nat := wf w 15 11
def dsRb (w : Word) : Nat := wf w 10 6
def dsRel (w : Word) : Nat := wf w 5 3

/-! Legal F = 0 words. -/

/-- Legality of the M format (Table 8.8, R300). -/
def mOk (w : Word) (isLoad : Bool) : Bool :=
  match wf w 14 13 with
  | 0 => true
  | 1 => wf w 5 0 == 0
  | _ => fRa w != 0 && !(isLoad && fRd w == fRa w)

/-- Legality of the MF format (Table 8.9). -/
def mfOk (w : Word) (isLoad : Bool) : Bool :=
  let size := wf w 14 12
  evenReg (fRa w) && (if isLoad then decide (size ≤ 4) else size == 0 || size == 2 || size == 4) &&
  (match wf w 11 10 with
   | 0 => true
   | 1 => wf w 2 0 == 0
   | 2 => !(isLoad && fRd w / 2 == fRa w / 2)
   | _ => false)

/-- The operation that a word names if a test of its other fields holds. -/
def named (b : Bool) (o : LOp) : Option LOp := if b then some o else none

/-- Major 0x28 (Table 8.10). -/
def decodeSys (w : Word) : Option LOp :=
  let rd := fRd w; let ra := fRa w; let rb := fRb w; let imm := wf w 9 5
  let none3 := rd == 0 && ra == 0 && rb == 0
  match wf w 4 0 with
  | 0x00 => named (none3 && imm == 0) .sync
  | 0x01 => named (none3 && imm == 0) .syncTlb
  | 0x02 => named (none3 && imm == 0) .dbar
  | 0x03 => named (none3 && decide (imm ≤ 1)) .yield
  | 0x04 => named (rd == 0 && ra == 0) .svc
  | 0x05 => named (rd == 0 && ra == 0) .brk
  | 0x06 => named (none3 && decide (imm ≤ 1)) (if imm = 1 then .eretDoubleFault else .eret)
  | 0x07 => named (ra == 0 && rb == 0 && decide (imm ≤ 13) && ((imm != 5 && imm != 9) || evenReg rd)) .mfc
  | 0x08 => named (rd == 0 && rb == 0 && decide (imm ≤ 13) && ((imm != 5 && imm != 9) || evenReg ra)) .mtc
  | 0x09 => named (rd == 0 && imm == 0) .savl
  | 0x0A => named (rd == 0 && imm == 0) .savu
  | 0x0B => named (rd == 0 && rb == 0 && imm == 0) .rstl
  | 0x0C => named (rd == 0 && rb == 0 && imm == 0) .rstu
  | 0x10 => named (rd == 0 && imm == 0 && evenReg rb) .tlbiVa
  | 0x11 => named (rd == 0 && rb == 0 && imm == 0) .tlbiAsid
  | 0x12 => named (none3 && imm == 0) .tlbiAll
  | 0x14 => named (rd == 0 && imm == 0 && evenReg rb) .keyset
  | 0x15 => named (ra == 0 && imm == 0 && evenReg rb) .keyget
  | 0x16 => named (ra == 0 && imm == 0 && evenReg rb) .keyclr
  | _ => none

/-- Major 0x29 (Table 8.12). -/
def decodePort (w : Word) : Option LOp :=
  let rd := fRd w; let ra := fRa w; let rb := fRb w; let imm := wf w 9 5
  match wf w 4 0 with
  | 0x00 => named (imm == 0) .ppost
  | 0x01 => named (imm == 0) .ppostl
  | 0x02 => named (rb == 0 && imm == 0) .pwait
  | 0x03 => named (rb == 0 && imm == 0) .ptest
  | 0x04 => named (rb == 0 && decide (imm ≤ 15)) .lqtake
  | 0x05 => named (rd == 0 && imm == 0) .lcompl
  | 0x06 => named (rb == 0 && imm == 0 && evenReg ra) .alock
  | 0x07 => named (rd == 0 && rb == 0 && imm == 0 && evenReg ra) .aunlock
  | 0x08 => named (rd == 0 && ra == 0 && rb == 0 && imm == 0) .aunlockall
  | _ => none

/-- Major 0x2A (Table 9.5). -/
def decodeDa (w : Word) : Option LOp :=
  let dd := daDd w; let da := daDa w; let db := daDb w; let ext := daExt w
  match wf w 24 20 with
  | 0x00 => named (ext == 0) .addp
  | 0x01 => named (ext == 0) .subp
  | 0x02 => named (ext == 0) .mulp
  | 0x03 => named (wf w 6 0 == 0 && (if bitOf w.toNat 7 then wf w 10 8 != dd else wf w 10 8 == 0)) .divp
  | 0x04 => named (dd == 0 && decide (wf w 5 3 ≤ 5) && wf w 2 0 == 0) .cmpp
  | 0x05 => named (db == 0 && ext == 0) .movp
  | 0x06 => named (db == 0 && ext == 0) .negp
  | 0x07 => named (db == 0 && ext == 0) .absp
  | 0x08 => named (da == 0 && db == 0 && ext == 0) .clrp
  | 0x09 => named (db == 0 && decide (wf w 3 0 ≤ 9)) .shrp
  | 0x0A => named (db == 0 && wf w 5 4 == 0 && decide (wf w 3 0 ≤ 9)) .shrpr
  | 0x0B => named (dd == 0 && db == 0 && wf w 4 0 == 0) .tstp
  | _ => none

/-- Major 0x2D (Table 9.5). -/
def decodeDc (w : Word) : Option LOp :=
  let ext := wf w 7 0
  match wf w 24 21 with
  | 0x0 => named (dcRb w == 0 && dcN w != 0 && wf w 1 0 == 0) .cvzd
  | 0x1 => named (dcRb w == 0 && dcN w != 0 && wf w 0 0 == 0) .cvdz
  | 0x2 => named (dcRb w == 0 && ext == 0 && evenReg (dcRa w)) .cvbd
  | 0x3 => named (dcRb w == 0 && ext == 0 && evenReg (dcRa w)) .cvdb
  | _ => none

/-- Major 0x2E (R338, Table 9.5). -/
def decodeDl (w : Word) : Option LOp :=
  let ra := dlRa w; let rb := dlRb w; let rc := dlRc w
  let base := wf w 2 0 == 0 && ra != 0 && rb != 0 && rc != 0
  match wf w 24 21 with
  | 0x0 => named (base && dlDk w == 0 && allDistinct [ra, rb, rc]) .mvs
  | 0x1 => named (base && dlDk w == 0 && evenReg ra && evenReg rb && allDistinct [ra, ra + 1, rb, rb + 1, rc]) .mvsx
  | 0x2 => named (base && evenReg rb && allDistinct [ra, rb, rb + 1, rc]) .edit
  | 0x3 => named (base && evenReg rb && evenReg rc && allDistinct [ra, rb, rb + 1, rc, rc + 1]) .editm
  | _ => none

/-- Major 0x2F (R338, Table 9.5). -/
def decodeDs (w : Word) : Option LOp :=
  let rd := dsRd w; let ra := dsRa w; let rb := dsRb w
  match wf w 24 21 with
  | 0x0 => named (ra != 0 && rb != 0 && evenReg ra && evenReg rb && decide (dsRel w ≤ 5) && wf w 2 0 == 0 && allDistinct [rd, ra, ra + 1, rb, rb + 1]) .cls
  | 0x1 => named (ra != 0 && evenReg ra && wf w 4 0 == 0 && allDistinct [rd, ra, ra + 1, rb]) .scn
  | 0x2 => named (ra != 0 && rb != 0 && evenReg ra && wf w 5 0 == 0 && allDistinct [rd, ra, ra + 1, rb]) .sct
  | _ => none

/-- Major 0x38: the services of Table 8.16. -/
def decodeCps (w : Word) : Option LOp :=
  match wf w 14 0 with
  | 1 => some .cpsEcdsaP256Sign
  | 2 => some .cpsEcdsaP256Verify
  | 3 => some .cpsEcdhP256
  | 4 => some .cpsEcdsaP384Verify
  | 5 => some .cpsEd25519Sign
  | 6 => some .cpsEd25519Verify
  | 7 => some .cpsAesCmacVerify
  | 8 => some .cpsSha256
  | 9 => some .cpsSha384
  | _ => none

/-- Legality of major 0x01 (Table 8.6). -/
def aluOk (w : Word) : Bool :=
  let f := fFunc w
  (decide (f ≤ 0x13) || (decide (0x18 ≤ f) && decide (f ≤ 0x1F))) && (!(decide (0x0C ≤ f) && decide (f ≤ 0x0F)) || fRb w == 0)

/-- The operation of a legal F = 0 word (Table 8.4). -/
def decodeFull (w : Word) : Option LOp :=
  let m := fMajor w
  let f := fFunc w
  if m = 0x01 then named (aluOk w) .add
  else if m = 0x02 then
    (if f = 0 then some .mul else if f = 1 then named (evenReg (fRd w)) .muld else if f = 2 then named (evenReg (fRd w)) .mulds else none)
  else if m = 0x03 then (if f = 0 then some .divu else if f = 1 then some .divs else if f = 2 then some .remu else if f = 3 then some .rems else none)
  else if m = 0x04 then named (wf w 4 0 == 0) .sel
  else if m = 0x05 then named (decide (fRb w ≤ 7) && f == 0 && (fRb w != 0 || fRa w == 0)) .longLiteralOp
  else if m = 0x06 then named (decide (fRb w ≤ 4) && wf w 9 5 == 0) .shiftImmediate
  else if m = 0x07 then some .lui
  else if 0x08 ≤ m ∧ m ≤ 0x0B then some .addi
  else if 0x0C ≤ m ∧ m ≤ 0x11 then some .compareImmediate
  else if 0x14 ≤ m ∧ m ≤ 0x18 then named (mOk w true) .load
  else if 0x19 ≤ m ∧ m ≤ 0x1B then named (mOk w false) .store
  else if m = 0x1C then named (mfOk w true) .ldf
  else if m = 0x1D then named (mfOk w false) .stf
  else if m = 0x1E then named (f == 0 && fRb w != fRd w) .cas
  else if m = 0x1F then
    (if f = 0 then named (decide (fRd w < 4)) .mtm
     else if f = 1 then named (decide (fRa w < 4) && fRb w == 0) .mfmb
     else if f = 2 then named (decide (fRa w < 4) && fRb w == 0) .mfml else none)
  else if m = 0x20 then some .bz
  else if m = 0x21 then some .bnz
  else if m = 0x22 then some .j
  else if m = 0x23 then some .call
  else if m = 0x24 then (if f = 0 then named (fRd w == 0 && fRb w == 0) .jr else if f = 1 then named (fRd w == 0 && fRb w == 0) .callr else none)
  else if m = 0x25 then named (fRd w == 0 && (if bitOf w.toNat 14 then fRa w == 0 else wf w 13 0 == 0)) .repi
  else if m = 0x26 then named (wf w 24 6 == 0) .repu
  else if m = 0x28 then decodeSys w
  else if m = 0x29 then decodePort w
  else if m = 0x2A then decodeDa w
  else if m = 0x2B then
    (match wf w 24 22 with | 0 => some .ldp | 1 => some .stp | 2 => some .addpMemory | 3 => some .subpMemory | _ => none)
  else if m = 0x2C then named (wf w 9 0 == 0 && (!dxP w || (dxGa w != 0 && dxGb w != 0 && dxGa w != dxGb w))) .macp
  else if m = 0x2D then decodeDc w
  else if m = 0x2E then decodeDl w
  else if m = 0x2F then decodeDs w
  else if m = 0x38 then decodeCps w
  else if m = 0x39 then named (wf w 14 0 == 0) .cpr
  else if 0x3C ≤ m ∧ m ≤ 0x3F then named (evenReg (fRd w)) .cx
  else none

/-! Short operations (Table 8.5). -/

def slotA (w : Word) : Nat := wf w 30 16
def slotB (w : Word) : Nat := wf w 14 0
def shOp (v : Nat) : Nat := bits v 14 10
def shX (v : Nat) : Nat := bits v 9 5
def shY (v : Nat) : Nat := bits v 4 0

/-- Pairing classes (Table 7.2). -/
inductive PairClass where | a | m | b | d | s
deriving DecidableEq, Repr

def shClass (v : Nat) : PairClass :=
  let o := shOp v
  if 0x17 ≤ o ∧ o ≤ 0x1C then .m else if 0x1D ≤ o then .b else .a

def shOk (v : Nat) : Bool :=
  let o := shOp v
  if o = 0x00 ∨ o = 0x1E then shX v == 0 && shY v == 0
  else if o = 0x1D then shX v == 0
  else if o = 0x1F then false
  else if o = 0x18 then shX v != shY v
  else true

/-- General registers that a short operation reads. -/
def shReads (v : Nat) : List Nat :=
  let o := shOp v; let x := shX v; let y := shY v
  if o = 0x00 ∨ o = 0x0E then []
  else if o = 0x01 ∨ o = 0x0F ∨ o = 0x17 ∨ o = 0x18 ∨ o = 0x1B ∨ o = 0x1D then [y]
  else if 0x0A ≤ o ∧ o ≤ 0x0D then [x]
  else if o = 0x1E then [31]
  else [x, y]

/-- General registers that a short operation writes; a write to g0 does not count (R268). -/
def shWrites (v : Nat) : List Nat :=
  let o := shOp v; let x := shX v; let y := shY v
  (if o = 0x00 ∨ o = 0x19 ∨ o = 0x1C ∨ o = 0x1D ∨ o = 0x1E then []
   else if o = 0x18 then [x, y]
   else if o = 0x1A then [y]
   else [x]).filter (· != 0)

/-- Two lists of registers share one. -/
def meet (a b : List Nat) : Bool := a.any b.contains

/-- R269, R300: a legal F = 1 word. -/
def shortOk (w : Word) : Bool :=
  let a := slotA w
  let b := slotB w
  !bitOf w.toNat 15 && shOk a && shOk b && !(shClass a == .m && shClass b == .m) && shClass a != .b &&
  !meet (shReads b) (shWrites a) && !meet (shWrites a) (shWrites b)

/-- The operation that a word names, none for an illegal encoding (R299, R300). -/
def decode (w : Word) : Option LOp := if w.getLsbD 31 then named (shortOk w) .shortOperationWord else decodeFull w

/-- Whether the first word belongs to a long-literal instruction (R266). -/
def isLongLit (w : Word) : Bool := decode w == some .longLiteralOp

/-! Classes, reads and writes (R267, R268, R284). -/

def classOf : LOp → PairClass
  | .add | .mul | .muld | .mulds | .sel | .longLiteralOp | .shiftImmediate | .lui | .addi | .compareImmediate => .a
  | .load | .store | .ldf | .stf => .m
  | .bz | .bnz | .j | .call | .jr | .callr => .b
  | .addp | .subp | .mulp | .divp | .cmpp | .movp | .negp | .absp | .clrp | .shrp | .shrpr | .tstp | .ldp | .stp | .addpMemory | .subpMemory
  | .macp | .cvzd | .cvdz | .cvbd | .cvdb | .mvs | .mvsx | .edit | .editm | .cls | .scn | .sct => .d
  | _ => .s

/-- The long operations (R283). -/
def isLongOp (o : LOp) : Bool := o == .mulp || o == .divp || o == .mvs || o == .mvsx || o == .edit || o == .editm
/-- The long operations that access memory (R287). -/
def isMemLongOp (o : LOp) : Bool := o == .mvs || o == .mvsx || o == .edit || o == .editm

/-- The pair named by a register. -/
def both (n : Nat) : List Nat := [n, n + 1]

/-- General registers that a word reads, for operations that are not of class D. -/
def gReads (o : LOp) (w : Word) : List Nat :=
  let rd := fRd w; let ra := fRa w; let rb := fRb w
  match o with
  | .longLiteralOp | .shiftImmediate | .addi | .compareImmediate | .jr | .callr | .mfmb | .mfml => [ra]
  | .bz | .bnz => [rd]
  | .sel => [fRa w, fRb w, wf w 9 5]
  | .load => if wf w 14 13 = 1 then [ra, wf w 12 8] else [ra]
  | .store => if wf w 14 13 = 1 then [rd, ra, wf w 12 8] else [rd, ra]
  | .ldf => if wf w 11 10 = 1 then wf w 9 5 :: both ra else both ra
  | .stf => if wf w 11 10 = 1 then rd :: wf w 9 5 :: both ra else rd :: both ra
  | .cas => [rd, ra, rb]
  | .repi => [ra]
  | .mtc => if wf w 9 5 = 5 ∨ wf w 9 5 = 9 then both ra else [ra]
  | .tlbiVa | .keyset => ra :: both rb
  | .keyget | .keyclr => both rb
  | .alock | .aunlock => both ra
  | .lui | .j | .call | .repu | .sync | .syncTlb | .dbar | .yield | .svc | .brk | .eret | .eretDoubleFault | .mfc | .tlbiAll | .aunlockall => []
  | .shortOperationWord => shReads (slotA w) ++ shReads (slotB w)
  | _ => [ra, rb]

/-- General registers that a word writes, for operations that are not of class D; a write to g0 does not count. -/
def gWrites (o : LOp) (w : Word) : List Nat :=
  let rd := fRd w; let ra := fRa w
  (match o with
   | .muld | .mulds | .cx => both rd
   | .load => if 2 ≤ wf w 14 13 then [rd, ra] else [rd]
   | .store => if 2 ≤ wf w 14 13 then [ra] else []
   | .ldf => if wf w 11 10 = 2 then rd :: both ra else [rd]
   | .stf => if wf w 11 10 = 2 then both ra else []
   | .mtm | .bz | .bnz | .j | .jr | .repi | .repu | .sync | .syncTlb | .dbar | .yield | .svc | .brk | .eret | .eretDoubleFault | .mtc
   | .savl | .savu | .rstl | .rstu | .tlbiVa | .tlbiAsid | .tlbiAll | .keyset | .lcompl | .aunlock | .aunlockall => []
   | .call | .callr => [31]
   | .mfc => if wf w 9 5 = 5 ∨ wf w 9 5 = 9 then both rd else [rd]
   | .shortOperationWord => shWrites (slotA w) ++ shWrites (slotB w)
   | _ => [rd]).filter (· != 0)

/-- General registers that a long operation reads or writes (R284). -/
def lopRegs (o : LOp) (w : Word) : List Nat :=
  match o with
  | .mvs => [dlRa w, dlRb w, dlRc w]
  | .mvsx => both (dlRa w) ++ both (dlRb w) ++ [dlRc w]
  | .edit => dlRa w :: dlRc w :: both (dlRb w)
  | .editm => dlRa w :: (both (dlRb w) ++ both (dlRc w))
  | _ => []

/-- Accumulators that a class D word names. -/
def accsOf (o : LOp) (w : Word) : List Nat :=
  match o with
  | .addp | .subp | .mulp | .divp | .cmpp | .movp | .negp | .absp | .clrp | .shrp | .shrpr | .tstp => [daDd w, daDa w, daDb w, wf w 10 8]
  | .ldp | .stp | .addpMemory | .subpMemory => [dmDk w]
  | .macp => [dxDk w]
  | .cvzd | .cvdz | .cvbd | .cvdb => [dcDk w]
  | .edit | .editm => [dlDk w]
  | _ => []

/-- Whether a class D instruction reads or writes an accumulator, and so triggers the fill (R379). -/
def usesAccs (o : LOp) : Bool := classOf o == .d && o != .mvs && o != .mvsx && o != .cls && o != .scn && o != .sct

/-- R268: I1 and I2, consecutive F = 0 words in one block, form one group. -/
def pairs (w1 w2 : Word) : Bool :=
  match decode w1, decode w2 with
  | some o1, some o2 =>
    let c1 := classOf o1
    let c2 := classOf o2
    !w1.getLsbD 31 && !w2.getLsbD 31 && c1 != .d && c1 != .s && c2 != .d && c2 != .s && !(c1 == .m && c2 == .m) && c1 != .b &&
    !(o1 == .longLiteralOp && o2 == .longLiteralOp) && !meet (gReads o2 w2) (gWrites o1 w1) && !meet (gWrites o1 w1) (gWrites o2 w2)
  | _, _ => false

/-- The bytes of the instruction that a word begins. -/
def lenW (w : Word) : Nat := if isLongLit w then 8 else 4

/-- R268, R270: the instruction at `a1` and the one at `a2` that follows it form one group: all their words lie in one block, but that a long-literal
instruction at the block's last word issues alone. -/
def pairAt (w1 a1 w2 a2 : Word) : Bool :=
  decide (a1.toNat / 16 = a2.toNat / 16) && a1 + BitVec.ofNat 32 (lenW w1) == a2 && !(isLongLit w2 && decide (a2.toNat % 16 = 12)) && pairs w1 w2

/-- R313: what a prefix may repeat. -/
def repeatable (w : Word) : Bool :=
  match decode w with
  | none => false
  | some o =>
    !w.getLsbD 31 && (classOf o == .a || classOf o == .m || classOf o == .d) && !isLongOp o && o != .longLiteralOp && o != .cls && o != .scn && o != .sct

end Sys2Proof.Machine
end

