-- ==== Sys2Proof/Machine/LadleMem.lean ====
section
/-! DEFINITION. A ladle core's accesses: translation (R408 to R418), the checks in R306's order, L1 and network accesses (R279 to R282). -/
namespace Sys2Proof.Machine

/-- What an access answers: a value; an exception; a wait for a line or for the network; or nothing yet, because something must drain first. -/
inductive MRes (α : Type) where
  | ok (s : State) (v : α)
  | exc (s : State) (x : Exc)
  | wait (s : State) (w : Wait)
  | stay

/-- Go on with the value of an access. -/
def MRes.andThen {α β : Type} (r : MRes α) (k : State → α → MRes β) : MRes β :=
  match r with
  | .ok s v => k s v
  | .exc s x => .exc s x
  | .wait s w => .wait s w
  | .stay => .stay

/-- Who makes an access: core, frame, privileged class, access key, PSW; whether it may wait (`go` false) or does all at once; and
whether it is a long operation, whose accesses pass the stores buffered since it began (R358, R360). -/
structure Actor where
  c : Nat := 0
  f : Nat := 0
  sup : Bool := false
  key : Nat := 0
  psw : Word := 0
  go : Bool := false
  lop : Bool := false
deriving DecidableEq, Repr

/-- An actor with the class and key of a PSW (Table 6.1). -/
def actorOf (c f : Nat) (p : Word) (go : Bool) : Actor := { c := c, f := f, sup := pSuper p, key := pAk p, psw := p, go := go }

/-- The running task as it stands (Table 6.1). -/
def taskActor (s : State) (c f : Nat) (go : Bool) : Actor := actorOf c f (frameOf s c f).psw go

/-- The actor of an exception's entry: supervisor mode with PSW.AK (R374, R377). -/
def entryActor (s : State) (c f : Nat) : Actor := { taskActor s c f true with sup := true }

def Actor.master (a : Actor) : Master := ladleMaster a.c a.f a.sup a.key

/-- The exception of a refusal (R243, Table 10.12). -/
def refuseExc (va : Dbl) (k : Acc3) (r : Refuse) : Exc :=
  { vec := if r.cause = 5 then 8 else 9, cause := r.cause, addr := va, acc := accNum k }

def wrap32 : Nat := 2 ^ 32
def wrap64 : Nat := 2 ^ 64

/-! Translation. -/

/-- A translated address, the SE attribute, and the TLB entry it was translated under (none while translation is off). -/
structure Xl where
  pa : Nat := 0
  se : Bool := false
  tlb : Option TlbEntry := none
deriving DecidableEq, Repr

def xlFault (va : Dbl) (k : Acc3) (cause : Nat) : Exc := { vec := 6, cause := cause, addr := va, acc := accNum k }

/-- R412: one access of a walk to a table entry; the entry read. -/
def walkRead (s : State) (a : Actor) (wk : Nat) (k : Acc3) (va : Dbl) (ea : Nat) : MRes Dbl :=
  let m := ladleMaster a.c a.f true wk
  match checkPa s m ea .read with
  | some r => .exc (logRefusal s m ea .read r) (refuseExc va k r)
  | none =>
    if areaOf s ea ≠ .general ∨ poisoned s ea then .exc (noteSram s (lineOfPa ea)) { vec := 7, addr := BitVec.ofNat 64 ea, va := va, acc := accNum k, phys := true }
    else .ok (grantBits (masterRead s (lineOfPa ea)) ea false) (BitVec.ofNat 64 (ofLe (memBytes s ea 8)))

/-- The bits of a virtual address below a level's range. -/
def lvBits (lv : Nat) : Nat := if lv = 0 then 16 else 9 * lv + 3

/-- R416: the walk cache takes a table pointer, the newest first, 16 entries. -/
def walkPut (s : State) (c : Nat) (e : WalkEntry) : State :=
  let k := coreOf s c
  setCore s c { k with walk := (e :: k.walk.filter fun w => !(w.asid == e.asid && w.lv == e.lv && w.tag == e.tag)).take 16 }

/-- R410: the walk from the table `t` of level `lv`: the leaf's level, address and entry. -/
def walkFrom (a : Actor) (wk : Nat) (asid : Half) (k : Acc3) (va : Dbl) : Nat → State → Nat → MRes (Nat × Nat × Dbl)
  | 0, s, _ => .exc s (xlFault va k 0x30)
  | n + 1, s, t =>
    let lv := n + 1
    let ea := t + 8 * bits va.toNat (9 * lv + 11) (9 * lv + 3)
    match walkRead s a wk k va ea with
    | .ok s1 e =>
      if !e.getLsbD 0 then .exc s1 (xlFault va k (0x20 + lv))
      else if e.getLsbD 1 then .ok s1 (lv, ea, e)
      else if lv = 1 ∨ bits e.toNat 10 2 ≠ 0 then .exc s1 (xlFault va k (0x30 + lv))
      else
        let t1 := bits e.toNat 45 12 * 4096
        walkFrom a wk asid k va n (walkPut s1 a.c { asid := asid, lv := n, tag := va.toNat >>> (9 * lv + 3), table := t1 }) t1
    | .exc s1 x => .exc s1 x
    | .wait s1 w => .wait s1 w
    | .stay => .stay

/-- R410: the checks on a leaf that the access must pass: PRIVILEGE, GUARD, PERMISSION. -/
def leafFault (sup : Bool) (psw : Word) (k : Acc3) (lv : Nat) (e : Dbl) : Option Nat :=
  let u := e.getLsbD 5
  if !sup && !u then some (0x50 + lv)
  else if sup && u && (if k = .exec then pSxg psw else pSug psw) then some (0x60 + lv)
  else if !(match k with | .read => e.getLsbD 2 | .write => e.getLsbD 3 | .exec => e.getLsbD 4) then some (0x70 + lv)
  else none

/-- The physical address of a leaf (R410, R415). -/
def leafPa (lv : Nat) (e va : Dbl) : Nat :=
  let b := lvBits lv
  (bits e.toNat 45 12 * 4096) / 2 ^ b * 2 ^ b + va.toNat % 2 ^ b

/-- Whether a TLB entry serves an address under an ASID (R416). -/
def tlbServes (x : TlbEntry) (asid : Half) (va : Dbl) : Bool := (x.e.getLsbD 6 || x.asid == asid) && va.toNat >>> lvBits x.lv == x.base

/-- R416: place an entry in the TLB, the newest first, 128 entries. -/
def tlbPut (s : State) (c : Nat) (e : TlbEntry) : State :=
  let k := coreOf s c
  setCore s c { k with tlb := (e :: k.tlb.filter fun t => !(t.asid == e.asid && t.lv == e.lv && t.base == e.base)).take 128 }

/-- R413: the walker's compare-and-swap of a leaf. -/
def setLeafFlags (s : State) (a : Actor) (wk : Nat) (k : Acc3) (va : Dbl) (ea : Nat) (e : Dbl) : MRes Dbl :=
  let m := ladleMaster a.c a.f true wk
  match checkPa s m ea .write with
  | some r => .exc (logRefusal s m ea .write r) (refuseExc va k r)
  | none =>
    let e1 := e ||| 0x80#64 ||| (if k = .write then 0x100#64 else 0)
    .ok (masterWrite s ea (le 8 e1.toNat)) e1

/-- R410: what follows the walk: the leaf is well formed, the access passes, its flags are set, it goes into the TLB. -/
def useLeaf (s : State) (a : Actor) (wk : Nat) (asid : Half) (had : Bool) (k : Acc3) (va : Dbl) (lv ea : Nat) (e : Dbl) : MRes Xl :=
  if 3 < lv ∨ (!e.getLsbD 2 ∧ e.getLsbD 3) then .exc s (xlFault va k (0x30 + lv))
  else if bits e.toNat 45 12 % 2 ^ (9 * (lv - 1)) ≠ 0 then .exc s (xlFault va k (0x40 + lv))
  else match leafFault a.sup a.psw k lv e with
    | some cause => .exc s (xlFault va k cause)
    | none =>
      let need := !e.getLsbD 7 || (k == .write && !e.getLsbD 8)
      if need && !had then .exc s (xlFault va k (0x80 + lv))
      else
        let place : State → Dbl → MRes Xl := fun s1 e1 =>
          let grp := lv == 1 && e1.getLsbD 10
          let g := grp && Config.choice s1.fresh
          let s2 := if grp then { s1 with fresh := s1.fresh + 1 } else s1
          let lv1 := if g then 0 else lv
          let t : TlbEntry := { asid := asid, base := va.toNat >>> lvBits lv1, lv := lv1, e := e1 }
          .ok (tlbPut s2 a.c t) { pa := leafPa lv e1 va, se := e1.getLsbD 9, tlb := some t }
        if need then (setLeafFlags s a wk k va ea e).andThen place else place s e

/-- R410: translate(va, k). -/
def translate (s : State) (a : Actor) (k : Acc3) (va : Dbl) : MRes Xl :=
  let x := frameOf s a.c a.f
  let tcr := (crNow s a.c x 8).toNat
  if !bitOf tcr 0 then
    if 2 ^ 46 ≤ va.toNat then .exc s (xlFault va k 0x10) else .ok s { pa := va.toNat }
  else
    let levels := bits tcr 9 8
    if 2 ^ (39 + 9 * levels) ≤ va.toNat then .exc s (xlFault va k 0x10)
    else
      let asid : Half := x.asid.setWidth 16
      match (coreOf s a.c).tlb.find? fun t => tlbServes t asid va && (k != .write || t.e.getLsbD 8) with
      | some t =>
        match leafFault a.sup a.psw k (max 1 t.lv) t.e with
        | some cause => .exc s (xlFault va k cause)
        | none => .ok (tlbPut s a.c t) { pa := leafPa t.lv t.e va, se := t.e.getLsbD 9, tlb := some t }
      | none =>
        let wk := if x.keyctl.getLsbD 16 then bits x.keyctl.toNat 12 0 else 0
        let top := levels + 3
        let cached := (List.range (top - 1)).findSome? fun i =>
          (((coreOf s a.c).walk.find? fun w => w.asid == asid && w.lv == i + 1 && w.tag == va.toNat >>> (9 * (i + 1) + 12)).map fun w => (i + 1, w.table))
        let start := cached.getD (top, bits x.ttb.toNat 45 12 * 4096)
        (walkFrom a wk asid k va start.1 s start.2).andThen fun s1 r => useLeaf s1 a wk asid (bitOf tcr 15) k va r.1 r.2.1 r.2.2

/-! Checked pieces of an access. -/

/-- A piece of an access that lies in one aligned 8 bytes: virtual and physical address, length, SE. -/
structure Piece where
  va : Dbl := 0
  pa : Nat := 0
  len : Nat := 0
  se : Bool := false
deriving DecidableEq, Repr

/-- R306 step 4, R398, R406: the access itself meets a bus error. -/
def busFails (s : State) (pa : Nat) : Bool :=
  match areaOf s pa with
  | .general => poisoned s pa
  | .control => !ctlExists s (pa - paControl)
  | .none => true
  | .noPantry => true
  | _ => false

/-- R306 steps 3 and 4 on a translated piece. -/
def checkPiece (s : State) (a : Actor) (k : Acc3) (p : Piece) : MRes Piece :=
  match checkPa s a.master p.pa k with
  | some r => .exc (logRefusal s a.master p.pa k r) (refuseExc p.va k r)
  | none => if busFails s p.pa then .exc (noteSram s (lineOfPa p.pa)) { vec := 4, addr := p.va, acc := accNum k } else .ok s p

/-- R306 steps 2 to 4 on one piece. -/
def resolve1 (s : State) (a : Actor) (k : Acc3) (va : Dbl) (n : Nat) : MRes Piece :=
  (translate s a k va).andThen fun s1 x => checkPiece s1 a k { va := va, pa := x.pa, len := n, se := x.se }

/-- R306 steps 2 to 4 on `n` bytes from `va`, in ascending order; addresses wrap at `wrap`. -/
def resolve (a : Actor) (k : Acc3) (wrap : Nat) : Nat → State → Nat → Nat → MRes (List Piece)
  | 0, s, _, _ => .ok s []
  | fuel + 1, s, va, n =>
    if n = 0 then .ok s []
    else
      let m := min n (8 - va % 8)
      (resolve1 s a k (BitVec.ofNat 64 va) m).andThen fun s1 p =>
        (resolve a k wrap fuel s1 ((va + m) % wrap) (n - m)).andThen fun s2 ps => .ok s2 (p :: ps)

/-- The physical address of each byte of pieces. -/
def pieceAddrs (ps : List Piece) : List Nat := ps.flatMap fun p => (List.range p.len).map (p.pa + ·)

/-! Making an access. -/

/-- The bytes of the journal ring that a block's slot holds (R113). -/
def ringBytes (s : State) (pa n : Nat) : Bytes :=
  let off := pa - paJournal - 0x400000
  match (s.jn.blocks.reverse).find? fun b => decide (0 < b.no) && decide ((b.no - 1) % ringSlots s.part = off / 0x10000) with
  | some b => fit n (slice (blockBytes b) (off % 0x10000) n)
  | none => zeros n

/-- R281: a load's bytes overlap a buffered store. -/
def overlapsSb (s : State) (c pa n : Nat) : Bool := (coreOf s c).sb.any fun e => decide (pa < e.pa + e.data.length) && decide (e.pa < pa + n)

/-! The ports that a long operation holds (R284). -/

/-- The actor of a long operation: the class, key and modes it began or resumed with (R332). -/
def lopActor (x : Frame) (c f : Nat) : Actor := { actorOf c f x.lopPsw true with lop := true }

/-- Where a long operation that accesses memory will read and write next: the first byte of each operand that has bytes left. -/
def lopOperands (x : Frame) (o : LOp) (w : Word) : List Word :=
  let part := fun (r n : Word) => if n = 0 then [] else [r]
  match o with
  | .mvs => part (gReg x (dlRa w)) (gReg x (dlRc w)) ++ part (gReg x (dlRb w)) (gReg x (dlRc w))
  | .mvsx => part (gReg x (dlRa w)) (gReg x (dlRa w + 1)) ++ part (gReg x (dlRb w)) (gReg x (dlRb w + 1))
  | .edit | .editm => part (gReg x (dlRa w)) (gReg x (dlRb w + 1)) ++ part (gReg x (dlRb w)) (gReg x (dlRb w + 1))
  | _ => []

/-- Whether a frame's operand at an address lies in the core's own pantry. One that cannot be translated counts as memory. -/
def lopInPantry (s : State) (c f : Nat) (x : Frame) (va : Word) : Bool :=
  match translate s (lopActor x c f) .read (va.setWidth 64) with
  | .ok s1 p => (match areaOf s1 p.pa with | .pantry q => decide (q = c) | _ => false)
  | _ => false

/-- The operands of a frame's long operation in flight require the pantry's ports, or the memory port. -/
def lopUses (s : State) (c f : Nat) (x : Frame) (pantry : Bool) : Bool :=
  match x.lop with
  | some (w, _) => (match decode w with
    | some o => isMemLongOp o && (lopOperands x o w).any fun va => lopInPantry s c f x va == pantry
    | none => false)
  | none => false

/-- A long operation of a core holds its pantry's ports, or its memory port, as its operands require: from its first access, when the stores before it have
drained, until it retires (R284, R358). A port is judged by the first byte of each operand (DEDUCED, log 71). -/
def lopHolds (s : State) (c : Nat) (pantry : Bool) : Bool :=
  (coreOf s c).frames.any fun e => decide (e.2.lopSb = 0) && lopUses s c e.1 e.2 pantry

/-- The memory port of a core is held. -/
def memLopBusy (s : State) (c : Nat) : Bool := lopHolds s c false

/-- The bytes that a long operation is still to write: the first one's address, and a bound on how many. -/
def lopDest (x : Frame) (o : LOp) (w : Word) : Nat × Nat :=
  match o with
  | .mvs => ((gReg x (dlRa w)).toNat, (gReg x (dlRc w)).toNat)
  | .mvsx => ((gReg x (dlRa w)).toNat, (gReg x (dlRa w + 1)).toNat)
  | .edit | .editm => (((gReg x (dlRa w)).toNat + (wrap32 - 1)) % wrap32, (gReg x (dlRb w + 1)).toNat + 1)
  | _ => (0, 0)

/-- Table 9.14: a piece of a load overlaps a destination of the frame's own long operation in flight. -/
def overlapsLop (x : Frame) (p : Piece) : Bool :=
  match x.lop with
  | none => false
  | some (w, _) => match decode w with
    | none => false
    | some o =>
      let d := lopDest x o w
      isMemLongOp o && decide ((p.va.toNat + (wrap32 - d.1)) % wrap32 < d.2 ∨ (d.1 + (wrap32 - p.va.toNat % wrap32)) % wrap32 < min d.2 1 * p.len)

/-- The port that an access to an address needs is held by a long operation that is not the access's own (R284). -/
def portTaken (s : State) (a : Actor) (pa : Nat) : Bool :=
  !a.lop && lopHolds s a.c (match areaOf s pa with | .pantry q => decide (q = a.c) | _ => false)

/-- A network access has to wait, unless the access goes all at once. -/
def network {α : Type} (s : State) (a : Actor) (k : State → MRes α) : MRes α := if a.go then k s else .wait s .net

/-- What a host-window read brings: the bytes that came with the fill, or a free value. -/
def hostData (s : State) (a : Actor) (p : Piece) : MRes Bytes :=
  let x := frameOf s a.c a.f
  match x.wait with
  | .filled d ok =>
    if ok then .ok (setFrame s a.c a.f { x with wait := .filled (d.drop p.len) true }) (fit p.len d)
    else .exc s { vec := 4, addr := p.va, acc := 0 }
  | _ => .ok { s with fresh := s.fresh + 1 } (le p.len (Config.free (8 * p.len) s.fresh).toNat)

/-- Read one resolved piece: L1, pantry, or network (R277, R279), once the port it needs is not held (R284). -/
def readPiece (s : State) (a : Actor) (fetch : Bool) (p : Piece) : MRes Bytes :=
  if portTaken s a p.pa || (!fetch && !a.lop && overlapsLop (frameOf s a.c a.f) p) then .stay
  else match areaOf s p.pa with
  | .general =>
    if !fetch && !a.lop && overlapsSb s a.c p.pa p.len then .stay
    else
      let l := lineOfPa p.pa
      if p.se then network s a fun s1 => .ok (grantBits (masterRead s1 l) p.pa false) (memBytes s1 p.pa p.len)
      else match l1Need s a.c l a.key false with
        | .hit => .ok s (memBytes s p.pa p.len)
        | .recheck => .ok (grantBits s p.pa false) (memBytes s p.pa p.len)
        | _ => if a.go then .ok (acquireLine s a.c l a.key false) (memBytes s p.pa p.len) else .wait s (.line l false)
  | .pantry q => if q = a.c then .ok s (memBytes s p.pa p.len) else network s a fun s1 => .ok s1 (memBytes s1 p.pa p.len)
  | .mgmt => network s a fun s1 => let r := ctlRead s1 a.c a.f (p.pa - paControl) p.len; .ok r.2 r.1
  | .control => network s a fun s1 => let r := ctlRead s1 a.c a.f (p.pa - paControl) p.len; .ok r.2 r.1
  | .ring => network s a fun s1 => .ok s1 (ringBytes s1 p.pa p.len)
  | .host =>
    let s0 := emit s (.read (hostFn s a.master p.pa) (BitVec.ofNat 64 (p.pa - paHost)) p.len)
    if a.go then hostData (match (frameOf s a.c a.f).wait with | .filled _ _ => s | _ => s0) a p else .wait s0 .net
  | _ => .exc s { vec := 4, addr := p.va, acc := 0 }

/-- Read resolved pieces in order. -/
def readPieces (a : Actor) (fetch : Bool) : State → List Piece → MRes Bytes
  | s, [] => .ok s []
  | s, p :: ps => (readPiece s a fetch p).andThen fun s1 b => (readPieces a fetch s1 ps).andThen fun s2 bs => .ok s2 (b ++ bs)

/-- An address lies in the actor's own pantry. -/
def ownPantry (s : State) (a : Actor) (pa : Nat) : Bool := match areaOf s pa with | .pantry q => decide (q = a.c) | _ => false

/-- R280, R312: an unbuffered write has to wait for the store buffer to empty, unless it is to the core's own pantry. -/
def waitsDrain (s : State) (a : Actor) (pa : Nat) : Bool := !a.lop && !ownPantry s a pa && !(coreOf s a.c).sb.isEmpty

/-- Write one resolved piece, unbuffered (R280), once the port it needs is not held (R284): the store buffer is empty first, but for the core's own pantry. -/
def writePiece (s : State) (a : Actor) (p : Piece) (b : Bytes) : MRes Unit :=
  if portTaken s a p.pa || (!a.lop && ownPantry s a p.pa && lopUses s a.c a.f (frameOf s a.c a.f) true) then .stay
  else if waitsDrain s a p.pa then .wait s .drain
  else match areaOf s p.pa with
    | .general =>
      let l := lineOfPa p.pa
      if p.se then network s a fun s1 => .ok (masterWrite s1 p.pa b) ()
      else match l1Need s a.c l a.key true with
        | .hit => .ok (setMemBytes (dirtyL1 s a.c p.pa b.length) p.pa b) ()
        | .recheck => .ok (setMemBytes (grantBits (dirtyL1 s a.c p.pa b.length) p.pa true) p.pa b) ()
        | _ => if a.go then .ok (setMemBytes (dirtyL1 (acquireLine s a.c l a.key true) a.c p.pa b.length) p.pa b) () else .wait s (.line l true)
    | .pantry q => if q = a.c then .ok (setMemBytes s p.pa b) () else network s a fun s1 => .ok (setMemBytes s1 p.pa b) ()
    | .mgmt => network s a fun s1 => .ok (ctlWrite s1 a.c a.f (p.pa - paControl) a.sup b) ()
    | .control => network s a fun s1 => .ok (ctlWrite s1 a.c a.f (p.pa - paControl) a.sup b) ()
    | .host => network s a fun s1 =>
      match (frameOf s1 a.c a.f).wait with
      | .filled _ false => .exc s1 { vec := 4, addr := p.va, acc := 1 }
      | _ => .ok (dmaOut s1 (hostFn s1 a.master p.pa) (BitVec.ofNat 64 (p.pa - paHost)) b) ()
    | _ => .exc s { vec := 4, addr := p.va, acc := 1 }

/-- Write resolved pieces in order. -/
def writePieces (a : Actor) : State → List Piece → Bytes → MRes Unit
  | s, [], _ => .ok s ()
  | s, p :: ps, b => (writePiece s a p (b.take p.len)).andThen fun s1 _ => writePieces a s1 ps (b.drop p.len)

/-- Ready every line that resolved pieces will write, so that a write of several pieces waits before it changes anything. -/
def readyWrite (a : Actor) : State → List Piece → MRes Unit
  | s, [] => .ok s ()
  | s, p :: ps =>
    let l := lineOfPa p.pa
    if waitsDrain s a p.pa then .wait s .drain
    else match areaOf s p.pa with
    | .general =>
      if p.se then (if a.go then readyWrite a s ps else .wait s .net)
      else (match l1Need s a.c l a.key true with
        | .own => if a.go then readyWrite a s ps else .wait s (.line l true)
        | _ => readyWrite a s ps)
    | .pantry q => if q = a.c ∨ a.go then readyWrite a s ps else .wait s .net
    | _ => if a.go then readyWrite a s ps else .wait s .net

/-- read(va, n) of n bytes anywhere, as one checked access (R306, R336). -/
def readVa (s : State) (a : Actor) (wrap va n : Nat) : MRes Bytes :=
  (resolve a .read wrap (n + 1) s va n).andThen fun s1 ps => readPieces a false s1 ps

/-- write(va, n, v) of bytes anywhere, unbuffered, as one checked access. -/
def writeVa (s : State) (a : Actor) (wrap va : Nat) (b : Bytes) : MRes Unit :=
  (resolve a .write wrap (b.length + 1) s va b.length).andThen fun s1 ps =>
    (readyWrite a s1 ps).andThen fun s2 _ => writePieces a s2 ps b

/-- R306 step 1. -/
def misaligned (va : Dbl) (n : Nat) (k : Acc3) : Option Exc :=
  if va.toNat % n ≠ 0 then some { vec := 3, addr := va, acc := accNum k } else none

/-- A load of 1, 2 or 4 bytes (R306, R307). -/
def loadBytes (s : State) (a : Actor) (va : Dbl) (n : Nat) : MRes Bytes :=
  match misaligned va n .read with
  | some x => .exc s x
  | none => (resolve1 s a .read va n).andThen fun s1 p => readPiece s1 a false p

/-- A store of 1, 2 or 4 bytes (R280, R306): to HBM in a page whose SE is clear it enters the store buffer, and its checks are the drain's. -/
def storeBytes (s : State) (a : Actor) (va : Dbl) (b : Bytes) : MRes Unit :=
  match misaligned va b.length .write with
  | some x => .exc s x
  | none =>
    (translate s a .write va).andThen fun s1 x =>
      if isHbm s1 x.pa ∧ ¬ x.se then
        let k := coreOf s1 a.c
        let fr := frameOf s1 a.c a.f
        if 8 ≤ k.sb.length then .stay
        else .ok (setCore s1 a.c { k with sb := k.sb ++ [{ pa := x.pa, data := b, key := a.key, priv := a.sup, frame := a.f, epoch := fr.epoch, va := va.toNat, asid := fr.asid.setWidth 16, tlb := x.tlb }] }) ()
      else (checkPiece s1 a .write { va := va, pa := x.pa, len := b.length, se := x.se }).andThen fun s2 p => writePiece s2 a p b

/-- A store error becomes pending in its frame, or sets OVR there (R385); a frame reset since discards it (R366). -/
def storeError (s : State) (c : Nat) (e : SbEntry) (cause : Nat) : State :=
  let x := frameOf s c e.frame
  if x.epoch ≠ e.epoch then s
  else match x.ste with
    | some p => setFrame s c e.frame { x with ste := some { p with ovr := true } }
    | none => setFrame s c e.frame { x with ste := some { vec := 5, cause := cause, addr := BitVec.ofNat 64 e.pa, phys := true, imp := true } }

/-! The store buffer's drain (R280 to R282). -/

/-- The master of a buffered store. -/
def sbMaster (c : Nat) (e : SbEntry) : Master := { ladleMaster c e.frame e.priv e.key with buffered := true }

/-- The frames of a core that wait for its store buffer to empty go on. -/
def wakeDrained (s : State) (c : Nat) : State :=
  ((coreOf s c).frames.map (·.1)).foldl (fun st f => if (frameOf st c f).wait = .drain then endWait st c f .idle else st) s

/-- One store leaves the buffer; a long operation that waits for the stores before it waits for one less (R358). -/
def popSb (s : State) (c : Nat) : State :=
  let k := coreOf s c
  let s1 := setCore s c { k with sb := k.sb.drop 1, frames := tmap k.frames fun _ x => if x.lop.isSome ∧ 0 < x.lopSb then { x with lopSb := x.lopSb - 1 } else x }
  if (k.sb.drop 1).isEmpty then wakeDrained s1 c else s1

/-- The drain of the oldest buffered store: it is written, or fails; without ownership of its line it stays (R422), unless `go` has it wait for that. -/
def drainHead (s : State) (c : Nat) (go : Bool) : State :=
  match (coreOf s c).sb with
  | [] => s
  | e :: _ =>
    let m := sbMaster c e
    let l := lineOfPa e.pa
    let put := fun (s1 : State) => popSb (setMemBytes (dirtyL1 s1 c e.pa e.data.length) e.pa e.data) c
    match checkPa s m e.pa .write with
    | some r => storeError (popSb (logRefusal s m e.pa .write r) c) c e r.cause
    | none =>
      if busFails s e.pa then storeError (popSb (noteSram s l) c) c e 0x10
      else match l1Need s c l e.key true with
      | .hit => put s
      | .recheck => put (grantBits s e.pa true)
      | _ => if go then put (acquireLine s c l e.key true) else s

/-- R358: the stores that a frame's long operation waits for drain. -/
def drainBefore : Nat → State → Nat → Nat → State
  | 0, s, _, _ => s
  | n + 1, s, c, f => if (frameOf s c f).lopSb = 0 ∨ (coreOf s c).sb = [] then s else drainBefore n (drainHead s c true) c f

/-- TLB entries and walk entries that a TLBI removes (R418). -/
def tlbiHits (k : TlbiKind) (t : TlbEntry) : Bool :=
  match k with
  | .va asid va => (t.e.getLsbD 6 || t.asid == asid) && va >>> lvBits t.lv == t.base
  | .asid asid => t.asid == asid && !t.e.getLsbD 6
  | .all => true

def tlbiHitsWalk (k : TlbiKind) (w : WalkEntry) : Bool :=
  match k with
  | .va asid _ => w.asid == asid
  | .asid asid => w.asid == asid
  | .all => true

/-- R418 stage 1 at a core. -/
def tlbiRemove (s : State) (c : Nat) (k : TlbiKind) : State :=
  let x := coreOf s c
  setCore s c { x with tlb := x.tlb.filter fun t => !tlbiHits k t, walk := x.walk.filter fun w => !tlbiHitsWalk k w }

/-- Whether a buffered store was translated under what a TLBI removes (R418). -/
def tlbiHolds (k : TlbiKind) (e : SbEntry) : Bool := e.tlb.any (tlbiHits k)

end Sys2Proof.Machine
end

