-- ==== Sys2Proof/Machine/Decimals.lean ====
section
/-! DEFINITION. The decimal instructions (R329 to R346): accumulators, overflow, and one meaning for each. -/
namespace Sys2Proof.Machine

/-- What an instruction does: it is done; it branches; it has set its own pc; its round is done and the next one is due; it raises; it waits;
or nothing happens yet. -/
inductive IRes where
  | done (s : State)
  | jump (s : State) (t : Word)
  | raw (s : State)
  | again (s : State)
  | exc (s : State) (x : Exc)
  | wait (s : State) (w : Wait)
  | stay

/-- Go on with the value of an access. -/
def MRes.bindI {α : Type} (r : MRes α) (k : State → α → IRes) : IRes :=
  match r with
  | .ok s v => k s v
  | .exc s x => .exc s x
  | .wait s w => .wait s w
  | .stay => .stay

/-- The frame of an actor. -/
def actFrame (s : State) (a : Actor) : Frame := frameOf s a.c a.f
/-- An instruction that leaves a frame as given. -/
def doneF (s : State) (a : Actor) (x : Frame) : IRes := .done (setFrame s a.c a.f x)

/-! Accumulators (R329, R330). -/

/-- 10^63 − 1. -/
def accMax : Nat := 10 ^ 63 - 1

/-- R330: a valid accumulator; the others of its conditions hold of every value kept. -/
def accOk (a : Acc) : Bool := decide (a.val.natAbs ≤ accMax)

/-- Table 9.1: the 33-byte image. -/
def accImage (a : Acc) : Bytes :=
  ofNibbles (digitsOf 64 a.val.natAbs) ++ [BitVec.ofNat 8 (128 * b2n a.ov + 64 * b2n a.dz + (if a.val < 0 then 13 else 12))]

/-- The accumulator of an image, if it is valid (R330). -/
def accOfImage (b : Bytes) : Option Acc :=
  let ds := nibbles (b.take 32)
  let sf := (byteAt b 32).toNat
  let m := ofDigits ds
  if ds.all (fun d => d ≤ 9) && ds.headD 0 == 0 && (sf % 16 == 12 || sf % 16 == 13) && bits sf 5 4 == 0 && (m != 0 || sf % 16 == 12) then
    some { val := if sf % 16 = 13 then -(m : Int) else m, ov := bitOf sf 7, dz := bitOf sf 6 }
  else none

/-- d0 to d7 as images, d0 first. -/
def accImages (x : Frame) : Bytes := ((List.range 8).map fun k => accImage (dAcc x k)).flatten

/-- d0 to d7 from images, if every one is valid. -/
def accsFrom (x : Frame) (b : Bytes) : Option Frame :=
  (List.range 8).foldl (fun (r : Option Frame) k => match r, accOfImage (slice b (33 * k) 33) with
    | some y, some v => some (setD y k v)
    | _, _ => none) (some x)

/-- Significant digits, 1 for zero (R339), of a number below 10^64. -/
def sigDigits (n : Nat) : Nat := max 1 ((List.range 64).filter fun i => decide (10 ^ i ≤ n)).length

/-- ⌈n / d⌉. -/
def ceilDiv (n d : Nat) : Nat := (n + d - 1) / d

/-- R333: a result in a capacity of `c` digits: itself; or its low digits with OV set when `ovEn` is 0; none raises decimal overflow. -/
def fitDigits (ovEn : Bool) (c : Nat) (v : Int) : Option (Int × Bool) :=
  if v.natAbs < 10 ^ c then some (v, false)
  else if ovEn then none
  else
    let m : Int := ((v.natAbs % 10 ^ c : Nat) : Int)
    some (if v < 0 then -m else m, true)

def excData : Exc := { vec := 11 }
def excOverflow : Exc := { vec := 12 }

/-- A result for accumulator `k` of frame `x`, with flags from its sources (R331, R333). -/
def putResult (s : State) (a : Actor) (x : Frame) (k : Nat) (v : Int) (ov dz : Bool) : IRes :=
  match fitDigits (pOv a.psw) 63 v with
  | none => .exc s excOverflow
  | some (r, o) => doneF s a (setD x k { val := r, ov := ov || o, dz := dz })

/-- A two-source operation (R340). -/
def accBin (s : State) (a : Actor) (w : Word) (op : Int → Int → Int) : IRes :=
  let x := actFrame s a
  let p := dAcc x (daDa w)
  let q := dAcc x (daDb w)
  if !accOk p || !accOk q then .exc s excData
  else putResult s a x (daDd w) (op p.val q.val) (p.ov || q.ov) (p.dz || q.dz)

/-- A one-source operation (R340). -/
def accUn (s : State) (a : Actor) (w : Word) (op : Int → Int) : IRes :=
  let x := actFrame s a
  let p := dAcc x (daDa w)
  if !accOk p then .exc s excData else putResult s a x (daDd w) (op p.val) p.ov p.dz

def opAddp (s : State) (a : Actor) (w : Word) : IRes := accBin s a w (· + ·)
def opSubp (s : State) (a : Actor) (w : Word) : IRes := accBin s a w (· - ·)
def opMovp (s : State) (a : Actor) (w : Word) : IRes := accUn s a w id
def opNegp (s : State) (a : Actor) (w : Word) : IRes := accUn s a w (fun v => -v)
def opAbsp (s : State) (a : Actor) (w : Word) : IRes := accUn s a w (fun v => (v.natAbs : Int))
/-- CLRP (Table 9.5). -/
def opClrp (s : State) (a : Actor) (w : Word) : IRes := doneF s a (setD (actFrame s a) (daDd w) {})

/-- MULP, at its retirement (R341). -/
def retMulp (s : State) (a : Actor) (w : Word) : IRes := accBin s a w (· * ·)

/-- DIVP, at its retirement (R334, R341). -/
def retDivp (s : State) (a : Actor) (w : Word) : IRes :=
  let x := actFrame s a
  let p := dAcc x (daDa w)
  let q := dAcc x (daDb w)
  if !accOk p || !accOk q then .exc s excData
  else
    let z := decide (q.val = 0)
    if z && pDz a.psw then .exc s { vec := 13 }
    else
      let quo := if z then 0 else p.val.tdiv q.val
      let rem := if z then p.val else p.val.tmod q.val
      let ov := p.ov || q.ov
      let dz := p.dz || q.dz || z
      let y := setD x (daDd w) { val := quo, ov := ov, dz := dz }
      doneF s a (if bitOf w.toNat 7 then setD y (wf w 10 8) { val := rem, ov := ov, dz := dz } else y)

/-- Table 9.6, on an ordering of the first operand to the second. -/
def relHolds (rel : Nat) (lt eq : Bool) : Bool :=
  match rel with
  | 0 => eq | 1 => !eq | 2 => lt | 3 => lt || eq | 4 => !lt && !eq | _ => !lt

/-- CMPP (R342). -/
def opCmpp (s : State) (a : Actor) (w : Word) : IRes :=
  let x := actFrame s a
  let p := dAcc x (daDa w)
  let q := dAcc x (daDb w)
  if !accOk p || !accOk q then .exc s excData
  else doneF s a (setG x (wf w 10 6) (BitVec.ofNat 32 (b2n (relHolds (wf w 5 3) (decide (p.val < q.val)) (decide (p.val = q.val))))))

/-- TSTP (R342). -/
def opTstp (s : State) (a : Actor) (w : Word) : IRes :=
  let x := actFrame s a
  let p := dAcc x (daDa w)
  if !accOk p then .exc s excData
  else
    let y := setG x (wf w 10 6) (BitVec.ofNat 32 (b2n (decide (p.val < 0)) + 2 * b2n (decide (p.val = 0)) + 4 * b2n p.ov + 8 * b2n p.dz))
    doneF s a (if bitOf w.toNat 5 then setD y (daDa w) { p with ov := false, dz := false } else y)

/-- R343: a value shifted by `n` places with rounding digit `r`. -/
def shiftRound (v : Int) (n : Int) (r : Nat) : Int :=
  let m := v.natAbs
  let k := n.natAbs
  let t : Nat := if 0 ≤ n then m * 10 ^ k else (m + r * 10 ^ (k - 1)) / 10 ^ k
  if v < 0 then -(t : Int) else t

def opShrp (s : State) (a : Actor) (w : Word) : IRes := accUn s a w fun v => shiftRound v (sextI 7 (wf w 10 4)) (wf w 3 0)
def opShrpr (s : State) (a : Actor) (w : Word) : IRes :=
  let n := sextI 7 (bits (gReg (actFrame s a) (wf w 10 6)).toNat 6 0)
  accUn s a w fun v => shiftRound v n (wf w 3 0)

/-! Packed operands (R336, R344, R346). -/

/-- The address of a DM operand. -/
def dmAddr (x : Frame) (w : Word) : Nat := (gReg x (dmBase w) + sext 9 (wf w 8 0)).toNat

/-- LDP (R344). -/
def opLdp (s : State) (a : Actor) (w : Word) : IRes :=
  (readVa s a wrap32 (dmAddr (actFrame s a) w) (dmLen w)).bindI fun s1 b =>
    if !packOk b then .exc s1 excData else doneF s1 a (setD (actFrame s1 a) (dmDk w) { val := unpack b })

/-- The memory forms of ADDP and SUBP (R344). -/
def accMem (s : State) (a : Actor) (w : Word) (op : Int → Int → Int) : IRes :=
  (readVa s a wrap32 (dmAddr (actFrame s a) w) (dmLen w)).bindI fun s1 b =>
    let x := actFrame s1 a
    let p := dAcc x (dmDk w)
    if !accOk p || !packOk b then .exc s1 excData
    else putResult s1 a x (dmDk w) (op p.val (unpack b)) p.ov p.dz

def opAddpMemory (s : State) (a : Actor) (w : Word) : IRes := accMem s a w (· + ·)
def opSubpMemory (s : State) (a : Actor) (w : Word) : IRes := accMem s a w (· - ·)

/-- A decimal result that goes to memory: destination checked first, then the source, then overflow, then the write (R336). -/
def accStore (s : State) (a : Actor) (k va n digits : Nat) (image : Int → Bytes) : IRes :=
  (resolve a .write wrap32 (n + 1) s va n).bindI fun s1 ps =>
    let x := actFrame s1 a
    let p := dAcc x k
    if !accOk p then .exc s1 excData
    else match fitDigits (pOv a.psw) digits p.val with
      | none => .exc s1 excOverflow
      | some (v, o) =>
        (readyWrite a s1 ps).bindI fun s2 _ =>
          (writePieces a s2 ps (image v)).bindI fun s3 _ =>
            doneF s3 a (if o then setD (actFrame s3 a) k { p with ov := true } else actFrame s3 a)

/-- STP (R344). -/
def opStp (s : State) (a : Actor) (w : Word) : IRes :=
  accStore s a (dmDk w) (dmAddr (actFrame s a) w) (dmLen w) (2 * dmLen w - 1) (pack (dmLen w))

/-- MACP (R346): X is checked before Y, and both before either is used. -/
def opMacp (s : State) (a : Actor) (w : Word) : IRes :=
  let x0 := actFrame s a
  let n := dxLen w
  (resolve a .read wrap32 (n + 1) s (gReg x0 (dxGa w)).toNat n).bindI fun s1 ps =>
    (resolve a .read wrap32 (n + 1) s1 (gReg x0 (dxGb w)).toNat n).bindI fun s2 qs =>
      (readPieces a false s2 ps).bindI fun s3 b =>
        (readPieces a false s3 qs).bindI fun s4 d =>
          let x := actFrame s4 a
          let p := dAcc x (dxDk w)
          if !accOk p || !packOk b || !packOk d then .exc s4 excData
          else match fitDigits (pOv a.psw) 63 (p.val + unpack b * unpack d) with
            | none => .exc s4 excOverflow
            | some (v, o) =>
              let y := setD x (dxDk w) { p with val := v, ov := p.ov || o }
              let z := if dxP w then setG (setG y (dxGa w) (gReg y (dxGa w) + BitVec.ofNat 32 n)) (dxGb w) (gReg y (dxGb w) + BitVec.ofNat 32 n) else y
              doneF s4 a z

/-! Conversions (R337, R345). -/

/-- A digit byte of a zone mode. -/
def zoneDigit (zm : Bool) (d : Nat) : Byte := BitVec.ofNat 8 ((if zm then 0xF0 else 0x30) + d)
/-- The last byte of a zoned field. -/
def zoneLast (zm neg : Bool) (d : Nat) : Byte := BitVec.ofNat 8 ((if zm then (if neg then 0xD0 else 0xC0) else if neg then 0x70 else 0x30) + d)
/-- The space of a zone mode. -/
def zoneSpace (zm : Bool) : Byte := if zm then 0x40 else 0x20

/-- The value of a zoned operand, none where a byte has no form of Table 9.3. -/
def unzone (zm : Bool) (b : Bytes) : Option Int :=
  let dz := if zm then 0xF else 3
  let last := (b.getLastD 0).toNat
  let lastPlus := if zm then last / 16 == 0xC || last / 16 == 0xF else last / 16 == 3
  let lastMinus := if zm then last / 16 == 0xD else last / 16 == 7
  if (b.dropLast.all fun x => x.toNat / 16 == dz && decide (x.toNat % 16 ≤ 9)) && decide (last % 16 ≤ 9) && (lastPlus || lastMinus) then
    let m := ofDigits (b.map fun x => x.toNat % 16)
    some (if lastMinus then -(m : Int) else m)
  else none

/-- A zoned field of `n` bytes; with `u` the last byte is a plain digit byte. -/
def zoned (zm u : Bool) (n : Nat) (v : Int) : Bytes :=
  let ds := digitsOf n v.natAbs
  ds.dropLast.map (zoneDigit zm) ++ [if u then zoneDigit zm (ds.getLastD 0) else zoneLast zm (decide (v < 0)) (ds.getLastD 0)]

/-- CVZD (R345). -/
def opCvzd (s : State) (a : Actor) (w : Word) : IRes :=
  (readVa s a wrap32 (gReg (actFrame s a) (dcRa w)).toNat (dcN w)).bindI fun s1 b =>
    match unzone (pZm a.psw) b with
    | none => .exc s1 excData
    | some v => doneF s1 a (setD (actFrame s1 a) (dcDk w) { val := v })

/-- CVDZ (R345). -/
def opCvdz (s : State) (a : Actor) (w : Word) : IRes :=
  accStore s a (dcDk w) (gReg (actFrame s a) (dcRa w)).toNat (dcN w) (dcN w) (zoned (pZm a.psw) (bitOf w.toNat 1) (dcN w))

/-- CVBD (R345). -/
def opCvbd (s : State) (a : Actor) (w : Word) : IRes :=
  let x := actFrame s a
  doneF s a (setD x (dcDk w) { val := (gPair x (dcRa w)).toInt })

/-- CVDB (R333, R345). -/
def opCvdb (s : State) (a : Actor) (w : Word) : IRes :=
  let x := actFrame s a
  let p := dAcc x (dcDk w)
  if !accOk p then .exc s excData
  else
    let inRange := decide (-(2 : Int) ^ 63 ≤ p.val) && decide (p.val < (2 : Int) ^ 63)
    if !inRange && pOv a.psw then .exc s excOverflow
    else
      let y := setPair x (dcRa w) (BitVec.ofInt 64 p.val)
      doneF s a (if inRange then y else setD y (dcDk w) { p with ov := true })

/-- Step counts of the decimal instructions that are not long operations (Table 9.5). -/
def decSteps (x : Frame) (o : LOp) (w : Word) : Nat :=
  let n := fun k => sigDigits (dAcc x k).val.natAbs
  match o with
  | .addp | .subp | .cmpp => 4 + ceilDiv (max (n (daDa w)) (n (daDb w))) 16
  | .shrp | .shrpr => 3
  | .ldp | .stp => 2 + ceilDiv (dmLen w) 16
  | .addpMemory | .subpMemory => 4 + ceilDiv (max (n (dmDk w)) (2 * dmLen w - 1)) 16
  | .cvzd | .cvdz => 3 + ceilDiv (dcN w) 16
  | .cvbd => 4
  | .cvdb => 5
  | .cls | .scn => 2
  | .sct => 3
  | _ => 1

end Sys2Proof.Machine
end

