-- ==== Sys2Proof/Machine/Strings.lean ====
section
/-! DEFINITION. The string instructions and EDIT (R347 to R359): rounds of CLS, SCN and SCT, and one element or chunk of the long operations. -/
namespace Sys2Proof.Machine

/-- A round that is not the last leaves the pc; the last one writes rd and ends the instruction (R349). -/
def endRound (s : State) (a : Actor) (x : Frame) (last : Bool) (rd : Nat) (v : Word) : IRes :=
  if last then .done (setFrame s a.c a.f (setG x rd v)) else .again (setFrame s a.c a.f x)

/-- A string pair moved on by `n` bytes. -/
def advancePair (x : Frame) (r n : Nat) : Frame := setG (setG x r (gReg x r + BitVec.ofNat 32 n)) (r + 1) (gReg x (r + 1) - BitVec.ofNat 32 n)

/-- One round of CLS (R350). -/
def opCls (s : State) (a : Actor) (w : Word) : IRes :=
  let x0 := actFrame s a
  let la := (gReg x0 (dsRa w + 1)).toNat
  let lb := (gReg x0 (dsRb w + 1)).toNat
  (resolve a .read wrap32 (min 16 la + 1) s (gReg x0 (dsRa w)).toNat (min 16 la)).bindI fun s1 ps =>
    (resolve a .read wrap32 (min 16 lb + 1) s1 (gReg x0 (dsRb w)).toNat (min 16 lb)).bindI fun s2 qs =>
      (readPieces a false s2 ps).bindI fun s3 p =>
        (readPieces a false s3 qs).bindI fun s4 q =>
          let x := actFrame s4 a
          let sp := zoneSpace (pZm a.psw)
          let at1 := fun i => (p[i]?).getD sp
          let at2 := fun i => (q[i]?).getD sp
          let n := min 16 (max la lb)
          let diff := (List.range n).find? fun i => at1 i != at2 i
          let pos := diff.getD n
          let y := advancePair (advancePair x (dsRa w) (min pos la)) (dsRb w) (min pos lb)
          let last := diff.isSome || (decide (la ≤ 16) && decide (lb ≤ 16))
          let lt := match diff with | none => false | some i => decide ((at1 i).toNat < (at2 i).toNat)
          endRound s4 a y last (dsRd w) (BitVec.ofNat 32 (b2n (relHolds (dsRel w) lt diff.isNone)))

/-- A round of a scan of the string of pair ra: `hit` tells what a byte stops with. -/
def scanRound (s : State) (a : Actor) (w : Word) (hit : State → Byte → MRes (Option Word)) : IRes :=
  let x0 := actFrame s a
  let la := (gReg x0 (dsRa w + 1)).toNat
  let n := min 16 la
  (readVa s a wrap32 (gReg x0 (dsRa w)).toNat n).bindI fun s1 b =>
    let found : MRes (Nat × Option Word) := b.foldl (fun (r : MRes (Nat × Option Word)) y =>
      r.andThen fun st v => match v.2 with
        | some _ => .ok st v
        | none => (hit st y).andThen fun st1 h => match h with
          | some _ => .ok st1 (v.1, h)
          | none => .ok st1 (v.1 + 1, none)) (.ok s1 (0, none))
    found.bindI fun s2 v =>
      let y := advancePair (actFrame s2 a) (dsRa w) v.1
      endRound s2 a y (v.2.isSome || decide (la ≤ 16)) (dsRd w) (v.2.getD 0)

/-- One round of SCN (R351). -/
def opScn (s : State) (a : Actor) (w : Word) : IRes :=
  let b : Byte := (gReg (actFrame s a) (dsRb w)).setWidth 8
  scanRound s a w fun st y => .ok st (if (y == b) != bitOf w.toNat 5 then some 1 else none)

/-- One round of SCT (R352). -/
def opSct (s : State) (a : Actor) (w : Word) : IRes :=
  let x := actFrame s a
  let m : Byte := (gReg x (dsRd w)).setWidth 8
  let t := (gReg x (dsRb w)).toNat
  scanRound s a w fun st y =>
    (readVa st a wrap32 ((t + y.toNat) % wrap32) 1).andThen fun st1 e =>
      .ok st1 (if byteAt e 0 &&& m ≠ 0 then some ((byteAt e 0).setWidth 32) else none)

/-! Long operations: one chunk or element at a time. -/

/-- What one chunk or element does: more to come, with the pattern bytes consumed; nothing left; an exception with the state left as after
the last one completed; or a wait for the store buffer. -/
inductive LRes where
  | more (s : State) (n : Nat)
  | fin (s : State)
  | exc (s : State) (x : Exc)
  | stay

def MRes.bindL {α : Type} (r : MRes α) (k : State → α → LRes) : LRes :=
  match r with
  | .ok s v => k s v
  | .exc s x => .exc s x
  | .wait _ _ => .stay
  | .stay => .stay

/-- Pieces as single bytes, in order. -/
def byteWise (ps : List Piece) : List Piece :=
  ps.flatMap fun p => (List.range p.len).map fun i => { p with va := p.va + BitVec.ofNat 64 i, pa := p.pa + i, len := 1 }

/-- A byte-by-byte copy in ascending order (R347); where the source has run out the pad is written (R348). -/
def copyBytes (a : Actor) (pad : Byte) : State → List Piece → List Piece → MRes Unit
  | s, _, [] => .ok s ()
  | s, [], d :: ds => (writePiece s a d [pad]).andThen fun s1 _ => copyBytes a pad s1 [] ds
  | s, p :: ps, d :: ds =>
    (readPiece s a true p).andThen fun s1 b => (writePiece s1 a d b).andThen fun s2 _ => copyBytes a pad s2 ps ds

/-- One chunk: source bytes are checked, then destination bytes, then the copy (R347, R348). -/
def chunk (s : State) (a : Actor) (src k dst c : Nat) (pad : Byte) : MRes Unit :=
  (resolve a .read wrap32 (k + 1) s src k).andThen fun s1 ps =>
    (resolve a .write wrap32 (c + 1) s1 dst c).andThen fun s2 ds =>
      (readyWrite a s2 ds).andThen fun s3 _ => copyBytes a pad s3 (byteWise ps) (byteWise ds)

/-- A chunk of MVS (R347). -/
def stepMvs (s : State) (a : Actor) (w : Word) : LRes :=
  let x := actFrame s a
  let n := (gReg x (dlRc w)).toNat
  if n = 0 then .fin s
  else
    let dst := (gReg x (dlRa w)).toNat
    let c := min n (16 - dst % 16)
    (chunk s a (gReg x (dlRb w)).toNat c dst c 0).bindL fun s1 _ =>
      let y := actFrame s1 a
      let z := setG (setG (setG y (dlRa w) (gReg y (dlRa w) + BitVec.ofNat 32 c)) (dlRb w) (gReg y (dlRb w) + BitVec.ofNat 32 c)) (dlRc w) (BitVec.ofNat 32 (n - c))
      .more (setFrame s1 a.c a.f z) 4

/-- A chunk of MVSX (R348). -/
def stepMvsx (s : State) (a : Actor) (w : Word) : LRes :=
  let x := actFrame s a
  let n := (gReg x (dlRa w + 1)).toNat
  if n = 0 then .fin s
  else
    let dst := (gReg x (dlRa w)).toNat
    let c := min n (16 - dst % 16)
    let k := min c (gReg x (dlRb w + 1)).toNat
    (chunk s a (gReg x (dlRb w)).toNat k dst c ((gReg x (dlRc w)).setWidth 8)).bindL fun s1 _ =>
      .more (setFrame s1 a.c a.f (advancePair (advancePair (actFrame s1 a) (dlRa w) c) (dlRb w) k)) 4

/-! The progress word of EDIT (Table 9.7). -/

def pFsym (p : Word) : Byte := p.extractLsb' 24 8
def pLf (p : Word) : Bool := p.getLsbD 20
def pNeg (p : Word) : Bool := p.getLsbD 19
def pFlt (p : Word) : Bool := p.getLsbD 18
def pStarted (p : Word) : Bool := p.getLsbD 17
def pSig (p : Word) : Bool := p.getLsbD 16
def pFill (p : Word) : Byte := p.extractLsb' 8 8
def pDrem (p : Word) : Nat := bits p.toNat 5 0
def pReserved (p : Word) : Bool := (p &&& 0x00E000C0#32) != 0

def withFsym (p : Word) (b : Byte) : Word := (p &&& 0x00FFFFFF#32) ||| (b.setWidth 32 <<< 24)
def withDrem (p : Word) (n : Nat) : Word := (p &&& 0xFFFFFFC0#32) ||| BitVec.ofNat 32 (n % 64)

def excString (cause : Nat) : Exc := { vec := 14, cause := cause }

/-- The start of EDIT and EDITM: the overflow test, NEG captured (R354). -/
def editStart (s : State) (a : Actor) (w : Word) : LRes :=
  let x := actFrame s a
  let p := gReg x (dlRc w)
  if pReserved p then .exc s (excString 0x02)
  else if pStarted p then .more s 0
  else
    let d := dAcc x (dlDk w)
    if !accOk d then .exc s excData
    else match fitDigits (pOv a.psw) (pDrem p) d.val with
      | none => .exc s excOverflow
      | some (_, o) =>
        let x1 := setG x (dlRc w) (putBit (putBit p 19 (decide (d.val < 0))) 17 true)
        .more (setFrame s a.c a.f (if o then setD x1 (dlDk w) { d with ov := true } else x1)) 0

/-- What a pattern byte does: bytes consumed, the output byte if any, whether it is the fill byte, a symbol to place before it, the mark, the progress word. -/
structure EditOut where
  n : Nat := 1
  out : Option Byte := none
  isFill : Bool := false
  float : Bool := false
  mark : Bool := false
  p : Word := 0
deriving DecidableEq, Repr

/-- A digit control (R354). -/
def editDigit (x : Frame) (w : Word) (zm forced : Bool) (p : Word) : EditOut :=
  let d := (dAcc x (dlDk w)).val.natAbs / 10 ^ (pDrem p - 1) % 10
  let p1 := withDrem p (pDrem p - 1)
  if pSig p || d != 0 || forced then
    if pSig p then { out := some (zoneDigit zm d), p := p1 }
    else { out := some (zoneDigit zm d), float := pFlt p && pLf p, mark := true, p := putBit (putBit p1 18 false) 16 true }
  else { out := some (pFill p), isFill := true, p := p1 }

/-- A pattern byte with its operand (Table 9.8); a digit control is met with DREM above 0. -/
def editByte (x : Frame) (w : Word) (zm : Bool) (p : Word) (b y : Byte) : EditOut :=
  match b.toNat with
  | 1 => editDigit x w zm false p
  | 2 => editDigit x w zm true p
  | 3 => { n := 2, out := some y, p := p }
  | 4 => { n := 2, p := putBit (withFsym p y) 18 true }
  | 5 => if pNeg p then { n := 2, out := some y, p := p } else { n := 2, out := some (pFill p), isFill := true, p := p }
  | 6 => if pNeg p then { n := 2, out := some (pFill p), isFill := true, p := p } else { n := 2, out := some y, p := p }
  | 7 => { p := putBit p 16 true }
  | _ => if pSig p then { out := some b, p := p } else { out := some (pFill p), isFill := true, p := p }

/-- The writes of an element: the float symbol at ra − 1, then the output byte at ra. Both are checked before either is written. -/
def editWrite (s : State) (a : Actor) (ra : Word) (sym : Byte) (e : EditOut) : MRes Unit :=
  match e.out with
  | none => .ok s ()
  | some o =>
    let addrs := if e.float then [ra - 1, ra] else [ra]
    let all : MRes (List Piece) := addrs.foldl (fun (r : MRes (List Piece)) v =>
      r.andThen fun st ps => (resolve a .write wrap32 2 st v.toNat 1).andThen fun st1 qs => .ok st1 (ps ++ qs)) (.ok s [])
    all.andThen fun s1 ps => (readyWrite a s1 ps).andThen fun s2 _ => writePieces a s2 ps (if e.float then [sym, o] else [o])

/-- One element of EDIT, or of EDITM with `mark` (R354, R355). -/
def stepEdit (s : State) (a : Actor) (w : Word) (mark : Bool) : LRes :=
  match editStart s a w with
  | .more s0 _ =>
    let x := actFrame s0 a
    let p := gReg x (dlRc w)
    let len := (gReg x (dlRb w + 1)).toNat
    let src := (gReg x (dlRb w)).toNat
    if len = 0 then .fin s0
    else
      (readVa s0 a wrap32 src 1).bindL fun s1 b =>
        let c := (byteAt b 0).toNat
        if c = 0 ∨ (8 ≤ c ∧ c ≤ 0x1F) then .exc s1 (excString 0x01)
        else if 3 ≤ c ∧ c ≤ 6 ∧ len = 1 then .exc s1 (excString 0x01)
        else
          (readVa s1 a wrap32 ((src + 1) % wrap32) (if 3 ≤ c ∧ c ≤ 6 then 1 else 0)).bindL fun s2 y =>
            if (c = 1 ∨ c = 2) ∧ pDrem p = 0 then .exc s2 (excString 0x01)
            else
              let e := editByte x w (pZm a.psw) p (byteAt b 0) (byteAt y 0)
              (editWrite s2 a (gReg x (dlRa w)) (pFsym p) e).bindL fun s3 _ =>
                let y1 := advancePair (actFrame s3 a) (dlRb w) e.n
                let ra := gReg y1 (dlRa w)
                let y2 := if mark && e.mark then setG y1 (dlRc w + 1) ra else y1
                let y3 := if e.out.isSome then setG (setG y2 (dlRa w) (ra + 1)) (dlRc w) (putBit e.p 20 e.isFill) else setG y2 (dlRc w) e.p
                .more (setFrame s3 a.c a.f y3) e.n
  | r => r

/-- The next chunk or element of a long operation that accesses memory. -/
def lopStep (s : State) (a : Actor) (w : Word) : LRes :=
  match decode w with
  | some .mvs => stepMvs s a w
  | some .mvsx => stepMvsx s a w
  | some .edit => stepEdit s a w false
  | some .editm => stepEdit s a w true
  | _ => .fin s

/-- Run a long operation on, to its end or its first exception. -/
def lopRun (a : Actor) (w : Word) : Nat → State → LRes
  | 0, s => .fin s
  | n + 1, s => match lopStep s a w with
    | .more s1 _ => lopRun a w n s1
    | r => r

/-- How a long operation comes to an interruption point: stopped there, at its end, or in a chunk or element that raises. -/
inductive LopEnd where
  | stopped
  | ended
  | raised (x : Exc)
deriving DecidableEq, Repr

/-- Run a long operation on past `k` interruption points (R357): to the last of them, to its end, or to the chunk or element that raises. -/
def lopPoints (a : Actor) (w : Word) : Nat → Nat → Nat → State → State × LopEnd
  | 0, _, _, s => (s, .stopped)
  | n + 1, k, cnt, s =>
    if k = 0 then (s, .stopped)
    else match lopStep s a w with
      | .more s1 m => lopPoints a w n (if (cnt + m) / 4 > cnt / 4 then k - 1 else k) (cnt + m) s1
      | .fin s1 => (s1, .ended)
      | .exc s1 x => (s1, .raised x)
      | .stay => (s, .stopped)

end Sys2Proof.Machine
end

