-- ==== Sys2Proof/Machine/LadleExc.lean ====
section
/-! DEFINITION. Exceptions of a ladle core: entry, double fault, third fault, the stop of a long operation, switches (R287, R367, R374 to R386). -/
namespace Sys2Proof.Machine

/-- EINFO of an exception (Table 10.10). -/
def einfoOf (x : Exc) : Word :=
  BitVec.ofNat 32 (b2n x.imp * 2 ^ 31 + b2n x.slotB * 2 ^ 30 + x.vec % 64 * 2 ^ 24 + x.cause % 256 * 2 ^ 16 + b2n x.entry * 2 ^ 15 +
    b2n x.ovr * 2 ^ 14 + x.acc % 4 * 2 ^ 12 + b2n x.phys * 2 ^ 11 + x.code % 1024)

/-- The frame goes on at an address with an empty fetch buffer. -/
def goAt (x : Frame) (t : Word) : Frame := { x with pc := t, fetch := [], wait := .idle, last := none }

/-- The word at an address that a frame reads in its vector table: supervisor mode, PSW.AK, word aligned contents. -/
def vectorWord (s : State) (c f : Nat) (v : Nat) : MRes Word :=
  let x := frameOf s c f
  (loadBytes s (entryActor s c f) ((x.evb + BitVec.ofNat 32 (4 * v)).setWidth 64) 4).andThen fun s1 b =>
    let h := wordAt b 0
    if h.extractLsb' 0 2 ≠ 0 then .exc s1 { vec := 3, addr := h.setWidth 64, acc := 2 } else .ok s1 h

/-- R382, R383: a double fault; `ia` is what DFPC receives, `entry` the vector being entered when the fault is an entry's. A third fault, or a fault in reading word 1, resets the core. None: the core waits for its stores to drain. -/
def doubleFault (s : State) (c f : Nat) (x : Exc) (ia : Word) : Option State :=
  let fr := frameOf s c f
  if pDf fr.psw then some (coreReset s c f)
  else match vectorWord s c f 1 with
    | .ok s1 h =>
      let y := frameOf s1 c f
      let info := einfoOf { x with vec := 1, cause := x.vec, ovr := false, code := if x.entry then x.code else 0 }
      some (spend (setFrame s1 c f { goAt (parkRep y) h with dfpc := ia, einfo := info, eaddr := x.addr, psw := putBit (putBit (putBit (putBit y.psw 10 true) 0 true) 1 true) 9 false }) c csOther 4)
    | .exc s1 _ => some (coreReset s1 c f)
    | _ => none

/-- A fault of an entry on vector `v` (R377). -/
def entryFault (s : State) (c f : Nat) (v : Nat) (e : Exc) (ra : Word) : Option State :=
  doubleFault s c f { e with entry := true, code := v } ra

/-- R378: the header of an exception block. -/
def blockHeader (x : Frame) : Bytes :=
  le 4 x.dlazy.toNat ++ le 4 x.repc.toNat ++ le 4 x.lopw.toNat ++ le 4 x.lopa.toNat ++ le 4 (b2n x.repv + 2 * b2n x.lov) ++ zeros 4

/-- R377: entry on a vector with return address `ra`; `ia` is the address of the instruction that raised, for a synchronous one.
A synchronous one while MSK or DF is set is a double or a third fault (R382, R383). -/
def enterExc (s0 : State) (c f : Nat) (x : Exc) (sync : Bool) (ia ra : Word) : Option State :=
  let s := setFrame s0 c f (parkRep (frameOf s0 c f))
  let fr := frameOf s c f
  if sync && (pMsk fr.psw || pDf fr.psw) then doubleFault s c f x ia
  else
    let user := !pSuper fr.psw
    let t := if user then fr.ssp else gReg fr 29
    if t.extractLsb' 0 3 ≠ 0 then entryFault s c f x.vec { vec := 3, addr := t.setWidth 64, acc := 1 } ra
    else
      let b := t - 288
      match writeVa s (entryActor s c f) wrap32 b.toNat (blockHeader fr) with
      | .exc s1 e => entryFault s1 c f x.vec e ra
      | .ok s1 _ =>
        match vectorWord s1 c f x.vec with
        | .exc s2 e => entryFault s2 c f x.vec e ra
        | .ok s2 h =>
          let y := frameOf s2 c f
          let y1 := if user then { y with ssp := gReg y 29 } else y
          let y2 := setG y1 29 b
          some (spend (setFrame s2 c f { goAt y2 h with
            epc := ra, epsw := y.psw, einfo := einfoOf { x with entry := false }, eaddr := x.addr, dlazy := b ||| 1, repv := false, lov := false,
            psw := putBit (putBit (putBit y.psw 0 true) 1 true) 9 false }) c csOther 6)
        | _ => none
      | _ => none

/-- Whether a frame's long operation in flight accesses memory. -/
def hasMemLop (x : Frame) : Bool :=
  match x.lop with | some (w, _) => (match decode w with | some o => isMemLongOp o | none => false) | none => false

/-- A frame's long operation in flight is MULP or DIVP. -/
def hasRegLop (x : Frame) : Bool := x.lop.isSome && !hasMemLop x

/-- R357: a frame's long operation that accesses memory runs on to an interruption point, once the stores before it have drained (R358), and is recorded
there; or it ends first; or it meets an exception, with the record at the last completed chunk or element. -/
def reachPoint (s : State) (c f : Nat) : State × Option LopExc :=
  let x := frameOf s c f
  match x.lop with
  | none => (s, none)
  | some (w, ad) =>
    if !hasMemLop x then (s, none)
    else
      let k := Config.points s.fresh + 1
      let r := lopPoints (lopActor x c f) w (4 * k + 4) k 0 (drainBefore 8 { s with fresh := s.fresh + 1 } c f)
      let y := { frameOf r.1 c f with lop := none }
      let kept := setFrame r.1 c f { y with lopw := w, lopa := ad, lov := true }
      match r.2 with
      | .ended => (setFrame r.1 c f y, none)
      | .stopped => (kept, none)
      | .raised e => (kept, some { word := w, addr := ad, exc := e, msk := pMsk y.psw })

/-- R357: what a stop leaves of a frame's long operation. An exception that it met arises again when it resumes. -/
def stopLop (s : State) (c f : Nat) : State := (reachPoint s c f).1

/-- R287, R289: a synchronous exception of the running frame: open shadows take effect first, a long operation that accesses memory stops, entry waits for MULP and DIVP. -/
def raiseSync (s : State) (c f : Nat) (x : Exc) (ia ra : Word) : Option State :=
  let s1 := applyShadows s c f
  if hasRegLop (frameOf s1 c f) then none else enterExc (stopLop s1 c f) c f x true ia ra

/-- An asynchronous or imprecise exception of the running frame, at a group boundary. -/
def raiseAsync (s : State) (c f : Nat) (x : Exc) : Option State :=
  let fr := frameOf s c f
  if hasRegLop fr then none else enterExc (stopLop s c f) c f x false fr.pc fr.pc

/-- R287, R367: the running frame is switched out. -/
def switchOut (s : State) (c f : Nat) (st : FrameState) : State := leaveFrame (stopLop s c f) c f st

/-- R368: a long stall of the running frame while SOM is 1 and another frame is READY. -/
def stallSwitch (s : State) (c f : Nat) : State :=
  if (coreOf s c).som ∧ (nextReady s c f).isSome then
    let mem := hasMemLop (frameOf s c f)
    switchOut s c f (if mem ∧ (frameOf s c f).wait = .idle then .ready else .stalled)
  else s

/-- A frame that waits for a line joins the core's outstanding misses (R420). -/
def noteMiss (s : State) (c f : Nat) (w : Wait) : State :=
  match w with
  | .line _ _ => let k := coreOf s c; setCore s c { k with missQ := k.missQ.filter (· != f) ++ [f] }
  | _ => s

/-- A running frame waits. -/
def waitFrame (s : State) (c f : Nat) (w : Wait) : State := stallSwitch (setFrame (noteMiss s c f w) c f { frameOf s c f with wait := w }) c f

/-! What the fetch buffer holds. -/

/-- What a frame's fetch buffer says of the word at an address. -/
inductive FetchAns where
  | absent
  | fault (x : Exc)
  | word (w : Word)
deriving DecidableEq, Repr

def fetchedAt (x : Frame) (va : Word) : FetchAns :=
  match x.fetch.find? fun (b : FetchBlk) => decide (b.addr = va.toNat / 16 * 16) with
  | none => .absent
  | some b => match b.fault with
    | some e => .fault e
    | none => .word (wordAt b.data (va.toNat % 16))

/-- The bytes of words that follow the pc: only blocks that hold the pc or lie right after it stay in the buffer. -/
def trimFetch (x : Frame) : Frame :=
  let b := x.pc.toNat / 16 * 16
  { x with fetch := x.fetch.filter fun (k : FetchBlk) => decide (k.addr = b) || decide (k.addr = (b + 16) % 2 ^ 32) }

/-- R266, R268: the running frame has issued the first instruction of a pair whose second is still to issue: this is no group boundary. -/
def midGroup (x : Frame) : Bool :=
  match x.last with
  | none => false
  | some (w1, ad) => (match fetchedAt x x.pc with | .word w2 => pairAt w1 ad w2 x.pc | _ => false)

/-- A REPU in progress takes no asynchronous exception (R313). -/
def inRepu (x : Frame) : Bool :=
  x.rep.isSome && (match fetchedAt x x.pc with | .word w => decode w == some .repu | _ => true)

/-- A group boundary at which the running frame may take an asynchronous exception (R289, R291, R376). -/
def atBoundary (x : Frame) : Bool :=
  decide (x.wait = .idle) && x.traceDue.isNone && x.lopExc.isNone && !midGroup x && !inRepu x && !inShadow x

/-! Exceptions of long operations (R285, R287, R359). -/

/-- R285: the instruction that follows a long operation is DBAR, and is the next to issue; none while its block is not fetched. -/
def preciseLop (x : Frame) (ad : Word) : Option Bool :=
  if x.pc ≠ ad + 4 ∨ x.rep.isSome then some false
  else match fetchedAt x x.pc with
    | .absent => none
    | .fault _ => some false
    | .word w => some (decode w == some .dbar)

/-- A memory cause of an exception (Table 9.11). -/
def memCause (e : Exc) : Bool := e.vec == 4 || e.vec == 6 || e.vec == 7 || e.vec == 8 || e.vec == 9

/-- R359, Table 9.10: the running frame takes the exception of its long operation, at a group boundary. One that arose before the frame entered a handler
waits until MSK is 0 again (DESIGN CHOICE, log 104). -/
def lopFault (s : State) (c f : Nat) (q : LopExc) : Option State :=
  let x := frameOf s c f
  let y := { x with lop := none, lopExc := none, lov := false }
  if (coreOf s c).running ≠ some f ∨ ¬ (x.wait = .idle) ∨ x.traceDue.isSome ∨ midGroup x ∨ (pMsk x.psw ∧ ¬ q.msk) then none
  else match preciseLop x q.addr with
    | none => none
    | some true => raiseSync (setFrame s c f y) c f q.exc q.addr q.addr
    | some false =>
      if memCause q.exc then
        raiseSync (setFrame s c f { y with lopw := q.word, lopa := q.addr, lov := true }) c f
          { vec := 14, cause := q.exc.vec, addr := if q.exc.vec = 7 then q.exc.va else q.exc.addr, imp := true } q.addr x.pc
      else raiseSync (setFrame s c f y) c f { q.exc with imp := true } q.addr x.pc

/-- The frame whose long operation has ended. -/
def lopEnd (s : State) (c f : Nat) : State :=
  let s1 := setFrame s c f { frameOf s c f with lop := none }
  let x := frameOf s1 c f
  if x.state = .stalled ∧ x.wait = .idle then makeReady s1 c f else settleStop s1 c f

/-- R285, R287: a long operation has met an exception: it is taken now, or kept for the first boundary of its task at which it can be. The operation itself
is not traced (R386). -/
def lopRaised (s : State) (c f : Nat) (q : LopExc) : State :=
  let x := frameOf s c f
  let y := if x.traceDue = some q.addr then { x with traceDue := none } else x
  let s1 := setFrame s c f y
  match lopFault s1 c f q with
  | some s2 => s2
  | none => lopEnd (setFrame s1 c f { y with lopExc := some q }) c f

/-- R360: what stops the running frame's long operation brings it to an interruption point; a fault that it meets there is taken instead. -/
def stopOrFault (s : State) (c f : Nat) (k : State → State) : State :=
  let r := reachPoint s c f
  match r.2 with
  | none => k r.1
  | some q => (lopFault r.1 c f q).getD s

end Sys2Proof.Machine
end

