-- ==== Sys2Proof/Machine/LadleAlu.lean ====
section
/-! DEFINITION. Binary arithmetic, selection, modulo descriptors and branches (R301 to R305, R309, R310), and loads and stores (R306 to R312). -/
namespace Sys2Proof.Machine

/-- A Bool as a word. -/
def bw (b : Bool) : Word := if b then 1 else 0

def clzW (v : Word) : Nat := ((List.range 32).takeWhile fun i => !v.getLsbD (31 - i)).length
def ctzW (v : Word) : Nat := ((List.range 32).takeWhile fun i => !v.getLsbD i).length
def popcW (v : Word) : Nat := popNat v.toNat 32
def bswapW (v : Word) : Word := BitVec.ofNat 32 (ofBe (le 4 v.toNat))
def sarW (v : Word) (n : Nat) : Word := v.sshiftRight n

/-- A shift or rotation: 0 left, 1 right, 2 arithmetic right, 3 rotate left, 4 rotate right. -/
def shiftW (k : Nat) (v : Word) (n : Nat) : Word :=
  match k with
  | 0 => v <<< n
  | 1 => v >>> n
  | 2 => sarW v n
  | 3 => v.rotateLeft n
  | _ => v.rotateRight n

/-- Table 8.6. -/
def aluW (f : Nat) (p q : Word) : Word :=
  let n := q.toNat % 32
  match f with
  | 0x00 => p + q
  | 0x01 => p - q
  | 0x02 => p &&& q
  | 0x03 => p ||| q
  | 0x04 => p ^^^ q
  | 0x05 => p &&& ~~~q
  | 0x06 => ~~~(p ||| q)
  | 0x07 => shiftW 0 p n
  | 0x08 => shiftW 1 p n
  | 0x09 => shiftW 2 p n
  | 0x0A => shiftW 3 p n
  | 0x0B => shiftW 4 p n
  | 0x0C => BitVec.ofNat 32 (clzW p)
  | 0x0D => BitVec.ofNat 32 (ctzW p)
  | 0x0E => BitVec.ofNat 32 (popcW p)
  | 0x0F => bswapW p
  | 0x10 => if p.slt q then p else q
  | 0x11 => if p.slt q then q else p
  | 0x12 => if p.ult q then p else q
  | 0x13 => if p.ult q then q else p
  | 0x18 => bw (p == q)
  | 0x19 => bw (p != q)
  | 0x1A => bw (p.slt q)
  | 0x1B => bw (p.ult q)
  | 0x1C => bw (p.sle q)
  | 0x1D => bw (p.ule q)
  | 0x1E => bw (decide (2 ^ 32 ≤ p.toNat + q.toNat))
  | _ => bw (p.ult q)

/-- An instruction that only writes rd. -/
def setRd (s : State) (a : Actor) (w : Word) (v : Word) : IRes := doneF s a (setG (actFrame s a) (fRd w) v)

def gA (s : State) (a : Actor) (w : Word) : Word := gReg (actFrame s a) (fRa w)
def gB (s : State) (a : Actor) (w : Word) : Word := gReg (actFrame s a) (fRb w)

/-- Major 0x01 (Table 8.6). -/
def opAdd (s : State) (a : Actor) (w : Word) : IRes := setRd s a w (aluW (fFunc w) (gA s a w) (gB s a w))
/-- MUL (R302). -/
def opMul (s : State) (a : Actor) (w : Word) : IRes := setRd s a w (gA s a w * gB s a w)
/-- MULD (R302). -/
def opMuld (s : State) (a : Actor) (w : Word) : IRes :=
  doneF s a (setPair (actFrame s a) (fRd w) ((gA s a w).setWidth 64 * (gB s a w).setWidth 64))
/-- MULDS (R302). -/
def opMulds (s : State) (a : Actor) (w : Word) : IRes :=
  doneF s a (setPair (actFrame s a) (fRd w) ((gA s a w).signExtend 64 * (gB s a w).signExtend 64))

/-- R303: a divide or remainder; a zero divisor raises 13. -/
def divide (s : State) (a : Actor) (w : Word) (op : Word → Word → Word) : IRes :=
  if gB s a w = 0 then .exc s { vec := 13 } else setRd s a w (op (gA s a w) (gB s a w))

def opDivu (s : State) (a : Actor) (w : Word) : IRes := divide s a w (· / ·)
def opDivs (s : State) (a : Actor) (w : Word) : IRes := divide s a w BitVec.sdiv
def opRemu (s : State) (a : Actor) (w : Word) : IRes := divide s a w (· % ·)
def opRems (s : State) (a : Actor) (w : Word) : IRes := divide s a w BitVec.srem

/-- The magnitude of a signed word. -/
def magW (v : Word) : Word := if v.getLsbD 31 then 0 - v else v

/-- R303: the step count of a divide. -/
def divSteps (signed : Bool) (p q : Word) : Nat :=
  let f := fun (v : Word) => if signed then magW v else v
  if q = 0 then 4 else 4 + ceilDiv ((clzW (f q) + 1) - clzW (f p)) 2

/-- SEL (R304): rc is 19:15, ra 14:10, rb 9:5. -/
def opSel (s : State) (a : Actor) (w : Word) : IRes :=
  let x := actFrame s a
  setRd s a w (if gReg x (fRa w) ≠ 0 then gReg x (fRb w) else gReg x (wf w 9 5))

/-- Major 0x05 with its literal (R301). -/
def opLongLiteral (s : State) (a : Actor) (w lit : Word) : IRes :=
  let p := gA s a w
  setRd s a w (match fRb w with
    | 0 => lit
    | 1 => p + lit
    | 2 => p &&& lit
    | 3 => p ||| lit
    | 4 => p ^^^ lit
    | 5 => bw (p == lit)
    | 6 => bw (p.slt lit)
    | _ => bw (p.ult lit))

/-- Major 0x06 (R301). -/
def opShiftImmediate (s : State) (a : Actor) (w : Word) : IRes := setRd s a w (shiftW (fRb w) (gA s a w) (wf w 4 0))
/-- LUI (R301). -/
def opLui (s : State) (a : Actor) (w : Word) : IRes := setRd s a w (BitVec.ofNat 32 (wf w 19 0) <<< 12)
/-- Majors 0x08 to 0x0B (R301). -/
def opAddi (s : State) (a : Actor) (w : Word) : IRes :=
  let p := gA s a w
  let z := BitVec.ofNat 32 (wf w 14 0)
  setRd s a w (match fMajor w with | 0x08 => p + sext 15 (wf w 14 0) | 0x09 => p &&& z | 0x0A => p ||| z | _ => p ^^^ z)
/-- Majors 0x0C to 0x11 (R301). -/
def opCompareImmediate (s : State) (a : Actor) (w : Word) : IRes :=
  let p := gA s a w
  let i := sext 15 (wf w 14 0)
  setRd s a w (bw (match fMajor w with
    | 0x0C => p == i | 0x0D => p != i | 0x0E => p.slt i | 0x0F => p.ult i | 0x10 => i.slt p | _ => i.ult p))

/-- MTM, MFMB, MFML (R310). -/
def opMtm (s : State) (a : Actor) (w : Word) : IRes := doneF s a (setM (actFrame s a) (fRd w) (gA s a w, gB s a w))
def opMfmb (s : State) (a : Actor) (w : Word) : IRes := setRd s a w (mDesc (actFrame s a) (fRa w)).1
def opMfml (s : State) (a : Actor) (w : Word) : IRes := setRd s a w (mDesc (actFrame s a) (fRa w)).2

/-! Branches (R298, R305). -/

/-- goto(t): a misaligned target raises vector 3 at the branch. -/
def goto (s : State) (t : Word) : IRes :=
  if t.extractLsb' 0 2 ≠ 0 then .exc s { vec := 3, addr := t.setWidth 64, acc := 2 } else .jump s t

/-- pc + sext(off, k) × 4. -/
def relTarget (s : State) (a : Actor) (k off : Nat) : Word := (actFrame s a).pc + sext k off * 4

def opBz (s : State) (a : Actor) (w : Word) : IRes :=
  if gReg (actFrame s a) (fRd w) = 0 then goto s (relTarget s a 20 (wf w 19 0)) else .done s
def opBnz (s : State) (a : Actor) (w : Word) : IRes :=
  if gReg (actFrame s a) (fRd w) ≠ 0 then goto s (relTarget s a 20 (wf w 19 0)) else .done s
def opJ (s : State) (a : Actor) (w : Word) : IRes := goto s (relTarget s a 25 (wf w 24 0))

/-- A call: lk is written only when the target is aligned. -/
def callTo (s : State) (a : Actor) (t : Word) : IRes :=
  match goto s t with
  | .jump s1 u => let x := actFrame s1 a; .jump (setFrame s1 a.c a.f (setG x 31 (x.pc + 4))) u
  | r => r

def opCall (s : State) (a : Actor) (w : Word) : IRes := callTo s a (relTarget s a 25 (wf w 24 0))
def opJr (s : State) (a : Actor) (w : Word) : IRes := goto s (gA s a w)
def opCallr (s : State) (a : Actor) (w : Word) : IRes := callTo s a (gA s a w)

/-! Loads and stores. -/

/-- R309: the next base under a modulo descriptor. -/
def modnext (x : Frame) (k : Nat) (b : Word) (i : Int) : Word :=
  let mb := (mDesc x k).1
  let ml := (mDesc x k).2.toNat
  if ml = 0 then b
  else
    let off := (b - mb).toNat % ml
    let n := ((off : Int) + i).emod ml
    mb + BitVec.ofNat 32 n.toNat

/-- Table 8.8: the effective address, and the base afterwards where it changes. -/
def mAddress (x : Frame) (w : Word) : Word × Option Word :=
  let b := gReg x (fRa w)
  match wf w 14 13 with
  | 0 => (b + sext 13 (wf w 12 0), none)
  | 1 => (b + (gReg x (wf w 12 8) <<< wf w 7 6), none)
  | 2 => (b, some (b + sext 13 (wf w 12 0)))
  | _ => (b, some (modnext x (wf w 12 11) b (sextI 11 (wf w 10 0))))

/-- Table 8.9. -/
def mfAddress (x : Frame) (w : Word) : Dbl × Option Dbl :=
  let b := gPair x (fRa w)
  match wf w 11 10 with
  | 0 => (b + (sext 10 (wf w 9 0)).signExtend 64, none)
  | 1 => (b + ((gReg x (wf w 9 5)).setWidth 64 <<< wf w 4 3), none)
  | _ => (b, some (b + (sext 10 (wf w 9 0)).signExtend 64))

/-- The bytes of a size (Table 8.7): 0 LB, 1 LBU, 2 LH, 3 LHU, 4 LW. -/
def sizeBytes (k : Nat) : Nat := if k ≤ 1 then 1 else if k ≤ 3 then 2 else 4

/-- The value that a load of a size makes of its bytes (R307). -/
def extendLoad (k : Nat) (b : Bytes) : Word :=
  let v := ofLe b
  match k with
  | 0 => sext 8 v
  | 2 => sext 16 v
  | _ => BitVec.ofNat 32 v

/-- LB to LW (R308). -/
def opLoad (s : State) (a : Actor) (w : Word) : IRes :=
  let k := fMajor w - 0x14
  let m := mAddress (actFrame s a) w
  (loadBytes s a (m.1.setWidth 64) (sizeBytes k)).bindI fun s1 b =>
    let x := actFrame s1 a
    let y := match m.2 with | some nb => setG x (fRa w) nb | none => x
    doneF s1 a (setG y (fRd w) (extendLoad k b))

/-- SB, SH, SW (R308). -/
def opStore (s : State) (a : Actor) (w : Word) : IRes :=
  let n := 2 ^ (fMajor w - 0x19)
  let x0 := actFrame s a
  let m := mAddress x0 w
  (storeBytes s a (m.1.setWidth 64) (le n (gReg x0 (fRd w)).toNat)).bindI fun s1 _ =>
    let x := actFrame s1 a
    doneF s1 a (match m.2 with | some nb => setG x (fRa w) nb | none => x)

/-- LDF (R311). -/
def opLdf (s : State) (a : Actor) (w : Word) : IRes :=
  let k := wf w 14 12
  let m := mfAddress (actFrame s a) w
  (loadBytes s a m.1 (sizeBytes k)).bindI fun s1 b =>
    let x := actFrame s1 a
    let y := match m.2 with | some nb => setPair x (fRa w) nb | none => x
    doneF s1 a (setG y (fRd w) (extendLoad k b))

/-- STF (R311). -/
def opStf (s : State) (a : Actor) (w : Word) : IRes :=
  let x0 := actFrame s a
  let m := mfAddress x0 w
  (storeBytes s a m.1 (le (sizeBytes (wf w 14 12)) (gReg x0 (fRd w)).toNat)).bindI fun s1 _ =>
    let x := actFrame s1 a
    doneF s1 a (match m.2 with | some nb => setPair x (fRa w) nb | none => x)

/-- CAS (R312): checked as a write, never buffered, once the store buffer is empty. -/
def opCas (s : State) (a : Actor) (w : Word) : IRes :=
  let x0 := actFrame s a
  let va : Dbl := (gReg x0 (fRa w)).setWidth 64
  match misaligned va 4 .write with
  | some e => .exc s e
  | none =>
    if !(coreOf s a.c).sb.isEmpty then .wait s .drain
    else (resolve1 s a .write va 4).bindI fun s1 p =>
      (readyWrite a s1 [p]).bindI fun s2 _ =>
        (readPiece s2 { a with go := true } false p).bindI fun s3 b =>
          let old := wordAt b 0
          let x := actFrame s3 a
          if old = gReg x (fRd w) then
            (writePiece s3 { a with go := true } p (le 4 (gReg x (fRb w)).toNat)).bindI fun s4 _ => doneF s4 a (setG (actFrame s4 a) (fRd w) old)
          else doneF (serveLosers s3 (lineOfPa p.pa)) a (setG x (fRd w) old)

/-! Short operations (Table 8.5). -/

/-- The effect of one short operation. -/
def runShort (s : State) (a : Actor) (v : Nat) : IRes :=
  let x := actFrame s a
  let o := shOp v
  let rx := shX v
  let ry := shY v
  let p := gReg x rx
  let q := gReg x ry
  let put := fun (t : Word) => doneF s a (setG x rx t)
  match o with
  | 0x00 => .done s
  | 0x01 => put q
  | 0x02 => put (p + q)
  | 0x03 => put (p - q)
  | 0x04 => put (p &&& q)
  | 0x05 => put (p ||| q)
  | 0x06 => put (p ^^^ q)
  | 0x07 => put (shiftW 0 p (q.toNat % 32))
  | 0x08 => put (shiftW 1 p (q.toNat % 32))
  | 0x09 => put (shiftW 2 p (q.toNat % 32))
  | 0x0A => put (p + sext 5 ry)
  | 0x0B => put (shiftW 0 p ry)
  | 0x0C => put (shiftW 1 p ry)
  | 0x0D => put (shiftW 2 p ry)
  | 0x0E => put (sext 5 ry)
  | 0x0F => put (0 - q)
  | 0x10 => put (bw (p == q))
  | 0x11 => put (bw (p != q))
  | 0x12 => put (bw (p.slt q))
  | 0x13 => put (bw (p.ult q))
  | 0x14 => put (bw (p.sle q))
  | 0x15 => put (bw (p.ule q))
  | 0x16 => put (p * q)
  | 0x17 => (loadBytes s a (q.setWidth 64) 4).bindI fun s1 b => doneF s1 a (setG (actFrame s1 a) rx (wordAt b 0))
  | 0x18 => (loadBytes s a (q.setWidth 64) 4).bindI fun s1 b => doneF s1 a (setG (setG (actFrame s1 a) ry (q + 4)) rx (wordAt b 0))
  | 0x19 => (storeBytes s a (q.setWidth 64) (le 4 p.toNat)).bindI fun s1 _ => .done s1
  | 0x1A => (storeBytes s a (q.setWidth 64) (le 4 p.toNat)).bindI fun s1 _ => doneF s1 a (setG (actFrame s1 a) ry (q + 4))
  | 0x1B => (loadBytes s a (q.setWidth 64) 1).bindI fun s1 b => doneF s1 a (setG (actFrame s1 a) rx (BitVec.ofNat 32 (ofLe b)))
  | 0x1C => (storeBytes s a (q.setWidth 64) (le 1 p.toNat)).bindI fun s1 _ => .done s1
  | 0x1D => goto s q
  | _ => goto s (gReg x 31)

/-- A frame's registers as they were before a group that has no effect (R271). -/
def undoFrame (s : State) (a : Actor) (x : Frame) : State := setFrame s a.c a.f x

/-- SHORT_OPERATION_WORD (R269, R271): slot A then slot B, all or nothing; each slot counts once in a shadow (R288). -/
def opShort (s : State) (a : Actor) (w : Word) : IRes :=
  let x := actFrame s a
  let bTarget : Option Word := if shOp (slotB w) = 0x1D then some (gReg x (shY (slotB w))) else if shOp (slotB w) = 0x1E then some (gReg x 31) else none
  let bBad := match bTarget with | some t => decide (t.extractLsb' 0 2 ≠ 0) | none => false
  let goB := fun (s1 : State) =>
    let s2 := tickShadows s1 a.c a.f
    let a2 := { actorOf a.c a.f (actFrame s2 a).psw a.go with lop := a.lop }
    match runShort s2 a2 (slotB w) with
    | .exc s3 e => IRes.exc (undoFrame s3 a { x with pend := (actFrame s3 a).pend, psw := (actFrame s3 a).psw, evb := (actFrame s3 a).evb }) { e with slotB := true }
    | .wait s3 v => .wait (undoFrame s3 a x) v
    | .stay => .stay
    | r => r
  if bBad then
    match runShort s a (slotA w) with
    | .exc s1 e => .exc s1 e
    | .wait s1 v => .wait s1 v
    | .stay => .stay
    | _ => .exc s { vec := 3, addr := (bTarget.getD 0).setWidth 64, acc := 2, slotB := true }
  else match runShort s a (slotA w) with
    | .done s1 => goB s1
    | r => r

end Sys2Proof.Machine
end

