-- ==== Sys2Proof/Machine/LadleSys.lean ====
section
/-! DEFINITION. The system instructions (Table 8.10): barriers, task switches, supervisor calls, returns, control registers, save areas,
TLB invalidation and storage keys. -/
namespace Sys2Proof.Machine

/-- need_super() (R298): privilege in user mode. -/
def superOnly (a : Actor) (s : State) (r : IRes) : IRes := if a.sup then r else .exc s { vec := 10 }

/-- A long operation of the task that has not retired, in flight or stopped (R286, R357). -/
def lopPending (x : Frame) : Bool := x.lop.isSome || x.lov

/-- A miss or a network access of another frame of the core has not completed (R290). -/
def missesLeft (s : State) (a : Actor) : Bool :=
  (coreOf s a.c).frames.any fun e => e.1 != a.f && (match e.2.wait with | .line _ _ => true | .net => true | _ => false)

/-- SYNC (R290): once the task's long operations have retired, the store buffer is empty and every miss and network access has completed, pending writes apply
and the fetch buffer is discarded. -/
def opSync (s : State) (a : Actor) : IRes :=
  if lopPending (actFrame s a) || !(coreOf s a.c).sb.isEmpty || missesLeft s a then .stay
  else
    let s1 := applyAll s a.c a.f
    doneF s1 a { actFrame s1 a with fetch := [] }

/-- SYNC.TLB (R290, R418): every TLBI that the core issued has been acknowledged. -/
def opSyncTlb (s : State) (a : Actor) : IRes :=
  superOnly a s (if s.mem.tlbis.any fun (t : Tlbi) => decide (t.core = a.c) && !t.left.isEmpty then .stay else opSync s a)

/-- DBAR (R286). -/
def opDbar (s : State) (a : Actor) : IRes := if lopPending (actFrame s a) then .stay else .done s

/-- YIELD (R367): W is bit 5. The frame's pc moves on before it is switched out. -/
def opYield (s : State) (a : Actor) (w : Word) : IRes :=
  let x := actFrame s a
  let s1 := setFrame s a.c a.f (trimFetch { x with pc := x.pc + 4, wait := .idle, last := none })
  if bitOf w.toNat 5 && !pMsk x.psw then .raw (switchOut s1 a.c a.f .sleep)
  else if (nextReady s a.c a.f).isSome then .raw (switchOut s1 a.c a.f .ready)
  else .raw s1

/-- SVC and BRK: the code in EINFO (R375). -/
def opSvc (s : State) (w : Word) : IRes := .exc s { vec := 16, code := wf w 14 5 }
def opBrk (s : State) (w : Word) : IRes := .exc s { vec := 17, code := wf w 14 5 }

/-- A fault of an ERET (R380, R382). -/
def eretFault (s : State) (e : Exc) : IRes := .exc s { e with entry := true }

/-- R393: the source of a chain that is due at an ERET. -/
def chainDue (s : State) (a : Actor) (x : Frame) : Option (Nat × Source) :=
  if pMsk x.epsw then none
  else match deliverable s a.c (some (a.f, false)) with
    | some (n, src) => if srcFrame src = a.f then some (n, src) else none
    | none => none

/-- R380: the return itself, from the block at `b` with header `h`; `reload` holds the frame with d0 to d7 loaded again. -/
def eretReturn (s : State) (a : Actor) (x : Frame) (b : Word) (h : Bytes) : State :=
  let x1 := { x with dlazy := wordAt h 0 &&& 0xFFFFFFFB#32, repc := wordAt h 4, repv := (wordAt h 16).getLsbD 0, lopw := wordAt h 8, lopa := wordAt h 12, lov := (wordAt h 16).getLsbD 1 }
  let x2 := if pSuper x.epsw then setG x1 29 (b + 288) else { setG x1 29 x.ssp with ssp := b + 288 }
  setFrame s a.c a.f { goAt x2 x.epc with psw := x.epsw }

/-- ERET (R380, R393). -/
def opEret (s0 : State) (a0 : Actor) : IRes :=
  let a := { a0 with go := true }
  if !a.sup then eretFault s0 { vec := 10 }
  else
    let x0 := actFrame s0 a
    let b := x0.dlazy &&& 0xFFFFFFF8#32
    if b = 0 then eretFault s0 { vec := 2, cause := 0x12 }
    else match readVa s0 a wrap32 b.toNat 24 with
      | .exc s1 e => eretFault s1 e
      | .ok s1 h =>
        (match chainDue s1 a x0 with
        | some (n, src) =>
          let v := 32 + srcPrio src
          (match vectorWord s1 a.c a.f v with
          | .exc s2 e => .exc s2 { e with entry := true, code := v }
          | .ok s2 t =>
            .raw (spend (setFrame s2 a.c a.f { goAt (actFrame s2 a) t with einfo := einfoOf { vec := v, code := n } }) a.c csOther 4)
          | _ => .stay)
        | none =>
          if x0.dlazy.getLsbD 1 then
            match readVa s1 a wrap32 ((b.toNat + 24) % wrap32) 264 with
            | .exc s2 e => eretFault s2 e
            | .ok s2 v =>
              match accsFrom (actFrame s2 a) v with
              | none => eretFault s2 excData
              | some y =>
                .raw (spend (eretReturn s2 a y b h) a.c csOther 25)
            | _ => .stay
          else
            .raw (spend (eretReturn s1 a (actFrame s1 a) b h) a.c csOther 6))
      | _ => .stay

/-- ERET with imm bit 5 set (R382). -/
def opEretDoubleFault (s : State) (a : Actor) : IRes :=
  if !a.sup then eretFault s { vec := 10 }
  else
    let x := actFrame s a
    .raw (spend (setFrame s a.c a.f { goAt x x.dfpc with psw := putBit x.psw 10 false }) a.c csOther 6)

/-- MFC (R297). -/
def opMfc (s : State) (a : Actor) (w : Word) : IRes :=
  let r := wf w 9 5
  let x := actFrame s a
  let v := crRead s a.c x r
  superOnly a s (doneF s a (if r = 5 ∨ r = 9 then setPair x (fRd w) v else setG x (fRd w) (v.setWidth 32)))

/-- MTC (R297): in a shadow of three instructions (counted from the next one), at SYNC, or at once. -/
def opMtc (s : State) (a : Actor) (w : Word) : IRes :=
  let r := wf w 9 5
  let x := actFrame s a
  let v := if r = 5 ∨ r = 9 then gPair x (fRa w) else (gReg x (fRa w)).setWidth 64
  let m := crMask s r (crRead s a.c x r) v
  let pending := fun (l : Option Nat) => doneF s a { x with pend := x.pend ++ [{ reg := r, val := m, left := l }] }
  superOnly a s (
    if r = 0 ∨ r = 1 ∨ r = 11 then pending (some 4)
    else if 2 ≤ r ∧ r ≤ 7 then doneF s a (crPut x r m)
    else pending none)

/-! Save areas (R369, R370). -/

/-- The 256 bytes of a lower save area (Table 10.6). -/
def lowerArea (x : Frame) (f : Nat) (link : Word) : Bytes :=
  let w := fun (v : Word) => le 4 v.toNat
  let ste := match x.ste with | some e => (einfoOf e, e.addr) | none => (0, 0)
  w link ++ [0x4C, BitVec.ofNat 8 f] ++ zeros 2 ++ w x.pc ++ w x.psw ++
  ((List.range 16).map fun n => w (gReg x n)).flatten ++
  ((List.range 4).map fun k => w (mDesc x k).1 ++ w (mDesc x k).2).flatten ++
  w x.evb ++ w x.epc ++ w x.epsw ++ w x.einfo ++ le 8 x.eaddr.toNat ++ w x.dfpc ++ w x.svp ++ w x.dlazy ++ w x.ssp ++
  w x.tcr ++ w x.asid ++ le 8 x.ttb.toNat ++ w x.keyctl ++ w x.repc ++ w x.lopw ++ w x.lopa ++
  w (BitVec.ofNat 32 (b2n x.repv + 2 * b2n x.lov + 4 * b2n x.ste.isSome)) ++ w ste.1 ++ le 8 ste.2.toNat ++ zeros 56

/-- The 384 bytes of an upper save area (Table 10.7). -/
def upperArea (x : Frame) (f : Nat) (link : Word) : Bytes :=
  le 4 link.toNat ++ [0x55, BitVec.ofNat 8 f] ++ zeros 10 ++ ((List.range 16).map fun n => le 4 (gReg x (16 + n)).toNat).flatten ++ accImages x ++ zeros 40

/-- A pending store error from its saved EINFO and EADDR. -/
def steOf (info : Word) (ad : Dbl) : Exc :=
  { vec := 5, cause := bits info.toNat 23 16, addr := ad, acc := bits info.toNat 13 12, phys := info.getLsbD 11, imp := info.getLsbD 31, ovr := info.getLsbD 14 }

/-- A frame with its lower half loaded from an area; the fetch buffer and everything in progress goes. -/
def loadLower (s : State) (x : Frame) (b : Bytes) : Frame :=
  let w := fun o => wordAt b o
  let cr := fun r o => (crMask s r 0 ((w o).setWidth 64)).setWidth 32
  let fl := w 184
  let x1 := (List.range 16).foldl (fun (y : Frame) n => setG y n (w (16 + 4 * n))) x
  let x2 := (List.range 4).foldl (fun (y : Frame) k => setM y k (w (80 + 8 * k), w (84 + 8 * k))) x1
  { x2 with
    pc := w 8 &&& 0xFFFFFFFC#32, psw := w 12 &&& pswMask, evb := cr 1 112, epc := cr 2 116, epsw := cr 3 120, einfo := cr 4 124,
    eaddr := dblAt b 128, dfpc := cr 6 136, svp := cr 7 140, dlazy := cr 12 144, ssp := w 148,
    tcr := cr 8 152, asid := cr 10 156, ttb := crMask s 9 0 (dblAt b 160), keyctl := cr 13 168, repc := w 172, lopw := w 176, lopa := w 180,
    repv := fl.getLsbD 0, lov := fl.getLsbD 1, ste := if fl.getLsbD 2 then some (steOf (w 188) (dblAt b 192)) else none,
    fetch := [], wait := .idle, lop := none, lopExc := none, rep := none, pend := [], last := none, traceDue := none, restored := true }

/-- The frame that a save or restore names. -/
def saveTarget (s : State) (a : Actor) (w : Word) : Nat := (gA s a w).toNat % 64

/-- R369: the frame's state bars the instruction. -/
def targetBad (s : State) (a : Actor) (f : Nat) (off : Bool) : Bool :=
  decide (nFrames s ≤ f) || f == a.f || !((frameOf s a.c f).state == .stopped || (off && (frameOf s a.c f).state == .off))

/-- SAVL and SAVU (R369). -/
def saveArea (s : State) (a : Actor) (w : Word) (area : Frame → Nat → Word → Bytes) : IRes :=
  let f := saveTarget s a w
  let y := frameOf s a.c f
  let ad := gB s a w
  superOnly a s (
    if targetBad s a f false then .exc s { vec := 2, cause := 0x10 }
    else if !(locksOf s a.c f).isEmpty || !y.cmds.isEmpty || portsOf s a.c f != 0 then .exc s { vec := 2, cause := 0x13 }
    else if ad.toNat % 64 ≠ 0 then .exc s { vec := 3, addr := ad.setWidth 64, acc := 1 }
    else (writeVa s a wrap32 ad.toNat (area y f (actFrame s a).svp)).bindI fun s1 _ =>
      doneF s1 a { actFrame s1 a with svp := ad })

/-- A frame as a save shows it: TCR with the HAD bit of the part (Table 11.9). -/
def savedFrame (s : State) (c : Nat) (x : Frame) : Frame := { x with tcr := (crNow s c x 8).setWidth 32 }

def opSavl (s : State) (a : Actor) (w : Word) : IRes := saveArea s a w fun y => lowerArea (savedFrame s a.c y)
def opSavu (s : State) (a : Actor) (w : Word) : IRes := saveArea s a w upperArea

/-- RSTL (R369). -/
def opRstl (s : State) (a : Actor) (w : Word) : IRes :=
  let f := saveTarget s a w
  superOnly a s (
    if targetBad s a f true then .exc s { vec := 2, cause := 0x10 }
    else (readVa s a wrap32 (actFrame s a).svp.toNat 256).bindI fun s1 b =>
      if byteAt b 4 ≠ 0x4C ∨ !allZero (slice b 6 2) ∨ !allZero (slice b 200 56) ∨ 8 ≤ (wordAt b 184).toNat then .exc s1 { vec := 2, cause := 0x11 }
      else
        let s2 := setFrame s1 a.c f (loadLower s1 (frameOf s1 a.c f) b)
        doneF s2 a { actFrame s2 a with svp := wordAt b 0 &&& 0xFFFFFFC0#32 })

/-- RSTU (R369). -/
def opRstu (s : State) (a : Actor) (w : Word) : IRes :=
  let f := saveTarget s a w
  superOnly a s (
    if targetBad s a f true then .exc s { vec := 2, cause := 0x10 }
    else (readVa s a wrap32 (actFrame s a).svp.toNat 384).bindI fun s1 b =>
      if byteAt b 4 ≠ 0x55 ∨ !allZero (slice b 6 10) ∨ !allZero (slice b 344 40) then .exc s1 { vec := 2, cause := 0x11 }
      else match accsFrom (frameOf s1 a.c f) (slice b 80 264) with
        | none => .exc s1 excData
        | some y =>
          let z := (List.range 16).foldl (fun (t : Frame) n => setG t (16 + n) (wordAt b (16 + 4 * n))) y
          let s2 := setFrame s1 a.c f z
          doneF s2 a { actFrame s2 a with svp := wordAt b 0 &&& 0xFFFFFFC0#32 })

/-! TLB invalidation (R315, R418). -/

/-- The units that a core's TLBI is sent to: the other cores, the engines, and the partner die of a PV-128D. -/
def tlbiUnits (s : State) (c : Nat) : List Nat :=
  ((List.range (nCores s.part)).filter fun d => d != c && coreIn s d) ++ (((List.range (nEngines s.part)).filter fun e => engineIn s e).map (128 + ·)) ++
  (if partnerThere s then [256] else [])

def tlbiIssue (s : State) (a : Actor) (k : TlbiKind) : IRes :=
  let s1 := tlbiRemove s a.c k
  superOnly a s (.done { s1 with mem := { s1.mem with tlbis := s1.mem.tlbis ++ [{ core := a.c, kind := k, left := tlbiUnits s a.c }] } })

def opTlbiVa (s : State) (a : Actor) (w : Word) : IRes :=
  tlbiIssue s a (.va ((gA s a w).setWidth 16) (gPair (actFrame s a) (fRb w)).toNat)
def opTlbiAsid (s : State) (a : Actor) (w : Word) : IRes := tlbiIssue s a (.asid ((gA s a w).setWidth 16))
def opTlbiAll (s : State) (a : Actor) : IRes := tlbiIssue s a .all

/-! Storage keys (R251, R316). -/

/-- A key instruction on the frame that holds pair(rb): a bus error outside HBM, and else a network access, once the memory port is not held (R284). -/
def keyAccess (s : State) (a : Actor) (w : Word) (acc : Nat) (k : State → Nat → IRes) : IRes :=
  let pa := (gPair (actFrame s a) (fRb w)).toNat
  superOnly a s (
    if !isHbm s pa then .exc s { vec := 4, addr := BitVec.ofNat 64 pa, acc := acc, phys := true }
    else if memLopBusy s a.c then .stay
    else if a.go then k s (pa / 4096) else .wait s .net)

/-- The lines of an HBM frame. -/
def frameLines (fr : Nat) : List Nat := (List.range 32).map (32 * fr + ·)

/-- R251: every L1 copy of a line is downgraded to shared. -/
def downgradeLine (s : State) (l : Nat) : State :=
  match dirOf s l with
  | none => s
  | some d =>
    if d.st = .shared then s
    else match l1Of s d.owner l with
      | some x => setDir (setL1 s d.owner l { x with st := .s, wr := false, dirty := 0 }) l { st := .shared, owner := 0, sharers := insertUp d.owner d.sharers }
      | none => s

def setKeyOf (s : State) (fr : Nat) (v : Half) : State := { s with guard := { s.guard with storageKeys := tset s.guard.storageKeys fr 0x2000 v } }

def opKeyset (s : State) (a : Actor) (w : Word) : IRes :=
  keyAccess s a w 1 fun s1 fr =>
    let v : Half := (gA s1 a w).setWidth 16
    .done (setKeyOf ((frameLines fr).foldl invalidateLine s1) fr ((storageKey s1 fr &&& 0xC000) ||| (v &&& 0x3FFF)))

def opKeyget (s : State) (a : Actor) (w : Word) : IRes :=
  keyAccess s a w 0 fun s1 fr => setRd s1 a w ((storageKey s1 fr).setWidth 32)

def opKeyclr (s : State) (a : Actor) (w : Word) : IRes :=
  keyAccess s a w 1 fun s1 fr =>
    let v := storageKey s1 fr
    setRd (setKeyOf ((frameLines fr).foldl downgradeLine s1) fr (v &&& 0x3FFF)) a w (v.setWidth 32)

end Sys2Proof.Machine
end

