-- ==== Sys2Proof/Machine/PortOps.lean ====
section
/-! DEFINITION. The internal posting port, the ladle task queues and the account locks (R317 to R323). -/
namespace Sys2Proof.Machine

/-! Port slots. -/

/-- The slot that a handle names, if the frame holds it (Table 8.15). -/
def slotNamed (s : State) (a : Actor) (h : Word) : Option (Nat × PortSlot) :=
  let n := bits h.toNat 4 0
  match slotOf s a.c n with
  | some x => if x.handle = h ∧ x.frame = a.f ∧ x.epoch = (actFrame s a).epoch then some (n, x) else none
  | none => none

/-! What the port checks (R320). -/

/-- R323: a command that PPOSTL may issue: every account it names is locked by the frame; no REVERSE or KEYUPDATE, no suspense view. -/
def lockedOk (held : List Nat) (c : Cmd) : Bool :=
  (cmdIds c).all held.contains && cOp c != 0x05 && cOp c != 0x18 && (namedAccounts c).all fun e => (suspenseView e.2).isNone

/-- The first failing step of Table 5.17 as the port applies it (R320): steps 1, 7 and 12 to 15 do not apply. -/
def portSieve (s : State) (c : Cmd) (held : List Nat) : Option Byte :=
  let op := cOp c
  let bad : Byte → List Nat → Option Byte := fun code l => if l.isEmpty then none else some code
  let steps : List (Option Byte) :=
    [ if hostOp op && !ladleOp op then none else some 0x21,
      if cTag c || cSeq c != 0 || cKeygen c != 0 then some 0x20 else bad 0x20 (badHeader c),
      if nlegsOk op (cNlegs c) then none else some 0x22,
      bad 0x20 (badReserved c),
      if (operatorOp op && c.tenant != 0) || ((operatorOp op || tagOp op) && !c.supervisor) then some 0x29 else none,
      bad 0x24 (badCurrency c), bad 0x23 (badAmount c),
      if c.inner && !lockedOk held c then some 0x26 else bad 0x26 (badArgument c),
      if absentKey s c.tenant then some 0x25 else bad 0x25 (badBinding s c) ]
  match steps.find? Option.isSome with
  | some r => r
  | none => none

/-- Where a response goes, and how long it is (R81, R99, R100, R136, R101). -/
def destOf (c : Cmd) : Option (Dbl × Nat) :=
  let op := cOp c
  if op = 0x10 then (if cP1 c = 0 then none else some (cP1 c, 64))
  else if op = 0x11 then some (cP1 c, 128)
  else if op = 0x12 then some (cP0 c, 64)
  else if op = 0x13 then some (cP0 c, (wordAt c.desc 24).toNat * 4096)
  else none

/-- R317: bytes that a port writes later: checked for writing now, and all in HBM. -/
def portArea (s : State) (a : Actor) (wrap va n : Nat) : MRes (List Nat) :=
  (resolve a .write wrap (n + 1) s va n).andThen fun s1 ps =>
    match ps.find? fun (p : Piece) => !isHbm s1 p.pa with
    | some p => .exc s1 { vec := 4, addr := p.va, acc := 1 }
    | none => .ok s1 (pieceAddrs ps)

/-- R320: a port block that has been read and checked takes a slot, where it is refused at once or waits for its ticket; with no slot free it waits for one. -/
def portIssue (s : State) (a : Actor) (w : Word) (cmd : Cmd) (parent : Option Nat) (area dest : List Nat) : IRes :=
  let p : PortSlot := { frame := a.f, epoch := (actFrame s a).epoch, cmd := cmd, parent := parent, area := area, dest := dest, locked := cmd.inner,
                        order := s.cores.posts, refused := portSieve s cmd (locksOf s a.c a.f) }
  let s1 := { s with cores := { s.cores with posts := s.cores.posts + 1 } }
  match freeSlot s1 a.c with
  | none => let k := coreOf s1 a.c; .wait (setCore s1 a.c { k with portWait := k.portWait ++ [p] }) (.grant w 32)
  | some n =>
    let s2 := seatPosting s1 a.c n p
    if p.refused.isSome then setRd s2 a w (((slotOf s2 a.c n).map (·.handle)).getD 0) else .wait s2 (.grant w n)

/-- PPOST and PPOSTL (R320, R323). A grant brings the handle. -/
def ppost (s : State) (a : Actor) (w : Word) (locked : Bool) : IRes :=
  let x := actFrame s a
  match x.wait with
  | .filled d _ => setRd s a w (wordAt d 0)
  | _ =>
    let p := gB s a w
    let b := (gA s a w).toNat
    let parent := (x.cmds.find? fun e => e.2 == p).map (·.1)
    if p ≠ 0 ∧ parent.isNone then .exc s { vec := 10 }
    else if b % 32 ≠ 0 then .exc s { vec := 3, addr := BitVec.ofNat 64 b, acc := 0 }
    else
      let ai := { a with go := true }
      (portArea s ai wrap32 b 32).bindI fun s1 area =>
        (readVa s1 ai wrap32 ((b + 32) % wrap32) 128).bindI fun s2 desc =>
          (readVa s2 ai wrap32 ((b + 160) % wrap32) (128 * cNext { desc := desc })).bindI fun s3 ext =>
            let tk := parent.bind (ticketOf s3)
            let key := (keyOf s3 a.key).cur.map (·.key)
            let cmd : Cmd := { desc := desc, ext := ext, tenant := a.key, trayNo := tk.bind (·.cmd.trayNo), traySeq := (tk.map (·.cmd.traySeq)).getD 0,
                               inner := locked, supervisor := a.sup, verifyKey := if cOp { desc := desc } = 0x18 then key else none }
            match destOf cmd with
            | none => portIssue s3 a w cmd parent area []
            | some (va, n) => (portArea s3 ai wrap64 va.toNat n).bindI fun s4 dest => portIssue s4 a w cmd parent area dest

def opPpost (s : State) (a : Actor) (w : Word) : IRes := ppost s a w false
def opPpostl (s : State) (a : Actor) (w : Word) : IRes := ppost s a w true

/-- PWAIT (R321): a wait's end brings the STATUS, and has freed the slot. -/
def opPwait (s : State) (a : Actor) (w : Word) : IRes :=
  match (actFrame s a).wait with
  | .filled d _ => setRd s a w (wordAt d 0)
  | _ => match slotNamed s a (gA s a w) with
    | none => .exc s { vec := 10 }
    | some (n, x) => if x.state = .done then setRd (freeSlotOf s a.c n) a w (x.status.setWidth 32) else .wait s (.port w n)

/-- PTEST (R321). -/
def opPtest (s : State) (a : Actor) (w : Word) : IRes :=
  match slotNamed s a (gA s a w) with
  | none => .exc s { vec := 10 }
  | some (n, x) => if x.state = .done then setRd (freeSlotOf s a.c n) a w (x.status.setWidth 32) else setRd s a w 0xFFFFFFFF#32

/-! Task queues. -/

/-- R317: the oldest command of a queue that a task may take. -/
def takeable (s : State) (a : Actor) (q : Nat) : Option (QEntry × Ticket) :=
  (queueOf s q).findSome? fun e => match ticketOf s e.ticket with
    | some t => if a.sup || t.cmd.tenant == a.key then some (e, t) else none
    | none => none

/-- Table 8.13: the 160-byte buffer. -/
def takeBuffer (e : QEntry) (t : Ticket) (h : Word) : Bytes :=
  fit 128 t.cmd.desc ++ le 4 h.toNat ++ le 2 (t.cmd.tenant % 8192) ++ le 2 (t.cmd.trayNo.getD 0x8000) ++ le 4 t.cmd.traySeq.toNat ++ le 2 (cHostTag t.cmd).toNat ++
  le 2 (match t.origin with | .tray f _ => f | _ => 0) ++ le 8 e.granted ++ [BitVec.ofNat 8 (b2n t.cmd.pushed)] ++ zeros 7

/-- LQTAKE (R317). -/
def opLqtake (s : State) (a : Actor) (w : Word) : IRes :=
  let q := wf w 8 5
  let b := (gA s a w).toNat
  let x := actFrame s a
  if b % 32 ≠ 0 then .exc s { vec := 3, addr := BitVec.ofNat 64 b, acc := 1 }
  else if 16 ≤ x.cmds.length then setRd s a w 2
  else match takeable s a q with
    | none => setRd s a w 0
    | some (e, t) =>
      let g := takeFree 15 s
      let h : Word := BitVec.ofNat 32 (e.ticket * 65536 + g.1.toNat * 2 + 1)
      (writeVa g.2 a wrap32 b (takeBuffer e t h)).bindI fun s1 _ =>
        let s2 := setQueue s1 q ((queueOf s1 q).filter fun (y : QEntry) => decide (y.ticket ≠ e.ticket))
        let y := actFrame s2 a
        doneF s2 a (setG { y with cmds := y.cmds ++ [(e.ticket, h)] } (fRd w) h)

/-- Whether a STATUS is listed in Table 2.12. -/
def listedStatus (b : Byte) : Bool :=
  [0x00, 0x10, 0x11, 0x12, 0x13, 0x14, 0x15, 0x16, 0x17, 0x18, 0x19, 0x1A, 0x1B, 0x1C, 0x1D, 0x1E, 0x1F,
   0x20, 0x21, 0x22, 0x23, 0x24, 0x25, 0x26, 0x27, 0x28, 0x29, 0x30, 0x31, 0x32, 0x33, 0x34, 0x40, 0x41, 0x42, 0x43, 0x44, 0x45, 0x46, 0x47,
   0x50, 0x51, 0x52, 0x53, 0x54, 0x60, 0x61, 0x62, 0x63, 0x64].contains b.toNat

/-- R319: the completion that an image gives: AVAIL, SEQ, STATUS and INFO are taken from it. -/
def imageCompl (t : Ticket) (b : Bytes) : Compl :=
  let st := byteAt b 24
  { status := if listedStatus st then st else 0x60, info := halfAt b 26, seq := field b 16 8, avail := unpack (b.take 16), hostTag := cHostTag t.cmd, pushed := t.cmd.pushed }

/-- LCOMPL (R319). -/
def opLcompl (s : State) (a : Actor) (w : Word) : IRes :=
  let h := gA s a w
  match (actFrame s a).cmds.find? fun e => e.2 == h with
  | none => .exc s { vec := 10 }
  | some (tk, _) =>
    (readVa s a wrap32 (gB s a w).toNat 32).bindI fun s1 b =>
      let s2 := match ticketOf s1 tk with | some t => setTicket s1 tk { t with result := some (imageCompl t b) } | none => s1
      let x := actFrame s2 a
      doneF s2 a { x with cmds := x.cmds.filter fun e => e.2 != h }

/-! Account locks. -/

/-- Table 8.14: why a lock is not requested. -/
def alockCode (s : State) (a : Actor) (id : Dbl) : Option Nat :=
  let held := locksOf s a.c a.f
  if held.any fun k => decide (id.toNat ≤ k) then some 1
  else if 16 ≤ held.length then some 2
  else if idReserved id || (!a.sup && idTenant id != a.key) then some 3
  else if !isLocal s id then some 4
  else none

/-- ALOCK (R322): the grant brings 0. -/
def opAlock (s : State) (a : Actor) (w : Word) : IRes :=
  match (actFrame s a).wait with
  | .filled _ _ => setRd s a w 0
  | _ =>
    let x := actFrame s a
    let id := gPair x (fRa w)
    match alockCode s a id with
    | some n => setRd s a w (BitVec.ofNat 32 n)
    | none =>
      let s1 := requestLock s (frameOwner a.c a.f) x.epoch false id.toNat
      if holdsLock s1 (frameOwner a.c a.f) x.epoch none id.toNat then setRd s1 a w 0 else .wait s1 (.lock w id.toNat)

/-- R323: a lock that a PPOSTL posting of the frame still needs. -/
def lentOut (s : State) (a : Actor) (key : Nat) : Bool :=
  (coreOf s a.c).slots.any fun e => e.2.locked && decide (e.2.frame = a.f) && e.2.epoch == (actFrame s a).epoch && decide (e.2.state ≠ .done) && (cmdIds e.2.cmd).contains key

/-- AUNLOCK (R322, R323). -/
def opAunlock (s : State) (a : Actor) (w : Word) : IRes :=
  let x := actFrame s a
  let key := (gPair x (fRa w)).toNat
  if !holdsLock s (frameOwner a.c a.f) x.epoch none key then .done s
  else if lentOut s a key then .wait s .lent
  else .done (releaseLock s (frameOwner a.c a.f) x.epoch key)

/-- AUNLOCKALL (R322, R323). -/
def opAunlockall (s : State) (a : Actor) : IRes :=
  if (locksOf s a.c a.f).any (lentOut s a) then .wait s .lent
  else .done (releaseOwner s (frameOwner a.c a.f) (actFrame s a).epoch)

end Sys2Proof.Machine
end

