-- ==== Sys2Proof/Machine/PortCmds.lean ====
section
/-! DEFINITION. Ticket grants, lock grants, and the completions of port postings and ladle-class commands (R105, R169, R213 to R215, R317 to R323). -/
namespace Sys2Proof.Machine

/-- R214: a port posting needs FREE > FX_RESERVE and journal space. -/
def portGrant (s : State) (core frame n tk : Nat) : State :=
  match slotOf s core n with
  | none => s
  | some x =>
    if x.state ≠ .waiting ∨ x.frame ≠ frame ∨ ¬ grantsOpen s ∨ ¬ ticketFree s tk ∨ tkFree s ≤ s.tk.fxReserve ∨ ¬ spaceOk s (reservation x.cmd) then s
    else
      let s1 := newTicket s tk (.port core frame n) x.cmd (reservation x.cmd)
      let s2 := setSlotOf s1 core n { x with state := .posted, ticket := some tk }
      match (frameOf s2 core frame).wait with
      | .grant _ m => if m = n then endWait s2 core frame (.filled (le 4 x.handle.toNat) true) else s2
      | _ => s2

/-- R213 to R215: a ticket is granted when its tests pass. -/
def execTicketGrant (src : GrantSrc) (tk : Nat) (s : State) : Res :=
  .next (match src with
    | .tray f t => enqueueLadle (grantTray s f t tk) tk
    | .port core frame slot => portGrant s core frame slot tk)

/-- R105: the waiting ladle-class command of a tray takes a ticket and enters its queue. -/
def execLadleClassCommand (f t tk : Nat) (s : State) : Res :=
  .next (match (trayOf s f t).waiting with
    | some w => if ladleOp (cOp w.cmd) then enqueueLadle (grantTray s f t tk) tk else s
    | none => s)

/-- The frame that a lock has passed to goes on with its ALOCK (R322). -/
def grantToFrame (s : State) (c f key : Nat) : State :=
  match (frameOf s c f).wait with
  | .lock _ k => if k = key then endWait s c f (.filled [] true) else s
  | _ => s

/-- The owner of a lock passed to it (R169) has the grant delivered: a waiting context, or a frame, goes on. -/
def execLockGrant (key : Dbl) (s : State) : Res :=
  .next (match tget s.locks key.toNat with
    | none => s
    | some l =>
      if l.owner.kind = 0 then
        let x := ctxOf s l.owner.unit l.owner.slot
        if x.epoch = l.epoch ∧ x.state = .waiting ∧ x.awaiting.contains unitLK then
          let f := takeFree 64 (traceLock s trLockGrant l.owner l.epoch key.toNat)
          let s1 := resultNow f.2 l.owner.unit l.owner.slot [(0x4F, f.1)] [] []
          let y := ctxOf s1 l.owner.unit l.owner.slot
          wake (setCtx s1 l.owner.unit l.owner.slot { y with pend := tdel y.pend unitLK }) l.owner.unit l.owner.slot unitLK
        else s
      else if l.owner.kind = 1 ∧ (frameOf s l.owner.unit l.owner.slot).epoch = l.epoch then grantToFrame s l.owner.unit l.owner.slot key.toNat
      else s)

/-- Frames of a core whose PWAIT or AUNLOCK a posting's end lets go on (R321, R323). -/
def wakePort (s : State) (c n : Nat) (status : Byte) : State :=
  ((coreOf s c).frames.map (·.1)).foldl (fun st f => match (frameOf st c f).wait with
    | .port _ m => if m = n then endWait (freeSlotOf st c n) c f (.filled (le 4 status.toNat) true) else st
    | .lent => endWait st c f .idle
    | _ => st) s

/-- R321: a port posting completes: the response, the completion entry, then the slot shows it done. A response that the MPU refuses to the engine makes its status DEVICE_FAULT (R243). A reset frame's slot is freed (Table 8.18). -/
def execPortPostingComplete (tk : Nat) (s : State) : Res :=
  .next (match ticketOf s tk with
    | none => s
    | some t => match t.origin, t.result with
      | .port c _ n, some r =>
        (match slotOf s c n with
        | none => issueTicket s tk
        | some x =>
          let p := engineWrite s t.engine x.dest r.resp
          let st := if p.2 then r.status else stDeviceFault
          let s1 := (engineWrite p.1 t.engine x.area (portEntry { r with status := st })).1
          let s2 := issueTicket (returnLocks s1 tk) tk
          if (frameOf s2 c x.frame).epoch = x.epoch then
            pulseSrc (wakePort (setSlotOf s2 c n { x with state := .done, status := st, ticket := none }) c n st) (0x010 + c)
          else pulseSrc (freeSlotOf s2 c n) (0x010 + c))
      | _, _ => s)

/-- A posting with a parent has still to complete (R319). -/
def childRuns (s : State) (tk : Nat) : Bool :=
  s.cores.cores.any fun e => e.2.slots.any fun x => x.2.parent == some tk && decide (x.2.state ≠ .done)

/-- R105, R319: a ladle-class command's completion is issued once LCOMPL is done and its postings have completed. -/
def execLadleCommandCompletion (tk : Nat) (s : State) : Res :=
  .next (match ticketOf s tk with
    | none => s
    | some t => match t.origin, t.result with
      | .tray _ _, some r => if ladleOp (cOp t.cmd) && decide (t.state = .held) && !childRuns s tk then complete s tk r else s
      | _, _ => s)

end Sys2Proof.Machine
end

