-- ==== Sys2Proof/Machine/SealOps.lean ====
section
/-! DEFINITION. The coprocessor block: seal-engine services, random bytes and the companion (R145 to R150, R324 to R327, R455). -/
namespace Sys2Proof.Machine

/-! Curve constants of the services' public standards. -/

def p256p : Nat := 0xFFFFFFFF00000001000000000000000000000000FFFFFFFFFFFFFFFFFFFFFFFF
def p256n : Nat := 0xFFFFFFFF00000000FFFFFFFFFFFFFFFFBCE6FAADA7179E84F3B9CAC2FC632551
def p384p : Nat := 0xFFFFFFFFFFFFFFFFFFFFFFFFFFFFFFFFFFFFFFFFFFFFFFFFFFFFFFFFFFFFFFFEFFFFFFFF0000000000000000FFFFFFFF
def p384n : Nat := 0xFFFFFFFFFFFFFFFFFFFFFFFFFFFFFFFFFFFFFFFFFFFFFFFFC7634D81F4372DDF581A0DB248B0A77AECEC196ACCC52973
def ed25519p : Nat := 2 ^ 255 - 19
def ed25519L : Nat := 2 ^ 252 + 27742317777372353535851937790883648493

/-! Degenerate inputs (Table 3.18). -/

def scOk : Nat := 0x00
def scVerifyFail : Nat := 0x01
def scLength : Nat := 0x0A
def scKeyAbsent : Nat := 0x0B

/-- The lowest code among the causes that apply. -/
def lowestCode (l : List (Bool × Nat)) : Nat := ((l.filter (·.1)).map (·.2)).foldl (fun a c => if a = 0 ∨ c < a then c else a) 0

/-- A private scalar that is zero or out of range. -/
def scalarCauses (d : Nat) : List (Bool × Nat) := [(d == 0, 0x02), (decide (p256n ≤ d), 0x03)]

/-- An ECDSA signature out of range. -/
def sigCauses (n r s : Nat) : List (Bool × Nat) := [(r == 0 || s == 0 || decide (n ≤ r) || decide (n ≤ s), 0x04)]

/-- A public point that the service refuses; all-zero coordinates are the point at infinity and nothing else. -/
def pointCauses (p x y : Nat) (on : Bool) : List (Bool × Nat) :=
  if x = 0 ∧ y = 0 then [(true, 0x06)] else [(!on, 0x05), (decide (p ≤ x) || decide (p ≤ y), 0x07)]

/-- An encoded Ed25519 point (A or R) that verification refuses. -/
def edCauses (b : Bytes) : List (Bool × Nat) :=
  let v := ofLe b
  let enc : BitVec 256 := BitVec.ofNat 256 v
  [(decide (ed25519p ≤ v % 2 ^ 255) || (bitOf v 255 && Config.edXZero enc), 0x07), (Config.edSmallOrder enc, 0x08)]

/-- IN_LEN's range and the least OUT_LEN of a service (Table 8.16); CPR is 0x100 here (R325). -/
def serviceLens (func : Nat) : Nat × Nat × Nat :=
  match func with
  | 1 => (64, 64, 64)
  | 2 => (160, 160, 0)
  | 3 => (96, 96, 32)
  | 4 => (240, 240, 0)
  | 5 => (32, 4128, 64)
  | 6 => (96, 4192, 0)
  | 7 => (16, 4112, 0)
  | 8 => (0, 65536, 32)
  | 9 => (0, 65536, 48)
  | _ => (0, 0, 1)

/-- A service's answer: its code, its redraw count, its output. -/
structure SealAns where
  code : Nat := 0
  redraws : Nat := 0
  out : Bytes := []
deriving DecidableEq, Repr

/-- A verification's answer: the causes, then whether it verifies. -/
def verifyAns (causes : List (Bool × Nat)) (ok : Bool) : SealAns :=
  let c := lowestCode causes
  { code := if c ≠ 0 then c else if ok then scOk else scVerifyFail }

/-- Bytes `n` long that a number spells most significant first, from a big-endian field of the input. -/
def beField (b : Bytes) (off n : Nat) : Nat := ofBe (slice b off n)

/-- ECDSA P-256 sign (R148, R149). -/
def ansSign (b : Bytes) (short : Bool) (n : Nat) : SealAns :=
  let d := beField b 0 32
  let k := Config.nonceRedraws n
  let c := lowestCode (scalarCauses d ++ [(short, scLength)])
  if c ≠ 0 then { code := c }
  else if 16 ≤ k then { code := 0x09, redraws := 15 }
  else { redraws := k, out := be 64 (Config.p256Sign (BitVec.ofNat 256 d) (BitVec.ofNat 256 (beField b 32 32)) n).toNat }

/-- ECDSA P-256 verify. -/
def ansVerify256 (b : Bytes) : SealAns :=
  let pt : BitVec 512 := BitVec.ofNat 512 (beField b 0 64)
  verifyAns (pointCauses p256p (beField b 0 32) (beField b 32 32) (Config.onP256 pt) ++ sigCauses p256n (beField b 96 32) (beField b 128 32))
    (Config.p256Verify pt (BitVec.ofNat 256 (beField b 64 32)) (BitVec.ofNat 512 (beField b 96 64)))

/-- ECDH P-256. -/
def ansEcdh (b : Bytes) (short : Bool) : SealAns :=
  let d := beField b 0 32
  let pt : BitVec 512 := BitVec.ofNat 512 (beField b 32 64)
  let c := lowestCode (scalarCauses d ++ pointCauses p256p (beField b 32 32) (beField b 64 32) (Config.onP256 pt) ++ [(short, scLength)])
  if c ≠ 0 then { code := c } else { out := be 32 (Config.ecdhX (BitVec.ofNat 256 d) pt).toNat }

/-- ECDSA P-384 verify. -/
def ansVerify384 (b : Bytes) : SealAns :=
  let pt : BitVec 768 := BitVec.ofNat 768 (beField b 0 96)
  verifyAns (pointCauses p384p (beField b 0 48) (beField b 48 48) (Config.onP384 pt) ++ sigCauses p384n (beField b 144 48) (beField b 192 48))
    (Config.p384Verify pt (BitVec.ofNat 384 (beField b 96 48)) (BitVec.ofNat 768 (beField b 144 96)))

/-- Ed25519 sign. -/
def ansEdSign (b : Bytes) (short : Bool) : SealAns :=
  if short then { code := scLength } else { out := le 64 (Config.edSign (BitVec.ofNat 256 (field b 0 32)) (b.drop 32)).toNat }

/-- Ed25519 verify. -/
def ansEdVerify (b : Bytes) : SealAns :=
  verifyAns (edCauses (slice b 0 32) ++ edCauses (slice b 32 32) ++ [(decide (ed25519L ≤ field b 64 32), 0x04)])
    (Config.edVerify (BitVec.ofNat 256 (field b 0 32)) (b.drop 96) (BitVec.ofNat 512 (field b 32 64)))

/-- AES-256-CMAC verify under a tenant's current or other slot. -/
def ansCmac (s : State) (keysel : Nat) (b : Bytes) : SealAns :=
  let k := keyOf s (keysel % 8192)
  match (if bitOf keysel 16 then k.other else k.cur) with
  | none => { code := scKeyAbsent }
  | some v => { code := if Config.cmac v.key (b.drop 16) = BitVec.ofNat 128 (field b 0 16) then scOk else scVerifyFail }

/-- CPR: random bytes. -/
def ansRandom (outLen n : Nat) : SealAns :=
  if 1 ≤ outLen ∧ outLen ≤ 4096 then { out := le outLen (Config.draw (8 * outLen) n).toNat } else { code := scLength }

/-- A service's answer (R146 to R149). An input whose length is wrong has no operands to judge. -/
def sealAnswer (s : State) (j : SealJob) : SealAns :=
  let l := serviceLens j.func
  let b := j.input
  let short := decide (j.outLen < l.2.2)
  if j.func = 0x100 then ansRandom j.outLen s.fresh
  else if b.length < l.1 ∨ l.2.1 < b.length then { code := scLength }
  else match j.func with
    | 1 => ansSign b short s.fresh
    | 2 => ansVerify256 b
    | 3 => ansEcdh b short
    | 4 => ansVerify384 b
    | 5 => ansEdSign b short
    | 6 => ansEdVerify b
    | 7 => ansCmac s j.keysel b
    | 8 => if short then { code := scLength } else { out := le 32 (Config.sha256 b).toNat }
    | _ => if short then { code := scLength } else { out := le 48 (Config.sha384 b).toNat }

/-- The result word (R150). -/
def resultWord (r : SealAns) (unit : Nat) : Word := BitVec.ofNat 32 (unit % 8 * 4096 + r.redraws % 16 * 256 + r.code)

/-- R148: what goes into the output area: the output, or zeros all over it. -/
def outputBytes (r : SealAns) (len : Nat) : Bytes := if r.code = 0 then r.out else zeros len

/-! Writing an output area: one byte at each physical address. -/

/-- One byte written by a core, unbuffered. -/
def corePutByte (s : State) (c f pa : Nat) (b : Byte) : State :=
  match areaOf s pa with
  | .general => masterWrite s pa [b]
  | .pantry _ => setMemBytes s pa [b]
  | .mgmt => ctlWrite s c f (pa - paControl) (taskActor s c f true).sup [b]
  | .control => ctlWrite s c f (pa - paControl) (taskActor s c f true).sup [b]
  | .host => dmaOut s (hostFn s (taskActor s c f true).master pa) (BitVec.ofNat 64 (pa - paHost)) [b]
  | _ => s

/-- Bytes written by a core to physical addresses. -/
def corePut (s : State) (c f : Nat) (l : List Nat) (b : Bytes) : State := (l.zip b).foldl (fun st e => corePutByte st c f e.1 e.2) s

/-- The address of each byte of an area that is to be written later, checked for writing now. -/
def outArea (s : State) (a : Actor) (wrap va n : Nat) : MRes (List Nat) :=
  (resolve a .write wrap (n + 1) s va n).andThen fun s1 ps =>
    if !ps.isEmpty && !(coreOf s1 a.c).sb.isEmpty then .stay else .ok s1 (pieceAddrs ps)

/-! CPS and CPR. -/

/-- A request joins the ladle requests (R326). -/
def sealAsk (s : State) (a : Actor) (w : Word) (func : Nat) (input : Bytes) (keysel outLen : Nat) (out : List Nat) : IRes :=
  let tag := s.cores.posts
  let x := actFrame s a
  let j : SealJob := { core := a.c, frame := a.f, epoch := x.epoch, func := func, input := input, keysel := keysel, outLen := outLen, tag := tag }
  .wait (startJobs { s with cores := { s.cores with posts := tag + 1, jobs := s.cores.jobs ++ [j] } }) (.seal w out tag)

/-- The operand block of R324. -/
def operandBlock (s : State) (a : Actor) (w : Word) (k : State → Bytes → IRes) : IRes :=
  let b := (gA s a w).toNat
  if b % 32 ≠ 0 then .exc s { vec := 3, addr := BitVec.ofNat 64 b, acc := 0 } else (readVa s a wrap32 b 32).bindI k

/-- CPS (R324): the block, then privilege, then the areas. The wait's end brings the result word. -/
def cps (s : State) (a0 : Actor) (w : Word) (func : Nat) : IRes :=
  let a := { a0 with go := true }
  match (actFrame s a).wait with
  | .filled d _ => setRd s a w (wordAt d 0)
  | _ => operandBlock s a w fun s1 b =>
    let keysel := field b 12 4
    if func = 7 ∧ ¬ a.sup ∧ keysel % 8192 ≠ a.key then .exc s1 { vec := 10 }
    else (readVa s1 a wrap64 (field b 0 8) (field b 8 4)).bindI fun s2 input =>
      (outArea s2 a wrap64 (field b 16 8) (field b 24 4)).bindI fun s3 out => sealAsk s3 a w func input keysel (field b 24 4) out

def opCpsEcdsaP256Sign (s : State) (a : Actor) (w : Word) : IRes := cps s a w 1
def opCpsEcdsaP256Verify (s : State) (a : Actor) (w : Word) : IRes := cps s a w 2
def opCpsEcdhP256 (s : State) (a : Actor) (w : Word) : IRes := cps s a w 3
def opCpsEcdsaP384Verify (s : State) (a : Actor) (w : Word) : IRes := cps s a w 4
def opCpsEd25519Sign (s : State) (a : Actor) (w : Word) : IRes := cps s a w 5
def opCpsEd25519Verify (s : State) (a : Actor) (w : Word) : IRes := cps s a w 6
def opCpsAesCmacVerify (s : State) (a : Actor) (w : Word) : IRes := cps s a w 7
def opCpsSha256 (s : State) (a : Actor) (w : Word) : IRes := cps s a w 8
def opCpsSha384 (s : State) (a : Actor) (w : Word) : IRes := cps s a w 9

/-- CPR (R325). -/
def opCpr (s : State) (a0 : Actor) (w : Word) : IRes :=
  let a := { a0 with go := true }
  match (actFrame s a).wait with
  | .filled d _ => setRd s a w (wordAt d 0)
  | _ => operandBlock s a w fun s1 b =>
    (outArea s1 a wrap64 (field b 16 8) (field b 24 4)).bindI fun s2 out => sealAsk s2 a w 0x100 [] 0 (field b 24 4) out

/-- R326, R145: the result of the `i`th request, which its unit has begun, is delivered to its own frame, its output first. -/
def execSealServiceResult (i unit : Nat) (s : State) : Res :=
  .next (match s.cores.jobs[i]? with
    | none => s
    | some j =>
      if j.unit ≠ some unit then s
      else
        let r := sealAnswer s j
        let s1 := startJobs { s with fresh := s.fresh + 1, cores := { s.cores with jobs := s.cores.jobs.eraseIdx i } }
        let x := frameOf s1 j.core j.frame
        match x.wait with
        | .seal _ out tag =>
          if tag = j.tag ∧ x.epoch = j.epoch then
            endWait (corePut s1 j.core j.frame out (outputBytes r j.outLen)) j.core j.frame (.filled (le 4 (resultWord r unit).toNat) true)
          else s1
        | _ => s1)

/-! The companion. -/

/-- The link of this die that is given over to the companion (R455). -/
def cxLinkOf (s : State) : Option Nat := (List.range 32).find? fun k => isCx s k

/-- Table 12.13. -/
def cxBody (x : Frame) (a : Actor) (w : Word) (blk : Bytes) : Bytes :=
  [BitVec.ofNat 8 (fMajor w), 0] ++ le 2 (wf w 14 0) ++ le 2 (a.key + 32768 * b2n a.sup) ++ [BitVec.ofNat 8 a.c, BitVec.ofNat 8 a.f] ++ le 2 x.ctag.toNat ++ zeros 6 ++ fit 64 blk

/-- Status and companion result in the pair (Table 8.17). -/
def cxResult (s : State) (a : Actor) (w : Word) (status result : Word) : IRes :=
  doneF s a (setPair (actFrame s a) (fRd w) (result ++ status))

/-- CX0 to CX3 (R327). -/
def opCx (s : State) (a0 : Actor) (w : Word) : IRes :=
  let a := { a0 with go := true }
  match (actFrame s a).wait with
  | .filled d _ => cxResult s a w (wordAt d 0) (wordAt d 4)
  | _ =>
    let b := (gA s a w).toNat
    if b % 64 ≠ 0 then .exc s { vec := 3, addr := BitVec.ofNat 64 b, acc := 0 }
    else (readVa s a wrap32 b 64).bindI fun s1 blk =>
      (outArea s1 a wrap32 b 64).bindI fun s2 out =>
        match cxLinkOf s2 with
        | none => cxResult s2 a w 1 0
        | some k =>
          if (linkOf s2 k).state ≠ .up then cxResult s2 a w 2 0
          else
            let x := actFrame s2 a
            let s3 := setFrame s2 a.c a.f { x with ctag := x.ctag + 1 }
            .wait (putOnLink s3 k 0 (mkMsg s3 tyCxReq 0x7FF 0 0 (cxBody x a w blk))) (.cx w out x.ctag s3.tb)

/-- Whether a CX_RESP is malformed (Table 12.14). -/
def cxBad (m : Msg) : Bool :=
  !mlenOk m || m.reserved != 0 || m.eseq != 0 || bits m.mflags.toNat 7 5 != 0 || !(byteAt m.body 0 == 0 || byteAt m.body 0 == 4) || !allZero (slice m.body 1 3) || !allZero (slice m.body 12 4)

/-- R455: a CX_RESP reaches the core. -/
def cxTake (s : State) (k : Nat) (m : Msg) : State :=
  let c := (byteAt m.body 8).toNat
  let f := (byteAt m.body 9).toNat
  match (frameOf s c f).wait with
  | .cx _ out tag _ =>
    if m.body.length < 12 ∨ tag ≠ halfAt m.body 10 then s
    else if cxBad m then endWait (linkViolate s k 0x05 (bits m.src.toNat 10 0) m.typ) c f (.filled (le 8 5) true)
    else
      let s1 := if byteAt m.body 0 = 0 then corePut s c f out (slice m.body 16 64) else s
      endWait s1 c f (.filled (le 4 (byteAt m.body 0).toNat ++ slice m.body 4 4) true)
  | _ => s

/-- CX_RESP (R455). -/
def execCxResp (m : MsgIn) (s : State) : Res :=
  .next (match getMsg s (fun x => decide (x.typ = tyCxResp)) m with
    | none => s
    | some (k, x, s1) => if isCx s1 k then cxTake s1 k x else refuseMsg s1 k x 0x03 true)

/-- CX_TIMEOUT (R327). -/
def execCxTimeout (c f : Nat) (s : State) : Res :=
  .next (match (frameOf s c f).wait with
    | .cx _ _ _ since => if since + 1000 * cfgCxTimeout s ≤ s.tb then endWait s c f (.filled (le 8 3) true) else s
    | _ => s)

end Sys2Proof.Machine
end

