-- ==== Sys2Proof/Machine/LadleRun.lean ====
section
/-! DEFINITION. How a ladle core issues instructions (R266 to R293): which word is next, what holds it back, what it does, what follows. -/
namespace Sys2Proof.Machine

/-- What a word does when it issues. The prefixes and the long operations are begun by the issue itself. -/
def runOp (o : LOp) (s : State) (a : Actor) (w lit : Word) : IRes :=
  match o with
  | .add => opAdd s a w
  | .mul => opMul s a w
  | .muld => opMuld s a w
  | .mulds => opMulds s a w
  | .divu => opDivu s a w
  | .divs => opDivs s a w
  | .remu => opRemu s a w
  | .rems => opRems s a w
  | .sel => opSel s a w
  | .longLiteralOp => opLongLiteral s a w lit
  | .shiftImmediate => opShiftImmediate s a w
  | .lui => opLui s a w
  | .addi => opAddi s a w
  | .compareImmediate => opCompareImmediate s a w
  | .load => opLoad s a w
  | .store => opStore s a w
  | .ldf => opLdf s a w
  | .stf => opStf s a w
  | .cas => opCas s a w
  | .mtm => opMtm s a w
  | .mfmb => opMfmb s a w
  | .mfml => opMfml s a w
  | .bz => opBz s a w
  | .bnz => opBnz s a w
  | .j => opJ s a w
  | .call => opCall s a w
  | .jr => opJr s a w
  | .callr => opCallr s a w
  | .shortOperationWord => opShort s a w
  | .sync => opSync s a
  | .syncTlb => opSyncTlb s a
  | .dbar => opDbar s a
  | .yield => opYield s a w
  | .svc => opSvc s w
  | .brk => opBrk s w
  | .eret => opEret s a
  | .eretDoubleFault => opEretDoubleFault s a
  | .mfc => opMfc s a w
  | .mtc => opMtc s a w
  | .savl => opSavl s a w
  | .savu => opSavu s a w
  | .rstl => opRstl s a w
  | .rstu => opRstu s a w
  | .tlbiVa => opTlbiVa s a w
  | .tlbiAsid => opTlbiAsid s a w
  | .tlbiAll => opTlbiAll s a
  | .keyset => opKeyset s a w
  | .keyget => opKeyget s a w
  | .keyclr => opKeyclr s a w
  | .ppost => opPpost s a w
  | .ppostl => opPpostl s a w
  | .pwait => opPwait s a w
  | .ptest => opPtest s a w
  | .lqtake => opLqtake s a w
  | .lcompl => opLcompl s a w
  | .alock => opAlock s a w
  | .aunlock => opAunlock s a w
  | .aunlockall => opAunlockall s a
  | .cpsEcdsaP256Sign => opCpsEcdsaP256Sign s a w
  | .cpsEcdsaP256Verify => opCpsEcdsaP256Verify s a w
  | .cpsEcdhP256 => opCpsEcdhP256 s a w
  | .cpsEcdsaP384Verify => opCpsEcdsaP384Verify s a w
  | .cpsEd25519Sign => opCpsEd25519Sign s a w
  | .cpsEd25519Verify => opCpsEd25519Verify s a w
  | .cpsAesCmacVerify => opCpsAesCmacVerify s a w
  | .cpsSha256 => opCpsSha256 s a w
  | .cpsSha384 => opCpsSha384 s a w
  | .cpr => opCpr s a w
  | .cx => opCx s a w
  | .addp => opAddp s a w
  | .subp => opSubp s a w
  | .cmpp => opCmpp s a w
  | .movp => opMovp s a w
  | .negp => opNegp s a w
  | .absp => opAbsp s a w
  | .clrp => opClrp s a w
  | .shrp => opShrp s a w
  | .shrpr => opShrpr s a w
  | .tstp => opTstp s a w
  | .ldp => opLdp s a w
  | .stp => opStp s a w
  | .addpMemory => opAddpMemory s a w
  | .subpMemory => opSubpMemory s a w
  | .macp => opMacp s a w
  | .cvzd => opCvzd s a w
  | .cvdz => opCvdz s a w
  | .cvbd => opCvbd s a w
  | .cvdb => opCvdb s a w
  | .cls => opCls s a w
  | .scn => opScn s a w
  | .sct => opSct s a w
  | .repi => .stay
  | .repu => .stay
  | .mulp => .stay
  | .divp => .stay
  | .mvs => .stay
  | .mvsx => .stay
  | .edit => .stay
  | .editm => .stay

/-! Counting (R292, R293). -/

/-- Steps beyond the first of an instruction's own step count (Table 7.3); entries and returns count their own. -/
def extraSteps (x : Frame) (o : LOp) (w : Word) : Nat :=
  match o with
  | .divu | .remu => divSteps false (gReg x (fRa w)) (gReg x (fRb w)) - 1
  | .divs | .rems => divSteps true (gReg x (fRa w)) (gReg x (fRb w)) - 1
  | .sync | .syncTlb => 3
  | .tlbiVa | .tlbiAsid | .tlbiAll | .keyset | .keyget | .keyclr => 1
  | .savl | .rstl => 19
  | .savu | .rstu => 27
  | .cas | .ppost | .ppostl | .pwait | .ptest | .lqtake | .lcompl | .alock | .aunlock | .aunlockall => 1
  | _ => if classOf o = .d ∧ isLongOp o = false then decSteps x o w - 1 else 0

/-- The bytes of an instruction. -/
def lenOf (o : LOp) : Nat := if o = .longLiteralOp then 8 else 4

/-- R268: the word at pc is the second of the pair that the last instruction began. -/
def pairedWith (x : Frame) (w : Word) : Bool :=
  match x.last with
  | some (w1, ad) => pairAt w1 ad w x.pc
  | none => false

/-- Whether the word may be the first of a pair. -/
def mayLead (x : Frame) (o : LOp) (w : Word) : Bool :=
  !w.getLsbD 31 && (classOf o == .a || classOf o == .m) && !pairedWith x w

/-- R268: the instruction that issues with the one at pc, which leads it. -/
def partner (x : Frame) (o : LOp) (w : Word) : Option (LOp × Word) :=
  if x.rep.isSome || !mayLead x o w then none
  else
    let next := x.pc + BitVec.ofNat 32 (lenW w)
    match fetchedAt x next with
    | .word v => if pairAt w x.pc v next then (decode v).map fun p => (p, v) else none
    | _ => none

/-- The counters of the issue of an instruction, which a group counts as its first one issues (Table 7.7). -/
def countGroup (s : State) (c : Nat) (x : Frame) (o : LOp) (w : Word) : State :=
  if o = .eret ∨ o = .eretDoubleFault then countStep s c csInstr 1
  else if x.rep.isNone && pairedWith x w then s
  else
    let two := o = .shortOperationWord ∨ (partner x o w).isSome
    let s1 := countStep (spend s c csIssue 1) c csInstr 1
    if two then countStep (countStep s1 c csInstr 1) c csPaired 1 else s1

/-- The counters of an instruction that completes. -/
def countIssue (s : State) (c : Nat) (x : Frame) (o : LOp) (w : Word) : State :=
  spend (countGroup s c x o w) c csExtra (extraSteps x o w)

/-- The counters of an instruction that raises an exception: it has issued; a division by zero takes 4 steps (R303). -/
def countFault (s : State) (c : Nat) (x : Frame) (o : LOp) (w : Word) (e : Exc) : State :=
  spend (countGroup s c x o w) c csExtra (if e.vec = 13 ∧ (o = .divu ∨ o = .divs ∨ o = .remu ∨ o = .rems) then 3 else 0)

/-! What follows an instruction. -/

/-- R386: the trace exception that is due is taken, if the entry can be made now. -/
def takeTrace (s : State) (c f : Nat) : State :=
  let x := frameOf s c f
  match x.traceDue with
  | none => s
  | some ia =>
    if (coreOf s c).running ≠ some f then s
    else (raiseSync (setFrame s c f { x with traceDue := none }) c f { vec := 18 } ia x.pc).getD s

/-- A trace becomes due when TR was 1 as the instruction issued. -/
def traceAfter (s : State) (c f : Nat) (was : Frame) : State :=
  if pTr was.psw then takeTrace (setFrame s c f { frameOf s c f with traceDue := some was.pc }) c f else s

/-- A frame that its own instruction has reset keeps its reset values (R366). -/
def keepReset (s : State) (c f : Nat) : State :=
  let y := frameOf s c f
  setFrame s c f { state := y.state, epoch := y.epoch }

/-- An instruction of frame `was` has ended and the frame goes on at `t`. A frame that the instruction itself has stopped is STOPPED now (R365). -/
def endInstr (s : State) (c f : Nat) (was : Frame) (o : LOp) (w t : Word) : State :=
  let y := frameOf s c f
  if y.epoch ≠ was.epoch then keepReset s c f
  else
    let last := if was.rep.isNone && mayLead was o w then some (w, was.pc) else none
    settleStop (traceAfter (tickShadows (setFrame s c f (trimFetch { y with pc := t, wait := .idle, last := last })) c f) c f was) c f

/-- A repetition has ended; `n` were left as it began (R313). -/
def endRep (s : State) (c f : Nat) (was : Frame) (o : LOp) (w : Word) (n : Nat) : State :=
  let y := frameOf s c f
  if y.epoch ≠ was.epoch then keepReset s c f
  else if y.state ≠ .running then
    (if n ≤ 1 then endInstr (setFrame s c f { y with rep := none, repv := false }) c f was o w (was.pc + 8)
     else settleStop (traceAfter (setFrame s c f (parkRep { y with rep := some (n - 1), wait := .idle })) c f was) c f)
  else if n ≤ 1 then endInstr (setFrame s c f { y with rep := none }) c f was o w (was.pc + 8)
  else traceAfter (setFrame s c f { y with rep := some (n - 1), wait := .idle }) c f was

/-- An exception of the instruction at pc. -/
def raiseAt (s : State) (c f : Nat) (x : Exc) (o : Option LOp) : Option State :=
  let fr := frameOf s c f
  let ra := if o = some .svc ∨ o = some .brk then fr.pc + 4 else fr.pc
  if x.entry ∧ 32 ≤ x.code then doubleFault (applyShadows s c f) c f x fr.pc else raiseSync s c f x fr.pc ra

/-- What an instruction's result makes of the machine; `was` is its frame as it issued. -/
def conclude (s : State) (c f : Nat) (was : Frame) (o : LOp) (w : Word) (r : IRes) : State :=
  let next := was.pc + BitVec.ofNat 32 (lenOf o)
  match r with
  | .done s1 =>
    let s2 := countIssue s1 c was o w
    (match was.rep with
     | some n => endRep s2 c f was o w n
     | none => endInstr s2 c f was o w next)
  | .jump s1 t =>
    let s2 := spend (countIssue s1 c was o w) c csBranch 2
    endInstr (setFrame s2 c f { frameOf s2 c f with fetch := [] }) c f was o w t
  | .raw s1 => traceAfter (tickShadows (countIssue s1 c was o w) c f) c f was
  | .again s1 =>
    let s2 := countIssue s1 c was o w
    setFrame s2 c f { frameOf s2 c f with wait := .idle, last := none }
  | .exc s1 x => (raiseAt (countFault s1 c was o w x) c f x (some o)).getD s
  | .wait s1 v => waitFrame s1 c f v
  | .stay => s

/-! What holds an instruction back. -/

/-- R283: the decimal and string unit of a core is not free. -/
def decBusy (s : State) (c : Nat) : Bool := (coreOf s c).frames.any fun e => e.2.lop.isSome

/-- R284: the instruction uses what the frame's own long operation in flight reads or writes. An ERET restores g29, and reloads d0 to d7 when DLAZY says so. -/
def needsLop (x : Frame) (o : LOp) (w : Word) : Bool :=
  match x.lop with
  | none => false
  | some (v, _) => match decode v with
    | none => false
    | some l =>
      if classOf o = .d then meet (accsOf l v) (accsOf o w)
      else if o = .eret then (x.dlazy.getLsbD 1 && !(accsOf l v).isEmpty) || (lopRegs l v).contains 29
      else meet (lopRegs l v) (gReads o w ++ gWrites o w)

/-- R284, R283: whether one instruction of a group cannot issue now, and whether that is a wait on a long operation's result. -/
def heldWord (s : State) (c : Nat) (x : Frame) (o : LOp) (w : Word) : Option Bool :=
  if needsLop x o w then some true
  else if classOf o == .d && decBusy s c then some false
  else none

/-- R268: whether the group cannot issue: its first instruction is held, or the one that issues with it. -/
def held (s : State) (c : Nat) (x : Frame) (o : LOp) (w : Word) : Option Bool :=
  match heldWord s c x o w with
  | some b => some b
  | none => match partner x o w with
    | some (p, v) => heldWord s c x p v
    | none => none

/-! The fill (R379). -/

/-- The fill, if the instruction triggers it: the state after, an exception, or nothing yet. -/
def fill (s : State) (c f : Nat) (o : LOp) : MRes Unit :=
  let x := frameOf s c f
  if usesAccs o && x.dlazy.getLsbD 0 then
    (writeVa s (taskActor s c f true) wrap32 (((x.dlazy &&& 0xFFFFFFF8#32).toNat + 24) % wrap32) (accImages x)).andThen fun s1 _ =>
      let y := frameOf s1 c f
      .ok (spend (setFrame s1 c f { y with dlazy := (y.dlazy ||| 2) &&& ~~~1#32 }) c csOther 19) ()
  else .ok s ()

/-! Issue. -/

/-- R283: a long operation issues and is in flight. -/
def issueLop (s : State) (c f : Nat) (x : Frame) (o : LOp) (w : Word) : IRes :=
  .done (setFrame s c f { frameOf s c f with lop := some (w, x.pc), lopPsw := x.psw, lopSb := if isMemLongOp o then (coreOf s c).sb.length else 0 })

/-- The count of a prefix (R313). -/
def repCount (x : Frame) (o : LOp) (w : Word) : Nat :=
  if o = .repu then (if wf w 5 0 = 0 then 64 else wf w 5 0)
  else if bitOf w.toNat 14 then wf w 13 0 else (gReg x (fRa w)).toNat

/-- A fault that a block fetch met, raised at an instruction (R276). -/
def fetchExc (e : Exc) (pc : Word) : Exc := if e.phys then e else { e with addr := pc.setWidth 64 }

/-- REPI and REPU (R313): the prefix itself. Its repetitions follow. It is traced (R386), unless it issues again to go on with what REPC says is left. -/
def issuePrefix (s : State) (c f : Nat) (x : Frame) (o : LOp) (w : Word) : State :=
  let n := if x.repv then x.repc.toNat else repCount x o w
  let traced := fun (st : State) => if x.repv then st else traceAfter st c f x
  let go := fun (_ : Unit) =>
    let s1 := countIssue s c x o w
    let y := { frameOf s1 c f with repv := false, last := none }
    if n = 0 then traced (tickShadows (setFrame s1 c f (trimFetch { y with pc := x.pc + 8 })) c f)
    else traced (tickShadows (setFrame s1 c f { y with rep := some n }) c f)
  match fetchedAt x (x.pc + 4) with
  | .absent => s
  | .fault e =>
    if n = 0 then go ()
    else (raiseAt (setFrame s c f { x with repc := BitVec.ofNat 32 n, repv := true }) c f (fetchExc e x.pc) none).getD s
  | .word v => if repeatable v then go () else (raiseAt s c f { vec := 2 } none).getD s

/-- The literal of a long-literal instruction; zero for the others. -/
def literalAt (x : Frame) (o : LOp) : FetchAns := if o = .longLiteralOp then fetchedAt x (x.pc + 4) else .word 0

/-- A word that has passed every wait issues. -/
def issueFor (s : State) (c f : Nat) (o : LOp) (w : Word) : State :=
  let x := frameOf s c f
  match held s c x o w with
  | some long => if long then stallSwitch s c f else s
  | none =>
    match literalAt x o with
    | .absent => s
    | .fault e => (raiseAt s c f (fetchExc e x.pc) none).getD s
    | .word lit =>
      let go := match x.wait with | .filled _ _ => true | _ => false
      match fill s c f o with
      | .exc s1 e => (raiseAt s1 c f e none).getD s
      | .ok s1 _ =>
        if o = .repi ∨ o = .repu then issuePrefix s1 c f x o w
        else if isLongOp o then conclude s c f x o w (issueLop s1 c f x o w)
        else conclude s c f x o w (runOp o s1 (taskActor s1 c f go) w lit)
      | _ => s

/-- The address of the word that a frame issues next: a repetition issues the word after the prefix. -/
def nextPc (x : Frame) : Word := if x.rep.isSome then x.pc + 4 else x.pc

/-- R363: the frame is the running one, its instruction waits for nothing, no stopped long operation has to be resumed first. -/
def mayIssue (s : State) (c f : Nat) : Bool :=
  let x := frameOf s c f
  decide (f < nFrames s) && coreIn s c && (coreOf s c).running == some f && x.state == .running && !x.lov &&
  (match x.wait with | .idle => true | .filled _ _ => true | _ => false)

/-- R366: an uncorrectable error in a frame's SRAM, met as the frame issues: the frame is reset, and the core's machine-check source pulses. -/
def frameSram (s : State) (c f : Nat) : State :=
  pulseSrc (frameReset { s with hw := { s.hw with frameBad := s.hw.frameBad.filter (· != 64 * c + f) } } c f) (0x090 + c)

/-- What comes before the next instruction of a frame that may issue: an error in its SRAM, its trace exception, an exception that its long operation
left (R285, R287), unless the second instruction of a group is still to issue; none where nothing does. -/
def beforeIssue (s : State) (c f : Nat) : Option State :=
  let x := frameOf s c f
  if s.hw.frameBad.contains (64 * c + f) then some (frameSram s c f)
  else if x.traceDue.isSome then some (takeTrace s c f)
  else match x.lopExc with
    | none => none
    | some q => if midGroup x || (pMsk x.psw && !q.msk) then none else some ((lopFault s c f q).getD s)

/-- The next instruction of a frame issues, if it is the one asked for; a fault of its fetch or an illegal word is taken whichever is. -/
def issueAs (s : State) (c f : Nat) (want : Option LOp) : State :=
  if !mayIssue s c f then s
  else match beforeIssue s c f with
  | some t => t
  | none =>
    let x := frameOf s c f
    match fetchedAt x (nextPc x) with
    | .absent => s
    | .fault e => (raiseAt s c f (fetchExc e (nextPc x)) none).getD s
    | .word w => match decode w with
      | none => (raiseAt s c f { vec := 2 } none).getD s
      | some o => if want = none ∨ want = some o then issueFor s c f o w else s

/-- The running frame of a core issues its next instruction, if it is an `o`. -/
def issue (s : State) (c : Nat) (o : LOp) : State :=
  match (coreOf s c).running with
  | none => s
  | some f => issueAs s c f (some o)

/-! Block fetches (R275, R276). -/

/-- Fetch one aligned 16-byte block, or keep the fault that its fetch met. -/
def fetchBlock (s : State) (c f ad : Nat) : State :=
  let a := taskActor s c f true
  match (resolve a .exec wrap32 17 s ad 16).andThen fun s1 ps => readPieces a true s1 ps with
  | .ok s1 b => let x := frameOf s1 c f; setFrame s1 c f { x with fetch := x.fetch ++ [{ addr := ad, data := b }] }
  | .exc s1 e => let x := frameOf s1 c f; setFrame s1 c f { x with fetch := x.fetch ++ [{ addr := ad, fault := some e }] }
  | _ => s

def fetchBase (va : Word) : Nat := va.toNat / 16 * 16

/-- R270, R313: the word at pc needs the word after it: a long literal, or what a prefix repeats. -/
def needsNext (x : Frame) : Bool :=
  match fetchedAt x x.pc with
  | .word w => (match decode w with | some .longLiteralOp => true | some .repi => true | some .repu => true | _ => false)
  | _ => false

/-- The block that a frame needs and does not hold. -/
def blockWanted (x : Frame) : Option Nat :=
  if fetchedAt x x.pc = .absent then some (fetchBase x.pc)
  else if needsNext x && fetchedAt x (x.pc + 4) == .absent then some (fetchBase (x.pc + 4))
  else none

/-- The words that the group at pc ends before: past its second instruction, past what a prefix repeats. -/
def groupEnd (x : Frame) (o : LOp) (w : Word) : Word :=
  if x.rep.isSome then x.pc + 8
  else x.pc + BitVec.ofNat 32 (lenW w + (match partner x o w with | some (_, v) => lenW v | none => 0))

/-- A branch in the group at pc, so that a sequential fetch from a page whose SE attribute is set has to wait for it (R276). -/
def groupBranches (x : Frame) (o : LOp) (w : Word) : Bool :=
  classOf o == .b || (o == .shortOperationWord && shClass (slotB w) == .b) || (match partner x o w with | some (p, _) => classOf p == .b | none => false)

/-- A block lies in a page whose SE attribute is set. -/
def blockSe (s : State) (c f : Nat) (ad : Nat) : Bool :=
  match translate s (taskActor s c f true) .exec (BitVec.ofNat 64 ad) with | .ok _ p => p.se | _ => false

/-- R275: the group at pc can issue and takes the last word of its block: the next sequential block, which is fetched as it issues. The frame then holds two
blocks, the one in DE and the one in the fetch buffer. -/
def blockAhead (s : State) (c f : Nat) : Option Nat :=
  let x := frameOf s c f
  match fetchedAt x (nextPc x) with
  | .word w => (match decode w with
    | some o =>
      let e := groupEnd x o w
      if mayIssue s c f && (held s c x o w).isNone && decide (e.toNat % 16 = 0) && fetchedAt x e == .absent && !(groupBranches x o w && blockSe s c f (fetchBase e)) then some (fetchBase e)
      else none
    | none => none)
  | _ => none

/-- The block that a frame fetches next: one that it needs, or the sequential one. -/
def fetchWanted (s : State) (c f : Nat) : Option Nat :=
  match blockWanted (frameOf s c f) with
  | some ad => some ad
  | none => blockAhead s c f

/-- A block is fetched for the running frame of a core. -/
def fetchFor (s : State) (c : Nat) : State :=
  match (coreOf s c).running with
  | none => s
  | some f =>
    let x := frameOf s c f
    if !coreIn s c || x.state != .running then s
    else match fetchWanted s c f with
      | none => s
      | some ad => fetchBlock s c f ad

end Sys2Proof.Machine
end

