-- ==== Sys2Proof/Machine/CoreCmds.lean ====
section
/-! DEFINITION. The ladle instructions as commands: each has the running frame of a core issue its next instruction, when that is the one named
(08, 09). What each does is the operation named; `issueAs` says what holds it back and `conclude` what follows it. -/
namespace Sys2Proof.Machine

/-- `ADD` (R301) at the running frame of core `c`: `opAdd`. -/
def execAdd (c : Nat) (s : State) : Res := .next (issue s c .add)
/-- `MUL` (R302) at the running frame of core `c`: `opMul`. -/
def execMul (c : Nat) (s : State) : Res := .next (issue s c .mul)
/-- `MULD` (R302) at the running frame of core `c`: `opMuld`. -/
def execMuld (c : Nat) (s : State) : Res := .next (issue s c .muld)
/-- `MULDS` (R302) at the running frame of core `c`: `opMulds`. -/
def execMulds (c : Nat) (s : State) : Res := .next (issue s c .mulds)
/-- `DIVU` (R303) at the running frame of core `c`: `opDivu`. -/
def execDivu (c : Nat) (s : State) : Res := .next (issue s c .divu)
/-- `DIVS` (R303) at the running frame of core `c`: `opDivs`. -/
def execDivs (c : Nat) (s : State) : Res := .next (issue s c .divs)
/-- `REMU` (R303) at the running frame of core `c`: `opRemu`. -/
def execRemu (c : Nat) (s : State) : Res := .next (issue s c .remu)
/-- `REMS` (R303) at the running frame of core `c`: `opRems`. -/
def execRems (c : Nat) (s : State) : Res := .next (issue s c .rems)
/-- `SEL` (R304) at the running frame of core `c`: `opSel`. -/
def execSel (c : Nat) (s : State) : Res := .next (issue s c .sel)
/-- `LONG_LITERAL_OP` (R301) at the running frame of core `c`: `opLongLiteral`. -/
def execLongLiteralOp (c : Nat) (s : State) : Res := .next (issue s c .longLiteralOp)
/-- `SHIFT_IMMEDIATE` (R301) at the running frame of core `c`: `opShiftImmediate`. -/
def execShiftImmediate (c : Nat) (s : State) : Res := .next (issue s c .shiftImmediate)
/-- `LUI` (R301) at the running frame of core `c`: `opLui`. -/
def execLui (c : Nat) (s : State) : Res := .next (issue s c .lui)
/-- `ADDI` (R301) at the running frame of core `c`: `opAddi`. -/
def execAddi (c : Nat) (s : State) : Res := .next (issue s c .addi)
/-- `COMPARE_IMMEDIATE` (R301) at the running frame of core `c`: `opCompareImmediate`. -/
def execCompareImmediate (c : Nat) (s : State) : Res := .next (issue s c .compareImmediate)
/-- `LOAD` (R308) at the running frame of core `c`: `opLoad`. -/
def execLoad (c : Nat) (s : State) : Res := .next (issue s c .load)
/-- `STORE` (R308) at the running frame of core `c`: `opStore`. -/
def execStore (c : Nat) (s : State) : Res := .next (issue s c .store)
/-- `LDF` (R311) at the running frame of core `c`: `opLdf`. -/
def execLdf (c : Nat) (s : State) : Res := .next (issue s c .ldf)
/-- `STF` (R311) at the running frame of core `c`: `opStf`. -/
def execStf (c : Nat) (s : State) : Res := .next (issue s c .stf)
/-- `CAS` (R312) at the running frame of core `c`: `opCas`. -/
def execCas (c : Nat) (s : State) : Res := .next (issue s c .cas)
/-- `MTM` (R310) at the running frame of core `c`: `opMtm`. -/
def execMtm (c : Nat) (s : State) : Res := .next (issue s c .mtm)
/-- `MFMB` (R310) at the running frame of core `c`: `opMfmb`. -/
def execMfmb (c : Nat) (s : State) : Res := .next (issue s c .mfmb)
/-- `MFML` (R310) at the running frame of core `c`: `opMfml`. -/
def execMfml (c : Nat) (s : State) : Res := .next (issue s c .mfml)
/-- `BZ` (R305) at the running frame of core `c`: `opBz`. -/
def execBz (c : Nat) (s : State) : Res := .next (issue s c .bz)
/-- `BNZ` (R305) at the running frame of core `c`: `opBnz`. -/
def execBnz (c : Nat) (s : State) : Res := .next (issue s c .bnz)
/-- `J` (R305) at the running frame of core `c`: `opJ`. -/
def execJ (c : Nat) (s : State) : Res := .next (issue s c .j)
/-- `CALL` (R305) at the running frame of core `c`: `opCall`. -/
def execCall (c : Nat) (s : State) : Res := .next (issue s c .call)
/-- `JR` (R305) at the running frame of core `c`: `opJr`. -/
def execJr (c : Nat) (s : State) : Res := .next (issue s c .jr)
/-- `CALLR` (R305) at the running frame of core `c`: `opCallr`. -/
def execCallr (c : Nat) (s : State) : Res := .next (issue s c .callr)
/-- `SHORT_OPERATION_WORD` (R269) at the running frame of core `c`: `opShort`. -/
def execShortOperationWord (c : Nat) (s : State) : Res := .next (issue s c .shortOperationWord)
/-- `REPI` (R313) at the running frame of core `c`: `issuePrefix`. -/
def execRepi (c : Nat) (s : State) : Res := .next (issue s c .repi)
/-- `REPU` (R313) at the running frame of core `c`: `issuePrefix`. -/
def execRepu (c : Nat) (s : State) : Res := .next (issue s c .repu)
/-- `SYNC` (R290) at the running frame of core `c`: `opSync`. -/
def execSync (c : Nat) (s : State) : Res := .next (issue s c .sync)
/-- `SYNC_TLB` (R290) at the running frame of core `c`: `opSyncTlb`. -/
def execSyncTlb (c : Nat) (s : State) : Res := .next (issue s c .syncTlb)
/-- `DBAR` (R286) at the running frame of core `c`: `opDbar`. -/
def execDbar (c : Nat) (s : State) : Res := .next (issue s c .dbar)
/-- `YIELD` (R367) at the running frame of core `c`: `opYield`. -/
def execYield (c : Nat) (s : State) : Res := .next (issue s c .yield)
/-- `SVC` (R375) at the running frame of core `c`: `opSvc`. -/
def execSvc (c : Nat) (s : State) : Res := .next (issue s c .svc)
/-- `BRK` (R375) at the running frame of core `c`: `opBrk`. -/
def execBrk (c : Nat) (s : State) : Res := .next (issue s c .brk)
/-- `ERET` (R380) at the running frame of core `c`: `opEret`. -/
def execEret (c : Nat) (s : State) : Res := .next (issue s c .eret)
/-- `ERET_DOUBLE_FAULT` (R382) at the running frame of core `c`: `opEretDoubleFault`. -/
def execEretDoubleFault (c : Nat) (s : State) : Res := .next (issue s c .eretDoubleFault)
/-- `MFC` (R297) at the running frame of core `c`: `opMfc`. -/
def execMfc (c : Nat) (s : State) : Res := .next (issue s c .mfc)
/-- `MTC` (R297) at the running frame of core `c`: `opMtc`. -/
def execMtc (c : Nat) (s : State) : Res := .next (issue s c .mtc)
/-- `SAVL` (R369) at the running frame of core `c`: `opSavl`. -/
def execSavl (c : Nat) (s : State) : Res := .next (issue s c .savl)
/-- `SAVU` (R369) at the running frame of core `c`: `opSavu`. -/
def execSavu (c : Nat) (s : State) : Res := .next (issue s c .savu)
/-- `RSTL` (R369) at the running frame of core `c`: `opRstl`. -/
def execRstl (c : Nat) (s : State) : Res := .next (issue s c .rstl)
/-- `RSTU` (R369) at the running frame of core `c`: `opRstu`. -/
def execRstu (c : Nat) (s : State) : Res := .next (issue s c .rstu)
/-- `TLBI_VA` (R315) at the running frame of core `c`: `opTlbiVa`. -/
def execTlbiVa (c : Nat) (s : State) : Res := .next (issue s c .tlbiVa)
/-- `TLBI_ASID` (R315) at the running frame of core `c`: `opTlbiAsid`. -/
def execTlbiAsid (c : Nat) (s : State) : Res := .next (issue s c .tlbiAsid)
/-- `TLBI_ALL` (R315) at the running frame of core `c`: `opTlbiAll`. -/
def execTlbiAll (c : Nat) (s : State) : Res := .next (issue s c .tlbiAll)
/-- `KEYSET` (R251) at the running frame of core `c`: `opKeyset`. -/
def execKeyset (c : Nat) (s : State) : Res := .next (issue s c .keyset)
/-- `KEYGET` (R251) at the running frame of core `c`: `opKeyget`. -/
def execKeyget (c : Nat) (s : State) : Res := .next (issue s c .keyget)
/-- `KEYCLR` (R251) at the running frame of core `c`: `opKeyclr`. -/
def execKeyclr (c : Nat) (s : State) : Res := .next (issue s c .keyclr)
/-- `PPOST` (R320) at the running frame of core `c`: `opPpost`. -/
def execPpost (c : Nat) (s : State) : Res := .next (issue s c .ppost)
/-- `PPOSTL` (R323) at the running frame of core `c`: `opPpostl`. -/
def execPpostl (c : Nat) (s : State) : Res := .next (issue s c .ppostl)
/-- `PWAIT` (R321) at the running frame of core `c`: `opPwait`. -/
def execPwait (c : Nat) (s : State) : Res := .next (issue s c .pwait)
/-- `PTEST` (R321) at the running frame of core `c`: `opPtest`. -/
def execPtest (c : Nat) (s : State) : Res := .next (issue s c .ptest)
/-- `LQTAKE` (R317) at the running frame of core `c`: `opLqtake`. -/
def execLqtake (c : Nat) (s : State) : Res := .next (issue s c .lqtake)
/-- `LCOMPL` (R319) at the running frame of core `c`: `opLcompl`. -/
def execLcompl (c : Nat) (s : State) : Res := .next (issue s c .lcompl)
/-- `ALOCK` (R322) at the running frame of core `c`: `opAlock`. -/
def execAlock (c : Nat) (s : State) : Res := .next (issue s c .alock)
/-- `AUNLOCK` (R322) at the running frame of core `c`: `opAunlock`. -/
def execAunlock (c : Nat) (s : State) : Res := .next (issue s c .aunlock)
/-- `AUNLOCKALL` (R322) at the running frame of core `c`: `opAunlockall`. -/
def execAunlockall (c : Nat) (s : State) : Res := .next (issue s c .aunlockall)
/-- `CPS_ECDSA_P256_SIGN` (R324) at the running frame of core `c`: `opCpsEcdsaP256Sign`. -/
def execCpsEcdsaP256Sign (c : Nat) (s : State) : Res := .next (issue s c .cpsEcdsaP256Sign)
/-- `CPS_ECDSA_P256_VERIFY` (R324) at the running frame of core `c`: `opCpsEcdsaP256Verify`. -/
def execCpsEcdsaP256Verify (c : Nat) (s : State) : Res := .next (issue s c .cpsEcdsaP256Verify)
/-- `CPS_ECDH_P256` (R324) at the running frame of core `c`: `opCpsEcdhP256`. -/
def execCpsEcdhP256 (c : Nat) (s : State) : Res := .next (issue s c .cpsEcdhP256)
/-- `CPS_ECDSA_P384_VERIFY` (R324) at the running frame of core `c`: `opCpsEcdsaP384Verify`. -/
def execCpsEcdsaP384Verify (c : Nat) (s : State) : Res := .next (issue s c .cpsEcdsaP384Verify)
/-- `CPS_ED25519_SIGN` (R324) at the running frame of core `c`: `opCpsEd25519Sign`. -/
def execCpsEd25519Sign (c : Nat) (s : State) : Res := .next (issue s c .cpsEd25519Sign)
/-- `CPS_ED25519_VERIFY` (R324) at the running frame of core `c`: `opCpsEd25519Verify`. -/
def execCpsEd25519Verify (c : Nat) (s : State) : Res := .next (issue s c .cpsEd25519Verify)
/-- `CPS_AES_CMAC_VERIFY` (R324) at the running frame of core `c`: `opCpsAesCmacVerify`. -/
def execCpsAesCmacVerify (c : Nat) (s : State) : Res := .next (issue s c .cpsAesCmacVerify)
/-- `CPS_SHA256` (R324) at the running frame of core `c`: `opCpsSha256`. -/
def execCpsSha256 (c : Nat) (s : State) : Res := .next (issue s c .cpsSha256)
/-- `CPS_SHA384` (R324) at the running frame of core `c`: `opCpsSha384`. -/
def execCpsSha384 (c : Nat) (s : State) : Res := .next (issue s c .cpsSha384)
/-- `CPR` (R325) at the running frame of core `c`: `opCpr`. -/
def execCpr (c : Nat) (s : State) : Res := .next (issue s c .cpr)
/-- `CX` (R327) at the running frame of core `c`: `opCx`. -/
def execCx (c : Nat) (s : State) : Res := .next (issue s c .cx)
/-- `ADDP` (R340) at the running frame of core `c`: `opAddp`. -/
def execAddp (c : Nat) (s : State) : Res := .next (issue s c .addp)
/-- `SUBP` (R340) at the running frame of core `c`: `opSubp`. -/
def execSubp (c : Nat) (s : State) : Res := .next (issue s c .subp)
/-- `MULP` (R341) at the running frame of core `c`: it goes in flight (`issueLop`), and ends at its retirement. -/
def execMulp (c : Nat) (s : State) : Res := .next (issue s c .mulp)
/-- `DIVP` (R341) at the running frame of core `c`: it goes in flight (`issueLop`), and ends at its retirement. -/
def execDivp (c : Nat) (s : State) : Res := .next (issue s c .divp)
/-- `CMPP` (R342) at the running frame of core `c`: `opCmpp`. -/
def execCmpp (c : Nat) (s : State) : Res := .next (issue s c .cmpp)
/-- `MOVP` (R340) at the running frame of core `c`: `opMovp`. -/
def execMovp (c : Nat) (s : State) : Res := .next (issue s c .movp)
/-- `NEGP` (R340) at the running frame of core `c`: `opNegp`. -/
def execNegp (c : Nat) (s : State) : Res := .next (issue s c .negp)
/-- `ABSP` (R340) at the running frame of core `c`: `opAbsp`. -/
def execAbsp (c : Nat) (s : State) : Res := .next (issue s c .absp)
/-- `CLRP` (R339) at the running frame of core `c`: `opClrp`. -/
def execClrp (c : Nat) (s : State) : Res := .next (issue s c .clrp)
/-- `SHRP` (R343) at the running frame of core `c`: `opShrp`. -/
def execShrp (c : Nat) (s : State) : Res := .next (issue s c .shrp)
/-- `SHRPR` (R343) at the running frame of core `c`: `opShrpr`. -/
def execShrpr (c : Nat) (s : State) : Res := .next (issue s c .shrpr)
/-- `TSTP` (R342) at the running frame of core `c`: `opTstp`. -/
def execTstp (c : Nat) (s : State) : Res := .next (issue s c .tstp)
/-- `LDP` (R344) at the running frame of core `c`: `opLdp`. -/
def execLdp (c : Nat) (s : State) : Res := .next (issue s c .ldp)
/-- `STP` (R344) at the running frame of core `c`: `opStp`. -/
def execStp (c : Nat) (s : State) : Res := .next (issue s c .stp)
/-- `ADDP_MEMORY` (R344) at the running frame of core `c`: `opAddpMemory`. -/
def execAddpMemory (c : Nat) (s : State) : Res := .next (issue s c .addpMemory)
/-- `SUBP_MEMORY` (R344) at the running frame of core `c`: `opSubpMemory`. -/
def execSubpMemory (c : Nat) (s : State) : Res := .next (issue s c .subpMemory)
/-- `MACP` (R346) at the running frame of core `c`: `opMacp`. -/
def execMacp (c : Nat) (s : State) : Res := .next (issue s c .macp)
/-- `CVZD` (R345) at the running frame of core `c`: `opCvzd`. -/
def execCvzd (c : Nat) (s : State) : Res := .next (issue s c .cvzd)
/-- `CVDZ` (R345) at the running frame of core `c`: `opCvdz`. -/
def execCvdz (c : Nat) (s : State) : Res := .next (issue s c .cvdz)
/-- `CVBD` (R345) at the running frame of core `c`: `opCvbd`. -/
def execCvbd (c : Nat) (s : State) : Res := .next (issue s c .cvbd)
/-- `CVDB` (R345) at the running frame of core `c`: `opCvdb`. -/
def execCvdb (c : Nat) (s : State) : Res := .next (issue s c .cvdb)
/-- `MVS` (R347) at the running frame of core `c`: it goes in flight (`issueLop`), and ends at its retirement. -/
def execMvs (c : Nat) (s : State) : Res := .next (issue s c .mvs)
/-- `MVSX` (R348) at the running frame of core `c`: it goes in flight (`issueLop`), and ends at its retirement. -/
def execMvsx (c : Nat) (s : State) : Res := .next (issue s c .mvsx)
/-- `EDIT` (R354) at the running frame of core `c`: it goes in flight (`issueLop`), and ends at its retirement. -/
def execEdit (c : Nat) (s : State) : Res := .next (issue s c .edit)
/-- `EDITM` (R355) at the running frame of core `c`: it goes in flight (`issueLop`), and ends at its retirement. -/
def execEditm (c : Nat) (s : State) : Res := .next (issue s c .editm)
/-- `CLS` (R350) at the running frame of core `c`: `opCls`. -/
def execCls (c : Nat) (s : State) : Res := .next (issue s c .cls)
/-- `SCN` (R351) at the running frame of core `c`: `opScn`. -/
def execScn (c : Nat) (s : State) : Res := .next (issue s c .scn)
/-- `SCT` (R352) at the running frame of core `c`: `opSct`. -/
def execSct (c : Nat) (s : State) : Res := .next (issue s c .sct)

end Sys2Proof.Machine
end

