-- ==== Sys2Proof/Machine/CoreEvents.lean ====
section
/-! DEFINITION. What happens in a ladle core beside the issue of instructions: fills, fetches, the store buffer, long operations, deliveries,
core starts and frame commands (07, 09, 10). -/
namespace Sys2Proof.Machine

/-- BLOCK_FETCH (R275, R276). -/
def execBlockFetch (c : Nat) (s : State) : Res := .next (fetchFor s c)

/-- A stall has ended: the frame's instruction goes on at once if the frame is running (R279, R368). -/
def proceed (s : State) (c f : Nat) (data : Bytes) (ok : Bool) : State :=
  let s1 := endWait s c f (.filled data ok)
  if (coreOf s1 c).running = some f then issueAs s1 c f none else s1

/-- L1_MISS_FILL (R279): the line is there, or the network access has been answered with `data`, or with an error. -/
def execL1MissFill (c f : Nat) (data : Bytes) (ok : Bool) (s : State) : Res :=
  .next (
    let x := frameOf s c f
    match x.wait with
    | .line l own =>
      (match l1Need s c l (pAk x.psw) own with
       | .shared => s
       | .own => s
       | _ => proceed s c f [] true)
    | .net => proceed s c f data ok
    | _ => s)

/-! The store buffer (R280 to R282). -/

/-- STORE_BUFFER_DRAIN (R280, R282), while no long operation holds the memory port (R284, R360). -/
def execStoreBufferDrain (c : Nat) (s : State) : Res := .next (if memLopBusy s c then s else drainHead s c false)

/-- The running frame's store error that may be taken now (R385). -/
def storeErrorReady (x : Frame) : Option Exc := if pMsk x.psw || !atBoundary x then none else x.ste

/-- STORE_ERROR_DELIVERY (R385): on vector 5, at a group boundary of the running frame. -/
def execStoreErrorDelivery (c : Nat) (s : State) : Res :=
  .next (match (coreOf s c).running with
    | none => s
    | some f =>
      let x := frameOf s c f
      match storeErrorReady x with
      | none => s
      | some e => (raiseAsync (setFrame s c f { x with ste := none }) c f e).getD s)

/-! Interrupts (R367, R390). -/

/-- The running frame may be left at this boundary: nothing that comes before an interrupt is due (R376). -/
def mayLeave (x : Frame) : Bool := atBoundary x && (storeErrorReady x).isNone

/-- The core switches to a frame, in 1 step. -/
def switchTo (s : State) (c g : Nat) : State :=
  let s1 := match (coreOf s c).running with
    | none => s
    | some r =>
      let s0 := stopLop s c r
      setFrame s0 c r { parkRep (frameOf s0 c r) with state := .ready }
  runFrame (spend (setCore s1 c { coreOf s1 c with running := none }) c csOther 1) c g

/-- Entry of a source's interrupt in the running frame `g`, if it may be taken at this boundary, unless its long operation meets a fault at it (R360). -/
def interruptEntry (s : State) (c g n : Nat) (src : Source) : State :=
  if mayLeave (frameOf s c g) then stopOrFault s c g fun s1 => (raiseAsync s1 c g { vec := 32 + srcPrio src, code := n }).getD s else s

/-- INTERRUPT_DELIVERY (R390): entry in the bound frame, after a switch if another runs. -/
def execInterruptDelivery (c : Nat) (s : State) : Res :=
  .next (if !coreIn s c then s else match deliverable s c none with
    | none => s
    | some (n, src) =>
      let g := srcFrame src
      match (coreOf s c).running with
      | none => interruptEntry (switchTo s c g) c g n src
      | some r =>
        if r = g then interruptEntry s c g n src
        else if mayLeave (frameOf s c r) then stopOrFault s c r fun s1 => interruptEntry (switchTo s1 c g) c g n src else s)

/-! Long operations (R283 to R287, R357 to R359). -/

/-- How many chunks or elements bound a long operation's run. -/
def lopFuel : Nat := 2 ^ 33

/-- LONG_OPERATION_RETIRE (R283, R341, R347 to R359): the operation in flight runs to its end, or to its exception. One of a frame that is
being stopped runs to its next interruption point (R365). -/
def execLongOperationRetire (c f : Nat) (s : State) : Res :=
  .next (
    let x := frameOf s c f
    match x.lop with
    | none => s
    | some (w, ad) =>
      let a := lopActor x c f
      let raised := fun (s1 : State) (e : Exc) => lopRaised s1 c f { word := w, addr := ad, exc := e, msk := pMsk x.psw }
      if hasMemLop x then
        if x.state = .stopping then settleStop (stopLop s c f) c f
        else if x.lopSb ≠ 0 then s
        else match lopRun a w lopFuel s with
          | .more s1 _ => lopEnd s1 c f
          | .fin s1 => lopEnd s1 c f
          | .exc s1 e => raised s1 e
          | .stay => s
      else match (if decode w = some .mulp then retMulp s a w else retDivp s a w) with
        | .done s1 => lopEnd s1 c f
        | .exc s1 e => raised s1 e
        | _ => s)

/-- LONG_OPERATION_RESUME (R357): the running frame's stopped operation is in flight again, once the unit is free. -/
def execLongOperationResume (c : Nat) (s : State) : Res :=
  .next (match (coreOf s c).running with
    | none => s
    | some f =>
      let x := frameOf s c f
      if !x.lov || decBusy s c then s
      else match decode x.lopw with
        | some o =>
          if isMemLongOp o then setFrame s c f { x with lov := false, lop := some (x.lopw, x.lopa), lopPsw := x.psw, lopSb := (coreOf s c).sb.length }
          else setFrame s c f { x with lov := false }
        | none => setFrame s c f { x with lov := false })

/-! Core start and frame commands (R365, R366, R384). -/

/-- Frame 0 as a core start leaves it: BOOT_EVB, BOOT_TCR and BOOT_TTB from the configuration (Table 13.8). -/
def bootFrame (s : State) (c : Nat) : Frame :=
  { state := .running, epoch := (frameOf s c 0).epoch, psw := 3, restored := true, evb := wordAt s.store.cfg 40, tcr := wordAt s.store.cfg 44, ttb := dblAt s.store.cfg 56 }

/-- CORE_START (R384). A fault in reading word 0 is a double fault. -/
def execCoreStart (c : Nat) (s : State) : Res :=
  .next (if !readyToStart s c then s else
    let s1 := setFrame s c 0 (bootFrame s c)
    let s2 := setCore s1 c { coreOf s1 c with running := some 0, starting := false }
    match vectorWord s2 c 0 0 with
    | .ok s3 h => setFrame s3 c 0 (goAt (frameOf s3 c 0) h)
    | .exc s3 e => (doubleFault s3 c 0 { e with entry := true, code := 0 } 0).getD s
    | _ => s)

/-- FRAME_START (R365), written by the management core. -/
def execFrameStart (c f : Nat) (s : State) : Res := .next (frameCommand s c f 1)
/-- FRAME_STOP (R365), written by the management core. -/
def execFrameStop (c f : Nat) (s : State) : Res := .next (frameCommand s c f 2)
/-- FRAME_RESET (R365, R366), written by the management core. -/
def execFrameReset (c f : Nat) (s : State) : Res := .next (frameCommand s c f 3)
/-- FRAME_RESET_END (R366 step 10). -/
def execFrameResetEnd (c f : Nat) (s : State) : Res := .next (frameSwept s c f)

end Sys2Proof.Machine
end

