-- ==== Sys2Proof/Machine/FabricCmds.lean ====
section
/-! DEFINITION. Cross-device postings on the fabric: the messages of Table 12.8 and the fabric unit's timers (R437, R441, R445 to R453). -/
namespace Sys2Proof.Machine

/-- The sender's endpoint. -/
def srcOfMsg (m : Msg) : Nat := bits m.src.toNat 10 0

/-! The participant (R448, R449). -/

/-- The reservation of a PREPARE (R128). -/
def prepareResv (v : PartEnt) : Nat := (v.legs.length + 4) * 32

/-- The command as the participant's ticket keeps it. -/
def prepareCmd (v : PartEnt) : Cmd :=
  { desc := fit 128 ([0x30, BitVec.ofNat 8 v.legs.length, BitVec.ofNat 8 (b2n v.prio), 0] ++ zeros 12 ++ slice v.slot 16 8), tenant := field v.slot 4 2 % 8192 }

/-- The PREPARE record of a participant (Table 3.4). -/
def prepareRec (v : PartEnt) (st : Byte) (leg : Option Nat) : Rec :=
  { kind := 0x30, status := st, rflags := BitVec.ofNat 8 (4 + b2n v.prio), info := if legCode st then infoOf leg else 0, tenant := halfAt v.slot 4, tray := 0x8000,
    body := xslot v.src 0 (byteAt v.slot 0) v.boot 0 v.xseq 0 ++ v.legs.flatten }

/-- Append a participant's PREPARE record; a stopped controller makes it a refusal with JOURNAL_FAULT (R448). -/
def prepareAppend (s : State) (e c k p : Nat) (v : PartEnt) (st : Byte) (leg : Option Nat) : State :=
  if s.jn.stopped then partRefused (partCtxEnd s v) p v stJournalFault none
  else
    let r := prepareRec v st leg
    if !canAppend s [r] then s
    else appendFor (setPart s p { v with prepSeq := s.jn.nextSeq, state := if st = stOk then .taken else .refusing }) e c k [r] {} none .xdev
           (.ctx e c (ctxOf s e c).epoch) (st != stOk)

/-- R61 over the legs that a participant carries. -/
def judgePart (s : State) (v : PartEnt) : Byte × Option Nat :=
  match evalLegs s.led (partLegs v) with | .inl _ => (stOk, none) | .inr (code, n) => (code, some n)

/-- R448: the participant's context goes on: locality, locks, the evaluation, the record. -/
def prepareGo (s : State) (p : Nat) : State :=
  match tget s.fab.parts p with
  | none => s
  | some v =>
    match v.state, v.ctx, v.ticket with
    | .taken, some (e, c), some k =>
      let x := ctxOf s e c
      if x.state ≠ .ready ∨ x.phase = .xdev then s
      else
        let s0 := takeCmd s e c k
        let ids := (partLegs v).map fun g => g.2.account.toNat
        if (partLegs v).any fun g => !isLocal s g.2.account then
          withLocks s0 e c k [] [] none (fun st => prepareAppend st e c k p v stNotLocal none) (fun st b _ => prepareAppend st e c k p v b none)
        else
          withLocks s0 e c k ids ids none (fun st => let r := judgePart st v; prepareAppend st e c k p v r.1 r.2) (fun st b _ => prepareAppend st e c k p v b none)
    | _, _, _ => s

/-- An earlier PREPARE still waits for its ticket (R449). -/
def earlierWaits (s : State) (v : PartEnt) : Bool :=
  s.fab.parts.any fun q => decide (q.2.state = .waiting) && q.2.ticket.isNone && decide (q.2.arrival < v.arrival)

/-- R449: give a waiting PREPARE a ticket if its tests pass; else note the code of the failed test. -/
def prepareTicket (s : State) (p k : Nat) : State :=
  match tget s.fab.parts p with
  | none => s
  | some v =>
    if v.state ≠ .waiting ∨ v.ticket.isSome ∨ s.eng.dayFence.isSome ∨ ¬ grantsOpen s ∨ earlierWaits s v then s
    else if !spaceOk s (prepareResv v) then setPart s p { v with code := stJournalSpace }
    else if !ticketFree s k || !tableFree s then setPart s p { v with code := stQuota }
    else setPart (newTicket s k (.peer p) (prepareCmd v) (prepareResv v)) p { v with ticket := some k }

/-- R448: the class of context that a PREPARE goes to. -/
def preparePrio (s : State) (v : PartEnt) : Bool := v.prio && prioFree s

/-- R448: a PREPARE that has its ticket goes to context `c` of engine `e`, if that is FREE and of its class; the group FXTYPE shows its message type (Table 4.5). -/
def prepareDispatch (s : State) (p e c : Nat) : State :=
  match tget s.fab.parts p with
  | none => s
  | some v =>
    match v.ticket with
    | none => s
    | some k =>
      if v.state ≠ .waiting ∨ s.eng.dayFence.isSome ∨ ¬ engineIn s e ∨ s.eng.resetting.contains e ∨ 256 ≤ c ∨ isPrioCtx c ≠ preparePrio s v ∨ (ctxOf s e c).state ≠ .free then s
      else
        let s1 := dispatchTo s k e c
        prepareGo (setPart (setCtx s1 e c { ctxOf s1 e c with groups := tset (ctxOf s1 e c).groups 5 0 (tyPrepare.toNat % 16) }) p { v with state := .taken, ctx := some (e, c) }) p

/-- A prepare slot that breaks R26 or its own counts (R442, Table 12.9). -/
def badPrepareSlot (s : State) (m : Msg) : Bool :=
  let b := slice m.body 0 32
  let op := byteAt b 0
  let n := (byteAt b 1).toNat
  let nl := (byteAt b 2).toNat
  let tenant := field b 4 2
  let legs := slots32 (m.body.drop 32)
  !(op == 0x01 || op == 0x03 || op == 0x05) || n == 0 || decide (16 < n) || decide (16 < nl) || decide (nl < n) || byteAt b 3 != 0 || decide (8191 < tenant) ||
  absentKey s tenant || field b 6 2 != 0 || !allZero (slice b 24 8) ||
  (List.range n).any (fun i => decide (nl ≤ field b 8 8 / 16 ^ i % 16)) ||
  legs.any fun g => (suspenseView (dblAt g 0)).isNone && (absentKey s (idTenant (dblAt g 0)) || (tenant != 0 && idTenant (dblAt g 0) != tenant))

/-- A PREPARE arrives (R448, R449), or one already taken goes on. -/
def execPrepare (m : PrepIn) (tk e c : Nat) (s : State) : Res :=
  .next (match m with
    | .goOn p => prepareGo s p
    | .fresh i =>
      onMsg s tyPrepare i fun st k msg =>
        let src := srcOfMsg msg
        let boot := msg.arg.setWidth 16
        let p := postKey src boot msg.xseq.toNat
        if badPrepareSlot st msg ∨ (tget st.fab.parts p).isSome then refuseMsg st k msg 0x05 true
        else
          let v : PartEnt := { src := src, xseq := msg.xseq.toNat, boot := boot, slot := slice msg.body 0 32, legs := slots32 (msg.body.drop 32), prio := bitOf msg.mflags.toNat 4,
                               waitFrom := st.tb, arrival := st.fab.arrivals }
          let s1 := ackMsg st msg
          if (tget st.fab.tombs p).isSome then sendRefused s1 v stRemoteRefused none
          else
            let s2 := setPart { s1 with fab := { s1.fab with arrivals := s1.fab.arrivals + 1 } } p v
            prepareDispatch (prepareTicket s2 p tk) p e c)

/-- R449: a waiting PREPARE is granted a ticket, or taken when the fence ends, and is dispatched. -/
def execPrepareTicketGrant (p tk e c : Nat) (s : State) : Res := .next (prepareDispatch (prepareTicket s p tk) p e c)

/-- R449: no ticket within 20 µs outside any fence. -/
def execPrepareTicketTimeout (p : Nat) (s : State) : Res :=
  .next (match tget s.fab.parts p with
    | none => s
    | some v =>
      if v.state = .waiting ∧ v.ticket.isNone ∧ s.eng.dayFence.isNone ∧ v.waitFrom + 20000 ≤ s.tb then
        sendRefused (dropPart s p) v (if v.code = stJournalSpace then stJournalSpace else stQuota) none
      else s)

/-- Answer DONE for a posting (R448, R449). -/
def sendDone (s : State) (src xseq seq : Nat) : State := (sendSeq s (mkMsg s tyDone src xseq seq []) .nobody).1

/-- A COMMIT arrives (R448). -/
def execCommit (m : MsgIn) (s : State) : Res :=
  .next (onMsg s tyCommit m fun st k msg =>
    let p := postKey (srcOfMsg msg) (msg.arg.setWidth 16) msg.xseq.toNat
    match tget st.fab.parts p with
    | none => refuseMsg st k msg 0x05 true
    | some v =>
      let s1 := ackMsg st msg
      match v.state with
      | .prepared => partDecide s1 p true
      | .closed => sendDone s1 v.src v.xseq v.doneSeq
      | _ => s1)

/-- An ABORT arrives (R448, R449). -/
def execAbort (m : MsgIn) (s : State) : Res :=
  .next (onMsg s tyAbort m fun st _ msg =>
    let p := postKey (srcOfMsg msg) (msg.arg.setWidth 16) msg.xseq.toNat
    let s1 := ackMsg st msg
    match tget s1.fab.parts p with
    | none => sendDone (tombstone s1 p) (srcOfMsg msg) msg.xseq.toNat 0
    | some v =>
      match v.state with
      | .prepared => partDecide s1 p false
      | .closed => sendDone s1 v.src v.xseq v.doneSeq
      | .waiting => sendDone (partRefused s1 p v stRemoteRefused none) v.src v.xseq 0
      | _ => s1)

/-! The coordinator (R446, R447). -/

/-- Change a participant as its coordinator sees it. -/
def modXPart (s : State) (x ep : Nat) (f : XPart → XPart) : State :=
  match tget s.fab.coords x with
  | none => s
  | some v => setCoord s x { v with parts := v.parts.map fun (p : XPart) => if sameEndpoint s p.ep ep then f p else p }

/-- PREPARED arrives. -/
def execPrepared (m : MsgIn) (s : State) : Res :=
  .next (onMsg s tyPrepared m fun st _ msg =>
    coordAdvance (modXPart (ackMsg st msg) msg.xseq.toNat (srcOfMsg msg) fun p => { p with prepared := true }) msg.xseq.toNat)

/-- REFUSED arrives (Table 12.8). -/
def execRefused (m : MsgIn) (s : State) : Res :=
  .next (onMsg s tyRefused m fun st _ msg =>
    let a := msg.arg.toNat
    coordAdvance (modXPart (ackMsg st msg) msg.xseq.toNat (srcOfMsg msg) fun p =>
      if p.refused.isSome then p else { p with refused := some (BitVec.ofNat 8 (bits a 7 0), bitOf a 12, bits a 11 8) }) msg.xseq.toNat)

/-- DONE arrives. -/
def execDone (m : MsgIn) (s : State) : Res :=
  .next (onMsg s tyDone m fun st _ msg =>
    let s1 := ackMsg st msg
    match tget s1.fab.coords msg.xseq.toNat with
    | none => s1
    | some v => if v.state = .decided then closeIfDone (modXPart s1 msg.xseq.toNat (srcOfMsg msg) fun p => { p with done := true }) msg.xseq.toNat else s1)

/-! QUERY and OUTCOME (R450, R451, R463). -/

/-- The first sequence number of the journal window: above the last SEQ of block W (R450). -/
def windowFirst (s : State) : Nat := ((windowRecs s.jn).head?.map (·.seq)).getD s.jn.nextSeq

/-- The outcome that a run of records tells of a posting (R450): 0 COMMITTED, 1 ABORTED, 3 UNKNOWN. -/
def outcomeIn (rs : List Rec) (first xseq : Nat) (bootOk : Bool) : Nat :=
  if xseq < first then 3
  else match rs.find? fun r => r.seq == xseq with
    | none => 1
    | some r =>
      if xdevPrepare r && bootOk then
        (if rs.any fun d => rXdev d && d.kind == 0x31 && field d.body 8 8 == xseq then 0 else 1)
      else 1

/-- R450: the answer of a coordinator to a QUERY: 2 PENDING while its entry is undecided. -/
def outcomeOfQuery (s : State) (xseq : Nat) (boot : Half) : Nat :=
  match tget s.fab.coords xseq with
  | some v => if v.state = .decided then (if v.commit then 0 else 1) else 2
  | none =>
    outcomeIn ((windowRecs s.jn).filter fun r => decide (r.seq ≤ s.jn.durable)) (windowFirst s) xseq
      (match recOfSeq s.jn xseq with | some (b, _) => b.boot == boot | none => false)

/-- R463: the answer for a lost partner die, from its mirror ring. -/
def outcomeOfMirror (s : State) (xseq : Nat) (boot : Half) : Nat :=
  outcomeIn s.dup.ring ((s.dup.ring.head?.map (·.seq)).getD 0) xseq
    (match s.dup.ring.find? fun r => r.seq == xseq with | some r => halfAt r.body 4 == boot | none => false)

/-- R460: the partner of a split pair is lost. -/
def partnerLost (s : State) : Bool := split s && (!s.dup.alive || s.dup.solo)

/-- A QUERY arrives for this die, or for a lost partner in split mode. -/
def execQuery (m : MsgIn) (s : State) : Res :=
  .next (
    let lost := fun (q : Msg) => partnerLost s && bits q.dst.toNat 10 0 == partnerEndpoint s
    match getMsg s (fun q => decide (q.typ = tyQuery) && (forUs s q || lost q)) m with
    | none => s
    | some (k, msg, st) =>
      match msgFault st k msg with
      | some (code, counted) => refuseMsg st k msg code counted
      | none =>
        let boot := msg.arg.setWidth 16
        let ans := if forUs st msg then outcomeOfQuery st msg.xseq.toNat boot else outcomeOfMirror st msg.xseq.toNat boot
        (sendSeq (ackMsg st msg) (mkMsg st tyOutcome (srcOfMsg msg) msg.xseq.toNat ans []) .nobody).1)

/-- Act on an outcome that a participant has learnt (R448, R451). -/
def takeOutcome (s : State) (p : Nat) (v : PartEnt) (ans : Nat) : State :=
  if v.state ≠ .prepared then s
  else if ans = 0 then partDecide s p true
  else if ans = 1 then partDecide s p false
  else if ans = 2 ∨ v.unknown then s
  else logFault (setPart s p { v with unknown := true }) 0x0B 1 v.src 0 v.xseq 0

/-- An OUTCOME arrives. In split mode it may come from the die that answers for a lost one. -/
def execOutcome (m : MsgIn) (s : State) : Res :=
  .next (onMsg s tyOutcome m fun st _ msg =>
    let s1 := ackMsg st msg
    let src := srcOfMsg msg
    match s1.fab.parts.find? fun e => decide (e.2.state = .prepared) && e.2.src % 1024 == src % 1024 && e.2.xseq == msg.xseq.toNat with
    | none => s1
    | some (p, v) => takeOutcome s1 p v (bits msg.arg.toNat 7 0))

/-! End-to-end acknowledgement and NAK (R441, R442). -/

/-- R441, R446: a place is freed; a posting whose waiting send met no path then aborts. -/
def freeSend (s : State) (ep eseq : Nat) : State :=
  let s1 := freePlace s ep eseq
  let w := e2eOf s1 ep
  if w.lost.isEmpty then s1 else w.lost.foldl (fun st x => coordAbort st x stPartnerLost) (setE2e s1 ep { w with lost := [] })

/-- The ESEQ values that an E2E_ACK acknowledges (Table 12.8). -/
def ackedSeqs (m : Msg) : List Nat :=
  ((List.range 64).filter fun i => m.arg.getLsbD i).map fun i => (field m.body 0 2 + i) % 65536

def execE2eAck (m : MsgIn) (s : State) : Res :=
  .next (onMsg s tyE2eAck m fun st _ msg => (ackedSeqs msg).foldl (fun a q => freeSend a (srcOfMsg msg) q) st)

/-- R460, R462: a path loss. -/
def pathLoss (s : State) : State :=
  if s.part ≠ .pv128d ∨ s.dup.solo ∨ s.dup.stale then s
  else if s.dup.role = 2 then logFault { s with dup := { s.dup with stale := true } } 0x0A 3 0 0 s.dup.standbyAcked 0
  else logFault { s with dup := { s.dup with solo := true, lastMirror := none } } 0x0A 2 0 0 s.dup.acked 0

/-- R464: every TLBI broadcast is acknowledged for a lost partner. -/
def ackLostTlbis (s : State) : State :=
  if partnerThere s then s
  else { s with mem := { s.mem with tlbis := (s.mem.tlbis.map fun (t : Tlbi) => { t with left := t.left.filter (· != 256) }).filter fun (t : Tlbi) => !t.left.isEmpty } }

/-- R463: the postings this die shares with a lost partner: a coordinator's prepare that the partner has not answered aborts; a participant's reads its decision from the mirror ring. -/
def resolveLost (s : State) : State :=
  let ep := partnerEndpoint s
  let xs := (s.fab.coords.filter fun (e : Nat × Coord) => e.2.parts.any fun (p : XPart) => sameEndpoint s p.ep ep && !p.prepared).map (·.1)
  let s1 := xs.foldl (fun st x => coordAbort st x stPartnerLost) s
  (s1.fab.parts.filter fun (e : Nat × PartEnt) => decide (e.2.state = .prepared) && e.2.src == ep).foldl
    (fun st e => takeOutcome st e.1 e.2 (outcomeOfMirror st e.2.xseq e.2.boot)) s1

/-- R460, R462, R463: the partner path is lost while the partner is alive. -/
def losePath (s : State) : State :=
  let was := partnerLost s
  let s1 := ackLostTlbis (pathLoss s)
  if split s1 ∧ ¬ was then resolveLost s1 else s1

/-- A NAK ends the message it names: FXRES 4 for NO_ROUTE, 2 for any other code. -/
def execNak (m : MsgIn) (s : State) : Res :=
  .next (onMsg s tyNak m fun st _ msg =>
    let code := bits msg.arg.toNat 7 0
    let q := bits msg.arg.toNat 31 16
    if byteAt msg.body 0 = tyMirror then (if code = 8 then losePath st else st)
    else
      let ep := field msg.body 2 2 % 2048
      match (e2eOf st ep).out.find? fun (x : Sent) => x.eseq == q with
      | none => st
      | some x =>
        let s1 := freeSend st ep q
        match x.owner with
        | .coord xs =>
          if code = 6 then coordAbort s1 xs stPartnerLost
          else coordAdvance (modXPart s1 xs ep fun p => if p.refused.isSome then p else { p with refused := some (stRemoteRefused, false, 0) }) xs
        | _ => s1)

/-- R437: a message for another device, or one that no row of this die takes, goes on or is dropped with its NAK. -/
def execMessageRoute (m : MsgIn) (s : State) : Res :=
  .next (
    let known := fun (q : Msg) => (decide (1 ≤ q.typ.toNat) && decide (q.typ.toNat ≤ 0x0C)) || q.typ == tyCxResp || q.typ == tyHeartbeat
    match getMsg s (fun q => !(known q && forUs s q)) m with
    | none => s
    | some (k, msg, st) =>
      match msgFault st k msg with
      | some (code, counted) => refuseMsg st k msg code counted
      | none =>
        if !known msg then refuseMsg st k msg 0x03 true
        else if 4 ≤ bits msg.mflags.toNat 3 1 then nakMsg st msg 0x06
        else
          let r := transmit st msg (decide (32 ≤ k))
          if r.2 then r.1 else nakMsg st msg 0x06)

/-! Timers and registers. -/

/-- R441: 20 µs with neither acknowledgement nor NAK. -/
def execAckTimeout (ep eseq : Nat) (s : State) : Res :=
  .next (
    let w := e2eOf s ep
    match w.out.find? fun (x : Sent) => x.eseq == eseq with
    | none => s
    | some x =>
      if x.timedOut ∨ s.tb < x.sentAt + 20000 then s
      else
        let s1 := setE2e s ep { w with out := w.out.map fun (y : Sent) => if y.eseq = eseq then { y with timedOut := true } else y }
        match x.owner with
        | .coord xs => coordAbort s1 xs stAckTimeout
        | _ => s1)

/-- R441: 1 ms after the send the place is freed. -/
def execMessageAbandon (ep eseq : Nat) (s : State) : Res :=
  .next (match (e2eOf s ep).out.find? fun (x : Sent) => x.eseq == eseq with
    | none => s
    | some x =>
      if s.tb < x.sentAt + 1000000 then s
      else freeSend { s with fab := { s.fab with abandon := true, abandons := sat (2 ^ 64 - 1) (s.fab.abandons + 1) } } ep eseq)

/-- R446: the prepare timeout of 50 µs. -/
def execPrepareTimeout (x : Nat) (s : State) : Res :=
  .next (match tget s.fab.coords x with
    | none => s
    | some v => if v.state = .preparing ∧ ¬ isStandby s ∧ v.lastPrepare + 50000 ≤ s.tb ∧ (v.parts.any fun p => !p.prepared) then coordAbort s x stRemoteTimeout else s)

/-- R446: the decision goes again to a participant that has not answered DONE. -/
def execDecisionResend (x ep : Nat) (s : State) : Res :=
  .next (match tget s.fab.coords x with
    | none => s
    | some v =>
      if v.state = .decided ∧ ¬ isStandby s ∧ (v.parts.any fun p => p.ep == ep && !p.done && decide (p.lastSend + 100000 ≤ s.tb)) then sendDecision s x ep else s)

/-- R451, R463: a participant asks for the decision, or reads it from the mirror ring of a lost partner. -/
def execParticipantQueryPeriod (p : Nat) (s : State) : Res :=
  .next (match tget s.fab.parts p with
    | none => s
    | some v =>
      if v.state ≠ .prepared ∨ isStandby s ∨ s.tb < v.preparedAt + 100000 ∨ s.tb < v.lastQuery + 100000 then s
      else
        let v1 := { v with lastQuery := s.tb }
        if partnerLost s && v.src == partnerEndpoint s then takeOutcome (setPart s p v1) p v1 (outcomeOfMirror s v.xseq v.boot)
        else (sendSeq (setPart s p v1) (mkMsg s tyQuery v.src v.xseq v.boot.toNat []) (.part p)).1)

/-- R448: a tombstone expires. -/
def execTombstoneExpiry (p : Nat) (s : State) : Res :=
  .next (match tget s.fab.tombs p with
    | none => s
    | some t => if t ≤ s.tb then { s with fab := { s.fab with tombs := tdel s.fab.tombs p } } else s)

/-- R453: FX_FORGET. -/
def writeForget (s : State) (v : Dbl) : State :=
  match tget s.fab.coords v.toNat with
  | none => s
  | some x => if x.state = .decided then logFault (dropCoord s v.toNat) 0x0B 2 (ownEndpoint s) 0 v.toNat 0 else s

def execFxForget (v : Dbl) (s : State) : Res := .next (writeForget s v)

end Sys2Proof.Machine
end

