-- ==== Sys2Proof/Machine/DuplexCmds.lean ====
section
/-! DEFINITION. The partner path of a PV-128D: mirroring, heartbeats, the loss of the partner, takeover (R456 to R464). -/
namespace Sys2Proof.Machine

/-! The mirror (R458, R459). -/

/-- R458: take one mirrored record on the standby: the next one is placed, one not yet applied is replaced, one beyond a gap is left. -/
def standbyTake (s : State) (r : Rec) : State :=
  let d := s.dup
  if r.seq = d.standbyAcked + 1 then { placeMirrored s r with dup := { d with standbyAcked := r.seq } }
  else if d.applied < r.seq ∧ r.seq ≤ d.standbyAcked then replaceRec s r
  else s

/-- R458: where the mirror ring lies: DESIGN CHOICE (log 101), at the base of the lowest region that matches the partner path in the general area. -/
def mirrorBase (s : State) : Option Nat :=
  ((List.range 64).map fun n => (n, bits (mpuReg s n 0).toNat 45 12 * 4096)).findSome? fun e =>
    if regionMatches s partnerMaster e.2 e.1 && (match areaOf s e.2 with | .general => true | _ => false) then some e.2 else none

/-- Where the next `n` bytes go in the mirror ring, which is the size of the journal ring: after what it holds, or at its start again. -/
def mirrorOff (s : State) (n : Nat) : Nat := if 65536 * ringSlots s.part < s.dup.ringAt + n then 0 else s.dup.ringAt

/-- R458, R235: the mirrored bytes are written in HBM as fabric ingress of the partner path, or the first refusal. -/
def mirrorPut (s : State) (b : Bytes) : State ⊕ (Nat × Refuse) :=
  match mirrorBase s with
  | none => .inr (0, { cause := 1 })
  | some base =>
    let a := base + mirrorOff s b.length
    match refusedPart s partnerMaster .write (lineParts (b.length + 1) a b.length) with
    | some r => .inr r
    | none => let s1 := masterWriteAll (b.length + 1) s a b; .inl { s1 with dup := { s1.dup with ringAt := mirrorOff s b.length + b.length } }

/-- R458: take one mirrored record into the mirror ring. -/
def ringTake (ring : List Rec) (r : Rec) : List Rec :=
  let next := ((ring.getLast?).map (·.seq + 1)).getD r.seq
  if r.seq = next then ring ++ [r] else ring.map fun (x : Rec) => if x.seq = r.seq then r else x

/-- The highest number in the mirror ring. -/
def ringLast (ring : List Rec) : Nat := ((ring.getLast?).map (·.seq)).getD 0

/-- A MIRROR message: records written to the standby's journal, or to the mirror ring, and acknowledged (R458). -/
def takeMirror (s : State) (k : Nat) (m : Msg) : State :=
  let rs := recordsOf m.body.length m.body
  if isStandby s then
    if s.dup.stale then s
    else
      let s1 := rs.foldl standbyTake s
      ackMirror s1 s1.dup.standbyAcked
  else if split s then
    match mirrorPut s (rs.flatMap recordBytes) with
    | .inl s0 =>
      let s1 := { s0 with dup := { s0.dup with ring := rs.foldl ringTake s0.dup.ring } }
      ackMirror s1 (ringLast s1.dup.ring)
    | .inr r =>
      let f := takeFree 46 s
      let x := if (mirrorBase s).isSome then (r.1, s) else (f.1.toNat, f.2)
      refuseMsg (logRefusal x.2 partnerMaster x.1 .write r.2) k m 0x08 false
  else s

def execMirror (m : MsgIn) (s : State) : Res := .next (onMsg s tyMirror m takeMirror)

/-- R494: the standby has joined: SOLO ends, and every record beyond its acknowledgement is sent. -/
def resumeMirror (s : State) (n : Nat) : State :=
  let s1 := { s with dup := { s.dup with solo := false, alive := true, acked := n, lastMirror := none, lastFlit := s.tb } }
  (recsFrom s1.jn (n + 1)).foldl (fun st r => mirrorOut st [r]) s1

/-- A MIRROR_ACK: DURABLE_SEQ may advance to the number it names (R458). -/
def takeMirrorAck (s : State) (n : Nat) : State :=
  if s.jn.nextSeq ≤ n then s
  else if s.dup.solo then (if mirrored s ∧ s.dup.role = 1 then resumeMirror s n else s)
  else
    let a := max s.dup.acked n
    { s with dup := { s.dup with acked := a, lastMirror := if a + 1 = s.jn.nextSeq then none else some s.tb } }

def execMirrorAck (m : MsgIn) (s : State) : Res := .next (onMsg s tyMirrorAck m fun st _ msg => takeMirrorAck st msg.arg.toNat)

/-- R459: apply the mirrored records up to `n` under the LAST_SEQ rule. -/
def applyMirrored (s : State) (n : Nat) : State :=
  let top := min n s.dup.standbyAcked
  let rs := (recsFrom s.jn (s.dup.applied + 1)).filter fun r => decide (r.seq ≤ top)
  let s1 := rs.foldl replayRec s
  { s1 with dup := { s1.dup with applied := max s1.dup.applied top } }

/-- A HEARTBEAT: the standby applies what is durable on the serving die (R456, R459). -/
def execHeartbeat (m : MsgIn) (s : State) : Res :=
  .next (onMsg s tyHeartbeat m fun st _ msg => if isStandby st && !st.dup.stale then applyMirrored st msg.arg.toNat else st)

/-! The loss of the partner (R460 to R464). -/

/-- R461: the standby becomes the serving die. -/
def takeOver (s : State) : State :=
  let s1 := applyMirrored s s.dup.standbyAcked
  let n := s1.dup.standbyAcked
  let j := { s1.jn with durable := n, nextSeq := n + 1 }
  let bs := scanBlocks s.tb j
  let top := ((bs.getLast?).map (·.no)).getD 0
  let s2 := { s1 with jn := { j with blocks := bs, nextBlock := top + 1, lastClosed := top, lastHash := ((bs.getLast?).map chainHash).getD 0, sealedSeq := latestSeal bs, restart := true },
                      dup := { s1.dup with role := 1, solo := true, takeovers := sat 255 (s1.dup.takeovers + 1) } }
  let s3 := resolveXdev (appendRecs s2 [startRec s2 true n] .start)
  logFault (pulseSrc s3 0x152) 0x0A 1 0 0 n 0

/-- R460, R461, R463: the partner's die-alive line falls. -/
def execDieAliveFall (s : State) : Res :=
  .next (
    if s.part ≠ .pv128d ∨ s.dup.alive = false then s
    else
      let s1 := ackLostTlbis { s with dup := { s.dup with alive := false } }
      if isStandby s1 then (if s1.dup.stale ∨ s1.mgmt.state ≠ .service then s1 else takeOver s1)
      else
        let s2 := if s1.dup.solo then s1 else logFault { s1 with dup := { s1.dup with solo := true, lastMirror := none } } 0x0A 2 0 0 s1.dup.acked 0
        if split s2 ∧ ¬ s1.dup.solo then resolveLost s2 else s2)

/-- R460: the partner path shows no flit for 4 µs while the line stays high. -/
def execPartnerPathSilence (s : State) : Res :=
  .next (if s.dup.alive = true ∧ s.dup.lastFlit + 4000 ≤ s.tb then losePath s else s)

/-- R460: no MIRROR_ACK for 4 µs. -/
def execMirrorAckTimeout (s : State) : Res :=
  .next (match s.dup.lastMirror with
    | none => s
    | some t => if t + 4000 ≤ s.tb then losePath s else s)

end Sys2Proof.Machine
end

