-- ==== Sys2Proof/Machine/EventCmds.lean ====
section
/-! DEFINITION. The commands of the event controller, the directories, the TLB broadcasts, the scrubber and the debug master (R387 to R394,
R406, R418, R422, R505). -/
namespace Sys2Proof.Machine

/-! The event controller. -/

/-- The level at a source's input, for the level inputs of Table 10.14: queue q holds a command. -/
def inputLevel (s : State) (n : Nat) : Bool := !(queueOf s n).isEmpty

/-- EVENT_SOURCE_INPUT (R388): a pulse, or a level input as it stands. -/
def execEventSourceInput (n : Nat) (s : State) : Res :=
  .next (if n < 16 then levelSrc s n (inputLevel s n) else if 0x200 ≤ n then s else pulseSrc s n)

/-- COALESCE_TIME (R388): the first timebase multiple of 64 at or after t0 + TIME × 64 has come. -/
def execCoalesceTime (n : Nat) (s : State) : Res :=
  .next (
    let x := srcOf s n
    if srcEn x ∧ x.state = .idle ∧ 0 < x.cnt ∧ srcTime x ≠ 0 ∧ srcSense x ≠ 0 ∧ up64 (x.t0 + srcTime x * 64) ≤ s.tb then
      setSrc s n { x with state := .pending, cnt := 0 }
    else s)

/-- CLAIM (R391), read by frame `f` of core `c`. -/
def execClaim (c f : Nat) (s : State) : Res := .next (if coreIn s c ∧ f < nFrames s then (claim s c f).2 else s)
/-- EOI (R392), written by frame `f` of core `c`. -/
def execEoi (c f : Nat) (s : State) : Res := .next (if coreIn s c ∧ f < nFrames s then eoi s c f else s)
/-- EC_SET (R394). -/
def execEcSet (v : Dbl) (s : State) : Res := .next (writeEcSet s v)
/-- A write of TB_CMPk (R394). -/
def execTbCmpWrite (k : Nat) (v : Dbl) (s : State) : Res := .next (writeCmp s k v)
/-- The timebase reaches a comparator's value (R394). -/
def execTbCmpFire (k : Nat) (s : State) : Res := .next (fireCmp s k)
/-- A write of SRC_CFGn (R394). -/
def execSrcCfgWrite (n : Nat) (v : Dbl) (s : State) : Res := .next (if n < 0x400 then writeSrcCfg s n v else s)

/-! The directories (R422). -/

/-- R420: the frames of a core that wait for lines, oldest first; 16 of these misses are outstanding, a further one waits. -/
def misses (s : State) (c : Nat) : List Nat :=
  (coreOf s c).missQ.filter fun f => match (frameOf s c f).wait with | .line _ _ => true | _ => false

/-- The key of core `c`'s request for a line: a frame whose miss on it is outstanding, or the store at the head of its buffer once its checks pass. -/
def requestKey (s : State) (c l : Nat) (own : Bool) : Option Nat :=
  match ((misses s c).take 16).find? fun f => decide ((frameOf s c f).wait = .line l own) with
  | some f => some (pAk (frameOf s c f).psw)
  | none => if !own || decide (16 ≤ (misses s c).length) then none else match (coreOf s c).sb with
    | [] => none
    | e :: _ => if lineOfPa e.pa = l ∧ (checkPa s (sbMaster c e) e.pa .write).isNone ∧ ¬ busFails s e.pa then some e.key else none

/-- GetS (Table 11.17). -/
def execGets (c l : Nat) (s : State) : Res :=
  .next (match requestKey s c l false with
    | some k => if (l1Of s c l).isNone then getS s c l k else s
    | none => s)

/-- R425: the other cores whose requests for ownership of a line have arrived. -/
def losersOf (s : State) (c l : Nat) : List Nat :=
  (s.cores.cores.map (·.1)).filter fun d => d != c && (requestKey s d l true).isSome

/-- The access that asked for a core's ownership of a line is still to be performed: a frame waits for the line or has it and has not gone on, or the
line is that of the oldest buffered store. -/
def stillAsks (s : State) (c l : Nat) : Bool :=
  ((coreOf s c).frames.any fun e => match e.2.wait with | .line x own => own && x == l | .filled _ _ => true | _ => false) ||
  (match (coreOf s c).sb with | e :: _ => lineOfPa e.pa == l | [] => false)

/-- R425: core `c`'s request lost to the owner's, whose first store or CAS is still to be performed. -/
def mustWait (s : State) (c l : Nat) : Bool :=
  match dirOf s l with | some d => d.losers.contains c && stillAsks s d.owner l | none => false

/-- R422, R425: a request for ownership is granted, ahead of the others that have arrived for the line. -/
def grantOwner (s : State) (c l key : Nat) : State :=
  let s1 := getM s c l key
  match dirOf s1 l with | some d => setDir s1 l { d with losers := losersOf s c l } | none => s1

/-- GetM (Table 11.17): ownership without a copy. -/
def execGetm (c l : Nat) (s : State) : Res :=
  .next (match requestKey s c l true with
    | some k => if (l1Of s c l).isNone && !mustWait s c l then grantOwner s c l k else s
    | none => s)

/-- The core holds the line in S or O. -/
def heldShared (s : State) (c l : Nat) : Bool :=
  match l1Of s c l with | some x => x.st == .s || x.st == .o | none => false

/-- Upgrade (Table 11.17): one whose copy has gone meanwhile is served as GetM. -/
def execUpgrade (c l : Nat) (s : State) : Res :=
  .next (match requestKey s c l true with
    | some k => if ((l1Of s c l).isNone || heldShared s c l) && !mustWait s c l then grantOwner s c l k else s
    | none => s)

/-- PutM, PutO, PutE (Table 11.17). -/
def execPutm (c l : Nat) (s : State) : Res :=
  .next (match l1Of s c l with
    | some x => if x.st = .s then s else evict s c l
    | none => s)

/-! TLB broadcasts (R418). -/

/-- A unit that has no access outstanding under what a broadcast removes. -/
def tlbiClear (s : State) (unit : Nat) (k : TlbiKind) : Bool := decide (128 ≤ unit) || !(coreOf s unit).sb.any (tlbiHolds k)

/-- R418 stage 1 at a unit: a core, or an engine, whose entries only TLBI.ALL removes (R419). -/
def tlbiAt (s : State) (unit : Nat) (k : TlbiKind) : State :=
  if unit < 128 then tlbiRemove s unit k else if unit < 256 ∧ k = .all then clearEngTlb s (unit - 128) else s

/-- R418: a broadcast of the partner die goes to this die's cores and engines, as if one of its cores had issued it. -/
def tlbiHeard (s : State) (k : TlbiKind) : State :=
  let us := (tlbiUnits s 256).filter (· != 256)
  if !partnerThere s || us.isEmpty then s else { s with mem := { s.mem with tlbis := s.mem.tlbis ++ [{ core := 256, kind := k, left := us }] } }

/-- A unit receives the `i`th broadcast. -/
def tlbiTake (i unit : Nat) (s : State) : State :=
  match s.mem.tlbis[i]? with
    | none => s
    | some t =>
      if !t.left.contains unit then s
      else
        let s1 := tlbiAt s unit t.kind
        if !tlbiClear s1 unit t.kind then s1
        else
          let left := t.left.filter (· != unit)
          { s1 with mem := { s1.mem with tlbis := if left.isEmpty then s1.mem.tlbis.eraseIdx i else s1.mem.tlbis.set i { t with left := left } } }

/-- TLBI_RECEIPT (R418): a unit removes what the `i`th broadcast names, and acknowledges once its accesses under it are done; or
this die receives a broadcast of the partner die. -/
def execTlbiReceipt (b : TlbiRef) (unit : Nat) (s : State) : Res :=
  .next (match b with | .heard k => tlbiHeard s k | .nth i => tlbiTake i unit s)

/-! Memory errors (R406, Tables 11.6, 11.7). -/

/-- What the scrubber finds in one line of a slice: an error it corrects, or one it cannot. Then L1 copies go, and dirty data that covers the whole line
clears the poison (Table 11.18). -/
def scrubLine (slice : Nat) (s : State) (e : Nat × Bool) : State :=
  if sliceOf s e.1 ≠ slice ∨ ¬ isHbm s (e.1 * 128) then s
  else if e.2 then { s with mem := { s.mem with ce := sat (2 ^ 64 - 1) (s.mem.ce + 1) } }
  else if s.mem.poison.contains e.1 then s
  else
    let s1 := invalidateLine (uncorrectable s slice e.1 false) e.1
    if heldDirty s e.1 = BitVec.allOnes 128 then { s1 with mem := { s1.mem with poison := s1.mem.poison.filter (· != e.1) } } else s1

/-- SCRUB_PASS (R406): one pass of a slice over its HBM; `found` lists the lines with an error and whether it is correctable. -/
def execScrubPass (slice : Nat) (found : List (Nat × Bool)) (s : State) : Res :=
  .next (if s.mem.scrubEn then found.foldl (scrubLine slice) s else s)

/-! Debug (Table 6.1, R243, R505). -/

/-- A debug read of bytes within one line: refused or unmapped, it returns zeros. -/
def debugPart (s : State) (pa n : Nat) : Bytes × State :=
  match checkPa s debugMaster pa .read with
  | some r => (zeros n, logRefusal s debugMaster pa .read r)
  | none => match areaOf s pa with
    | .control => if pa % 8 + n ≤ 8 ∧ ctlExists s (pa - paControl) then ctlRead s 0 0 (pa - paControl) n else (zeros n, s)
    | .mgmt => let r := takeFree (8 * n) s; (le n r.1.toNat, r.2)
    | .general => if poisoned s pa then (zeros n, noteSram s (lineOfPa pa)) else (memBytes s pa n, grantBits (masterRead s (lineOfPa pa)) pa false)
    | .pantry _ => (memBytes s pa n, s)
    | _ => (zeros n, s)

/-- A debug read, line by line (R423). -/
def debugRead (s : State) (pa len : Nat) : State :=
  let r := (lineParts (len + 1) pa len).foldl (fun (a : Bytes × State) p => let x := debugPart a.2 p.1 p.2; (a.1 ++ x.1, x.2)) ([], s)
  emit r.2 (.tap r.1)

/-- A debug write of control space; the MPU block takes it at once (R240). -/
def debugCtl (s : State) (off : Nat) (b : Bytes) : State :=
  if off < 0x101000 then
    let o := off / 8 * 8 - 0x100000 + 0x9000
    mpuBlockWrite s o (dblAt (patch (le 8 (if ctlActs (off / 8 * 8) then 0 else (mpuBlockRead s o).toNat)) (off % 8) b) 0)
  else ctlWrite s 0 0 off true b

/-- A debug write of bytes within one line: refused or unmapped, it is discarded. -/
def debugPut (s : State) (pa : Nat) (b : Bytes) : State :=
  match checkPa s debugMaster pa .write with
  | some r => logRefusal s debugMaster pa .write r
  | none => match areaOf s pa with
    | .control => if pa % 8 + b.length ≤ 8 ∧ ctlExists s (pa - paControl) then debugCtl s (pa - paControl) b else s
    | .general => masterWrite s pa b
    | .pantry _ => setMemBytes s pa b
    | _ => s

/-- A debug write, line by line. -/
def debugWrite (s : State) (pa : Nat) (b : Bytes) : State :=
  (lineParts (b.length + 1) pa b.length).foldl (fun st p => debugPut st p.1 (slice b (p.1 - pa) p.2)) s

/-- OMESQUE_PRIVATE_INSTRUCTION (R505): nothing while debug access is closed; then what the debug master may do. -/
def execOmesquePrivateInstruction (op : DebugOp) (s : State) : Res :=
  .next (if !s.store.debugOpen then s else match op with
    | .nothing => s
    | .read pa len => debugRead s pa len
    | .write pa data => debugWrite s pa data)

end Sys2Proof.Machine
end

