-- ==== Sys2Proof/Machine/MailboxOps.lean ====
section
/-! DEFINITION. The mailbox: taking a request, answering it, and what the commands' rules share (R484 to R495). -/
namespace Sys2Proof.Machine

/-! Requests and answers (R484, R485). -/

def mbOk : Byte := 0
def mbBadCmd : Byte := 1
def mbBadState : Byte := 2
def mbBadArg : Byte := 3
def mbDmaFail : Byte := 4
def mbVerifyFail : Byte := 5
def mbGap : Byte := 6
def mbDenied : Byte := 7
def mbStoreFault : Byte := 8
def mbMismatch : Byte := 9

/-- What a command answers: status, DETAIL, result bytes from byte 8, and what follows the answer. -/
structure MbAns where
  status : Byte := 0
  detail : Nat := 0
  results : Bytes := []
  after : AfterCmd := .nothing
deriving DecidableEq, Repr

/-- MB_RESP (R484). -/
def respBytes (req : Bytes) (a : MbAns) : Bytes :=
  fit 256 ([byteAt req 0, a.status] ++ slice req 2 2 ++ le 4 a.detail ++ a.results)

/-- The request of a row: the one that GO latched when it is for this row, else the row's own. -/
def mbReq (s : State) (cmd : Byte) (m : MbIn) : Bytes :=
  match s.mgmt.latched with
  | some r => r
  | none => [cmd, 0] ++ le 2 m.tag.toNat ++ zeros 4 ++ fit 248 m.args

/-- R485: a command is running, or GO has latched a request for another one. -/
def mbBusy (s : State) (cmd : Byte) : Bool :=
  s.mgmt.running.isSome || (match s.mgmt.latched with | some r => byteAt r 0 != cmd | none => false)

/-- The mailbox is open from step 3 on, and in every HELD state (Table 13.4). -/
def mbOpen (s : State) : Bool := s.mgmt.state != .boot && s.mgmt.state != .down

/-- R485: OVERRUN. -/
def mbOverrun (s : State) : State := { s with mgmt := { s.mgmt with overrun := true } }

/-- The answer of a running command is ready; MAILBOX_COMMAND_END writes it. -/
def mbFinish (s : State) (req : Bytes) (a : MbAns) : State :=
  { s with mgmt := { s.mgmt with latched := some req, running := some { resp := respBytes req a, after := a.after, silent := ((s.mgmt.running.map (·.silent)).getD false) } } }

/-- The reserved bytes of MB_REQ, and every argument byte from `n` on, are zero (R484, Table 13.14). -/
def mbArgsOk (req : Bytes) (n : Nat) : Bool := byteAt req 1 == 0 && allZero (slice req 4 4) && allZero (req.drop (8 + n))

/-- R485, R486: run a command: BAD_STATE before everything else, then the reserved bytes, then its own rules. `n` is how many argument bytes it has. -/
def mailbox (s : State) (cmd : Byte) (n : Nat) (m : MbIn) (allowed : State → Bool) (f : State → Bytes → Option Bytes → State × MbAns) : State :=
  if !mbOpen s then s
  else if mbBusy s cmd then mbOverrun s
  else
    let req := mbReq s cmd m
    let barred := decide (s.mgmt.state = .held) && s.mgmt.reason == 0x0F && !(cmd == 1 || cmd == 0x0C || cmd == 0x0D)
    if barred || !allowed s then mbFinish s req { status := mbBadState }
    else if !mbArgsOk req n then mbFinish s req { status := mbBadArg }
    else
      let r := f s (req.drop 8) m.dma
      mbFinish r.1 req r.2

def heldFor (s : State) (reason : Byte) : Bool := s.mgmt.state == .held && s.mgmt.reason == reason
def isHeld (s : State) : Bool := s.mgmt.state == .held
def heldOrService (s : State) : Bool := isHeld s || inService s
/-- HELD after step 7, or SERVICE (Table 13.13). -/
def afterStep7 (s : State) : Bool := (isHeld s && decide (7 ≤ s.mgmt.step)) || inService s

/-- A DMA read by PF0 of port 0 (R485): the bytes, or none when it fails. -/
def mbRead (s : State) (addr : Dbl) (len : Nat) (d : Option Bytes) : State × Option Bytes := (emit s (.read 0 addr len), d.map (fit len))

/-- Whether the journal store completes a write of its control area: left to the outside. -/
def storeWrites (s : State) : Bool × State := (Config.choice s.fresh, { s with fresh := s.fresh + 1 })

/-! GET_INFO (Table 13.15). -/

/-- SEAL_PUB: none when there is no seal key. -/
def sealPub (s : State) : Bytes :=
  match s.store.sealKey, s.store.sealPriv with
  | some k, some p => if k.alg = 1 then le 64 (Config.publicKey k.alg p).toNat else le 32 (Config.publicKey k.alg p).toNat ++ zeros 32
  | _, _ => zeros 64

/-- The provisioning key, unwrapped (R488). -/
def provPriv (s : State) : Option (BitVec 256) :=
  match s.store.provKey with
  | none => none
  | some k => Config.gcmOpen Config.deviceKey k.iv ([k.alg] ++ le 2 k.keyId.toNat) k.key k.tag

def provPub (s : State) : Bytes := match provPriv s with | some p => le 64 (Config.publicKey 1 p).toNat | none => zeros 64

/-- ALG and KEY_ID of the seal key in use. -/
def sealIds (s : State) : Byte × Half :=
  match s.store.sealKey with | some k => (if s.store.sealPriv.isSome then k.alg else 0, k.keyId) | none => (0, 0)

def infoBytes (s : State) : Bytes :=
  le 8 Config.serial.toNat ++ le 8 s.store.bootCount ++ [steppingByte, (sealIds s).1] ++ le 2 (sealIds s).2.toNat ++ le 4 s.store.fwVersion.toNat ++
  le 4 s.eng.patchId.toNat ++ le 2 s.store.abi.toNat ++ ([1, 2, 3].map fun k => BitVec.ofNat 8 (fusedSvn s k)) ++ zeros 7 ++ sealPub s ++ provPub s ++
  le 8 (cfgGen s) ++ le 8 s.store.debugNonce.toNat

/-! Configuration (R478, R479). -/

/-- GEN of a copy, when it is intact. -/
def copyGen (b : Bytes) : Option Nat := if cfgIntact b then some (field b 8 8) else none

/-- R479: GEN exceeds that of both copies. -/
def genAbove (s : State) (b : Bytes) : Bool :=
  (match copyGen s.store.cfgA with | some g => decide (g < field b 8 8) | none => true) &&
  (match copyGen s.store.cfgB with | some g => decide (g < field b 8 8) | none => true)

/-- R479: write a block over the copy that was not selected; A when none was. -/
def putConfig (s : State) (b : Bytes) : State :=
  if s.store.cfg ≠ [] ∧ ¬ s.store.cfgFromB then { s with store := { s.store with cfgB := b } }
  else { s with store := { s.store with cfgA := b } }

/-! Recovery (R489 to R492). -/

/-- R489: the empty ledger. Its blocks open UNSEALED, since its seal key is gone (R126). -/
def newLedger (s : State) : State :=
  sealFail { s with
    guard := { s.guard with keys := s.guard.keys.foldl (fun (t : Tbl TenantKey) e => tset t e.1 {} { mpuViol := e.2.mpuViol }) [] },
    store := { s.store with sealKey := none, sealPriv := none, ledgerId := dblAt s.store.cfg 16, bootCount := 0, pfSeq := 0, flogCount := 0, magic := true },
    jn := { s.jn with blocks := [], durable := 0, nextSeq := 1, nextBlock := 1, restart := false, lastClosed := 0, lastHash := 0, wm := 0, drained := 0, sealReqs := [], sealDone := [], sealedSeq := 0 },
    led := {}, recov := {}, dup := { s.dup with stale := false } }

/-- The header of a piece at offset 0 (R490): what is wrong with it. -/
def headFault (s : State) (b : Bytes) : Option Byte :=
  if b.length < 4096 ∨ headBad s b = true then some mbBadArg
  else if countsBad s (imgHead b) then some mbDenied
  else none

/-- R490: take one piece of the image. -/
def takePiece (s : State) (off : Nat) (b : Bytes) : State × MbAns :=
  match (if off = 0 then headFault s b else none) with
  | some st => (s, { status := st })
  | none =>
    let img := s.recov.image ++ b
    let h := imgHead img
    if imgLen h < img.length then (s, { status := mbBadArg })
    else if img.length < imgLen h then ({ s with recov := { s.recov with image := img } }, {})
    else if Config.sha256 (img.drop 4096) ≠ h.digest then ({ s with recov := {}, led := {} }, { status := mbVerifyFail })
    else ({ s with recov := { s.recov with image := img, loaded := true, s := h.s, e := h.e, digest := h.digest, lastSeq := h.s }, led := imgLedger img }, {})

/-- A block of the store window with a number (R491). -/
def windowBlock (s : State) (n : Nat) : Option Block := s.jn.blocks.find? fun b => b.no == n && decide (s.jn.wm < b.no)

/-- R491: whether a block may come next: the status that refuses it. `prev` is the block before it in this command. -/
def blockFault (s : State) (prev : Option Block) (b : Block) : Option Byte :=
  let r := s.recov
  let joins : Bool := match prev with
    | some p => decide (b.no = p.no + 1) && decide (b.prevHash = chainHash p)
    | none => decide (b.no < r.nextBlock) || (decide (b.no = r.nextBlock) && decide (b.prevHash = r.lastHash))
  if r.nextBlock = 0 ∧ prev.isNone then
    (if b.firstSeq ≤ r.s + 1 ∧ r.s + 1 ≤ b.lastSeq ∧ (r.loaded = true ∨ b.no = 1) then none else some mbGap)
  else if !joins then some mbVerifyFail
  else match windowBlock s b.no with
    | some w => if chainHash w = chainHash b then none else some mbVerifyFail
    | none => none

/-- R491: check and replay the supplied slots in order. -/
def takeBlocks (s : State) (prev : Option Block) : List Bytes → State × MbAns
  | [] => (s, { detail := s.recov.nextBlock, results := le 8 s.recov.lastSeq })
  | x :: rest =>
    match blockOf x with
    | none => (s, { status := mbVerifyFail, detail := s.recov.nextBlock, results := le 8 s.recov.lastSeq })
    | some b =>
      match blockFault s prev b with
      | some st => (s, { status := st, detail := s.recov.nextBlock, results := le 8 s.recov.lastSeq })
      | none =>
        if b.no < s.recov.nextBlock then takeBlocks s (some b) rest
        else
          let s1 := replayRecs s b.lastSeq b.recs
          takeBlocks { s1 with recov := { s1.recov with nextBlock := b.no + 1, lastHash := chainHash b } } (some b) rest

/-- The frontier that the scan found: what stands before the last START. -/
def scanFrontier (s : State) : Nat :=
  match (windowRecs s.jn).reverse.find? fun r => r.kind == 0xE3 with | some r => r.seq - 1 | none => s.jn.durable

/-- R492: whether the blocks supplied reach the store window. -/
def reachesWindow (s : State) : Bool :=
  decide (windowFirst s ≤ s.recov.lastSeq + 1)

/-! STANDBY_JOIN (R494). -/

/-- The records a serving die sends that follow the last one replayed. -/
def followRecs (s : State) (rs : List Rec) : List Rec := rs.filter fun r => decide (s.recov.lastSeq < r.seq)

end Sys2Proof.Machine
end

