-- ==== Sys2Proof/Machine/MailboxCmds.lean ====
section
/-! DEFINITION. The mailbox commands (Table 13.13). Argument offsets below count from byte 8 of MB_REQ. -/
namespace Sys2Proof.Machine

def execGetInfo (m : MbIn) (s : State) : Res :=
  .next (mailbox s 0x01 0 m (fun _ => true) fun st _ _ => (st, { results := infoBytes st }))

/-- R479. -/
def execWriteConfig (m : MbIn) (s : State) : Res :=
  .next (mailbox s 0x02 8 m heldOrService fun st a d =>
    let r := mbRead st (dblAt a 0) 256 d
    match r.2 with
    | none => (r.1, { status := mbDmaFail })
    | some b =>
      if !cfgIntact b || cfgPartBad st.part b || cfgInvalid st.part b || !genAbove st b then (r.1, { status := mbBadArg })
      else
        let w := storeWrites r.1
        if w.1 then (putConfig w.2 b, { after := if heldFor st 1 ∨ heldFor st 2 ∨ heldFor st 3 then .resumeAt 2 else .nothing })
        else (w.2, { status := mbStoreFault }))

def execReadConfig (m : MbIn) (s : State) : Res :=
  .next (mailbox s 0x03 9 m heldOrService fun st a _ =>
    if 1 < (byteAt a 8).toNat then (st, { status := mbBadArg })
    else (dmaOut st 0 (dblAt a 0) (fit 256 (if byteAt a 8 = 0 then st.store.cfgA else st.store.cfgB)), {}))

/-- R482. -/
def execRunUnqualified (m : MbIn) (s : State) : Res :=
  .next (mailbox s 0x04 14 m (fun st => heldFor st 0x06) fun st a _ =>
    if !allZero (slice a 1 3) then (st, { status := mbBadArg })
    else if byteAt a 0 = steppingByte ∧ wordAt a 4 = st.store.fwVersion ∧ wordAt a 8 = st.eng.patchId ∧ halfAt a 12 = st.store.abi then
      ({ st with mgmt := { st.mgmt with unqual := true } }, { after := .resumeAt 6 })
    else (st, { status := mbMismatch }))

/-- R489. -/
def execLedgerNew (m : MbIn) (s : State) : Res :=
  .next (mailbox s 0x05 8 m (fun st => heldFor st 0x04 || heldFor st 0x05) fun st a _ =>
    if dblAt a 0 ≠ (if st.mgmt.reason = 0x05 then st.store.ledgerId else 0) then (st, { status := mbMismatch })
    else
      let w := storeWrites st
      if w.1 then (newLedger w.2, { after := .resumeAt 8 }) else (w.2, { status := mbStoreFault }))

/-- R490. -/
def execLoadImage (m : MbIn) (s : State) : Res :=
  .next (mailbox s 0x06 24 m (fun st => heldFor st 0x0A || heldFor st 0x0B) fun st a d =>
    let off := field a 16 8
    if off ≠ st.recov.image.length then (st, { status := mbGap })
    else
      let r := mbRead st (dblAt a 0) (field a 8 8) d
      match r.2 with
      | none => (r.1, { status := mbDmaFail })
      | some b => takePiece r.1 off b)

/-- R491. -/
def execLoadBlocks (m : MbIn) (s : State) : Res :=
  .next (mailbox s 0x07 12 m (fun st => heldFor st 0x0A || heldFor st 0x0B) fun st a d =>
    let n := field a 8 4
    let r := mbRead st (dblAt a 0) (n * 65536) d
    match r.2 with
    | none => (r.1, { status := mbDmaFail })
    | some b => takeBlocks r.1 none (pieces 65536 n b))

/-- R492. -/
def execReplayEnd (m : MbIn) (s : State) : Res :=
  .next (mailbox s 0x08 0 m (fun st => heldFor st 0x0A) fun st _ _ =>
    if !reachesWindow st then (st, { status := mbGap })
    else
      let s1 := replayRecs st (scanFrontier st) (windowRecs st.jn)
      let bad := (s1.recov.loaded && !s1.recov.confirmed) || decide (s1.recov.lastSeq < s1.recov.e)
      if bad then (s1, { status := mbVerifyFail })
      else (resolveXdev { s1 with recov := { s1.recov with replayed := true } }, { after := .resumeAt 10 }))

/-- R495. -/
def execResolve (m : MbIn) (s : State) : Res :=
  .next (mailbox s 0x09 17 m inService fun st a _ =>
    let held := st.fab.parts.find? fun e => e.2.src == field a 0 2 && e.2.xseq == field a 8 8 && decide (e.2.state = .prepared) && e.2.unknown
    if !allZero (slice a 2 6) || decide (1 < (byteAt a 16).toNat) then (st, { status := mbBadArg })
    else match held with
      | none => (st, { status := mbBadArg })
      | some (p, v) =>
        if !canAppend st [partDecisionRec v (byteAt a 16 == 0)] then (st, { status := mbStoreFault })
        else (logFault (partDecide st p (byteAt a 16 == 0)) 0x0B 3 v.src 0 v.xseq 0, {}))

/-- R493: QUIESCE runs until the die is drained. -/
def execQuiesce (m : MbIn) (s : State) : Res :=
  .next (
    let req := mbReq s 0x0A m
    if mbOpen s ∧ ¬ mbBusy s 0x0A ∧ inService s ∧ mbArgsOk req 0 then
      let s1 := beginQuiesce s 0x0C
      { s1 with mgmt := { s1.mgmt with latched := some req, running := some {} } }
    else mailbox s 0x0A 0 m inService fun st _ _ => (st, {}))

/-- R493 step 2: every ticket has returned, and every coordinator entry is DECIDED or closed. -/
def drained (s : State) : Bool := s.tk.held.isEmpty && s.fab.coords.all fun e => decide (e.2.state = .decided)

/-- R493 steps 2 to 4. The open block closes first; the row is taken again when it has closed. -/
def execQuiesceDrained (s : State) : Res :=
  .next (
    if s.mgmt.state ≠ .quiescing ∨ s.board.powerFail = true ∨ ¬ drained s then s
    else if s.jn.blocks.any fun b => decide (b.state = .opened) then { s with jn := { s.jn with blocks := closingBlocks s.jn.blocks } }
    else if s.jn.blocks.any fun b => decide (b.state = .closing) then s
    else
      let s1 := enterHeld s s.mgmt.quiesceFor
      match s1.mgmt.latched with
      | some req => if byteAt req 0 = 0x0A ∧ s1.mgmt.running.isSome then mbFinish s1 req {} else s1
      | none => s1)

/-- R493: back to service with no replay; doorbell pages nudged meanwhile are read. -/
def returnToService (s : State) : State :=
  let s1 := resumeWaits (startLinks (startAllCores (pulseSrc { s with mgmt := { s.mgmt with state := .service, reason := 0 } } 0x150)))
  s1.host.fns.foldl (fun st e => e.2.dbRerun.foldl (fun a p => askPage (setFn a e.1 { fnOf a e.1 with dbRerun := (fnOf a e.1).dbRerun.filter fun q => q != p }) e.1 p) st) s1

def execResume (m : MbIn) (s : State) : Res :=
  .next (mailbox s 0x0B 0 m (fun st => heldFor st 0x0C) fun st _ _ => (returnToService st, {}))

def execResetCmd (m : MbIn) (s : State) : Res :=
  .next (mailbox s 0x0C 0 m (fun _ => true) fun st _ _ => (st, { after := .warmReset }))

/-- The slot of a kind that was not loaded at the last start. -/
def spareSlot (s : State) (kind : Nat) : Nat := flashSlot kind (tgetD s.store.loaded kind 1 == 0)

def execImageWrite (m : MbIn) (s : State) : Res :=
  .next (mailbox s 0x0D 24 m (fun _ => true) fun st a d =>
    let kind := (byteAt a 0).toNat
    let len := field a 16 8
    if kind = 0 ∨ 3 < kind ∨ allZero (slice a 1 7) = false ∨ len < 1024 ∨ slotSize kind < len then (st, { status := mbBadArg })
    else
      let r := mbRead st (dblAt a 8) len d
      match r.2 with
      | none => (r.1, { status := mbDmaFail })
      | some b =>
        let s1 := { r.1 with store := { r.1.store with flash := tput r.1.store.flash (spareSlot st kind) b } }
        (s1, { status := if imgVerifies s1 kind b then mbOk else mbVerifyFail }))

/-- R475: burn the fuse row of a kind up to the running image's SVN. -/
def burnSvn (s : State) (k : Nat) : State :=
  match loadedImage s k with
  | none => s
  | some b => { s with store := { s.store with svn := tset s.store.svn k 0 (max (fusedSvn s k) (min 64 (imgSvn b))) } }

def execSvnCommit (m : MbIn) (s : State) : Res :=
  .next (mailbox s 0x0E 1 m heldOrService fun st a _ =>
    let kinds := (byteAt a 0).toNat
    if st.mgmt.unqual then (st, { status := mbDenied })
    else if 7 < kinds then (st, { status := mbBadArg })
    else (([1, 2, 3].filter fun k => bitOf kinds (k - 1)).foldl burnSvn st, {}))

/-- R488: the operator key that OPKEY_SET carries, unwrapped. -/
def operatorKey (s : State) (a : Bytes) : Option (BitVec 256) :=
  match provPriv s with
  | none => none
  | some p =>
    let x := Config.ecdhX p (BitVec.ofNat 512 (field a 0 64))
    let k := Config.sha256 (le 32 x.toNat ++ le 8 Config.serial.toNat ++ [0x4F, 0x50, 0x4B])
    Config.gcmOpen k (BitVec.ofNat 96 (field a 64 12)) (le 8 Config.serial.toNat ++ slice a 76 4) (BitVec.ofNat 256 (field a 80 32)) (BitVec.ofNat 128 (field a 112 16))

/-- R488: the operator's record once OPKEY_SET has written its inactive slot and its commit word. -/
def installOperator (s : State) (gen : Word) (key : BitVec 256) : State :=
  let d := takeDraw 96 s
  let k := keyOf d.2 0
  let b := inactiveB k
  setKey d.2 0 { setSlot k b (wrapSlot 0 b gen d.1 key) with
    commit := commitWord gen.toNat true false false b, cur := some { gen := gen, key := key }, other := none, loadFault := false }

def execOpkeySet (m : MbIn) (s : State) : Res :=
  .next (mailbox s 0x0F 128 m afterStep7 fun st a _ =>
    let k := keyOf st 0
    if cwPresent k ∧ ¬ heldFor st 0x0C then (st, { status := mbDenied })
    else if (wordAt a 76).toNat ≤ cwGen k then (st, { status := mbBadArg })
    else match operatorKey st a with
      | none => (st, { status := mbVerifyFail })
      | some key =>
        let w := storeWrites st
        if w.1 then (installOperator w.2 (wordAt a 76) key, {}) else (w.2, { status := mbStoreFault }))

/-- R487. In HELD for SEAL_REQUIRED the die then goes on with step 6, when a seal unit works (Table 13.11). -/
def execSealKeygen (m : MbIn) (s : State) : Res :=
  .next (mailbox s 0x10 0 m (fun st => afterStep7 st || heldFor st 0x09) fun st _ _ =>
    let w := storeWrites st
    if !w.1 then (w.2, { status := mbStoreFault })
    else
      let r := drawKey w.2 (cfgSealAlg st) ((match st.store.sealKey with | some k => k.keyId | none => 0) + 1)
      let s1 := { r.2.2 with store := { r.2.2.store with sealKey := some r.1, sealPriv := some r.2.1 } }
      (s1, { after := if heldFor st 0x09 ∧ st.store.sealUnits ≠ 0 then .resumeAt 6 else .nothing }))

/-- R505. -/
def execDebugOpen (m : MbIn) (s : State) : Res :=
  .next (mailbox s 0x11 96 m isHeld fun st a _ =>
    if !cfgDebugPermit st then (st, { status := mbDenied })
    else if !Config.imageSigOk (Config.sha384 (le 8 Config.serial.toNat ++ le 8 st.store.debugNonce.toNat)) (slice a 0 96) then (st, { status := mbVerifyFail })
    else
      let s1 := { st with store := { st.store with debugOpen := true },
                          guard := { st.guard with keys := tmap st.guard.keys fun _ (k : TenantKey) => { k with cur := none, other := none } } }
      (enterHeld s1 0x0D, {}))

/-- R494: the standby's journal goes on after the last block that LOAD_BLOCKS supplied. -/
def joinJournal (s : State) : State :=
  let r := s.recov
  if r.nextBlock = 0 then s
  else { s with jn := { s.jn with blocks := s.jn.blocks.filter fun (b : Block) => decide (b.no < r.nextBlock), nextBlock := r.nextBlock,
                                  lastClosed := r.nextBlock - 1, lastHash := r.lastHash, restart := false } }

/-- R494: the records that the serving die sends follow the last one replayed; STALE goes, and the die serves as standby. -/
def execStandbyJoin (m : MbIn) (s : State) : Res :=
  .next (mailbox s 0x12 0 m (fun st => heldFor st 0x0B) fun st _ d =>
    let rs := match d with | none => [] | some b => followRecs st (recordsOf b.length b)
    if d.isNone ∨ (rs.head?.map (·.seq)).getD (st.recov.lastSeq + 1) ≠ st.recov.lastSeq + 1 then (st, { status := mbGap })
    else
      let s0 := joinJournal st
      let s1 := rs.foldl placeMirrored (replayRecs s0 (2 ^ 64) rs)
      let n := s1.recov.lastSeq
      let s2 := { s1 with dup := { s1.dup with stale := false, role := 2, standbyAcked := n, applied := n },
                          jn := { s1.jn with nextSeq := n + 1, durable := n } }
      (ackMirror (returnToService s2) n, {}))

def execMailboxOverrun (s : State) : Res :=
  .next (if s.mgmt.running.isSome || s.mgmt.latched.isSome then mbOverrun s else s)

/-- R470, Table 13.13: what follows a command's answer. -/
def mbAfter (s : State) : AfterCmd → State
  | .nothing => s
  | .warmReset => dieReset { s with mgmt := { s.mgmt with rstMailbox := sat 65535 (s.mgmt.rstMailbox + 1) } } 2
  | .resumeAt n => bootFrom s n

/-- R485: the response is written, BUSY clears, DONE is set and the vector raised; then what the command asks for. -/
def execMailboxCommandEnd (s : State) : Res :=
  .next (match s.mgmt.running with
    | none => s
    | some r =>
      if r.resp.isEmpty then s
      else
        let s1 := { s with mgmt := { s.mgmt with resp := r.resp, done := true, running := none, latched := none } }
        mbAfter (if r.silent then s1 else mailboxVector s1) r.after)

end Sys2Proof.Machine
end

