-- ==== Sys2Proof/Machine/Post.lean ====
section
/-! DEFINITION. The posting commands (R84 to R93): POST, POST2, HOLD, CAPTURE, RELEASE, REVERSE. -/
namespace Sys2Proof.Machine

/-- The code and leg that a posting's evaluation gives (R55): steps 1 and 2 over the whole, step 3 over the local legs in turn. -/
def judgeLegs (l : Ledger) (legs : List (Nat × Leg)) (mine : List (Nat × Leg)) (capture final : Bool) : Byte × Option Nat :=
  match postingRule (legs.map (·.2)) with
  | some code => (code, none)
  | none =>
    match capture, mine with
    | true, (0, g) :: r =>
      match captureRule l g with
      | some code => (code, some 0)
      | none => match evalLegs (moveCapture l g final 0) r with | .inl _ => (stOk, none) | .inr (code, n) => (code, some n)
    | _, _ => match evalLegs l mine with | .inl _ => (stOk, none) | .inr (code, n) => (code, some n)

/-- A multi-leg posting (R84, R85, R90, R92): local, or across devices. `pre` is a check before R55, `cap` the capacity check after it, `keys` adds lock keys, `ref` and `body` lay its record out. -/
def runPosting (s : State) (e c op : Nat) (keys : Cmd → List Nat) (pre cap : State → Cmd → Option Byte) (ref cref : Cmd → Dbl) (head : Cmd → Bytes) : State :=
  match cmdAt s e c op with
  | none => s
  | some (k, t) =>
    let legs := numberLegs 0 (effectiveLegs t.cmd)
    let mine := legs.filter fun g => isLocal s g.2.account
    let final := op = 0x03 ∧ byteAt t.cmd.desc 24 = 1
    let plain := fun (st : Byte) (leg : Option Nat) (acct : Option Dbl) =>
      oneRec t st leg (16 * b2n (decide final)) (ref t.cmd) (head t.cmd ++ slotBytes t.cmd (cNlegs t.cmd)) acct
    let s0 := takeCmd s e c k
    let first := (legs.head?).map (·.2.account)
    let shown := match first with | some a => if isLocal s a then some a else none | none => none
    if legs.any (fun g => (homeOf s g.2.account).isNone) || (op == 0x03 && shown.isNone) then
      withLocks s0 e c k [] [] none (fun st => appendVerdict st e c k (plain stNotLocal none none)) (fun st b _ => appendVerdict st e c k (plain b none none))
    else
      withLocks s0 e c k ((mine.map fun g => g.2.account.toNat) ++ keys t.cmd) (mine.map fun g => g.2.account.toNat) shown
        (fun st =>
          let r := match pre st t.cmd with
            | some code => (code, none)
            | none => judgeLegs st.led legs mine (op == 0x03) (decide final)
          let code := if r.1 = stOk then (cap st t.cmd).getD stOk else r.1
          if code ≠ stOk ∨ mine.length = legs.length then appendVerdict st e c k (plain code r.2 shown)
          else
            let hold := if op = 0x03 then (match legs with | (_, g) :: _ => holdOf st.led g.account g.lparam | [] => none) else none
            coordStart st e c k t legs (if op = 0x05 then (effectiveLegs t.cmd).map legBytes else (List.range (cNlegs t.cmd)).map (cSlot t.cmd))
              (ref t.cmd) (cref t.cmd) hold)
        (fun st b a => appendVerdict st e c k (plain b none a))

/-- POST (R84, R85). -/
def execPost (e c : Nat) (s : State) : Res :=
  .next (runPosting s e c 0x01 (fun _ => []) (fun _ _ => none) (fun _ _ => none) cP0 (fun _ => 0) (fun _ => []))

/-- The code and leg of one pair of a POST2 against some books. -/
def judgePair (l : Ledger) (legs : List Leg) : Byte × Option Nat := judgeLegs l (numberLegs 0 legs) (numberLegs 0 legs) false false

/-- The record of pair `p` of a POST2 (Table 3.4). -/
def pairRec (t : Ticket) (p : Nat) (code : Byte) (leg : Option Nat) : Rec :=
  let ref := dblAt t.cmd.desc (pairOff p + 40)
  let r := mkRec t 0x06 code (if legCode code then infoOf leg else 0) (32 * p) ref ((pairLegs t.cmd p).map legBytes).flatten
  r

/-- The verdict of a POST2 from its pairs' codes and legs (R79, R87). -/
def pairVerdict (t : Ticket) (r0 r1 : Byte × Option Nat) (acct : Option Dbl) : Verdict :=
  let g0 := if legCode r0.1 then r0.2 else none
  let g1 := if legCode r1.1 then r1.2 else none
  { status := r0.1, info := infoPair g0 r1.1 g1, recs := [pairRec t 0 r0.1 r0.2, pairRec t 1 r1.1 r1.2], acct := acct }

/-- R87: pair 1 is judged against the books as an accepted pair 0 leaves them. -/
def judgePost2 (s : State) (t : Ticket) : Verdict :=
  let p0 := pairLegs t.cmd 0
  let p1 := pairLegs t.cmd 1
  let r0 := judgePair s.led p0
  let l1 := if r0.1 = stOk then p0.foldl moveLeg s.led else s.led
  pairVerdict t r0 (judgePair l1 p1) ((p0.head?).map (·.account))

/-- POST2 (R86, R87). -/
def execPost2 (e c : Nat) (s : State) : Res :=
  .next (runCmd s e c 0x06 lockIds judgePost2 fun t st => pairVerdict t (st, none) (st, none) none)

/-- Hold entries taken, with those of the HOLDs that are numbered and not yet applied. DESIGN CHOICE (log 93): the spec does not say from
when a command in flight takes its entry; here it does from its append. -/
def holdsTaken (s : State) : Nat := s.led.holds.length + ((inFlight s.jn).filter fun r => r.kind == 0x02).length

/-- R88: the checks of HOLD. -/
def holdRule (s : State) (g : Leg) : Option Byte :=
  let l := s.led
  match acct l g.account with
  | none => some stNoAccount
  | some a =>
    let h := -g.amount
    if fClosed a then some stClosed
    else if fFrozen a then some stFrozen
    else if a.currency ≠ g.currency then some stCurrency
    else if fCreditOnly a then some stDirection
    else if (holdOf l g.account g.lparam).isSome then some stHoldState
    else if !(inRange (a.holds + h) && inRange (a.avail - h)) then some stBalanceRange
    else if !availOk a h then some stInsufficient
    else if !dayOk a l.day h then some stDayLimit
    else if holdCap (stacksUsed s) ≤ holdsTaken s then some stHoldSpace
    else none

/-- HOLD (R88, R89). -/
def execHold (e c : Nat) (s : State) : Res :=
  .next (runCmd s e c 0x02 lockIds
    (fun st t =>
      let g := legOf (cSlot t.cmd 0)
      oneRec t ((holdRule st g).getD stOk) (some 0) 0 (cP0 t.cmd) (cSlot t.cmd 0) (some g.account))
    fun t st => oneRec t st none 0 (cP0 t.cmd) (cSlot t.cmd 0) none)

/-- R406: the hold entry that leg 0 of a CAPTURE names lies in a poisoned line. -/
def captureFault (s : State) (c : Cmd) : Option Byte :=
  match effectiveLegs c with
  | g :: _ => if holdPoisoned s g.account g.lparam then some stMemoryFault else none
  | [] => none

/-- CAPTURE (R90). -/
def execCapture (e c : Nat) (s : State) : Res :=
  .next (runPosting s e c 0x03 (fun _ => []) captureFault (fun _ _ => none) cP0 (fun _ => 0) (fun _ => []))

/-- The record body of RELEASE (Table 3.4): the hold ID and the magnitude released. -/
def releaseBody (c : Cmd) (m : Int) : Bytes := slice c.desc 24 4 ++ zeros 12 ++ pack 16 m

/-- RELEASE (R91). -/
def execRelease (e c : Nat) (s : State) : Res :=
  .next (runCmd s e c 0x04 lockIds
    (fun st t =>
      let id := cP0 t.cmd
      match acct st.led id with
      | none => oneRec t stNoAccount none 0 id (releaseBody t.cmd 0) (some id)
      | some _ =>
        if holdPoisoned st id (wordAt t.cmd.desc 24) then oneRec t stMemoryFault none 0 id (releaseBody t.cmd 0) (some id)
        else match holdOf st.led id (wordAt t.cmd.desc 24) with
        | none => oneRec t stHoldState none 0 id (releaseBody t.cmd 0) (some id)
        | some h => oneRec t stOk none 0 id (releaseBody t.cmd h.remaining) (some id))
    fun t st => oneRec t st none 0 (cP0 t.cmd) (releaseBody t.cmd 0) none)

/-- The legs a posting's record applied (R92). -/
def appliedLegs (r : Rec) : List Leg :=
  if r.kind = 0x05 then negLegs (bodyLegs r 1) else bodyLegs r (b2n (rXdev r))

/-- R92's comparison: account, currency and value of each leg. -/
def sameLegs (a b : List Leg) : Bool :=
  decide (a.map (fun g => (g.account, g.currency, g.amount)) = b.map fun g => (g.account, g.currency, g.amount))

/-- R92 step 1: the original that is still held does not answer to the restatement. -/
def originalBad (s : State) (orig : Nat) (legs : List Leg) : Bool :=
  match recOfSeq s.jn orig with
  | none => false
  | some (_, r) =>
    let kindOk := r.kind == 0x01 || r.kind == 0x06 || r.kind == 0x03 || r.kind == 0x05
    !kindOk || r.status != 0 || rPeer r || !sameLegs (appliedLegs r) legs ||
    (rXdev r && !(match decisionRec s.jn orig with | some d => d.kind == 0x31 | none => false))

/-- R92 step 1, after the read of the reversal table (R406). -/
def reverseRule (s : State) (c : Cmd) : Option Byte :=
  let orig := (cP0 c).toNat
  if reversalPoisoned s orig then some stMemoryFault
  else if orig = 0 ∨ s.jn.nextSeq ≤ orig ∨ orig < revStart s.led (cfgRevDays s) ∨ (tget s.led.reversal orig).isSome ∨ originalBad s orig (cLegs c) then some stSeqRule
  else none

/-- Reversal entries taken, with those of the REVERSEs that are numbered and not yet applied and of the cross-device ones that are not yet
decided. DESIGN CHOICE (log 93): the spec does not say from when a command in flight takes its entry; here it does from its append. -/
def reversalsTaken (s : State) : Nat :=
  s.led.reversal.length + ((inFlight s.jn).filter fun r => r.kind == 0x05 && !rXdev r).length +
  (s.fab.coords.filter fun v => v.2.op == 0x05 && decide (v.2.state ≠ .decided)).length

/-- R92 step 3. -/
def reverseCap (s : State) (_ : Cmd) : Option Byte :=
  if reversalCap (stacksUsed s) ≤ reversalsTaken s then some stCapacity else none

/-- REVERSE (R92, R93). -/
def execReverse (e c : Nat) (s : State) : Res :=
  .next (runPosting s e c 0x05 (fun k => [reverseKey (cP0 k).toNat]) reverseRule reverseCap cP0 cP1 fun k => slice k.desc 24 8 ++ zeros 24)

end Sys2Proof.Machine
end

