-- ==== Sys2Proof/Machine/RegCmds.lean ====
section
/-! DEFINITION. Writes of registers by their addresses (R16, R17, R532). A register that a row of its own also writes takes the same operation here. -/
namespace Sys2Proof.Machine

/-- What a W1C flag is after a write (R16). -/
def w1c (old : Bool) (v : Dbl) (bit : Nat) : Bool := old && !v.getLsbD bit

/-- R532: the low `k` bits of an address field stay zero. -/
def lowZero (v : Dbl) (k : Nat) : Dbl := v >>> k <<< k

/-! The setup BAR (Table 5.8). -/

/-- FN_DB_CTL (Table 5.10). -/
def writeDbCtl (s : State) (f : Nat) (v : Dbl) : State :=
  let fn := fnOf s f
  let en := v.getLsbD 0
  if fn.dbEnable ∧ ¬ en ∧ ((listedTrays s f).any fun t => (trayOf s f t).enable) then s
  else setFn s f { fn with dbPoll := bits v.toNat 31 16, dbPagesM1 := if fn.dbEnable then fn.dbPagesM1 else bits v.toNat 2 1, dbEnable := en }

/-- A register of a local tray (Table 5.12). -/
def writeTrayReg (s : State) (f t reg : Nat) (v : Dbl) : State :=
  let x := trayOf s f t
  if !trayExists s f t then s
  else if reg = 0 then writeTrayCtl s f t v
  else if reg = 0x08 then (if x.enable then s else setTray s f t { x with crBase := lowZero v 12 })
  else if reg = 0x10 then (if x.enable then s else setTray s f t { x with cqBase := lowZero v 12 })
  else if reg = 0x18 then (if x.enable then s else setTray s f t { x with cfg := v &&& 0xFFFF0FFFFFFFFFFF#64 })
  else if reg = 0x20 then setTray s f t { x with cfgErr := w1c x.cfgErr v 8 }
  else s

/-- A register of a function's setup BAR. -/
def writeSetup (s : State) (f off : Nat) (v : Dbl) : State :=
  let fn := fnOf s f
  if !fnExists s.part f ∨ off % 8 ≠ 0 then s
  else if off = 0x08 then (if fn.dbEnable then s else setFn s f { fn with dbBase := lowZero v 12 })
  else if off = 0x10 then writeDbCtl s f v
  else if off = 0x18 then writeNudge s f v
  else if off = 0x20 then setFn s f { fn with dbViol := w1c fn.dbViol v 1, dbErr := w1c fn.dbErr v 0 }
  else if 0x20000 ≤ off ∧ off < 0x40000 then writeTrayReg s f ((off - 0x20000) / 64) (off % 64) v
  else s

/-! The management BAR. -/

/-- A log ring's control register (Tables 5.20, 13.2): ENABLE, LOG2 and LOG_FN as they are after a write. -/
def logCtl (s : State) (en : Bool) (k fn : Nat) (v : Dbl) : Bool × Nat × Nat :=
  if en then (v.getLsbD 0, k, fn)
  else
    let k1 := bits v.toNat 12 8
    let fn1 := bits v.toNat 31 16
    (v.getLsbD 0 && decide (7 ≤ k1) && decide (k1 ≤ 20) && isOperatorFn s fn1, k1, fn1)

/-- GO of MB_CTL: the request is copied and runs; a CMD that no command has is answered at once (R484, R485). -/
def mailboxGo (s : State) : State :=
  if !mbOpen s then s
  else if s.mgmt.running.isSome || s.mgmt.latched.isSome then mbOverrun s
  else
    let req := (List.range 256).map fun i => tgetD s.mgmt.req i 0
    let cmd := (byteAt req 0).toNat
    if cmd = 0 ∨ 0x12 < cmd then mbFinish s req { status := mbBadCmd }
    else { s with mgmt := { s.mgmt with latched := some req } }

/-- MB_CTL (Table 13.12). -/
def writeMbCtl (s : State) (v : Dbl) : State :=
  let s1 := { s with mgmt := { s.mgmt with irqEn := v.getLsbD 3, overrun := w1c s.mgmt.overrun v 2, done := w1c s.mgmt.done v 1 } }
  if v.getLsbD 0 then mailboxGo s1 else s1

/-- MB_REQ: eight bytes of the request (R484). -/
def writeMbReq (s : State) (off : Nat) (v : Dbl) : State :=
  { s with mgmt := { s.mgmt with req := (List.range 8).foldl (fun (t : Tbl Byte) i => tset t (off / 8 * 8 + i) 0 (byteAt (le 8 v.toNat) i)) s.mgmt.req } }

/-- The management core's registers (Table 13.2). -/
def writeMgmtReg (s : State) (off : Nat) (v : Dbl) : State :=
  let m := s.mgmt
  if off = 0x1008 then writeMbCtl s v
  else if 0x1100 ≤ off ∧ off < 0x1200 then writeMbReq s (off - 0x1100) v
  else if off = 0x1300 then (if m.flogEnable then s else { s with mgmt := { m with flogBase := lowZero v 12 } })
  else if off = 0x1308 then
    let r := logCtl s m.flogEnable m.flogLog2 m.flogFn v
    { s with mgmt := { m with flogEnable := r.1, flogLog2 := r.2.1, flogFn := r.2.2 } }
  else s

/-- The journal's registers (Table 3.9). -/
def writeJournalReg (s : State) (off : Nat) (v : Dbl) : State :=
  let j := s.jn
  if off = 0x6000 then writeJctl s v
  else if off = 0x6008 then (if j.enable then s else { s with jn := { j with drainBase := lowZero v 16 } })
  else if off = 0x6010 then (if j.enable then s else { s with jn := { j with wmAddr := lowZero v 3 } })
  else if off = 0x6018 then { s with jn := { j with sealFault := w1c j.sealFault v 6, cfgErr := w1c j.cfgErr v 3, wmErr := w1c j.wmErr v 2 } }
  else if off = 0x6050 then writeJredrain s v
  else s

/-- The engine registers (Table 4.6). -/
def writeEngineReg (s : State) (off : Nat) (v : Dbl) : State :=
  let g := s.eng
  if off = 0x7008 then writeWeReset s v
  else if off = 0x7200 then writeTraceCtl s v
  else if off = 0x7208 then (if g.traceEnable then s else { s with eng := { g with traceBase := lowZero v 12 } })
  else if off = 0x7218 then { s with eng := { g with traceFilter := v &&& ~~~0x0000800100000000#64 } }
  else s

/-- The host link's registers (Table 5.20). -/
def writeHostReg (s : State) (off : Nat) (v : Dbl) : State :=
  let h := s.host
  if off = 0x8008 then writeTkReserve s v
  else if off = 0x8100 then (if h.vlogEnable then s else { s with host := { h with vlogBase := lowZero v 12 } })
  else if off = 0x8108 then
    let r := logCtl s h.vlogEnable h.vlogLog2 h.vlogFn v
    { s with host := { h with vlogEnable := r.1, vlogLog2 := r.2.1, vlogFn := r.2.2 } }
  else if off = 0x8200 then writeQuarRelease s v
  else if off = 0x8208 then { s with host := { h with mapErr := w1c h.mapErr v 0 } }
  else s

/-- The memory registers (Tables 11.7, 11.8). -/
def writeMemReg (s : State) (off : Nat) (v : Dbl) : State :=
  let m := s.mem
  if off = 0xA010 then { s with mem := { m with ueValid := w1c m.ueValid v 63, ueOvf := w1c m.ueOvf v 62 } }
  else if off = 0xA018 then
    let h := bits v.toNat 15 8
    { s with mem := { m with scrubHours := if h = 0 then m.scrubHours else h, scrubEn := v.getLsbD 0 } }
  else s

/-- The fabric registers (Tables 12.15 to 12.20). FAB_ID and the routing entries are ignored while ENABLE is 1 (R465). -/
def writeFabReg (s : State) (off : Nat) (v : Dbl) : State :=
  let f := s.fab
  if off = 0xB000 then (if f.enable then s else { s with fab := { f with device := bits v.toNat 9 0 } })
  else if off = 0xB008 then writeFabCtl s v
  else if off = 0xB010 then
    { s with fab := { f with timeErr := w1c f.timeErr v 3, epochErr := w1c f.epochErr v 2, abandon := w1c f.abandon v 1, cfgErr := w1c f.cfgErr v 0 } }
  else if off = 0xB020 then writeForget s v
  else if 0xB100 ≤ off ∧ off < 0xB200 then
    (if f.enable then s else { s with fab := { f with routes := tset f.routes ((off - 0xB100) / 8) 0 (v.setWidth 16 &&& 0xBFBF#16) } })
  else if 0xC000 ≤ off ∧ off < 0xC800 ∧ off % 64 = 0 then writeLinkCtl s ((off - 0xC000) / 64) v
  else s

/-- PLACE and SHARD (Tables 12.5, 12.6), ignored while ENABLE is 1 (R465). An absent tenant's entry is none (R233). -/
def writePlacement (s : State) (off : Nat) (v : Dbl) : State :=
  let f := s.fab
  if f.enable then s
  else if off < 0xA0000 then
    let k := (off - 0x90000) / 8
    if absentKey s k then s else { s with fab := { f with place := tput f.place k (v &&& 0x83FFFFFF000007FF#64) } }
  else { s with fab := { f with shard := tset f.shard ((off - 0xA0000) / 2) 0 (v.setWidth 16 &&& 0x07FF#16) } }

/-- The registers of chapter 14 (Tables 14.10, 14.12). -/
def writeBoardReg (s : State) (off : Nat) (v : Dbl) : State :=
  let b := s.board
  if off = 0xD808 then { s with board := { b with wasHot := w1c b.wasHot v 2 } }
  else if off = 0xD810 then
    let t := bits v.toNat 7 0
    if 60 ≤ t ∧ t ≤ 115 then { s with board := { b with thermHi := t } } else s
  else if off = 0xD818 then { s with board := { b with railLow := b.railLow &&& ~~~(v.extractLsb' 16 9) } }
  else if off = 0xD820 then { s with board := { b with tbLost := w1c b.tbLost v 1 } }
  else s

/-- A register of the management BAR, which only PF0 reaches. -/
def writeMgmt (s : State) (off : Nat) (v : Dbl) : State :=
  if off < 0x1000 ∨ off % (if off < 0xA0000 then 8 else 2) ≠ 0 then s
  else if off < 0x2000 then writeMgmtReg s off v
  else if 0x6000 ≤ off ∧ off < 0x7000 then writeJournalReg s off v
  else if 0x7000 ≤ off ∧ off < 0x8000 then writeEngineReg s off v
  else if 0x8000 ≤ off ∧ off < 0x9000 then writeHostReg s off v
  else if 0x9000 ≤ off ∧ off < 0xA000 then mpuBlockWrite s off v
  else if 0xA000 ≤ off ∧ off < 0xB000 then writeMemReg s off v
  else if 0xB000 ≤ off ∧ off < 0xD000 then writeFabReg s off v
  else if 0xD000 ≤ off ∧ off < 0xE000 then writeBoardReg s off v
  else if 0x40000 ≤ off ∧ off < 0x60000 then writeFnMap s ((off - 0x40000) / 8) v
  else if 0x60000 ≤ off ∧ off < 0x70000 then writeQuota s ((off - 0x60000) / 8) v
  else if 0x90000 ≤ off ∧ off < 0xC0000 then writePlacement s off v
  else s

/-- A mask bit of an MSI-X table entry, or of a whole function (R221). -/
def writeMask (s : State) (f : Nat) (entry : Option Nat) (masked : Bool) : State :=
  let fn := fnOf s f
  if !fnExists s.part f then s
  else match entry with
    | none => if masked then setFn s f { fn with fnMasked := true } else sendPending (setFn s f { fn with fnMasked := false }) f
    | some n =>
      if 2048 ≤ n then s
      else if masked then setFn s f { fn with unmasked := fn.unmasked.filter (· != n) }
      else sendPending (setFn s f { fn with unmasked := insertUp n fn.unmasked }) f

/-- A write to a register (R16): 8 bytes, at an address that is a register's. A SHARD entry takes the low 16 bits, a mask bit 0. -/
def execRegisterWrite (r : RegAddr) (v : Dbl) (s : State) : Res :=
  .next (match r with
    | .mgmt off => writeMgmt s off v
    | .setup f off => writeSetup s f off v
    | .msixMask f n => writeMask s f (some n) (v.getLsbD 0)
    | .fnMask f => writeMask s f none (v.getLsbD 0))

end Sys2Proof.Machine
end

