-- ==== Sys2Proof/Machine/Dispatch.lean ====
section
/-! DEFINITION. One arm per command: a direct call of its meaning. -/
namespace Sys2Proof.Machine

/-- The effect of a command on everything but the queue. -/
def exec (i : Instr) (s : State) : Host.Outcome State Fault Refusal :=
  match i with
  | .post e c => Sys2Proof.Machine.execPost e c s
  | .post2 e c => Sys2Proof.Machine.execPost2 e c s
  | .hold e c => Sys2Proof.Machine.execHold e c s
  | .capture e c => Sys2Proof.Machine.execCapture e c s
  | .release e c => Sys2Proof.Machine.execRelease e c s
  | .reverse e c => Sys2Proof.Machine.execReverse e c s
  | .openAcct e c => Sys2Proof.Machine.execOpenAcct e c s
  | .closeAcct e c => Sys2Proof.Machine.execCloseAcct e c s
  | .freeze e c => Sys2Proof.Machine.execFreeze e c s
  | .thaw e c => Sys2Proof.Machine.execThaw e c s
  | .setlimits e c => Sys2Proof.Machine.execSetlimits e c s
  | .dayroll e c => Sys2Proof.Machine.execDayroll e c s
  | .dayrollFenceDrained e c => Sys2Proof.Machine.execDayrollFenceDrained e c s
  | .readbal e c => Sys2Proof.Machine.execReadbal e c s
  | .readrec e c => Sys2Proof.Machine.execReadrec e c s
  | .jquerySeq e c => Sys2Proof.Machine.execJquerySeq e c s
  | .jqueryTray e c => Sys2Proof.Machine.execJqueryTray e c s
  | .jqueryJournal e c => Sys2Proof.Machine.execJqueryJournal e c s
  | .checkpoint e c => Sys2Proof.Machine.execCheckpoint e c s
  | .checkpointImageWritten e c => Sys2Proof.Machine.execCheckpointImageWritten e c s
  | .keyupdate e c => Sys2Proof.Machine.execKeyupdate e c s
  | .keySlotWriteAck e c ok => Sys2Proof.Machine.execKeySlotWriteAck e c ok s
  | .fence e c => Sys2Proof.Machine.execFence e c s
  | .fenceRelease e c => Sys2Proof.Machine.execFenceRelease e c s
  | .nop e c => Sys2Proof.Machine.execNop e c s
  | .ladleClassCommand f t tk => Sys2Proof.Machine.execLadleClassCommand f t tk s
  | .prepare m tk e c => Sys2Proof.Machine.execPrepare m tk e c s
  | .commit m => Sys2Proof.Machine.execCommit m s
  | .abort m => Sys2Proof.Machine.execAbort m s
  | .prepared m => Sys2Proof.Machine.execPrepared m s
  | .refused m => Sys2Proof.Machine.execRefused m s
  | .done m => Sys2Proof.Machine.execDone m s
  | .query m => Sys2Proof.Machine.execQuery m s
  | .outcome m => Sys2Proof.Machine.execOutcome m s
  | .e2eAck m => Sys2Proof.Machine.execE2eAck m s
  | .nak m => Sys2Proof.Machine.execNak m s
  | .mirror m => Sys2Proof.Machine.execMirror m s
  | .mirrorAck m => Sys2Proof.Machine.execMirrorAck m s
  | .heartbeat m => Sys2Proof.Machine.execHeartbeat m s
  | .cxResp m => Sys2Proof.Machine.execCxResp m s
  | .messageRoute m => Sys2Proof.Machine.execMessageRoute m s
  | .dataFlit k w => Sys2Proof.Machine.execDataFlit k w s
  | .idleFlit k w => Sys2Proof.Machine.execIdleFlit k w s
  | .retryReq k w => Sys2Proof.Machine.execRetryReq k w s
  | .flitNak k w => Sys2Proof.Machine.execFlitNak k w s
  | .ident k w => Sys2Proof.Machine.execIdent k w s
  | .timeReq k w => Sys2Proof.Machine.execTimeReq k w s
  | .timeResp k w => Sys2Proof.Machine.execTimeResp k w s
  | .timeReqPeriod => Sys2Proof.Machine.execTimeReqPeriod s
  | .syncInEdge => Sys2Proof.Machine.execSyncInEdge s
  | .syncOutPulse => Sys2Proof.Machine.execSyncOutPulse s
  | .receiverLock w => Sys2Proof.Machine.execReceiverLock w s
  | .receiverLockLoss w => Sys2Proof.Machine.execReceiverLockLoss w s
  | .retryReqRepeat k => Sys2Proof.Machine.execRetryReqRepeat k s
  | .retrainDeadline k => Sys2Proof.Machine.execRetrainDeadline k s
  | .linkEnable k v => Sys2Proof.Machine.execLinkEnable k v s
  | .linkRetrain k => Sys2Proof.Machine.execLinkRetrain k s
  | .trainingDone k => Sys2Proof.Machine.execTrainingDone k s
  | .trainingTimeout k => Sys2Proof.Machine.execTrainingTimeout k s
  | .lockTimeout k => Sys2Proof.Machine.execLockTimeout k s
  | .linkViolationWindowEnd k => Sys2Proof.Machine.execLinkViolationWindowEnd k s
  | .fabEnable v => Sys2Proof.Machine.execFabEnable v s
  | .fabDisable v => Sys2Proof.Machine.execFabDisable v s
  | .fxForget v => Sys2Proof.Machine.execFxForget v s
  | .prepareTimeout x => Sys2Proof.Machine.execPrepareTimeout x s
  | .ackTimeout ep eseq => Sys2Proof.Machine.execAckTimeout ep eseq s
  | .messageAbandon ep eseq => Sys2Proof.Machine.execMessageAbandon ep eseq s
  | .decisionResend x ep => Sys2Proof.Machine.execDecisionResend x ep s
  | .participantQueryPeriod p => Sys2Proof.Machine.execParticipantQueryPeriod p s
  | .tombstoneExpiry p => Sys2Proof.Machine.execTombstoneExpiry p s
  | .prepareTicketGrant p tk e c => Sys2Proof.Machine.execPrepareTicketGrant p tk e c s
  | .prepareTicketTimeout p => Sys2Proof.Machine.execPrepareTicketTimeout p s
  | .dieAliveFall => Sys2Proof.Machine.execDieAliveFall s
  | .partnerPathSilence => Sys2Proof.Machine.execPartnerPathSilence s
  | .mirrorAckTimeout => Sys2Proof.Machine.execMirrorAckTimeout s
  | .trayCommandTake f t => Sys2Proof.Machine.execTrayCommandTake f t s
  | .pushHalfWrite f off data => Sys2Proof.Machine.execPushHalfWrite f off data s
  | .pushHalfTimeout f t k => Sys2Proof.Machine.execPushHalfTimeout f t k s
  | .fnNudge f v => Sys2Proof.Machine.execFnNudge f v s
  | .doorbellReadCompletion f src data => Sys2Proof.Machine.execDoorbellReadCompletion f src data s
  | .doorbellReadFail f src => Sys2Proof.Machine.execDoorbellReadFail f src s
  | .doorbellFollowupPoll f page => Sys2Proof.Machine.execDoorbellFollowupPoll f page s
  | .waitingTrayPoll f t => Sys2Proof.Machine.execWaitingTrayPoll f t s
  | .ringReadCompletion f t data => Sys2Proof.Machine.execRingReadCompletion f t data s
  | .ringReadFail f t => Sys2Proof.Machine.execRingReadFail f t s
  | .seqWaitFill f t => Sys2Proof.Machine.execSeqWaitFill f t s
  | .ticketGrant src tk => Sys2Proof.Machine.execTicketGrant src tk s
  | .waitLimitExpiry f t => Sys2Proof.Machine.execWaitLimitExpiry f t s
  | .dispatch tk c => Sys2Proof.Machine.execDispatch tk c s
  | .ticketReturn tk => Sys2Proof.Machine.execTicketReturn tk s
  | .eggTimerTime f t => Sys2Proof.Machine.execEggTimerTime f t s
  | .msixUnmask f entry => Sys2Proof.Machine.execMsixUnmask f entry s
  | .quarantineFill f t => Sys2Proof.Machine.execQuarantineFill f t s
  | .violationWindowEnd f t => Sys2Proof.Machine.execViolationWindowEnd f t s
  | .quarRelease v => Sys2Proof.Machine.execQuarRelease v s
  | .trayEnable f t v => Sys2Proof.Machine.execTrayEnable f t v s
  | .trayDisable f t v => Sys2Proof.Machine.execTrayDisable f t v s
  | .trayReset f t v => Sys2Proof.Machine.execTrayReset f t v s
  | .functionBind f v => Sys2Proof.Machine.execFunctionBind f v s
  | .functionUnbind f v => Sys2Proof.Machine.execFunctionUnbind f v s
  | .functionLevelReset f => Sys2Proof.Machine.execFunctionLevelReset f s
  | .vfEnableClear port => Sys2Proof.Machine.execVfEnableClear port s
  | .flrComplete f => Sys2Proof.Machine.execFlrComplete f s
  | .tkReserveWrite v => Sys2Proof.Machine.execTkReserveWrite v s
  | .tenantQuotaWrite key v => Sys2Proof.Machine.execTenantQuotaWrite key v s
  | .registerWrite r v => Sys2Proof.Machine.execRegisterWrite r v s
  | .journalDurable n => Sys2Proof.Machine.execJournalDurable n s
  | .journalWriteFail seq voidOk => Sys2Proof.Machine.execJournalWriteFail seq voidOk s
  | .sealTick => Sys2Proof.Machine.execSealTick s
  | .blockClose n => Sys2Proof.Machine.execBlockClose n s
  | .sealResult ok => Sys2Proof.Machine.execSealResult ok s
  | .drainBlockCopy => Sys2Proof.Machine.execDrainBlockCopy s
  | .drainEnable v => Sys2Proof.Machine.execDrainEnable v s
  | .watermarkPoll => Sys2Proof.Machine.execWatermarkPoll s
  | .watermarkRead v => Sys2Proof.Machine.execWatermarkRead v s
  | .watermarkReadFail => Sys2Proof.Machine.execWatermarkReadFail s
  | .jredrain v => Sys2Proof.Machine.execJredrain v s
  | .moveWordIssue e => Sys2Proof.Machine.execMoveWordIssue e s
  | .unitResultArrival e c unit v => Sys2Proof.Machine.execUnitResultArrival e c unit v s
  | .lockGrant key => Sys2Proof.Machine.execLockGrant key s
  | .contextWatchdog e c => Sys2Proof.Machine.execContextWatchdog e c s
  | .weResetContext v => Sys2Proof.Machine.execWeResetContext v s
  | .weResetEngine v => Sys2Proof.Machine.execWeResetEngine v s
  | .sweepEnd e c => Sys2Proof.Machine.execSweepEnd e c s
  | .traceEnable v => Sys2Proof.Machine.execTraceEnable v s
  | .add c => Sys2Proof.Machine.execAdd c s
  | .mul c => Sys2Proof.Machine.execMul c s
  | .muld c => Sys2Proof.Machine.execMuld c s
  | .mulds c => Sys2Proof.Machine.execMulds c s
  | .divu c => Sys2Proof.Machine.execDivu c s
  | .divs c => Sys2Proof.Machine.execDivs c s
  | .remu c => Sys2Proof.Machine.execRemu c s
  | .rems c => Sys2Proof.Machine.execRems c s
  | .sel c => Sys2Proof.Machine.execSel c s
  | .longLiteralOp c => Sys2Proof.Machine.execLongLiteralOp c s
  | .shiftImmediate c => Sys2Proof.Machine.execShiftImmediate c s
  | .lui c => Sys2Proof.Machine.execLui c s
  | .addi c => Sys2Proof.Machine.execAddi c s
  | .compareImmediate c => Sys2Proof.Machine.execCompareImmediate c s
  | .load c => Sys2Proof.Machine.execLoad c s
  | .store c => Sys2Proof.Machine.execStore c s
  | .ldf c => Sys2Proof.Machine.execLdf c s
  | .stf c => Sys2Proof.Machine.execStf c s
  | .cas c => Sys2Proof.Machine.execCas c s
  | .mtm c => Sys2Proof.Machine.execMtm c s
  | .mfmb c => Sys2Proof.Machine.execMfmb c s
  | .mfml c => Sys2Proof.Machine.execMfml c s
  | .bz c => Sys2Proof.Machine.execBz c s
  | .bnz c => Sys2Proof.Machine.execBnz c s
  | .j c => Sys2Proof.Machine.execJ c s
  | .call c => Sys2Proof.Machine.execCall c s
  | .jr c => Sys2Proof.Machine.execJr c s
  | .callr c => Sys2Proof.Machine.execCallr c s
  | .shortOperationWord c => Sys2Proof.Machine.execShortOperationWord c s
  | .repi c => Sys2Proof.Machine.execRepi c s
  | .repu c => Sys2Proof.Machine.execRepu c s
  | .sync c => Sys2Proof.Machine.execSync c s
  | .syncTlb c => Sys2Proof.Machine.execSyncTlb c s
  | .dbar c => Sys2Proof.Machine.execDbar c s
  | .yield c => Sys2Proof.Machine.execYield c s
  | .svc c => Sys2Proof.Machine.execSvc c s
  | .brk c => Sys2Proof.Machine.execBrk c s
  | .eret c => Sys2Proof.Machine.execEret c s
  | .eretDoubleFault c => Sys2Proof.Machine.execEretDoubleFault c s
  | .mfc c => Sys2Proof.Machine.execMfc c s
  | .mtc c => Sys2Proof.Machine.execMtc c s
  | .savl c => Sys2Proof.Machine.execSavl c s
  | .savu c => Sys2Proof.Machine.execSavu c s
  | .rstl c => Sys2Proof.Machine.execRstl c s
  | .rstu c => Sys2Proof.Machine.execRstu c s
  | .tlbiVa c => Sys2Proof.Machine.execTlbiVa c s
  | .tlbiAsid c => Sys2Proof.Machine.execTlbiAsid c s
  | .tlbiAll c => Sys2Proof.Machine.execTlbiAll c s
  | .keyset c => Sys2Proof.Machine.execKeyset c s
  | .keyget c => Sys2Proof.Machine.execKeyget c s
  | .keyclr c => Sys2Proof.Machine.execKeyclr c s
  | .ppost c => Sys2Proof.Machine.execPpost c s
  | .ppostl c => Sys2Proof.Machine.execPpostl c s
  | .pwait c => Sys2Proof.Machine.execPwait c s
  | .ptest c => Sys2Proof.Machine.execPtest c s
  | .lqtake c => Sys2Proof.Machine.execLqtake c s
  | .lcompl c => Sys2Proof.Machine.execLcompl c s
  | .alock c => Sys2Proof.Machine.execAlock c s
  | .aunlock c => Sys2Proof.Machine.execAunlock c s
  | .aunlockall c => Sys2Proof.Machine.execAunlockall c s
  | .portPostingComplete tk => Sys2Proof.Machine.execPortPostingComplete tk s
  | .ladleCommandCompletion tk => Sys2Proof.Machine.execLadleCommandCompletion tk s
  | .cpsEcdsaP256Sign c => Sys2Proof.Machine.execCpsEcdsaP256Sign c s
  | .cpsEcdsaP256Verify c => Sys2Proof.Machine.execCpsEcdsaP256Verify c s
  | .cpsEcdhP256 c => Sys2Proof.Machine.execCpsEcdhP256 c s
  | .cpsEcdsaP384Verify c => Sys2Proof.Machine.execCpsEcdsaP384Verify c s
  | .cpsEd25519Sign c => Sys2Proof.Machine.execCpsEd25519Sign c s
  | .cpsEd25519Verify c => Sys2Proof.Machine.execCpsEd25519Verify c s
  | .cpsAesCmacVerify c => Sys2Proof.Machine.execCpsAesCmacVerify c s
  | .cpsSha256 c => Sys2Proof.Machine.execCpsSha256 c s
  | .cpsSha384 c => Sys2Proof.Machine.execCpsSha384 c s
  | .cpr c => Sys2Proof.Machine.execCpr c s
  | .sealServiceResult n unit => Sys2Proof.Machine.execSealServiceResult n unit s
  | .cx c => Sys2Proof.Machine.execCx c s
  | .cxTimeout c f => Sys2Proof.Machine.execCxTimeout c f s
  | .addp c => Sys2Proof.Machine.execAddp c s
  | .subp c => Sys2Proof.Machine.execSubp c s
  | .mulp c => Sys2Proof.Machine.execMulp c s
  | .divp c => Sys2Proof.Machine.execDivp c s
  | .cmpp c => Sys2Proof.Machine.execCmpp c s
  | .movp c => Sys2Proof.Machine.execMovp c s
  | .negp c => Sys2Proof.Machine.execNegp c s
  | .absp c => Sys2Proof.Machine.execAbsp c s
  | .clrp c => Sys2Proof.Machine.execClrp c s
  | .shrp c => Sys2Proof.Machine.execShrp c s
  | .shrpr c => Sys2Proof.Machine.execShrpr c s
  | .tstp c => Sys2Proof.Machine.execTstp c s
  | .ldp c => Sys2Proof.Machine.execLdp c s
  | .stp c => Sys2Proof.Machine.execStp c s
  | .addpMemory c => Sys2Proof.Machine.execAddpMemory c s
  | .subpMemory c => Sys2Proof.Machine.execSubpMemory c s
  | .macp c => Sys2Proof.Machine.execMacp c s
  | .cvzd c => Sys2Proof.Machine.execCvzd c s
  | .cvdz c => Sys2Proof.Machine.execCvdz c s
  | .cvbd c => Sys2Proof.Machine.execCvbd c s
  | .cvdb c => Sys2Proof.Machine.execCvdb c s
  | .mvs c => Sys2Proof.Machine.execMvs c s
  | .mvsx c => Sys2Proof.Machine.execMvsx c s
  | .edit c => Sys2Proof.Machine.execEdit c s
  | .editm c => Sys2Proof.Machine.execEditm c s
  | .cls c => Sys2Proof.Machine.execCls c s
  | .scn c => Sys2Proof.Machine.execScn c s
  | .sct c => Sys2Proof.Machine.execSct c s
  | .longOperationRetire c f => Sys2Proof.Machine.execLongOperationRetire c f s
  | .longOperationResume c => Sys2Proof.Machine.execLongOperationResume c s
  | .l1MissFill c f data ok => Sys2Proof.Machine.execL1MissFill c f data ok s
  | .blockFetch c => Sys2Proof.Machine.execBlockFetch c s
  | .storeBufferDrain c => Sys2Proof.Machine.execStoreBufferDrain c s
  | .storeErrorDelivery c => Sys2Proof.Machine.execStoreErrorDelivery c s
  | .coreStart c => Sys2Proof.Machine.execCoreStart c s
  | .interruptDelivery c => Sys2Proof.Machine.execInterruptDelivery c s
  | .frameStart c f => Sys2Proof.Machine.execFrameStart c f s
  | .frameStop c f => Sys2Proof.Machine.execFrameStop c f s
  | .frameReset c f => Sys2Proof.Machine.execFrameReset c f s
  | .frameResetEnd c f => Sys2Proof.Machine.execFrameResetEnd c f s
  | .eventSourceInput n => Sys2Proof.Machine.execEventSourceInput n s
  | .coalesceTime n => Sys2Proof.Machine.execCoalesceTime n s
  | .claim c f => Sys2Proof.Machine.execClaim c f s
  | .eoi c f => Sys2Proof.Machine.execEoi c f s
  | .ecSet v => Sys2Proof.Machine.execEcSet v s
  | .tbCmpWrite k v => Sys2Proof.Machine.execTbCmpWrite k v s
  | .tbCmpFire k => Sys2Proof.Machine.execTbCmpFire k s
  | .srcCfgWrite n v => Sys2Proof.Machine.execSrcCfgWrite n v s
  | .gets c l => Sys2Proof.Machine.execGets c l s
  | .getm c l => Sys2Proof.Machine.execGetm c l s
  | .upgrade c l => Sys2Proof.Machine.execUpgrade c l s
  | .putm c l => Sys2Proof.Machine.execPutm c l s
  | .tlbiReceipt b unit => Sys2Proof.Machine.execTlbiReceipt b unit s
  | .scrubPass slice found => Sys2Proof.Machine.execScrubPass slice found s
  | .mpuRegionWrite n reg v => Sys2Proof.Machine.execMpuRegionWrite n reg v s
  | .keyRetire v => Sys2Proof.Machine.execKeyRetire v s
  | .coldReset hw => Sys2Proof.Machine.execColdReset hw s
  | .mgmtWatchdog => Sys2Proof.Machine.execMgmtWatchdog s
  | .portReset p => Sys2Proof.Machine.execPortReset p s
  | .powerResume => Sys2Proof.Machine.execPowerResume s
  | .holdupResample => Sys2Proof.Machine.execHoldupResample s
  | .railWaitEnd => Sys2Proof.Machine.execRailWaitEnd s
  | .pwrfailAssert => Sys2Proof.Machine.execPwrfailAssert s
  | .pwrfailGlitch => Sys2Proof.Machine.execPwrfailGlitch s
  | .holdupOkFall => Sys2Proof.Machine.execHoldupOkFall s
  | .temperatureUpdate islands hbmStacks => Sys2Proof.Machine.execTemperatureUpdate islands hbmStacks s
  | .railLow r => Sys2Proof.Machine.execRailLow r s
  | .refclkLoss r => Sys2Proof.Machine.execRefclkLoss r s
  | .refclkReturn r => Sys2Proof.Machine.execRefclkReturn r s
  | .islandRateUpdate steps => Sys2Proof.Machine.execIslandRateUpdate steps s
  | .timebaseTick => Sys2Proof.Machine.execTimebaseTick s
  | .getInfo m => Sys2Proof.Machine.execGetInfo m s
  | .writeConfig m => Sys2Proof.Machine.execWriteConfig m s
  | .readConfig m => Sys2Proof.Machine.execReadConfig m s
  | .runUnqualified m => Sys2Proof.Machine.execRunUnqualified m s
  | .ledgerNew m => Sys2Proof.Machine.execLedgerNew m s
  | .loadImage m => Sys2Proof.Machine.execLoadImage m s
  | .loadBlocks m => Sys2Proof.Machine.execLoadBlocks m s
  | .replayEnd m => Sys2Proof.Machine.execReplayEnd m s
  | .resolve m => Sys2Proof.Machine.execResolve m s
  | .quiesce m => Sys2Proof.Machine.execQuiesce m s
  | .quiesceDrained => Sys2Proof.Machine.execQuiesceDrained s
  | .resume m => Sys2Proof.Machine.execResume m s
  | .resetCmd m => Sys2Proof.Machine.execResetCmd m s
  | .imageWrite m => Sys2Proof.Machine.execImageWrite m s
  | .svnCommit m => Sys2Proof.Machine.execSvnCommit m s
  | .opkeySet m => Sys2Proof.Machine.execOpkeySet m s
  | .sealKeygen m => Sys2Proof.Machine.execSealKeygen m s
  | .debugOpen m => Sys2Proof.Machine.execDebugOpen m s
  | .standbyJoin m => Sys2Proof.Machine.execStandbyJoin m s
  | .mailboxOverrun => Sys2Proof.Machine.execMailboxOverrun s
  | .idcode => Sys2Proof.Machine.execIdcode s
  | .bypass data => Sys2Proof.Machine.execBypass data s
  | .samplePreload data => Sys2Proof.Machine.execSamplePreload data s
  | .extest data => Sys2Proof.Machine.execExtest data s
  | .mailboxCommandEnd => Sys2Proof.Machine.execMailboxCommandEnd s
  | .holdupOkRise => Sys2Proof.Machine.execHoldupOkRise s
  | .floorUnitFailure u => Sys2Proof.Machine.execFloorUnitFailure u s
  | .dieEntersDown => Sys2Proof.Machine.execDieEntersDown s
  | .vddAonRemoval => Sys2Proof.Machine.execVddAonRemoval s
  | .omesquePrivateInstruction op => Sys2Proof.Machine.execOmesquePrivateInstruction op s

end Sys2Proof.Machine
end

