-- ==== Sys2Proof/Machine/RegRead.lean ====
section
/-! DEFINITION. What the registers read as (R16, R187, R195, R205, R520), and the I3C target that reads some of them (R513). Reading any of these registers changes
nothing; a write-only register, a reserved bit and a place that holds no register read as zero. -/
namespace Sys2Proof.Machine

/-- A value as a register. -/
def reg (n : Nat) : Dbl := BitVec.ofNat 64 n

/-- A bit at a place. -/
def bitAt (b : Bool) (k : Nat) : Nat := b2n b * 2 ^ k

/-- Eight bytes at an offset of kept records of 32 bytes. -/
def recordRead (t : Tbl Bytes) (off : Nat) : Dbl := dblAt (fit 32 (tgetD t (off / 32) [])) (off % 32)

/-! The setup BAR (Tables 5.9 to 5.16). -/

/-- FN_ID. -/
def readFnId (s : State) (f : Nat) : Dbl :=
  let fn := fnOf s f
  reg (f * 2 ^ 50 + fn.tenant * 2 ^ 32 + (if fn.valid then fn.ntrays else 0) * 2 ^ 16 + fn.firstTray)

/-- FN_STATUS. -/
def readFnStatus (fn : Fn) : Dbl := reg (bitAt fn.valid 2 + bitAt fn.dbViol 1 + bitAt fn.dbErr 0)

/-- TRAY_STATUS. -/
def readTrayStatus (s : State) (f t : Nat) : Dbl :=
  let x := trayOf s f t
  reg (x.expect.toNat * 2 ^ 32 + sat 65535 (trayHeld s f t) * 2 ^ 16 + bitAt x.cfgErr 8 + bitAt x.readErr 7 + bitAt x.quar 6 + bitAt (trayIdle s f t) 5 +
    bitAt (waitCred s.tb x) 4 + bitAt (x.waiting.bind (·.code)).isSome 3 + bitAt (waitSeq x) 2 + bitAt (waitExt x) 1 + bitAt (trayRunning x) 0)

/-- TRAY_VIOL. -/
def readTrayViol (x : Tray) : Dbl := reg (sat (2 ^ 32 - 1) x.total * 2 ^ 32 + x.window * 2 ^ 21 + x.unlogged * 2 ^ 16 + x.discard)

/-- A register of a local tray; a tray at or beyond NTRAYS reads as zero (R195). -/
def readTrayReg (s : State) (f t r : Nat) : Dbl :=
  let x := trayOf s f t
  if !trayExists s f t then 0
  else match r with
    | 0 => reg (bitAt x.msixEn 3 + bitAt x.pushEn 1 + bitAt x.enable 0)
    | 1 => x.crBase
    | 2 => x.cqBase
    | 3 => x.cfg
    | 4 => readTrayStatus s f t
    | 5 => reg (x.crTail.toNat * 2 ^ 32 + x.crHead.toNat)
    | 6 => readTrayViol x
    | _ => 0

/-- A read of a function's setup BAR. -/
def readSetup (s : State) (f off : Nat) : Dbl :=
  let fn := fnOf s f
  if !fnExists s.part f || off % 8 != 0 then 0
  else if off = 0x00 then readFnId s f
  else if off = 0x08 then fn.dbBase
  else if off = 0x10 then reg (fn.dbPoll * 2 ^ 16 + fn.dbPagesM1 * 2 + b2n fn.dbEnable)
  else if off = 0x20 then readFnStatus fn
  else if off = 0x28 then reg fn.vlogCount
  else if 0x1000 ≤ off ∧ off < 0x1200 then recordRead fn.vlog (off - 0x1000)
  else if 0x20000 ≤ off ∧ off < 0x40000 then readTrayReg s f ((off - 0x20000) / 64) (off % 64 / 8)
  else 0

/-- R205: a read of a push page returns zero. -/
def readPush (_s : State) (_f _off : Nat) : Dbl := 0

/-! The management BAR. -/

/-- A log ring's control register. -/
def readLogCtl (en : Bool) (k fn : Nat) : Dbl := reg (fn * 2 ^ 16 + k * 2 ^ 8 + b2n en)

/-- STATE of MGMT_STATE (Table 13.1). -/
def devNum : DevState → Nat | .boot => 1 | .held => 2 | .service => 3 | .quiescing => 4 | .down => 5

/-- MGMT_STATE (Table 13.3). -/
def readMgmtState (s : State) : Dbl :=
  let m := s.mgmt
  reg (m.step * 2 ^ 32 + (if m.state = .held then m.reason.toNat else 0) * 2 ^ 16 + bitAt m.unqual 4 + bitAt m.reduced 3 + devNum m.state)

/-- The `n` lowest bits set of a mask of `k` bits. -/
def lowSet (m n : Nat) : Nat → Nat → Nat
  | 0, _ => 0
  | k + 1, i => if n = 0 then 0 else if bitOf m i then 2 ^ i + lowSet m (n - 1) k (i + 1) else lowSet m n k (i + 1)

/-- UNITS (Table 13.18): zero until the self-tests have run. Of the stacks that work, the lowest of the working set are in service (DESIGN CHOICE, log 106). -/
def readUnits (s : State) : Dbl :=
  if s.mgmt.step < 3 then 0
  else reg (lowSet s.store.hbmStacks.toNat (stacksUsed s) (nStacks s.part) 0 * 2 ^ 56 + s.store.sealUnits.toNat * 2 ^ 48 +
    (nCores s.part - s.store.coresOut.length) * 2 ^ 40 + s.store.slices.toNat)

/-- The management core's registers (Tables 13.2, 13.12, 13.18). -/
def readMgmtReg (s : State) (off : Nat) : Dbl :=
  let m := s.mgmt
  if off = 0x1000 then readMgmtState s
  else if off = 0x1008 then reg (bitAt (m.running.isSome || m.latched.isSome) 4 + bitAt m.irqEn 3 + bitAt m.overrun 2 + bitAt m.done 1)
  else if 0x1100 ≤ off ∧ off < 0x1200 then dblAt ((List.range 8).map fun i => tgetD m.req (off - 0x1100 + i) 0) 0
  else if 0x1200 ≤ off ∧ off < 0x1300 then dblAt (fit 256 m.resp) (off - 0x1200)
  else if off = 0x1300 then m.flogBase
  else if off = 0x1308 then readLogCtl m.flogEnable m.flogLog2 m.flogFn
  else if off = 0x1310 then reg s.store.flogCount
  else if off = 0x1400 then reg s.store.bootCount
  else if off = 0x1408 then reg (m.rstMailbox * 2 ^ 48 + m.rstWatchdog * 2 ^ 32 + m.rstResume * 2 ^ 16 + m.rstPort)
  else if off = 0x1410 then reg (s.store.pfSeq % 2 ^ 32 * 2 ^ 32 + m.pfGlitch)
  else if off = 0x1418 then readUnits s
  else if 0x1800 ≤ off ∧ off < 0x2000 then recordRead m.flogLast (off - 0x1800)
  else 0

/-- JSTATUS (Table 3.11). -/
def readJstatus (s : State) : Dbl :=
  let j := s.jn
  reg (bitAt j.stopped 7 + bitAt j.sealFault 6 + bitAt s.mgmt.unqual 5 + bitAt j.unsealed 4 + bitAt j.cfgErr 3 + bitAt j.wmErr 2 + bitAt (drainWaits s) 1 +
    bitAt (drainRuns s && !j.starting) 0)

/-- The journal registers (Table 3.9). -/
def readJournalReg (s : State) (off : Nat) : Dbl :=
  let j := s.jn
  if off = 0x6000 then reg (j.drainFn * 2 ^ 16 + j.slotsLog2 * 2 ^ 8 + bitAt j.port 1 + bitAt j.enable 0)
  else if off = 0x6008 then j.drainBase
  else if off = 0x6010 then j.wmAddr
  else if off = 0x6018 then readJstatus s
  else if off = 0x6020 then reg j.nextSeq
  else if off = 0x6028 then reg j.durable
  else if off = 0x6030 then reg j.lastClosed
  else if off = 0x6038 then reg j.drained
  else if off = 0x6040 then reg j.wm
  else if off = 0x6048 then reg (j.committed % 2 ^ 32 * 2 ^ 16 + freeSlots s)
  else 0

/-- The engine registers (Table 4.6). -/
def readEngineReg (s : State) (off : Nat) : Dbl :=
  let g := s.eng
  if off = 0x7000 then g.enabled
  else if off = 0x7010 then reg (sat (2 ^ 32 - 1) g.rollfwd * 2 ^ 32 + sat (2 ^ 32 - 1) g.resets)
  else if off = 0x7018 then reg (g.patchId.toNat * 2 ^ 32 + (g.matchRegs.filter fun e => e.2.getLsbD 63).length * 2 ^ 8 + bitAt g.locked 0)
  else if 0x7040 ≤ off ∧ off < 0x7140 then tgetD g.matchRegs ((off - 0x7040) / 8) 0
  else if off = 0x7200 then reg (g.traceFn * 2 ^ 16 + g.traceLog2 * 2 ^ 8 + bitAt g.traceOneshot 1 + bitAt g.traceEnable 0)
  else if off = 0x7208 then g.traceBase
  else if off = 0x7210 then reg g.traceBytes
  else if off = 0x7218 then g.traceFilter
  else 0

/-- The host link's registers (Tables 5.20, 5.21). -/
def readHostReg (s : State) (off : Nat) : Dbl :=
  let h := s.host
  if off = 0x8000 then reg (tkTransit s * 2 ^ 34 + tkHeld s * 2 ^ 17 + tkFree s)
  else if off = 0x8008 then reg (s.tk.fxReserve * 2 ^ 16 + s.tk.opReserve)
  else if off = 0x8100 then h.vlogBase
  else if off = 0x8108 then readLogCtl h.vlogEnable h.vlogLog2 h.vlogFn
  else if off = 0x8110 then reg h.vlogCount
  else if off = 0x8208 then reg (bitAt h.mapErr 0)
  else 0

/-- The memory registers (Tables 11.6 to 11.8). -/
def readMemReg (s : State) (off : Nat) : Dbl :=
  let m := s.mem
  if off = 0xA000 then reg m.ce
  else if off = 0xA008 then reg m.ue
  else if off = 0xA010 then reg (bitAt m.ueValid 63 + bitAt m.ueOvf 62 + m.ueSlice % 64 * 2 ^ 56 + m.ueLine % 2 ^ 39 * 2 ^ 7 + bitAt m.ueSram 0)
  else if off = 0xA018 then reg (m.scrubHours * 2 ^ 8 + bitAt m.scrubEn 0)
  else if off = 0xA020 then reg m.recalls
  else 0

/-- FAB_CTL (Table 12.16). -/
def readFabCtl (f : Fabric) : Dbl :=
  reg (f.epoch.toNat * 2 ^ 32 + f.xm1 * 2 ^ 24 + f.ym1 * 2 ^ 21 + f.zm1 * 2 ^ 18 + f.cxLink * 2 ^ 12 + bitAt f.cxEn 11 + bitAt f.syncEn 10 + bitAt f.timeMaster 9 + bitAt f.enable 0)

/-- FAB_STATUS (Table 12.17). -/
def readFabStatus (s : State) : Dbl :=
  let f := s.fab
  reg (sat 65535 f.coords.length * 2 ^ 48 + sat 65535 (resolverHeld s) * 2 ^ 32 + bitAt f.timeLock 4 + bitAt f.timeErr 3 + bitAt f.epochErr 2 + bitAt f.abandon 1 + bitAt f.cfgErr 0)

/-- DUP_STATUS (Table 12.18). -/
def readDupStatus (s : State) : Dbl :=
  let d := s.dup
  reg (sat 255 d.takeovers * 2 ^ 8 + bitAt d.stale 5 + bitAt d.solo 4 + bitAt d.alive 3 + bitAt ((linkOf s 32).state == .up) 2 + d.role)

/-- STATE of LINK_STATUS (Table 12.4). -/
def linkNum : LinkState → Nat | .disabled => 0 | .training => 1 | .lock => 2 | .exchange => 3 | .up => 4 | .down => 5

/-- A link's registers (Table 12.20). -/
def readLinkReg (l : Link) (r : Nat) : Dbl :=
  match r with
  | 0 => reg (bitAt l.rate 7 + bitAt l.enable 0)
  | 1 => reg ((if l.state = .disabled then 1 else l.reason.toNat) * 2 ^ 8 + linkNum l.state)
  | 2 => reg (l.peerRole * 2 ^ 24 + l.peerLink * 2 ^ 16 + l.peer)
  | 3 => reg (sat (2 ^ 32 - 1) l.fecUncorr * 2 ^ 32 + sat (2 ^ 32 - 1) l.fecCorr)
  | 4 => reg (sat (2 ^ 32 - 1) l.retrains * 2 ^ 32 + sat (2 ^ 32 - 1) l.retryReqs)
  | 5 => reg (sat (2 ^ 32 - 1) l.violTotal * 2 ^ 32 + sat 127 l.violOpen)
  | _ => 0

/-- The fabric registers (Table 12.15). -/
def readFabReg (s : State) (off : Nat) : Dbl :=
  let f := s.fab
  if off = 0xB000 then reg (bitAt f.die 10 + f.device)
  else if off = 0xB008 then readFabCtl f
  else if off = 0xB010 then readFabStatus s
  else if off = 0xB018 then reg f.violTotal
  else if off = 0xB028 then reg f.abandons
  else if off = 0xB030 then readDupStatus s
  else if 0xB100 ≤ off ∧ off < 0xB200 then (tgetD f.routes ((off - 0xB100) / 8) 0).setWidth 64
  else if 0xC000 ≤ off ∧ off < 0xC800 then (if (off - 0xC000) / 64 < nLinks s.part then readLinkReg (linkOf s ((off - 0xC000) / 64)) (off % 64 / 8) else 0)
  else 0

/-! The islands (R11, R519, R520). -/

/-- KIND and UNIT of an island (Table 14.9). -/
def islandUnit (n : Nat) : Nat × Nat :=
  if n < 128 then (0, n)
  else if n < 192 then (1, n - 128)
  else if n < 224 then (2, n - 192)
  else if n < 228 then (3, n - 224)
  else if n < 230 then (4, n - 228)
  else if n < 238 then (5, n - 230)
  else if n < 250 then (6, n - 238)
  else if n < 254 then (7, n - 250)
  else if n < 255 then (8, 0)
  else (9, 0)

/-- Some ladle core runs (R384, R474). -/
def ladleRuns (s : State) : Bool :=
  cfgLadleEn s && (tget s.store.loaded 3).isSome &&
    s.cores.cores.any fun k => coreIn s k.1 && k.2.frames.any fun x => decide (x.2.state ≠ .off)

/-- OUT: the island is unpowered or out of service (Table 14.11). DEDUCED (log 107): a quarter of the fabric unit serves eight links. -/
def islandOut (s : State) (n : Nat) : Bool :=
  let u := islandUnit n
  match u.1 with
  | 0 => !coreIn s u.2 || !ladleRuns s
  | 1 => !engineIn s u.2
  | 2 => decide (nSlices s.part ≤ u.2) || !s.store.slices.getLsbD u.2
  | 3 => !s.hw.sieve
  | 4 => !s.hw.journal
  | 5 => !s.store.sealUnits.getLsbD u.2
  | 7 => decide (nLinks s.part ≤ 8 * u.2)
  | _ => false

/-- RATE of an island: 0 while it is OUT. -/
def islandRate (s : State) (n : Nat) : Nat := if islandOut s n then 0 else tgetD s.board.rates n 0

/-- ISLAND_RATEn (Table 14.11). -/
def readIsland (s : State) (n : Nat) : Dbl :=
  let u := islandUnit n
  reg (u.1 * 2 ^ 48 + u.2 * 2 ^ 40 + tgetD s.board.islandTj n 0 * 2 ^ 32 + bitAt (islandOut s n) 16 + islandRate s n)

/-- RATE_MIN: the lowest RATE of the islands that are not OUT, and its island, the lowest number of those that share it (DESIGN CHOICE, log 107). -/
def readRateMin (s : State) : Dbl :=
  match ((List.range 256).filter fun n => !islandOut s n).foldl (fun (b : Option (Nat × Nat)) n => match b with
      | none => some (n, islandRate s n)
      | some p => if islandRate s n < p.2 then some (n, islandRate s n) else some p) none with
  | none => 0
  | some p => reg (p.1 * 2 ^ 16 + p.2)

/-- The registers of chapter 14 (Tables 14.10 to 14.12). -/
def readBoardReg (s : State) (off : Nat) : Dbl :=
  let b := s.board
  if off < 0xD800 then readIsland s ((off - 0xD000) / 8)
  else if off = 0xD800 then readRateMin s
  else if off = 0xD808 then reg (b.hbmTj * 2 ^ 40 + b.dieTj * 2 ^ 32 + bitAt b.wasHot 2 + bitAt b.hbmHot 1 + bitAt b.hot 0)
  else if off = 0xD810 then reg b.thermHi
  else if off = 0xD818 then reg (b.railLow.toNat * 2 ^ 16 + b.railOk.toNat)
  else if off = 0xD820 then reg (bitAt b.pcie1Ok 4 + bitAt b.pcie0Ok 3 + bitAt b.fabOk 2 + bitAt b.tbLost 1 + bitAt b.tbOk 0)
  else 0

/-! Tables with an entry for each function or tenant. -/

/-- A function map entry (Table 5.3). -/
def readFnMap (s : State) (f : Nat) : Dbl :=
  let fn := fnOf s f
  reg (bitAt fn.valid 63 + fn.tenant * 2 ^ 32 + fn.ntrays * 2 ^ 16 + fn.firstTray)

/-- A TENANT_TK entry (Table 5.22); an absent key's reads as zero (R233). -/
def readQuota (s : State) (k : Nat) : Dbl := if absentKey s k then 0 else reg (tenantHeld s k * 2 ^ 32 + quotaOf s k)

/-- A half of a TENANT_ISO entry (Tables 6.9, 6.10); an absent key's reads as zero (R233). -/
def readIso (s : State) (t half : Nat) : Dbl :=
  let k := keyOf s t
  if absentKey s t then 0
  else if half = 0 then reg ((slotOfKey k (inactiveB k)).gen.toNat * 2 ^ 32 + cwGen k)
  else reg (k.mpuViol.toNat * 2 ^ 32 + bitAt k.loadFault 4 + bitAt (cwPresent k) 3 + bitAt (cwPending k) 2 + bitAt (cwOther k) 1 + bitAt (cwActive k) 0)

/-- A PLACE entry, or four SHARD entries (Tables 12.5, 12.6). -/
def readPlacement (s : State) (off : Nat) : Dbl :=
  if off < 0xA0000 then (if absentKey s ((off - 0x90000) / 8) then 0 else placeOf s ((off - 0x90000) / 8))
  else dblAt (((List.range 4).map fun i => le 2 (tgetD s.fab.shard ((off - 0xA0000) / 2 + i) 0).toNat).flatten) 0

/-- A read of the 8-byte register at an offset of the management BAR, which only PF0 reaches. -/
def readMgmt (s : State) (off : Nat) : Dbl :=
  if off < 0x1000 ∨ off % 8 ≠ 0 then 0
  else if off < 0x2000 then readMgmtReg s off
  else if 0x6000 ≤ off ∧ off < 0x7000 then readJournalReg s off
  else if 0x7000 ≤ off ∧ off < 0x8000 then readEngineReg s off
  else if 0x8000 ≤ off ∧ off < 0x9000 then readHostReg s off
  else if 0x9000 ≤ off ∧ off < 0xA000 then mpuRead s off
  else if 0xA000 ≤ off ∧ off < 0xB000 then readMemReg s off
  else if 0xB000 ≤ off ∧ off < 0xD000 then readFabReg s off
  else if 0xD000 ≤ off ∧ off < 0xE000 then readBoardReg s off
  else if 0x40000 ≤ off ∧ off < 0x60000 then readFnMap s ((off - 0x40000) / 8)
  else if 0x60000 ≤ off ∧ off < 0x70000 then readQuota s ((off - 0x60000) / 8)
  else if 0x70000 ≤ off ∧ off < 0x90000 then readIso s ((off - 0x70000) / 16) (off % 16 / 8)
  else if 0x90000 ≤ off ∧ off < 0xC0000 then readPlacement s off
  else 0

/-! The I3C target (R513). -/

/-- Its static address. -/
def i3cAddress (s : State) : Nat := 0x48 + 2 * s.board.addrSel + b2n (s.part == .pv128d && s.fab.die)

/-- The register offsets that it serves. -/
def i3cServes (off : Nat) : Bool := off % 8 == 0 && (off == 0x1000 || (decide (0xD000 ≤ off) && decide (off < 0xE000)))

/-- What a read through it answers: none at another address or of a register that it does not serve. -/
def i3cRead (s : State) (addr off : Nat) : Option Dbl := if addr = i3cAddress s ∧ i3cServes off then some (readMgmt s off) else none

/-- It ignores writes. -/
def i3cWrite (s : State) (_addr _off : Nat) (_v : Dbl) : State := s

end Sys2Proof.Machine
end

