-- ==== Sys2Proof/Safety.lean ====
section
/-! DEFINITION. The terms in which claims are stated: what holds in every state worth speaking of, when a command may have its own
effect at once, and what a command that appends a record leaves behind. -/
namespace Sys2Proof.Machine

/-- The canonical form of memory: addresses strictly rising, no entry equal to what an unlisted address reads as. -/
def Memory.wf (m : Mem) : Bool := twf m.bytes && tnodef m.bytes 0

/-- The state's memory has the canonical form. -/
def MemWf (s : State) : Prop := Memory.wf s.mem = true

/-- A READY context holds a command of opcode `op` with ticket `k`, and nothing keeps its record from being appended at once: its turn among
its tray's commands has come, no lock of `keys` is held, every record of `accts` is sound, the journal controller runs (R77, R217). -/
structure Turn (s : State) (e c op k : Nat) (t : Ticket) (keys accts : List Nat) : Prop where
  cmd : cmdAt s e c op = some (k, t)
  first : beforeOk s k (·.locked) = true
  next : beforeOk s k (·.numbered) = true
  free : ∀ key ∈ keys, tget s.locks key = none
  sound : fetchFault s e (sortUp accts) = none
  runs : s.jn.stopped = false

/-- Every account that a command names is local (R76). -/
def AllLocal (s : State) (c : Cmd) : Prop := ∀ a ∈ namedAccounts c, isLocal s a.2 = true

/-- Every leg of a posting is local (R85). -/
def LegsLocal (s : State) (c : Cmd) : Prop := ∀ g ∈ effectiveLegs c, isLocal s g.account = true

/-- The accounts of a posting's legs. -/
def legAccts (c : Cmd) : List Nat := (effectiveLegs c).map fun g => g.account.toNat

/-- The record of a command with one record: kind the opcode, no leg at fault. -/
def okRec (t : Ticket) (ref : Dbl) (body : Bytes) (extra : Nat := 0) : Rec := mkRec t (BitVec.ofNat 8 (cOp t.cmd)) stOk 0 extra ref body

/-- What lies outside the journal, the ticket unit, the locks, the engines and the fabric's sending side is as it was. -/
def SameRest (s s' : State) : Prop :=
  s'.led = s.led ∧ s'.guard = s.guard ∧ s'.host = s.host ∧ s'.ev = s.ev ∧ s'.cores = s.cores ∧ s'.mem = s.mem ∧ s'.mgmt = s.mgmt ∧
  s'.store = s.store ∧ s'.recov = s.recov ∧ s'.board = s.board ∧ s'.hw = s.hw ∧ s'.tb = s.tb ∧ s'.part = s.part ∧ s'.pending = s.pending

/-- A command's records are appended as one request: the books are untouched, the numbers are taken, the context waits for the journal with the
result its completion will carry, its locks are held, and everything else is as it was (R77 step 6, R110, R174). -/
structure Appends (s s' : State) (e c k : Nat) (keys : List Nat) (v : Verdict) : Prop where
  rest : SameRest s s'
  numbers : s'.jn.nextSeq = s.jn.nextSeq + v.recs.length
  placed : s'.jn.blocks = (placeRecs s v.recs .nobody).jn.blocks
  durable : s'.jn.durable = s.jn.durable
  state : (ctxOf s' e c).state = .waiting ∧ (ctxOf s' e c).phase = .appended
  result : (ctxOf s' e c).compl = { status := v.status, info := v.info, seq := s.jn.nextSeq, respAddr := v.respAddr, resp := v.resp }
  account : (ctxOf s' e c).acctRef = v.acct
  entry : (ctxOf s' e c).entry = { seq := s.jn.nextSeq, state := .appending, nrec := v.recs.length, ticket := k }
  locked : ∀ key ∈ keys, (tget s'.locks key).map (·.owner) = some (ctxOwner e c)
  others : ∀ e' c', ctxKey e' c' ≠ ctxKey e c → ctxOf s' e' c' = ctxOf s e' c'
  fabric : mirrors s = false → s'.fab = s.fab ∧ s'.dup = s.dup
  output : mirrors s = false → s.eng.traceEnable = false → s'.out = s.out

/-- The command completes by appending one record that accepts it: `acct` is the account whose balance its completion shows. -/
def Accepts (i : Instr) (s : State) (e c k : Nat) (keys : List Nat) (r : Rec) (acct : Option Dbl) (respAddr : Dbl := 0) (resp : Bytes := []) : Prop :=
  ∃ s', exec i s = .next s' ∧ Appends s s' e c k keys { status := stOk, recs := [r], acct := acct, respAddr := respAddr, resp := resp }

/-- The command completes by appending one record that refuses it with a code. -/
def Refuses (i : Instr) (s : State) (e c k : Nat) (keys : List Nat) (st : Byte) (info : Half) (r : Rec) (acct : Option Dbl) : Prop :=
  ∃ s', exec i s = .next s' ∧ Appends s s' e c k keys { status := st, info := info, recs := [r], acct := acct }

/-- A message of a type arrives for this die and nothing in it is at fault (R442). -/
structure Arrives (s : State) (k : Nat) (m : Msg) (typ : Byte) : Prop where
  typ : m.typ = typ
  ours : forUs s m = true
  sound : msgFault s k m = none

/-- One record is appended, the books, the cores and memory are as they were (R110). -/
def AppendsOne (s s' : State) (r : Rec) : Prop :=
  s'.jn.nextSeq = s.jn.nextSeq + 1 ∧ s'.jn.blocks = (placeRec s r .nobody).jn.blocks ∧ s'.jn.durable = s.jn.durable ∧ s'.led = s.led ∧
  s'.cores = s.cores ∧ s'.mem = s.mem

/-- Nothing but the fabric unit, the partner's registers and what goes out has changed. -/
def FabricOnly (s s' : State) : Prop :=
  s' = { s with fab := s'.fab, dup := s'.dup, out := s'.out }

/-- The entry's participants once the one at an endpoint is changed. -/
def partsWith (s : State) (v : Coord) (ep : Nat) (f : XPart → XPart) : List XPart := v.parts.map fun p => if sameEndpoint s p.ep ep then f p else p

/-- An undamaged flit with nothing reserved in it reaches a link that takes flits once the flit's codeword is heard (R429, R430, R434, R442). -/
structure FlitArrives (s : State) (k : Nat) (w : FlitIn) : Prop where
  link : k ≤ 32
  state : (linkOf (countFec s k w) k).state = .up ∨ (linkOf (countFec s k w) k).state = .exchange
  locked : k < 32 → (linkOf (countFec s k w) k).locked = true
  whole : flitDamaged w = false
  clean : flitReserved w.data = false

/-- The state once a flit's codeword is counted and its ACK and CRED fields are taken (R429, R431); the partner path notes the time (R460). -/
def flitTaken (s : State) (k : Nat) (w : FlitIn) : State :=
  let s1 := countFec s k w
  takeAckCred (if k = 32 then { s1 with dup := { s1.dup with lastFlit := s.tb } } else s1) k w.data

/-! The ladle cores. -/

/-- Word `w` is what the running frame `f` of core `c` issues next, as an `o`, and nothing holds it back, or what issues with it: what it waited for, if it
did, has come (`v`); no long operation of its own runs, waits to be resumed or has left an exception; no trace is due and none follows; no shadow is open; no
other long operation is in its way; its accumulators are its own; its SRAM is sound (R266, R268, R283, R284, R288, R313, R363, R366, R379, R386). -/
structure Ready (s : State) (c f : Nat) (o : LOp) (w : Word) (v : Wait := .idle) (rep : Option Nat := none) : Prop where
  core : f < nFrames s ∧ coreIn s c = true ∧ (coreOf s c).running = some f
  runs : (frameOf s c f).state = .running ∧ (frameOf s c f).wait = v
  rep : (frameOf s c f).rep = rep
  calm : (frameOf s c f).lop = none ∧ (frameOf s c f).lov = false ∧ (frameOf s c f).traceDue = none ∧ pTr (frameOf s c f).psw = false
  kept : (frameOf s c f).lopExc = none ∧ s.hw.frameBad.contains (64 * c + f) = false
  shadows : ∀ p ∈ (frameOf s c f).pend, p.left = none
  word : fetchedAt (frameOf s c f) (nextPc (frameOf s c f)) = .word w
  names : decode w = some o
  free : held s c (frameOf s c f) o w = none
  filled : usesAccs o = true → (frameOf s c f).dlazy.getLsbD 0 = false

/-- From a state `s`, an instruction of frame `f` of core `c` has left the frame as `x`, at the address `t` with nothing to wait for. The fetch buffer and
the pairing note follow the pc; the step counters count; nothing else differs. -/
structure Ended (s s' : State) (c f : Nat) (x : Frame) (t : Word) : Prop where
  frame : { frameOf s' c f with fetch := [], last := none } = { x with pc := t, wait := .idle, fetch := [], last := none }
  others : ∀ g, g ≠ f → frameOf s' c g = frameOf s c g
  core : coreOf s' c = { coreOf s c with frames := (coreOf s' c).frames, counts := (coreOf s' c).counts }
  cores : ∀ d, d ≠ c → coreOf s' d = coreOf s d
  rest : s' = { s with cores := { s.cores with cores := s'.cores.cores } }

/-- An instruction's command answers a next state in which the instruction has ended; `s1` is the state once its memory accesses are made. -/
def Does (i : Instr) (s s1 : State) (c f : Nat) (x : Frame) (t : Word) : Prop := ∃ s', exec i s = .next s' ∧ Ended s1 s' c f x t

/-- An instruction's command takes a synchronous exception of the instruction at pc, as `raiseSync` enters it, once the issue is counted (R292, R377, R382). -/
def Traps (i : Instr) (s : State) (c f : Nat) (e : Exc) : Prop :=
  let x := frameOf s c f
  ∀ (o : LOp) (w : Word) (s' : State), fetchedAt x (nextPc x) = .word w → decode w = some o →
    raiseSync (countFault s c x o w e) c f e x.pc x.pc = some s' → exec i s = .next s'

/-- The stack that an entry pushes on: g29 in supervisor mode, SSP in user mode (R377). -/
def entryStack (x : Frame) : Word := if pSuper x.psw then gReg x 29 else x.ssp

/-- An entry on vector `v` in a frame can be made: its stack is 8-byte aligned, the block is written, the vector word is read and is a multiple of 4 (R377).
`s1` is the state once the block is written, `s2` once the vector is read, `h` the handler's address. The frame's tables are in order. -/
structure CanEnter (s : State) (c f v : Nat) (s1 s2 : State) (h : Word) : Prop where
  order : setFrame s c f (frameOf s c f) = s
  stack : (entryStack (frameOf s c f)).toNat % 8 = 0
  block : writeVa s (entryActor s c f) wrap32 (entryStack (frameOf s c f) - 288).toNat (blockHeader (frameOf s c f)) = .ok s1 ()
  vector : vectorWord s1 c f v = .ok s2 h
  still : frameOf s2 c f = frameOf s c f

/-- A frame has entered its handler at `h` for an exception with return address `ra` (R377, Table 10.10). -/
structure Entered (s2 s' : State) (c f : Nat) (e : Exc) (h ra : Word) : Prop where
  frame : let x := frameOf s2 c f
          let b := entryStack x - 288
          let y := setG (if pSuper x.psw then x else { x with ssp := gReg x 29 }) 29 b
          frameOf s' c f = { y with
            pc := h, fetch := [], wait := .idle, last := none, epc := ra, epsw := x.psw, einfo := einfoOf { e with entry := false }, eaddr := e.addr,
            dlazy := b ||| 1, repv := false, lov := false, psw := (x.psw ||| 3) &&& 0xFFFFFDFF }
  others : ∀ g, g ≠ f → frameOf s' c g = frameOf s2 c g
  core : coreOf s' c = { coreOf s2 c with frames := (coreOf s' c).frames, counts := (coreOf s' c).counts }
  cores : ∀ d, d ≠ c → coreOf s' d = coreOf s2 d
  rest : s' = { s2 with cores := { s2.cores with cores := s'.cores.cores } }

/-- The register pairs that a word names, by their registers' numbers (R295, Tables 8.4, 8.10, 8.12 and 9.5). -/
def pairsNamed (o : LOp) (w : Word) : List Nat :=
  match o with
  | .muld | .mulds | .cx => [fRd w]
  | .ldf | .stf | .alock | .aunlock => [fRa w]
  | .mfc => if wf w 9 5 = 5 ∨ wf w 9 5 = 9 then [fRd w] else []
  | .mtc => if wf w 9 5 = 5 ∨ wf w 9 5 = 9 then [fRa w] else []
  | .tlbiVa | .keyset | .keyget | .keyclr => [fRb w]
  | .cvbd | .cvdb => [dcRa w]
  | .mvsx => [dlRa w, dlRb w]
  | .edit => [dlRb w]
  | .editm => [dlRb w, dlRc w]
  | .cls => [dsRa w, dsRb w]
  | .scn | .sct => [dsRa w]
  | _ => []

end Sys2Proof.Machine
end

