-- ==== Sys2Proof/Certificates/Slice0/Obligations.lean ====
section
/-! DEFINITION. The statements for the provers. -/
section
open Sys2Proof Sys2Proof.Machine

/-- A step takes the command at the front of the queue and runs it with the queue's rest; on an empty queue the block idles (the model's choice, log entry 2). -/
def Obligations.StepTakesTheFront : Prop :=
  (∀ (c : Instr) (rest : List Instr) (s : State), step { s with pending := c :: rest } = exec c { s with pending := rest }) ∧
  (∀ s : State, s.pending = [] → step s = .next s)

/-- Every step keeps the canonical form of memory. -/
def Obligations.StepKeepsMemoryCanonical : Prop :=
  ∀ s s' : State, MemWf s → step s = .next s' → MemWf s'

/-- The state after reset: memory canonical, and the values the spec gives. -/
def Obligations.ResetLeavesSpecValues : Prop :=
  MemWf State.reset ∧ State.reset.pending = [] ∧ State.reset.mgmt.state = .boot ∧ State.reset.jn.nextSeq = 1 ∧ State.reset.jn.durable = 0 ∧
  State.reset.tk.held = [] ∧ State.reset.tk.fxReserve = 2048 ∧ State.reset.tk.opReserve = 1024 ∧ State.reset.led.accounts = [] ∧
  (fnOf State.reset 0).valid = true ∧ (fnOf State.reset 8192).valid = true ∧ (∀ f t, (trayOf State.reset f t).expect = 1) ∧
  (∀ e c, (ctxOf State.reset e c).state = .free) ∧ (∀ c f, (frameOf State.reset c f).state = .off) ∧ State.reset.fab.enable = false

/-- POST, CAPTURE and REVERSE with every leg on this device, and POST2, accepted (R84, R87, R90, R92): the record that R77 step 6 appends, its verdict
and the frame. The checks of R55 are those of the named rules.
Where the spec leaves a point open this rests on the model's choice (log entries 21, 28, 93). -/
def Obligations.PostingCommandsAppendAcceptance : Prop :=
  (∀ (s : State) (e c k : Nat) (t : Ticket) (l : Ledger),
    let r := okRec t (cP0 t.cmd) (slotBytes t.cmd (cNlegs t.cmd))
    Turn s e c 0x01 k t (legAccts t.cmd) (legAccts t.cmd) → LegsLocal s t.cmd → postingRule (effectiveLegs t.cmd) = none →
    evalLegs s.led (numberLegs 0 (effectiveLegs t.cmd)) = .inl l → canAppend s [r] = true →
    Accepts (.post e c) s e c k (legAccts t.cmd) r ((effectiveLegs t.cmd).head?.map (·.account))) ∧
  (∀ (s : State) (e c k : Nat) (t : Ticket) (g : Leg) (l : Ledger),
    let final : Bool := byteAt t.cmd.desc 24 == 1
    let r := okRec t (cP0 t.cmd) (slotBytes t.cmd (cNlegs t.cmd)) (16 * b2n final)
    Turn s e c 0x03 k t (legAccts t.cmd) (legAccts t.cmd) → LegsLocal s t.cmd → postingRule (effectiveLegs t.cmd) = none →
    (effectiveLegs t.cmd).head? = some g → holdPoisoned s g.account g.lparam = false → captureRule s.led g = none →
    evalLegs (moveCapture s.led g final 0) (numberLegs 1 (effectiveLegs t.cmd).tail) = .inl l → canAppend s [r] = true →
    Accepts (.capture e c) s e c k (legAccts t.cmd) r (some g.account)) ∧
  (∀ (s : State) (e c k : Nat) (t : Ticket) (l : Ledger),
    let keys := legAccts t.cmd ++ [reverseKey (cP0 t.cmd).toNat]
    let r := okRec t (cP0 t.cmd) (slice t.cmd.desc 24 8 ++ zeros 24 ++ slotBytes t.cmd (cNlegs t.cmd))
    Turn s e c 0x05 k t keys (legAccts t.cmd) → LegsLocal s t.cmd → reverseRule s t.cmd = none → postingRule (effectiveLegs t.cmd) = none →
    evalLegs s.led (numberLegs 0 (effectiveLegs t.cmd)) = .inl l → reversalsTaken s < reversalCap (stacksUsed s) → canAppend s [r] = true →
    Accepts (.reverse e c) s e c k keys r ((effectiveLegs t.cmd).head?.map (·.account))) ∧
  (∀ (s : State) (e c k : Nat) (t : Ticket),
    let rs := [pairRec t 0 stOk none, pairRec t 1 stOk none]
    Turn s e c 0x06 k t (lockIds t.cmd) (lockIds t.cmd) → AllLocal s t.cmd → judgePair s.led (pairLegs t.cmd 0) = (stOk, none) →
    judgePair ((pairLegs t.cmd 0).foldl moveLeg s.led) (pairLegs t.cmd 1) = (stOk, none) → canAppend s rs = true →
    ∃ s', exec (.post2 e c) s = .next s' ∧
      Appends s s' e c k (lockIds t.cmd) { status := stOk, recs := rs, acct := some (dblAt t.cmd.desc 32) })

/-- HOLD and RELEASE accepted (R88, R91), and the accounts' commands OPEN, CLOSE, FREEZE, THAW and SETLIMITS (R94 to R97).
Where the spec leaves a point open this rests on the model's choice (log entry 93). -/
def Obligations.AccountCommandsAppendAcceptance : Prop :=
  (∀ (s : State) (e c k : Nat) (t : Ticket) (a : Account),
    let g := legOf (cSlot t.cmd 0)
    let r := okRec t (cP0 t.cmd) (cSlot t.cmd 0)
    Turn s e c 0x02 k t (lockIds t.cmd) (lockIds t.cmd) → AllLocal s t.cmd → acct s.led g.account = some a → fClosed a = false → fFrozen a = false →
    a.currency = g.currency → fCreditOnly a = false → holdOf s.led g.account g.lparam = none → inRange (a.holds - g.amount) = true →
    inRange (a.avail + g.amount) = true → availOk a (-g.amount) = true → dayOk a s.led.day (-g.amount) = true →
    holdsTaken s < holdCap (stacksUsed s) → canAppend s [r] = true →
    Accepts (.hold e c) s e c k (lockIds t.cmd) r (some g.account)) ∧
  (∀ (s : State) (e c k : Nat) (t : Ticket) (a : Account) (h : Hold),
    let r := okRec t (cP0 t.cmd) (releaseBody t.cmd h.remaining)
    Turn s e c 0x04 k t (lockIds t.cmd) (lockIds t.cmd) → AllLocal s t.cmd → acct s.led (cP0 t.cmd) = some a →
    holdOf s.led (cP0 t.cmd) (wordAt t.cmd.desc 24) = some h → holdPoisoned s (cP0 t.cmd) (wordAt t.cmd.desc 24) = false → canAppend s [r] = true →
    Accepts (.release e c) s e c k (lockIds t.cmd) r (some (cP0 t.cmd))) ∧
  (∀ (s : State) (e c k : Nat) (t : Ticket),
    let r := okRec t (cP0 t.cmd) (slotBytes t.cmd 3)
    Turn s e c 0x08 k t (lockIds t.cmd) (lockIds t.cmd) → AllLocal s t.cmd → openRule s t.cmd = none → canAppend s [r] = true →
    Accepts (.openAcct e c) s e c k (lockIds t.cmd) r (some (dblAt (cSlot t.cmd 0) 0))) ∧
  (∀ (s : State) (e c k : Nat) (t : Ticket) (a : Account),
    let r := okRec t (cP0 t.cmd) []
    AllLocal s t.cmd → acct s.led (cP0 t.cmd) = some a → fClosed a = false → canAppend s [r] = true →
    (Turn s e c 0x09 k t (lockIds t.cmd) (lockIds t.cmd) → a.ledger = 0 → a.holds = 0 →
      Accepts (.closeAcct e c) s e c k (lockIds t.cmd) r (some (cP0 t.cmd))) ∧
    (Turn s e c 0x0A k t (lockIds t.cmd) (lockIds t.cmd) → Accepts (.freeze e c) s e c k (lockIds t.cmd) r (some (cP0 t.cmd))) ∧
    (Turn s e c 0x0B k t (lockIds t.cmd) (lockIds t.cmd) → Accepts (.thaw e c) s e c k (lockIds t.cmd) r (some (cP0 t.cmd)))) ∧
  (∀ (s : State) (e c k : Nat) (t : Ticket) (a : Account),
    let r := okRec t (cP0 t.cmd) (limitsBody t.cmd)
    Turn s e c 0x0C k t (lockIds t.cmd) (lockIds t.cmd) → AllLocal s t.cmd → acct s.led (cP0 t.cmd) = some a → limitsRule t.cmd a = none →
    canAppend s [r] = true → Accepts (.setlimits e c) s e c k (lockIds t.cmd) r (some (cP0 t.cmd)))

/-- READBAL, READREC and the three JQUERY forms (R99, R136, R137): each appends its record and keeps the address its response goes to; a
JQUERY's response is laid out from the journal as the record is appended.
Where the spec leaves a point open this rests on the model's choice (log entry 24). -/
def Obligations.ReadsAndQueriesAppendAcceptance : Prop :=
  (∀ (s : State) (e c k : Nat) (t : Ticket) (a : Account),
    let r := okRec t (cP0 t.cmd) []
    AllLocal s t.cmd → acct s.led (cP0 t.cmd) = some a → canAppend s [r] = true →
    (Turn s e c 0x10 k t (lockIds t.cmd) (lockIds t.cmd) → suspenseView (cP0 t.cmd) = none →
      Accepts (.readbal e c) s e c k (lockIds t.cmd) r (some (cP0 t.cmd)) (cP1 t.cmd)) ∧
    (Turn s e c 0x11 k t (lockIds t.cmd) (lockIds t.cmd) →
      Accepts (.readrec e c) s e c k (lockIds t.cmd) r (some (cP0 t.cmd)) (cP1 t.cmd))) ∧
  (∀ (s : State) (e c k : Nat) (t : Ticket) (cur : Half),
    let r := okRec t (cP0 t.cmd) []
    Turn s e c 0x10 k t [] (lockIds t.cmd) → t.cmd.tenant = 0 → suspenseView (cP0 t.cmd) = some cur → suspensePoisoned s cur = false → canAppend s [r] = true →
    Accepts (.readbal e c) s e c k [] r (some (cP0 t.cmd)) (cP1 t.cmd)) ∧
  (∀ (s : State) (e c k : Nat) (t : Ticket),
    let r := okRec t 0 (cSlot t.cmd 0)
    let own := s.jn.nextSeq
    Turn s e c 0x12 k t [] [] → canAppend s [r] = true →
    (byteAt t.cmd.desc 32 = 1 →
      Accepts (.jquerySeq e c) s e c k [] r none (cP0 t.cmd) (queryBytes (seqQuery s t.cmd.tenant (field t.cmd.desc 40 8) own))) ∧
    (byteAt t.cmd.desc 32 = 2 →
      Accepts (.jqueryTray e c) s e c k [] r none (cP0 t.cmd)
        (queryBytes (trayQuery (setTicket (takeCmd s e c k) k { t with locked := true }) t.cmd.tenant (field t.cmd.desc 40 8 % 32768) own))) ∧
    (byteAt t.cmd.desc 32 = 3 →
      Accepts (.jqueryJournal e c) s e c k [] r none (cP0 t.cmd) (queryBytes (journalQuery s own))))

/-- DAYROLL takes its fence, and its record is appended once the fence has drained (R48, R98).
Where the spec leaves a point open this rests on the model's choice (log entry 22). -/
def Obligations.DayrollTakesItsFence : Prop :=
  (∀ (s : State) (e c k : Nat) (t : Ticket),
    Turn s e c 0x0D k t [] [] → s.eng.dayFence = none → s.led.day.toNat < (wordAt t.cmd.desc 16).toNat →
    ∃ s', exec (.dayroll e c) s = .next s' ∧ s'.eng.dayFence = some (e, c) ∧ (ctxOf s' e c).phase = .dayroll ∧ SameRest s s' ∧ s'.jn = s.jn ∧
      s'.out = s.out ∧ s'.locks = s.locks) ∧
  (∀ (s : State) (e c k : Nat) (t : Ticket),
    let r := okRec t (cP0 t.cmd) []
    Turn s e c 0x0D k t [] [] → s.eng.dayFence = none → (wordAt t.cmd.desc 16).toNat ≤ s.led.day.toNat →
    canAppend s [{ r with status := stSeqRule }] = true →
    Refuses (.dayroll e c) s e c k [] stSeqRule 0 { r with status := stSeqRule } none) ∧
  (∀ (s : State) (e c k : Nat) (t : Ticket),
    let r := okRec t (cP0 t.cmd) []
    cmdAt s e c 0x0D = some (k, t) → s.eng.dayFence = some (e, c) → fenceDrained s e c = true → s.jn.stopped = false → canAppend s [r] = true →
    Accepts (.dayrollFenceDrained e c) s e c k [] r none)

/-- CHECKPOINT is accepted at its own number, and CKPT_END is appended when its image is written (R101, R138 to R140).
Where the spec leaves a point open this rests on the model's choice (log entry 23). -/
def Obligations.CheckpointRunsToItsEnd : Prop :=
  (∀ (s : State) (e c k : Nat) (t : Ticket),
    let r := okRec t 0 []
    let pages := (wordAt t.cmd.desc 24).toNat
    Turn s e c 0x13 k t [] [] → s.jn.ckpt = none → imageLen s {} ≤ pages * 4096 → canAppend s [r] = true →
    ∃ s' fn, exec (.checkpoint e c) s = .next s' ∧ Appends s s' e c k [] { recs := [r] } ∧
      s'.jn.ckpt = some { e := e, c := c, s := s.jn.nextSeq, dest := cP0 t.cmd, pages := pages, fn := fn }) ∧
  (∀ (s : State) (e c k : Nat) (t : Ticket) (q : Ckpt),
    let r := { okRec t 0 [] with status := stBusy }
    Turn s e c 0x13 k t [] [] → s.jn.ckpt = some q → canAppend s [r] = true → Refuses (.checkpoint e c) s e c k [] stBusy 0 r none) ∧
  (∀ (s : State) (e c : Nat) (q : Ckpt),
    let r := ckptEnd s q
    s.jn.ckpt = some q → q.e = e → q.c = c → q.written = false → (ctxOf s e c).phase = .image → copyFree s q = true →
    imageLen s q ≤ q.pages * 4096 → s.jn.stopped = false → canAppend s [r] = true →
    ∃ s', exec (.checkpointImageWritten e c) s = .next s' ∧ s'.led = s.led ∧ s'.jn.nextSeq = s.jn.nextSeq + 1 ∧
      s'.jn.blocks = (placeRec s r .nobody).jn.blocks ∧ s'.jn.ckpt = some { q with written := true } ∧ (ctxOf s' e c).state = .waiting ∧
      ((∀ x, (ctxOf s e c).ticket.bind (ticketOf s) = some x → ∀ core frame n, x.origin ≠ .port core frame n) →
        Out.dma q.fn q.dest (imageHeader s q ++ imageBody s q) ∈ s'.out))

/-- KEYUPDATE's checks and steps (R102, R258, R259), whatever the key unit's unwrapping gives: an unwrapped key retires the other slot and begins
the slot write; the store's answer appends the record, and one that does not unwrap is refused with KEY_WRAP.
Where the spec leaves a point open this rests on the model's choice (log entries 10, 25). -/
def Obligations.KeyupdateStagesTheKey : Prop :=
  (∀ (s : State) (e c k : Nat) (t : Ticket),
    let target := kTarget t.cmd
    let key := keyOf s target
    let r := { okRec t (cP0 t.cmd) [] with status := stKeyWrap }
    Turn s e c 0x18 k t [keyupdateKey target] [] → (ctxOf s e c).phase = .idle → key.unflipped = false →
    (if cwPresent key then cwGen key else 0) < (kGen t.cmd).toNat → canAppend s [r] = true →
    match newKey t.cmd with
    | none => Refuses (.keyupdate e c) s e c k [keyupdateKey target] stKeyWrap 0 r none
    | some _ => ∃ s', exec (.keyupdate e c) s = .next s' ∧ s'.guard = (setKey s target (retireOther key true)).guard ∧
        (ctxOf s' e c).phase = .keyWrite ∧ (tget s'.locks (keyupdateKey target)).map (·.owner) = some (ctxOwner e c) ∧ s'.jn = s.jn ∧ s'.led = s.led ∧
        s'.mem = s.mem) ∧
  (∀ (s : State) (e c k : Nat) (t : Ticket) (ok : Bool),
    let target := kTarget t.cmd
    let r := { okRec t (cP0 t.cmd) [] with status := if ok then stOk else stDeviceFault }
    cmdAt s e c 0x18 = some (k, t) → (ctxOf s e c).phase = .keyWrite → s.jn.stopped = false → canAppend s [r] = true →
    ∃ s', exec (.keySlotWriteAck e c ok) s = .next s' ∧ s'.led = s.led ∧ s'.mem = s.mem ∧
      (ok = true ∧ newKey t.cmd = none → s' = s) ∧
      (ok = false ∨ newKey t.cmd ≠ none → s'.jn.nextSeq = s.jn.nextSeq + 1 ∧ s'.jn.blocks = (placeRec s r .nobody).jn.blocks ∧
        (ctxOf s' e c).compl.status = (if ok then stOk else stDeviceFault)) ∧
      (ok = false → s'.guard = (keyAbandon s target).guard) ∧
      (∀ key, ok = true → newKey t.cmd = some key → s'.fresh = s.fresh + 1 ∧
        s'.guard = (setKey s target (setSlot (keyOf s target) (inactiveB (keyOf s target))
          (wrapSlot target (inactiveB (keyOf s target)) (kGen t.cmd) (Config.draw 96 s.fresh) key))).guard))

/-- FENCE waits for every earlier-granted command, NOP waits for none; FENCE_RELEASE lets a FENCE append its record (R103, R104). -/
def Obligations.FenceWaitsAndNopDoesNot : Prop :=
  (∀ (s : State) (e c k : Nat) (t : Ticket),
    let r := okRec t 0 []
    Turn s e c 0x40 k t [] [] → canAppend s [r] = true →
    (fenceClear s t = true → Accepts (.fence e c) s e c k [] r none) ∧
    (fenceClear s t = true → (ctxOf s e c).phase = .fence → Accepts (.fenceRelease e c) s e c k [] r none) ∧
    (fenceClear s t = false → ∃ s', exec (.fence e c) s = .next s' ∧ (ctxOf s' e c).phase = .fence ∧ SameRest s s' ∧ s'.jn = s.jn ∧ s'.tk = s.tk ∧
      s'.locks = s.locks ∧ s'.out = s.out)) ∧
  (∀ (s : State) (e c k : Nat) (t : Ticket),
    let r := okRec t 0 []
    Turn s e c 0x41 k t [] [] → canAppend s [r] = true → Accepts (.nop e c) s e c k [] r none)

/-- The writes of KEY_RETIRE and of the MPU region registers (R237, R238, R261).
Where the spec leaves a point open this rests on the model's choice (log entry 26). -/
def Obligations.GuardRegisterWrites : Prop :=
  (∀ (s : State) (v : Dbl), let t := bits v.toNat 12 0
    absentKey s t = false → (keyOf s t).unflipped = false →
    (cwPending (keyOf s t) = true → exec (.keyRetire v) s = .next (setKey s t { keyOf s t with retireWaiting := (keyOf s t).retireWaiting + 1 })) ∧
    (cwPending (keyOf s t) = false → cwOther (keyOf s t) = true → exec (.keyRetire v) s = .next (setKey s t (retireOther (keyOf s t) false))) ∧
    (cwPending (keyOf s t) = false → cwOther (keyOf s t) = false →
      exec (.keyRetire v) s = .next { s with guard := { s.guard with retireErr := true } })) ∧
  (∀ (s : State) (n reg : Nat) (v : Dbl), n < 64 → reg < 4 →
    ((mpuReg s n 3).getLsbD 63 = true → exec (.mpuRegionWrite n reg v) s = .next s) ∧
    ((mpuReg s n 3).getLsbD 63 = false → exec (.mpuRegionWrite n reg v) s =
      .next { s with guard := { s.guard with regions := tset s.guard.regions (4 * n + reg) 0 (mpuNew reg (mpuReg s n reg) v) } })) ∧
  (∀ (reg : Nat) (old v : Dbl), mpuNew reg old v &&& ~~~ mpuMask reg = 0) ∧
  (∀ (old v : Dbl), bits v.toNat 31 30 = 3 → bits (mpuNew 2 old v).toNat 31 30 = bits old.toNat 31 30)

/-- The store's answers (R57, R111, R112): a DURABLE_SEQ write moves the frontier, applies the record to the books and frees its context; a failed
write leaves a VOID record over it and its command fails, or stops the controller and holds the die.
Where the spec leaves a point open this rests on the model's choice (log entries 28, 56). -/
def Obligations.JournalAnswersTakeEffect : Prop :=
  (∀ (s : State) (n : Nat), durableOk s n = true → ∃ s', exec (.journalDurable n) s = .next s' ∧ s'.jn.durable = n) ∧
  (∀ (s : State) (n e c k : Nat) (ep : Half) (r : Rec) (t : Ticket),
    durableOk s n = true → newlyDurable s.jn n = [r] → tget s.jn.waiters r.seq = some (.ctx e c ep) → ctxLive s e c ep = true →
    (ctxOf s e c).ticket = some k → ticketOf s k = some t → xdevPrepare r = false → r.kind ≠ 0x30 → r.kind ≠ 0x13 →
    (r.kind = 0x06 → r.rflags.getLsbD 5 = true) →
    ∃ s', exec (.journalDurable n) s = .next s' ∧ s'.jn.durable = n ∧
      s'.led = recordEffect s.led r (prepFor s r) (cfgRevDays s) ∧
      s'.eng.ctxs = tset s.eng.ctxs (ctxKey e c) {} { epoch := (ctxOf s e c).epoch }) ∧
  (∀ (s : State) (seq e c k : Nat) (ep : Half) (r : Rec) (t : Ticket),
    failedRecs s.jn seq = [r] → r.seq = seq → s.jn.durable < seq → s.jn.stopped = false → s.mgmt.state ≠ .down →
    tget s.jn.waiters seq = some (.ctx e c ep) → ctxLive s e c ep = true → (ctxOf s e c).ticket = some k → ticketOf s k = some t →
    xdevPrepare r = false → r.kind ≠ 0x30 → r.kind ≠ 0x06 →
    ∃ s', exec (.journalWriteFail seq true) s = .next s' ∧ s'.jn.blocks = voidBlocks s.jn.blocks [r] ∧ s'.jn.durable = s.jn.durable ∧
      s'.led = s.led ∧ s'.eng.ctxs = tset s.eng.ctxs (ctxKey e c) {} { epoch := (ctxOf s e c).epoch }) ∧
  (∀ (s : State) (seq : Nat) (r : Rec),
    failedRecs s.jn seq = [r] → r.seq = seq → s.jn.durable < seq → s.jn.stopped = false → s.mgmt.state ≠ .down →
    ∃ s', exec (.journalWriteFail seq false) s = .next s' ∧ s'.jn.stopped = true ∧ s'.jn.stopAt = seq ∧ s'.led = s.led ∧
      s'.mgmt.state = .held ∧ s'.mgmt.reason = 0x0E)

/-- Seal ticks, block closes and seal results (R122 to R126, R151). A tick puts the SEAL records that are ready into the open block, then closes it; a
block that filled at that very instant is the one that it closes. A seal's nonce draw is the outside's: the result is stated for either outcome.
Where the spec leaves a point open this rests on the model's choice (log entries 10, 31, 79, 105). -/
def Obligations.BlocksCloseAndAreSealed : Prop :=
  (∀ (s : State) (b : Block), s.tb % 100000 = 0 → s.tb ≠ s.jn.lastTick → s.mgmt.state ≠ .down → isStandby s = false →
    s.jn.sealDone = [] → tickBlock s = some b → holdsCommand b = true → canSeal s = true → s.jn.sealFailAt ≠ some s.tb →
    exec .sealTick s = .next { s with jn := { s.jn with lastTick := s.tb, unsealed := false, blocks := putBlock s.jn.blocks { b with state := .closing, flags := b.flags ||| 4 } } }) ∧
  (∀ (s : State) (b : Block) (r : Rec), s.tb % 100000 = 0 → s.tb ≠ s.jn.lastTick → s.mgmt.state ≠ .down → isStandby s = false →
    s.jn.sealDone = [r] → s.jn.unsealed = false → s.jn.stopped = false → canAppend s [r] = true → openBlock s.jn = some b → fits s.jn r = true →
    s.jn.filledAt = none → holdsCommand b = true → canSeal s = true → s.jn.sealFailAt ≠ some s.tb →
    ∃ s', exec .sealTick s = .next s' ∧ s'.jn.sealDone = [] ∧ s'.jn.sealedSeq = field r.body 8 8 ∧ s'.jn.nextSeq = s.jn.nextSeq + 1 ∧ s'.led = s.led ∧
      s'.jn.blocks = putBlock s.jn.blocks { b with recs := b.recs ++ [stampRec s.tb b s.jn.nextSeq r], state := .closing, flags := b.flags ||| 4 }) ∧
  (∀ (s : State) (n : Nat) (b : Block), s.jn.filledAt = some (s.tb, n) →
    (s.jn.blocks.find? fun b => b.no == n && decide (b.state = .closing)) = some b → tickBlock s = some b) ∧
  (∀ (s : State) (b : Block), s.jn.filledAt = none → openBlock s.jn = some b → tickBlock s = some b) ∧
  (∀ (s : State) (n : Nat) (b : Block),
    let last := ((b.recs.getLast?).map (·.seq)).getD 0
    let b1 := { b with state := .closed, lastSeq := last, durableSeq := last, closeTime := s.tb,
                       flags := if s.board.powerFail then b.flags ||| 8 else b.flags }
    (s.jn.blocks.find? fun b => b.no == n && decide (b.state = .closing)) = some b → n = s.jn.lastClosed + 1 → last ≤ s.jn.durable → s.mgmt.state ≠ .down →
    ∃ s', exec (.blockClose n) s = .next s' ∧ s'.jn.lastClosed = n ∧ s'.jn.lastHash = chainHash b1 ∧
      s'.jn.blocks = linkNext (putBlock s.jn.blocks b1) n (chainHash b1) ∧ s'.jn.nextSeq = s.jn.nextSeq ∧ s'.led = s.led ∧
      (canSeal s = true → b.flags.getLsbD 2 = true → s.board.powerFail = false →
        s'.jn.sealReqs = s.jn.sealReqs ++ [{ block := n, seq := last, time := s.tb, device := b.device, boot := b.boot, head := chainHash b1 }])) ∧
  (∀ (s : State) (ok : Bool) (q : SealReq) (rest : List SealReq) (priv : BitVec 256),
    let r := sealRec s q priv (Config.nonceRedraws s.fresh)
    s.jn.sealReqs = q :: rest → s.store.sealPriv = some priv → s.store.sealUnits ≠ 0 → s.jn.stopped = false → s.jn.unsealed = false → unitBusy s 0 = false →
    ∃ s', exec (.sealResult ok) s = .next s' ∧ s'.jn.sealReqs = rest ∧ s'.led = s.led ∧ s'.jn.blocks = s.jn.blocks ∧ s'.jn.nextSeq = s.jn.nextSeq ∧
      (ok = true ∧ Config.nonceRedraws s.fresh < 16 → s'.jn.sealDone = s.jn.sealDone ++ [r] ∧ s'.jn.unsealed = false) ∧
      (ok = false ∨ 16 ≤ Config.nonceRedraws s.fresh → s'.jn.unsealed = true ∧ s'.jn.sealFault = true ∧ s'.jn.sealDone = s.jn.sealDone))

/-- The drain ring and its watermark (R131 to R133): each command's whole effect.
Where the spec leaves a point open this rests on the model's choice (log entry 29). -/
def Obligations.DrainFollowsTheWatermark : Prop :=
  (∀ (s : State) (b : Block), (s.jn.blocks.find? fun b => b.no == s.jn.drained + 1 && decide (b.state = .closed)) = some b → drainRuns s = true →
    s.jn.starting = false → b.no ≤ s.jn.wm + 2 ^ s.jn.slotsLog2 → drainable s b = true →
    let base := s.jn.drainBase + BitVec.ofNat 64 (((b.no - 1) % 2 ^ s.jn.slotsLog2) * 65536)
    exec .drainBlockCopy s = .next (waitPulse s { s with jn := { s.jn with drained := b.no }, out := s.out ++ [.dma s.jn.drainFn (base + 96) (b.recs.map recordBytes).flatten] ++ [.dma s.jn.drainFn base (headerBytes b)] })) ∧
  (∀ (s t : State), (waitPulse s t).jn = t.jn ∧ (waitPulse s t).out = t.out ∧
    (drainWaits t = true → drainWaits s = false → waitPulse s t = pulseSrc t 0x143) ∧ (drainWaits t = false → waitPulse s t = t)) ∧
  (∀ (s : State) (v : Dbl), s.jn.enable = false → v.getLsbD 0 = true → 4 ≤ bits v.toNat 12 8 → bits v.toNat 12 8 ≤ 13 →
    isOperatorFn s (bits v.toNat 31 16) = true → s.mgmt.state ≠ .held →
    ∃ s', exec (.drainEnable v) s = .next s' ∧ s'.jn.enable = true ∧ s'.jn.starting = true ∧ s'.jn.slotsLog2 = bits v.toNat 12 8 ∧
      s'.jn.drainFn = bits v.toNat 31 16 ∧ s'.out = s.out ++ [.read (bits v.toNat 31 16) s.jn.wmAddr 8]) ∧
  (∀ (s : State), drainRuns s = true → s.jn.starting = false → s.jn.wm < s.jn.drained → s.jn.wmLastRead + 1000 ≤ s.tb →
    exec .watermarkPoll s = .next { s with jn := { s.jn with wmReads := s.jn.wmReads + 1, wmLastRead := s.tb }, out := s.out ++ [.read s.jn.drainFn s.jn.wmAddr 8] }) ∧
  (∀ (s : State) (v : Dbl), s.jn.wmReads ≠ 0 → s.jn.enable = true →
    ∃ s', exec (.watermarkRead v) s = .next s' ∧ s'.jn.wmReads = s.jn.wmReads - 1 ∧ s'.led = s.led ∧
      (s.jn.wm ≤ v.toNat ∧ v.toNat ≤ s.jn.drained → s'.jn.wm = v.toNat ∧ s'.jn.wmErr = s.jn.wmErr) ∧
      (¬(s.jn.wm ≤ v.toNat ∧ v.toNat ≤ s.jn.drained) → s'.jn.wm = s.jn.wm ∧ s'.jn.wmErr = true)) ∧
  (∀ (s : State), s.jn.wmReads ≠ 0 →
    ∃ s', exec .watermarkReadFail s = .next s' ∧ s'.jn.wm = s.jn.wm ∧ s'.jn.wmErr = true ∧ s'.jn.wmReads = s.jn.wmReads - 1 ∧
      s'.out = s.out ++ [.aer s.jn.drainFn]) ∧
  (∀ (s : State) (v : Dbl) (b : Block), (s.jn.blocks.find? fun b => b.no == v.toNat) = some b → s.jn.enable = true → drainRuns s = true →
    s.jn.wm < v.toNat → v.toNat ≤ s.jn.drained → exec (.jredrain v) s = .next (copyBlock s b)) ∧
  (∀ (s : State) (v : Dbl), ¬(s.jn.enable = true ∧ s.jn.wm < v.toNat ∧ v.toNat ≤ s.jn.drained) →
    exec (.jredrain v) s = .next { s with jn := { s.jn with wmErr := true } })

/-- The whisk engines' own events (R155 to R158, R164, R165): a word whose guard fails only advances, a literal move writes its register, a unit's
result reaches the context that awaits it, and a trace begins. The STATUS of a lock's answer is a value the spec does not give.
Where the spec leaves a point open this rests on the model's choice (log entries 13, 14, 15). -/
def Obligations.EnginesIssueAndReceive : Prop :=
  (∀ (s : State) (e c : Nat) (raw : Dbl),
    let x := ctxOf s e c
    let w := moveWordOf raw
    enginesRun s e = true → badCtx s e = none → s.hw.wordBad.contains x.pc.toNat = false → x.state = .ready → x.late = [] → pickCtx s e (isPrioCtx c) = some c → (isPrioCtx c = false → pickCtx s e true = none) →
    fetchWord s x.pc = some raw → wordIllegal w = false →
    let fl := setFlagsG x.flags [(7, isPrioCtx c)]
    (guardHolds { x with flags := fl } w.guardSel = false →
      ∃ s', exec (.moveWordIssue e) s = .next s' ∧ ctxOf s' e c = { x with flags := fl, pc := x.pc + 1 } ∧ SameRest s s' ∧ s'.jn = s.jn ∧ s'.locks = s.locks) ∧
    (∀ n k, w.guardSel = 0 → w.seqOp = 0 → 0 < n → n < 16 → w.dstA = n → w.srcA = 0xC0 + k → k < 48 → w.srcB = 0 → w.dstB = 0 →
      ∃ s', exec (.moveWordIssue e) s = .next s' ∧
        ctxOf s' e c = { putBytes x (8 * n) (le 8 k) with flags := fl, pc := x.pc + 1 } ∧ SameRest s s' ∧ s'.jn = s.jn ∧ s'.locks = s.locks)) ∧
  (∀ (s : State) (e c slot : Nat) (v : Dbl),
    let x := ctxOf s e c
    x.state = .waiting → x.awaiting = [3] → tget x.pend 3 = some 0x31 → indexWalk s.led (tgetD x.ports 0x30 0) = some slot →
    ∃ s', exec (.unitResultArrival e c 3 v) s = .next s' ∧ SameRest s s' ∧ s'.jn = s.jn ∧ s'.locks = s.locks ∧
      ctxOf s' e c = { arriveLate x { ports := [(0x3E, BitVec.ofNat 64 slot), (0x3F, 0)], groups := [(8, 0)] } with
        pend := tdel x.pend 3, awaiting := [], state := .ready }) ∧
  (∀ (s : State) (key : Dbl) (l : Lock),
    let x := ctxOf s l.owner.unit l.owner.slot
    tget s.locks key.toNat = some l → l.owner.kind = 0 → x.epoch = l.epoch → x.state = .waiting → x.awaiting = [unitLK] →
    ∃ s' status, exec (.lockGrant key) s = .next s' ∧
      ctxOf s' l.owner.unit l.owner.slot = { arriveLate x { ports := [(0x4F, status)] } with pend := tdel x.pend unitLK, awaiting := [], state := .ready } ∧ SameRest s s' ∧
      s'.jn = s.jn ∧ s'.locks = s.locks) ∧
  (∀ (s : State) (v : Dbl), s.eng.traceEnable = false → v.getLsbD 0 = true → 12 ≤ bits v.toNat 12 8 → bits v.toNat 12 8 ≤ 30 →
    isOperatorFn s (bits v.toNat 31 16) = true →
    exec (.traceEnable v) s = .next { s with eng := { s.eng with traceFn := bits v.toNat 31 16, traceLog2 := bits v.toNat 12 8, traceOneshot := v.getLsbD 1, traceEnable := true, traceBytes := 0, traceLost := 0 } })

/-- Resets of contexts and engines and the sweeps after them (R163, R168, R171, R173, R175, R176).
Where the spec leaves a point open this rests on the model's choice (log entry 20). -/
def Obligations.ContextResetsAreSwept : Prop :=
  (∀ (s : State) (e c : Nat),
    let x := ctxOf s e c
    (recent s.tb 1000000 (tgetD s.eng.resetTimes e [])).length < 7 → x.state ≠ .free →
    (x.state = .waiting → x.since + 2000000 ≤ s.tb →
      ∃ s', exec (.contextWatchdog e c) s = .next s' ∧ (ctxOf s' e c).state = .sweeping ∧ (ctxOf s' e c).epoch = x.epoch + 1 ∧ s'.led = s.led) ∧
    (∀ v : Dbl, bits v.toNat 5 0 = e → bits v.toNat 15 8 = c → v.getLsbD 16 = false → engineIn s e = true →
      ∃ s', exec (.weResetContext v) s = .next s' ∧ (ctxOf s' e c).state = .sweeping ∧ (ctxOf s' e c).epoch = x.epoch + 1 ∧ s'.led = s.led)) ∧
  (∀ (s : State) (e : Nat) (v : Dbl), bits v.toNat 5 0 = e → v.getLsbD 16 = true → engineIn s e = true →
    ∃ s', exec (.weResetEngine v) s = .next s' ∧ s'.led = s.led ∧
      ((∃ c, c < 256 ∧ (ctxOf s e c).state ≠ .free) → e ∈ s'.eng.resetting) ∧
      (sweepsOn s e = false → (∀ c, c < 256 → (ctxOf s e c).state = .free) → s'.eng.resetting = s.eng.resetting) ∧
      ∀ c, c < 256 → (ctxOf s e c).state ≠ .free → (ctxOf s' e c).state = .sweeping ∧ (ctxOf s' e c).epoch = (ctxOf s e c).epoch + 1) ∧
  (∀ (s : State) (e c : Nat),
    let x := ctxOf s e c
    x.state = .sweeping → partOfCtx s e c = none → x.phase ≠ .image →
    (x.entry.state = .taken → ∃ s', exec (.sweepEnd e c) s = .next s' ∧ s'.led = s.led ∧
      s'.eng.ctxs = tset s.eng.ctxs (ctxKey e c) {} { epoch := x.epoch }) ∧
    (x.entry.state = .durable → ∃ s', exec (.sweepEnd e c) s = .next s' ∧ s'.led = ((entryRecs s x).foldl applyRec s).led ∧
      s'.eng.ctxs = tset s.eng.ctxs (ctxKey e c) {} { epoch := x.epoch } ∧ s'.eng.rollfwd = sat (2 ^ 32 - 1) (s.eng.rollfwd + 1)))

/-- What a tray takes, and what reaches it (R199, R206 to R211, R223): pushes, ring slots, fills.
Where the spec leaves a point open this rests on the model's choice (log entry 36). -/
def Obligations.TraysTakeCommandsInOrder : Prop :=
  (∀ (s : State) (f t k : Nat) (p : PushSlot) (c' : Cmd),
    let x := trayOf s f t
    let desc := p.half0.getD [] ++ p.half1.getD []
    let c := trayCmd s f t desc [] true
    hostRuns s = true → trayRunning x = true → x.waiting = none → eligiblePush x = some (k, p) → hasCredit x = true →
    sieve s c (taskQueueFull s c) = .inr c' →
    ∃ s', exec (.trayCommandTake f t) s = .next s' ∧ (trayOf s' f t).expect = x.expect + 1 ∧
      (trayOf s' f t).waiting = some { cmd := c', seq := seqOf desc } ∧ (trayOf s' f t).flight = x.flight ++ [{ seq := seqOf desc }] ∧ s'.tk = s.tk ∧ s'.jn = s.jn) ∧
  (∀ (s : State) (f t n : Nat) (b : Bytes) (c' : Cmd),
    let x := trayOf s f t
    let ext := ((x.ring.take n).drop 1).flatten
    let c := trayCmd s f t b ext false
    hostRuns s = true → trayRunning x = true → x.waiting = none → eligiblePush x = none → ringHead x = some (b, n) → seqOf b = x.expect →
    hasCredit x = true → s.host.extUsed + (n - 1) ≤ 16384 → sieve s c (taskQueueFull s c) = .inr c' →
    ∃ s', exec (.trayCommandTake f t) s = .next s' ∧ (trayOf s' f t).expect = x.expect + 1 ∧
      (trayOf s' f t).crHead = x.crHead + BitVec.ofNat 32 n ∧ (trayOf s' f t).waiting = some { cmd := c', seq := seqOf b } ∧ s'.tk = s.tk ∧ s'.jn = s.jn) ∧
  (∀ (s : State) (f t k : Nat) (p : PushSlot) (code : Byte) (off : Nat),
    let x := trayOf s f t
    let c := trayCmd s f t (p.half0.getD [] ++ p.half1.getD []) [] true
    hostRuns s = true → trayRunning x = true → x.waiting = none → eligiblePush x = some (k, p) → hasCredit x = true →
    sieve s c (taskQueueFull s c) = .inl (code, off) →
    ∃ s', exec (.trayCommandTake f t) s = .next s' ∧ (trayOf s' f t).expect = x.expect + 1 ∧ (trayOf s' f t).waiting = none ∧ s'.tk.nextOrder = s.tk.nextOrder ∧
      s'.jn = s.jn) ∧
  (∀ (s : State) (f off : Nat) (data : Bytes),
    let x := trayOf s f (off / 4096)
    let po := off % 4096
    trayExists s f (off / 4096) = true → x.enable = true → s.board.powerFail = false → x.quar = false → pushFault x po data = none →
    let p := tgetD x.slots (po / 128) { first := s.tb }
    let q := if po % 128 = 0 then { p with half0 := some data } else { p with half1 := some data }
    exec (.pushHalfWrite f off data) s =
      .next (setTray s f (off / 4096) { x with slots := tput x.slots (po / 128) (if halves q = 2 then { q with whole := s.tb } else q) })) ∧
  (∀ (s : State) (f t k : Nat) (p : PushSlot),
    let x := trayOf s f t
    tget x.slots k = some p → halves p = 1 → p.first + 8000 ≤ s.tb →
    exec (.pushHalfTimeout f t k) s = .next (violate (setTray s f t { x with slots := tdel x.slots k }) f t 0x02 0x06
      (match p.half0 with | some h => seqOf h | none => 0) 0 (p.half0.getD (p.half1.getD [])))) ∧
  (∀ (s : State) (f t : Nat) (data : Bytes),
    let x := trayOf s f t
    let n := data.length / 128
    data.length % 128 = 0 → 0 < n → n ≤ (x.rdIssued - x.rdDone).toNat → x.enable = true → x.readErr = false → x.flr = false →
    ∃ s', exec (.ringReadCompletion f t data) s = .next s' ∧ (trayOf s' f t).ring = x.ring ++ pieces 128 n data ∧
      (trayOf s' f t).rdDone = x.rdDone + BitVec.ofNat 32 n ∧ (trayOf s' f t).expect = x.expect) ∧
  (∀ (s : State) (f t : Nat),
    let x := trayOf s f t
    x.rdIssued ≠ x.rdDone →
    ∃ s', exec (.ringReadFail f t) s = .next s' ∧ .aer f ∈ s'.out ∧
      (x.flr = false → (trayOf s' f t).readErr = true ∧ (trayOf s' f t).rdRuns = x.rdRuns.drop 1 ∧
        (x.rdRuns = [] → (trayOf s' f t).rdDone = x.rdIssued) ∧ (∀ r rs, x.rdRuns = r :: rs → (trayOf s' f t).rdDone = x.rdDone + BitVec.ofNat 32 r))) ∧
  (∀ (s : State) (f t g : Nat),
    let x := trayOf s f t
    gapSince x = some g → hostRuns s = true → trayRunning x = true → g + seqWait x ≤ s.tb → hasCredit x = true →
    ∃ s', exec (.seqWaitFill f t) s = .next s' ∧ (trayOf s' f t).expect = x.expect + 1 ∧ s'.tk.nextOrder = s.tk.nextOrder ∧
      (x.flight = [] → .dma f (x.cqBase + BitVec.ofNat 64 (32 * (x.expect.toNat % 2 ^ cqLog2 x))) (complBytes { status := 0x27, fill := true } x.expect) ∈ s'.out))

/-- A command on one tray leaves every other tray, the books, the journal, the cores and memory as they were; for the end of a WAIT_LIMIT this holds
where no ticket's return is due, since a return has every waiting command tested again (R231). -/
def Obligations.TrayCommandsTouchOneTray : Prop :=
  ∀ (s s' : State) (f t : Nat) (i : Instr),
    (i = .trayCommandTake f t ∨ (∃ k, i = .pushHalfTimeout f t k) ∨ (∃ d, i = .ringReadCompletion f t d) ∨ i = .ringReadFail f t ∨ i = .seqWaitFill f t ∨
      (i = .waitLimitExpiry f t ∧ dueTickets s = []) ∨ i = .eggTimerTime f t ∨ i = .quarantineFill f t ∨ i = .violationWindowEnd f t ∨
      (∃ off d, i = .pushHalfWrite f (4096 * t + off) d ∧ off < 4096)) →
    exec i s = .next s' →
    (∀ f' t', trayKey f' t' ≠ trayKey f t → trayOf s' f' t' = trayOf s f' t') ∧ s'.led = s.led ∧ s'.jn = s.jn ∧ s'.cores = s.cores ∧ s'.mem = s.mem ∧
      s'.fab = s.fab ∧ s'.guard = s.guard ∧ s'.eng = s.eng

/-- Doorbells (R201, R202, R223): nudges and polls read pages, values that arrive move CR_TAIL and CQ_HEAD, a failed read sets DB_ERR.
Where the spec leaves a point open this rests on the model's choice (log entry 38). -/
def Obligations.DoorbellsAreReadAndTaken : Prop :=
  (∀ (s : State) (f : Nat) (v : Dbl),
    let fn := fnOf s f
    let p := v.toNat % 4
    let wm := fun (st : State) => if fn.valid && s.jn.drainFn == f && drainRuns s then readWm st else st
    fn.dbEnable = true → p ≤ fn.dbPagesM1 → hostRuns s = true →
    (fn.dbReads.contains p = false → exec (.fnNudge f v) s = .next (wm (readPage s f p))) ∧
    (fn.dbReads.contains p = true → exec (.fnNudge f v) s = .next (wm (setFn s f { fn with dbRerun := insertUp p fn.dbRerun })))) ∧
  (∀ (s : State) (f p : Nat), granules s f p ≠ [] →
    (readPage s f p).out = s.out ++ (granules s f p).map (fun g => Out.read f ((fnOf s f).dbBase + BitVec.ofNat 64 (p * 4096 + g * 64)) 64)) ∧
  (∀ (s : State) (f : Nat) (src : DbSrc) (data : Bytes) (e : DbEntry),
    let x := trayOf s f e.t
    dbOutstanding (fnOf s f) src = true → usedEntries s f src data = [e] → (e.tail - x.crTail).toNat < 2 ^ 31 → (e.tail - x.crHead).toNat ≤ 2 ^ crLog2 x →
    (e.head - x.cqHead).toNat < 2 ^ 31 → (x.lastIssued - e.head).toNat < 2 ^ 31 →
    ∃ s', exec (.doorbellReadCompletion f src data) s = .next s' ∧ (trayOf s' f e.t).crTail = e.tail ∧ (trayOf s' f e.t).cqHead = e.head) ∧
  (∀ (s : State) (f p : Nat), dbOutstanding (fnOf s f) (.page p) = true →
    ∃ s', exec (.doorbellReadFail f (.page p)) s = .next s' ∧ (fnOf s' f).dbErr = true ∧ .aer f ∈ s'.out ∧ s'.host.trays = s.host.trays) ∧
  (∀ (s : State) (f t : Nat), dbOutstanding (fnOf s f) (.entry t) = true →
    ∃ s', exec (.doorbellReadFail f (.entry t)) s = .next s' ∧ (fnOf s' f).dbErr = true ∧ .aer f ∈ s'.out ∧ s'.host.trays = s.host.trays) ∧
  (∀ (s : State) (f page due : Nat),
    let fn := fnOf s f
    tget fn.dbFollow page = some due → due ≤ s.tb → hostRuns s = true →
    exec (.doorbellFollowupPoll f page) s = .next (askPage (setFn s f { fn with dbFollow := tdel fn.dbFollow page }) f page)) ∧
  (∀ (s : State) (f t : Nat),
    let fn := fnOf s f
    let every := if fn.dbPoll = 0 then 1000 else fn.dbPoll * 64
    trayExists s f t = true → (trayOf s f t).enable = true → fn.dbEnable = true → hostRuns s = true →
    waitCred s.tb (trayOf s f t) = true ∨ waitExt (trayOf s f t) = true → fn.trayReads.contains t = false → tgetD fn.trayPolled t 0 + every ≤ s.tb →
    exec (.waitingTrayPoll f t) s = .next (emit (setFn s f { fn with trayReads := insertUp t fn.trayReads, trayPolled := tput fn.trayPolled t s.tb })
      (.read f (fn.dbBase + BitVec.ofNat 64 (t / 512 * 4096 + t % 512 * 8)) 8)))

/-- Tickets (R48, R105, R107, R128, R167, R213 to R215, R231, R317): a grant for a tray and for a port, a ladle-class command that a DAYROLL's fence keeps,
a refusal at WAIT_LIMIT and the returns that come before it, a dispatch, a return.
Where the spec leaves a point open this rests on the model's choice (log entries 22, 39, 82). -/
def Obligations.TicketsAreGrantedDispatchedReturned : Prop :=
  (∀ (s : State) (f t tk : Nat) (w : Waiting),
    let x := trayOf s f t
    let tick : Ticket := { origin := .tray f t, cmd := w.cmd, order := s.tk.nextOrder, reserved := reservation w.cmd }
    x.waiting = some w → x.quar = false → grantsOpen s = true → ticketFree s tk = true → grantCode s f t w.cmd = none →
    (ladleOp (cOp w.cmd) = false →
      ∃ s', exec (.ticketGrant (.tray f t) tk) s = .next s' ∧ s'.tk.held = tput s.tk.held tk tick ∧ s'.tk.nextOrder = s.tk.nextOrder + 1 ∧
        s'.jn.committed = s.jn.committed + reservation w.cmd ∧ s'.host.extUsed = s.host.extUsed ∧ s'.led = s.led ∧ s'.cores = s.cores ∧
        s'.host.trays = (setTray s f t { x with waiting := none, flight := x.flight.map fun (y : Flight) =>
          if y.seq = w.seq ∧ y.ticket.isNone ∧ y.done.isNone then { y with ticket := some tk } else y }).host.trays) ∧
    (ladleOp (cOp w.cmd) = true → s.eng.dayFence ≠ none →
      ∃ s', exec (.ladleClassCommand f t tk) s = .next s' ∧ exec (.ticketGrant (.tray f t) tk) s = .next s' ∧ ticketOf s' tk = some tick ∧ s'.cores = s.cores ∧ s'.led = s.led) ∧
    (ladleOp (cOp w.cmd) = true → s.eng.dayFence = none →
      ∃ s', exec (.ladleClassCommand f t tk) s = .next s' ∧ exec (.ticketGrant (.tray f t) tk) s = .next s' ∧
        ticketOf s' tk = some { tick with state := .held } ∧ s'.tk.nextOrder = s.tk.nextOrder + 1 ∧
        queueOf s' (cOp w.cmd % 16) = queueOf s (cOp w.cmd % 16) ++ [{ ticket := tk, granted := s.tb }] ∧ s'.led = s.led)) ∧
  (∀ (s : State) (core frame n tk : Nat) (x : PortSlot) (w : Word),
    slotOf s core n = some x → x.state = .waiting → x.frame = frame → grantsOpen s = true → ticketFree s tk = true → s.tk.fxReserve < tkFree s →
    spaceOk s (reservation x.cmd) = true → (frameOf s core frame).wait = .grant w n →
    ∃ s', exec (.ticketGrant (.port core frame n) tk) s = .next s' ∧ slotOf s' core n = some { x with state := .posted, ticket := some tk } ∧
      ticketOf s' tk = some { origin := .port core frame n, cmd := x.cmd, order := s.tk.nextOrder, reserved := reservation x.cmd } ∧
      (frameOf s' core frame).wait = .filled (le 4 x.handle.toNat) true ∧ s'.led = s.led) ∧
  (∀ (s : State) (f t since : Nat) (w : Waiting) (code : Byte),
    let x := trayOf s f t
    x.waiting = some w → w.code = some code → w.since = some since → grantsOpen s = true → waitLimit x ≤ w.spent + (s.tb - since) → dueTickets s = [] →
    ∃ s', exec (.waitLimitExpiry f t) s = .next s' ∧ s'.tk.nextOrder = s.tk.nextOrder ∧
      (x.enable = true → x.flight = [{ seq := w.seq }] → (trayOf s' f t).waiting = none ∧ s'.tk = s.tk ∧
        s'.host.extUsed = s.host.extUsed - w.cmd.ext.length / 128 ∧
        .dma f (x.cqBase + BitVec.ofNat 64 (32 * (w.seq.toNat % 2 ^ cqLog2 x))) (complBytes (plainCompl code (cHostTag w.cmd) w.cmd.pushed) w.seq) ∈ s'.out)) ∧
  (∀ (s : State) (f t : Nat) (w w1 : Waiting),
    (trayOf s f t).waiting = some w → w.code ≠ none → (trayOf (returnDue s) f t).waiting = some w1 → w1.code = none →
    exec (.waitLimitExpiry f t) s = .next (returnDue s)) ∧
  (∀ (s : State) (tk c e : Nat) (t : Ticket),
    ticketOf s tk = some t → t.state = .transit → isPeer t.origin = false → ladleOp (cOp t.cmd) = false → holdsBack s tk = false → s.eng.dayFence = none →
    hostRuns s = true → c < 256 → isPrioCtx c = cPrio t.cmd → chooseEngine s (cPrio t.cmd) = some e → (ctxOf s e c).state = .free →
    ∃ s', exec (.dispatch tk c) s = .next s' ∧ (ctxOf s' e c).state = .ready ∧ (ctxOf s' e c).ticket = some tk ∧ (ctxOf s' e c).pc = 0 ∧
      (ctxOf s' e c).ext = t.cmd.ext ∧ (ctxOf s' e c).epoch = (ctxOf s e c).epoch ∧ ticketOf s' tk = some { t with state := .held, engine := e } ∧
      tgetD (ctxOf s' e c).ports 0x7E 0 = BitVec.ofNat 64 (originBits t) ∧ tgetD (ctxOf s' e c).ports 0x7F 0 = BitVec.ofNat 64 tk ∧
      tgetD (ctxOf s' e c).groups 7 0 = originBits t ∧ s'.eng.lastEngine = e ∧ SameRest s s') ∧
  (∀ (s : State) (tk : Nat) (t : Ticket), ticketOf s tk = some t → t.state = .issued →
    ∃ s', exec (.ticketReturn tk) s = .next s' ∧ s'.tk = { s.tk with held := tdel s.tk.held tk } ∧ s'.led = s.led ∧ s'.jn = s.jn)

/-- Completions that the ladle side owes (R105, R243, R319, R321): a port posting's entry is written and its slot shows it done, with DEVICE_FAULT where the
engine's write of the response is refused; a ladle-class command completes.
Where the spec leaves a point open this rests on the model's choice (log entry 73). -/
def Obligations.PortAndLadleCompletions : Prop :=
  (∀ (s : State) (tk c f n : Nat) (t : Ticket) (r : Compl) (x : PortSlot),
    ticketOf s tk = some t → t.origin = .port c f n → t.result = some r → slotOf s c n = some x → (frameOf s c x.frame).epoch = x.epoch →
    let p := engineWrite s t.engine x.dest r.resp
    let st := if p.2 then r.status else stDeviceFault
    ∃ s', exec (.portPostingComplete tk) s = .next s' ∧ ticketOf s' tk = some { t with state := .issued } ∧ s'.led = s.led ∧
      s'.mem = (engineWrite p.1 t.engine x.area (portEntry { r with status := st })).1.mem ∧
      ((∀ g w, (frameOf s c g).wait ≠ .port w n) → slotOf s' c n = some { x with state := .done, status := st, ticket := none }) ∧
      (∀ g w, (frameOf s c g).wait = .port w n → (frameOf s' c g).wait = .filled (le 4 st.toNat) true)) ∧
  (∀ (s : State) (e : Nat) (l : List Nat) (b : Bytes),
    let parts := (l.take b.length).map fun a => (a, 1)
    (refusedPart s (engineMaster e) .write parts = none →
      engineWrite s e l b = ((wholeLines (l.take b.length)).foldl (fun st a => clearPoison st a 128) (writeAddrs s l b), true)) ∧
    (∀ r, refusedPart s (engineMaster e) .write parts = some r → engineWrite s e l b = (faultRefusal s (engineMaster e) r.1 .write r.2, false))) ∧
  (∀ (s : State) (tk f tr : Nat) (t : Ticket) (r : Compl),
    ticketOf s tk = some t → t.origin = .tray f tr → t.result = some r → ladleOp (cOp t.cmd) = true → t.state = .held → childRuns s tk = false →
    exec (.ladleCommandCompletion tk) s = .next (complete s tk r)) ∧
  (∀ (s : State) (tk f tr : Nat) (t : Ticket) (r : Compl) (q : Word),
    ticketOf s tk = some t → t.origin = .tray f tr → t.intact = true → (trayOf s f tr).flight = [{ seq := q, ticket := some tk }] → (trayOf s f tr).enable = true →
    s.board.powerFail = false →
    (ticketOf (complete s tk r) tk).map (·.state) = some .issued ∧
    .dma f ((trayOf s f tr).cqBase + BitVec.ofNat 64 (32 * (q.toNat % 2 ^ cqLog2 (trayOf s f tr)))) (complBytes r q) ∈ (complete s tk r).out)

/-- Vectors and quarantine (R220, R221, R227, R228): the egg timer's time trigger, an unmasked entry, a quarantine's fill, a window's end, a release.
Where the spec leaves a point open this rests on the model's choice (log entry 40). -/
def Obligations.VectorsAndQuarantine : Prop :=
  (∀ (s : State) (f t : Nat),
    let x := trayOf s f t
    let fn := fnOf s f
    let s1 := setTray s f t { x with eggC := 0, eggT0 := 0 }
    eTime x ≠ 0 → 0 < x.eggC → up64 (x.eggT0 + eTime x * 64) ≤ s.tb →
    (x.msixEn = false → exec (.eggTimerTime f t) s = .next s1) ∧
    (x.msixEn = true → fn.fnMasked = false → fn.unmasked.contains t = true → s.mgmt.state ≠ .held →
      exec (.eggTimerTime f t) s = .next (emit s1 (.msix f t))) ∧
    (x.msixEn = true → fn.fnMasked = true ∨ fn.unmasked.contains t = false →
      exec (.eggTimerTime f t) s = .next (setFn s1 f { fn with pendingBits := insertUp t fn.pendingBits }))) ∧
  (∀ (s : State) (f n : Nat),
    let fn := fnOf s f
    fnExists s.part f = true → n < 2048 → s.mgmt.state ≠ .held →
    ∃ s', exec (.msixUnmask f (some n)) s = .next s' ∧ (fnOf s' f).unmasked = insertUp n fn.unmasked ∧ s'.host.trays = s.host.trays ∧
      (fn.fnMasked = false → fn.pendingBits.contains n = true → .msix f n ∈ s'.out ∧ (fnOf s' f).pendingBits.contains n = false)) ∧
  (∀ (s : State) (f : Nat),
    let fn := fnOf s f
    fnExists s.part f = true → s.mgmt.state ≠ .held →
    ∃ s', exec (.msixUnmask f none) s = .next s' ∧ s'.host.trays = s.host.trays ∧
      ∀ n, fn.pendingBits.contains n = true → fn.unmasked.contains n = true → .msix f n ∈ s'.out) ∧
  (∀ (s : State) (f t : Nat),
    let x := trayOf s f t
    hostRuns s = true → x.enable = true → x.quar = true → x.quarFill = true → x.flight = [] → x.waiting = none → hasCredit x = true →
    ∃ s', exec (.quarantineFill f t) s = .next s' ∧ (trayOf s' f t).quarFill = false ∧ (trayOf s' f t).expect = x.expect + 1 ∧
      (trayOf s' f t).quar = true ∧ s'.tk = s.tk ∧
      .dma f (x.cqBase + BitVec.ofNat 64 (32 * (x.expect.toNat % 2 ^ cqLog2 x))) (complBytes { status := stQuarantine, fill := true } x.expect) ∈ s'.out) ∧
  (∀ (s : State) (f t w : Nat),
    let x := trayOf s f t
    x.winStart = some w → w + 1000000 ≤ s.tb →
    exec (.violationWindowEnd f t) s = .next (setTray s f t { x with winStart := none, window := 0, unlogged := 0 })) ∧
  (∀ (s : State) (v : Dbl) (f t : Nat),
    let x := trayOf s f t
    trayHome s (bits v.toNat 14 0) = some (f, t) → x.quar = true →
    exec (.quarRelease v) s =
      .next (trayNote (setTray s f t { x with quar := false, quarFill := false, winStart := none, window := 0, unlogged := 0 }) f t 0x08 0x00 0 []))

/-- Tray and function registers (R188, R196, R197, R229, R230): each accepted write's whole effect.
Where the spec leaves a point open this rests on the model's choice (log entry 37). -/
def Obligations.TrayAndFunctionRegisters : Prop :=
  (∀ (s : State) (f t : Nat) (v : Dbl),
    let x := trayOf s f t
    let y := if v.getLsbD 2 ∧ trayIdle s f t then resetTray x else x
    let z := { y with pushEn := v.getLsbD 1, msixEn := v.getLsbD 3 }
    trayExists s f t = true → x.enable = false →
    (v.getLsbD 0 = true → enableRefused s f t z = false → exec (.trayEnable f t v) s = .next (setTray s f t { z with enable := true })) ∧
    (v.getLsbD 0 = true → enableRefused s f t z = true → exec (.trayEnable f t v) s = .next (setTray s f t { z with cfgErr := true })) ∧
    (v.getLsbD 2 = true → v.getLsbD 0 = false → trayIdle s f t = true →
      exec (.trayReset f t v) s = .next (setTray s f t { resetTray x with pushEn := v.getLsbD 1, msixEn := v.getLsbD 3 }))) ∧
  (∀ (x : Tray), (resetTray x).expect = 1 ∧ (resetTray x).crHead = 0 ∧ (resetTray x).crTail = 0 ∧ (resetTray x).cqHead = 0 ∧ (resetTray x).readErr = false ∧
    (resetTray x).slots = [] ∧ (resetTray x).cfg = x.cfg ∧ (resetTray x).crBase = x.crBase ∧ (resetTray x).cqBase = x.cqBase ∧ (resetTray x).total = x.total ∧
    (resetTray x).quar = x.quar) ∧
  (∀ (s : State) (f t : Nat) (v : Dbl),
    let x := { trayOf s f t with pushEn := v.getLsbD 1, msixEn := v.getLsbD 3 }
    trayExists s f t = true → x.enable = true → v.getLsbD 0 = false →
    ∃ s', exec (.trayDisable f t v) s = .next s' ∧ s' = disableTray (setTray s f t x) f t ∧ s'.jn = s.jn ∧ s'.led = s.led ∧
      (∀ fl ∈ x.flight, ∀ k, fl.done ≠ none → fl.ticket = some k → ticketOf s k ≠ none → (ticketOf s' k).map (·.state) = some .issued) ∧
      ((∀ fl ∈ x.flight, fl.done = none) → s'.tk = { s.tk with held := tmap s.tk.held fun _ (k : Ticket) => if k.origin = .tray f t then { k with intact := false } else k })) ∧
  (∀ (s : State) (f : Nat) (v : Dbl),
    let n := v.toNat
    let tenant := if f % 8192 = 0 then 0 else bits n 44 32
    let nt := bits n 27 16
    let first := bits n 14 0
    f < 16384 → (fnOf s f).valid = false → v.getLsbD 63 = true →
    (fnExists s.part f = true → absentKey s tenant = false → nt ≤ (if f = 0 then 2047 else 2048) → first + nt ≤ nTrays s.part → mapOverlap s f first nt = false →
      exec (.functionBind f v) s = .next (setFn s f { fnOf s f with valid := true, tenant := tenant, ntrays := nt, firstTray := first, vlogCount := 0 })) ∧
    (fnExists s.part f = false ∨ absentKey s tenant = true ∨ (if f = 0 then 2047 else 2048) < nt ∨ nTrays s.part < first + nt ∨ mapOverlap s f first nt = true →
      exec (.functionBind f v) s = .next { s with host := { s.host with mapErr := true } })) ∧
  (∀ (s : State) (f : Nat) (v : Dbl),
    let n := v.toNat
    let tenant := if f % 8192 = 0 then 0 else bits n 44 32
    f < 16384 → (fnOf s f).valid = true → v.getLsbD 63 = false →
    exec (.functionUnbind f v) s =
      .next (setFn (resetFn s f) f { fnOf (resetFn s f) f with valid := false, tenant := tenant, ntrays := bits n 27 16, firstTray := bits n 14 0 })) ∧
  (∀ (s : State) (f : Nat), fnExists s.part f = true → (fnOf s f).valid = true →
    ∃ s', exec (.functionLevelReset f) s = .next s' ∧ (fnOf s' f).resetting = true ∧ (fnOf s' f).dbEnable = false ∧ (fnOf s' f).unmasked = [] ∧
      (fnOf s' f).pendingBits = [] ∧ (fnOf s' f).valid = true ∧ (fnOf s' f).tenant = (fnOf s f).tenant ∧ s'.jn = s.jn ∧ s'.led = s.led) ∧
  (∀ (s : State) (port : Nat),
    exec (.vfEnableClear port) s = .next (((s.host.fns.map (·.1)).filter fun f => f / 8192 == port && f % 8192 != 0).foldl resetFn s)) ∧
  (∀ (s : State) (f : Nat), (fnOf s f).resetting = true → (∀ e ∈ s.tk.held, ∀ t, e.2.origin ≠ .tray f t) →
    exec (.flrComplete f) s = .next (setFn s f { fnOf s f with resetting := false })) ∧
  (∀ (s : State) (v : Dbl), exec (.tkReserveWrite v) s =
    .next { s with tk := { s.tk with fxReserve := if bits v.toNat 31 16 ≤ 8192 then bits v.toNat 31 16 else s.tk.fxReserve,
                                     opReserve := if bits v.toNat 15 0 ≤ 8192 then bits v.toNat 15 0 else s.tk.opReserve } }) ∧
  (∀ (s : State) (key : Nat) (v : Dbl), key ≤ 8191 → absentKey s key = false →
    (bits v.toNat 16 0 ≤ 65536 → exec (.tenantQuotaWrite key v) s = .next { s with tk := { s.tk with quotas := tset s.tk.quotas key 0 (bits v.toNat 16 0) } }) ∧
    (65536 < bits v.toNat 16 0 → exec (.tenantQuotaWrite key v) s = .next s))

/-- A message row with no arriving message takes the first of its type from those whose last flit has arrived, and acts as if it arrived now. -/
def Obligations.QueuedMessagesActAsArriving : Prop :=
  ∀ (s : State) (k : Nat) (m : Msg) (rest : List (Nat × Msg)) (typ : Byte) (row : MsgIn → Instr),
    ((typ, row) ∈ [(tyCommit, Instr.commit), (tyAbort, .abort), (tyPrepared, .prepared), (tyRefused, .refused), (tyDone, .done), (tyOutcome, .outcome),
      (tyE2eAck, .e2eAck), (tyNak, .nak), (tyMirror, .mirror), (tyMirrorAck, .mirrorAck), (tyHeartbeat, .heartbeat)]) →
    takeInbox (fun x => decide (x.typ = typ) && forUs s x) s.fab.inbox = some ((k, m), rest) →
    exec (row .queued) s = exec (row (.arrives k m)) { s with fab := { s.fab with inbox := rest } }

/-- A participant's PREPARE (R448, R449): it waits for its ticket, is dispatched, and journals a PREPARE record; without a ticket for 20 µs it is answered REFUSED.
Where the spec leaves a point open this rests on the model's choice (log entry 48). -/
def Obligations.ParticipantPrepares : Prop :=
  (∀ (s : State) (k tk e c : Nat) (m : Msg),
    let src := srcOfMsg m
    let boot : Half := m.arg.setWidth 16
    let p := postKey src boot m.xseq.toNat
    let v : PartEnt := { src := src, xseq := m.xseq.toNat, boot := boot, slot := slice m.body 0 32, legs := slots32 (m.body.drop 32),
                         prio := bitOf m.mflags.toNat 4, waitFrom := s.tb, arrival := s.fab.arrivals }
    let s1 := ackMsg s m
    Arrives s k m tyPrepare → badPrepareSlot s m = false → tget s.fab.parts p = none →
    (tget s.fab.tombs p = none → exec (.prepare (.fresh (.arrives k m)) tk e c) s =
      exec (.prepareTicketGrant p tk e c) (setPart { s1 with fab := { s1.fab with arrivals := s1.fab.arrivals + 1 } } p v)) ∧
    (∀ x, tget s.fab.tombs p = some x → exec (.prepare (.fresh (.arrives k m)) tk e c) s = .next (sendRefused s1 v stRemoteRefused none))) ∧
  (∀ (s : State) (p tk e c : Nat) (v : PartEnt),
    let ids := (partLegs v).map fun g => g.2.account.toNat
    let r := prepareRec v stOk none
    tget s.fab.parts p = some v → v.state = .waiting → v.ticket = none → s.eng.dayFence = none → grantsOpen s = true → earlierWaits s v = false →
    spaceOk s (prepareResv v) = true → ticketFree s tk = true → tableFree s = true → engineIn s e = true → s.eng.resetting.contains e = false → c < 256 →
    isPrioCtx c = preparePrio s v → (ctxOf s e c).state = .free → (∀ g ∈ partLegs v, isLocal s g.2.account = true) → (∀ key ∈ ids, tget s.locks key = none) →
    fetchFault s e (sortUp ids) = none → judgePart s v = (stOk, none) → s.jn.stopped = false → canAppend s [r] = true →
    ∃ s', exec (.prepareTicketGrant p tk e c) s = .next s' ∧ AppendsOne s s' r ∧
      tget s'.fab.parts p = some { v with ticket := some tk, state := .taken, ctx := some (e, c), prepSeq := s.jn.nextSeq } ∧
      (ctxOf s' e c).state = .waiting ∧ (ctxOf s' e c).phase = .xdev ∧ (ctxOf s' e c).ticket = some tk ∧
      (∀ key ∈ ids, (tget s'.locks key).map (·.owner) = some (ctxOwner e c))) ∧
  (∀ (s : State) (p tk e c : Nat), exec (.prepare (.goOn p) tk e c) s = .next (prepareGo s p)) ∧
  (∀ (s : State) (p : Nat) (v : PartEnt),
    tget s.fab.parts p = some v → v.state = .waiting → v.ticket = none → s.eng.dayFence = none → v.waitFrom + 20000 ≤ s.tb →
    ∃ s', exec (.prepareTicketTimeout p) s = .next s' ∧ s'.fab.parts = tdel s.fab.parts p ∧ FabricOnly s s' ∧
      s' = sendRefused (dropPart s p) v (if v.code = stJournalSpace then stJournalSpace else stQuota) none)

/-- A decision reaches a participant (R448, R449, R451): COMMIT, ABORT and OUTCOME append its record; an ABORT of a posting it does not hold leaves a tombstone.
Where the spec leaves a point open this rests on the model's choice (log entry 49). -/
def Obligations.ParticipantsDecide : Prop :=
  (∀ (s : State) (k : Nat) (m : Msg) (v : PartEnt) (commit : Bool),
    let p := postKey (srcOfMsg m) (m.arg.setWidth 16) m.xseq.toNat
    let r := partDecisionRec v commit
    Arrives s k m (if commit then tyCommit else tyAbort) → tget s.fab.parts p = some v → v.state = .prepared → canAppend s [r] = true →
    ∃ s', exec (if commit then .commit (.arrives k m) else .abort (.arrives k m)) s = .next s' ∧ AppendsOne s s' r ∧
      tget s'.fab.parts p = some { v with state := .deciding, commit := commit }) ∧
  (∀ (s : State) (k p : Nat) (m : Msg) (v : PartEnt) (commit : Bool),
    let r := partDecisionRec v commit
    Arrives s k m tyOutcome →
    (s.fab.parts.find? fun e => decide (e.2.state = .prepared) && e.2.src % 1024 == srcOfMsg m % 1024 && e.2.xseq == m.xseq.toNat) = some (p, v) →
    tget s.fab.parts p = some v → bits m.arg.toNat 7 0 = (if commit then 0 else 1) → canAppend s [r] = true →
    ∃ s', exec (.outcome (.arrives k m)) s = .next s' ∧ AppendsOne s s' r ∧ tget s'.fab.parts p = some { v with state := .deciding, commit := commit }) ∧
  (∀ (s : State) (k : Nat) (m : Msg),
    let p := postKey (srcOfMsg m) (m.arg.setWidth 16) m.xseq.toNat
    Arrives s k m tyAbort → tget s.fab.parts p = none →
    ∃ s', exec (.abort (.arrives k m)) s = .next s' ∧ tget s'.fab.tombs p = some (s.tb + 1000000) ∧ s'.fab.parts = s.fab.parts ∧ FabricOnly s s') ∧
  (∀ (s : State) (p : Nat) (v : PartEnt),
    tget s.fab.parts p = some v → v.state = .prepared → isStandby s = false → v.preparedAt + 100000 ≤ s.tb → v.lastQuery + 100000 ≤ s.tb → partnerLost s = false →
    ∃ s', exec (.participantQueryPeriod p) s = .next s' ∧ tget s'.fab.parts p = some { v with lastQuery := s.tb } ∧ FabricOnly s s' ∧
      s' = (sendSeq (setPart s p { v with lastQuery := s.tb }) (mkMsg s tyQuery v.src v.xseq v.boot.toNat []) (.part p)).1) ∧
  (∀ (s : State) (p t : Nat), tget s.fab.tombs p = some t → t ≤ s.tb →
    exec (.tombstoneExpiry p) s = .next { s with fab := { s.fab with tombs := tdel s.fab.tombs p } })

/-- A coordinator's entry (R446, R447, R453): the last PREPARED appends the commit record, a REFUSED or a timeout the abort record, the last DONE closes it. -/
def Obligations.CoordinatorDecides : Prop :=
  (∀ (s : State) (k : Nat) (m : Msg) (v : Coord),
    let x := m.xseq.toNat
    let ps := partsWith s v (srcOfMsg m) fun p => { p with prepared := true }
    let r := decisionOf s x v true stOk 0
    Arrives s k m tyPrepared → tget s.fab.coords x = some v → v.state = .preparing → v.prepFailed = false → v.cause = 0 → (∀ p ∈ v.parts, p.refused = none) →
    v.prepDurable = true → ps.all (·.prepared) = true → canAppend s [r] = true →
    ∃ s', exec (.prepared (.arrives k m)) s = .next s' ∧ AppendsOne s s' r ∧
      tget s'.fab.coords x = some { v with parts := ps, state := .committing, commit := true, status := stOk, info := 0 }) ∧
  (∀ (s : State) (k : Nat) (m : Msg) (v : Coord),
    let x := m.xseq.toNat
    let a := m.arg.toNat
    let ps := partsWith s v (srcOfMsg m) fun p => if p.refused.isSome then p else { p with refused := some (BitVec.ofNat 8 (bits a 7 0), bitOf a 12, bits a 11 8) }
    let st := abortStatus { v with parts := ps }
    let r := decisionOf s x v false st.1 st.2
    Arrives s k m tyRefused → tget s.fab.coords x = some v → v.state = .preparing → (∃ p ∈ v.parts, sameEndpoint s p.ep (srcOfMsg m) = true) → canAppend s [r] = true →
    ∃ s', exec (.refused (.arrives k m)) s = .next s' ∧ AppendsOne s s' r ∧
      tget s'.fab.coords x = some { v with parts := ps, state := .aborting, commit := false, status := st.1, info := st.2 }) ∧
  (∀ (s : State) (k : Nat) (m : Msg) (v : Coord),
    let x := m.xseq.toNat
    Arrives s k m tyDone → tget s.fab.coords x = some v → v.state = .decided → (partsWith s v (srcOfMsg m) fun p => { p with done := true }).all (·.done) = true →
    ∃ s', exec (.done (.arrives k m)) s = .next s' ∧ s'.fab.coords = tdel s.fab.coords x ∧ FabricOnly s s') ∧
  (∀ (s : State) (x : Nat) (v : Coord) (st : Byte),
    let v1 := { v with cause := st }
    let a := abortStatus v1
    let r := decisionOf s x v false a.1 a.2
    tget s.fab.coords x = some v → v.state = .preparing → v.cause = 0 → st ≠ 0 → canAppend s [r] = true →
    (st = stRemoteTimeout → isStandby s = false → v.lastPrepare + 50000 ≤ s.tb → (v.parts.any fun p => !p.prepared) = true →
      ∃ s', exec (.prepareTimeout x) s = .next s' ∧ AppendsOne s s' r ∧
        tget s'.fab.coords x = some { v1 with state := .aborting, commit := false, status := a.1, info := a.2 }) ∧
    (∀ ep eseq y, st = stAckTimeout → ((e2eOf s ep).out.find? fun (z : Sent) => z.eseq == eseq) = some y → y.timedOut = false → y.sentAt + 20000 ≤ s.tb →
      y.owner = .coord x →
      ∃ s', exec (.ackTimeout ep eseq) s = .next s' ∧ AppendsOne s s' r ∧
        tget s'.fab.coords x = some { v1 with state := .aborting, commit := false, status := a.1, info := a.2 })) ∧
  (∀ (s : State) (x ep : Nat) (v : Coord),
    tget s.fab.coords x = some v → v.state = .decided → isStandby s = false →
    (v.parts.any fun p => p.ep == ep && !p.done && decide (p.lastSend + 100000 ≤ s.tb)) = true →
    ∃ s', exec (.decisionResend x ep) s = .next s' ∧ FabricOnly s s' ∧ s' = sendDecision s x ep ∧
      tget s'.fab.coords x = some { v with parts := v.parts.map fun p => if p.ep = ep then { p with lastSend := s.tb } else p }) ∧
  (∀ (s : State) (v : Dbl) (x : Coord), tget s.fab.coords v.toNat = some x → x.state = .decided →
    exec (.fxForget v) s = .next (logFault (dropCoord s v.toNat) 0x0B 2 (ownEndpoint s) 0 v.toNat 0)) ∧
  (∀ (s : State) (v : Dbl), (∀ x, tget s.fab.coords v.toNat = some x → x.state ≠ .decided) → exec (.fxForget v) s = .next s)

/-- QUERY, E2E_ACK, NAK, routing and the window's timers (R437, R441, R442, R450).
Where the spec leaves a point open this rests on the model's choice (log entry 45). -/
def Obligations.MessagesAnsweredAndAcknowledged : Prop :=
  (∀ (s : State) (k : Nat) (m : Msg), Arrives s k m tyQuery →
    exec (.query (.arrives k m)) s = .next
      (sendSeq (ackMsg s m) (mkMsg s tyOutcome (srcOfMsg m) m.xseq.toNat (outcomeOfQuery s m.xseq.toNat (m.arg.setWidth 16)) []) .nobody).1) ∧
  (∀ (s : State) (x : Nat) (boot : Half) (v : Coord), tget s.fab.coords x = some v →
    outcomeOfQuery s x boot = (if v.state = .decided then (if v.commit then 0 else 1) else 2)) ∧
  (∀ (s : State) (k : Nat) (m : Msg), Arrives s k m tyE2eAck →
    exec (.e2eAck (.arrives k m)) s = .next ((ackedSeqs m).foldl (fun a q => freeSend a (srcOfMsg m) q) s)) ∧
  (∀ (s : State) (ep q : Nat), (e2eOf s ep).waiting = [] →
    freePlace s ep q = setE2e s ep { e2eOf s ep with out := (e2eOf s ep).out.filter fun x => x.eseq != q }) ∧
  (∀ (s : State) (k xs : Nat) (m : Msg) (y : Sent) (v : Coord),
    let ep := field m.body 2 2 % 2048
    let q := bits m.arg.toNat 31 16
    let v1 := if bits m.arg.toNat 7 0 = 6 then { v with cause := stPartnerLost } else
      { v with parts := partsWith s v ep fun p => if p.refused.isSome then p else { p with refused := some (stRemoteRefused, false, 0) } }
    let st := abortStatus v1
    let r := decisionOf s xs v false st.1 st.2
    Arrives s k m tyNak → byteAt m.body 0 ≠ tyMirror → ((e2eOf s ep).out.find? fun (x : Sent) => x.eseq == q) = some y → y.owner = .coord xs →
    tget s.fab.coords xs = some v → v.state = .preparing → v.cause = 0 → (∃ p ∈ v.parts, sameEndpoint s p.ep ep = true) →
    (e2eOf (freePlace s ep q) ep).lost = [] → canAppend s [r] = true →
    ∃ s', exec (.nak (.arrives k m)) s = .next s' ∧ AppendsOne s s' r ∧
      tget s'.fab.coords xs = some { v1 with state := .aborting, commit := false, status := st.1, info := st.2 }) ∧
  (∀ (s : State) (k : Nat) (m : Msg), 1 ≤ m.typ.toNat → m.typ.toNat ≤ 0x0C → forUs s m = false → msgFault s k m = none →
    (bits m.mflags.toNat 3 1 < 4 → (transmit s m (decide (32 ≤ k))).2 = true → exec (.messageRoute (.arrives k m)) s = .next (transmit s m (decide (32 ≤ k))).1) ∧
    (bits m.mflags.toNat 3 1 < 4 → (transmit s m (decide (32 ≤ k))).2 = false → exec (.messageRoute (.arrives k m)) s = .next (nakMsg s m 0x06)) ∧
    (4 ≤ bits m.mflags.toNat 3 1 → exec (.messageRoute (.arrives k m)) s = .next (nakMsg s m 0x06))) ∧
  (∀ (s : State) (ep eseq : Nat) (x : Sent), ((e2eOf s ep).out.find? fun (x : Sent) => x.eseq == eseq) = some x → x.sentAt + 1000000 ≤ s.tb →
    let s0 := { s with fab := { s.fab with abandon := true, abandons := sat (2 ^ 64 - 1) (s.fab.abandons + 1) } }
    ∃ s', exec (.messageAbandon ep eseq) s = .next s' ∧ s' = freeSend s0 ep eseq ∧ s'.fab.abandon = true ∧ s'.fab.abandons = s0.fab.abandons ∧
      ((e2eOf (freePlace s0 ep eseq) ep).lost = [] → FabricOnly s s')) ∧
  (∀ (s : State) (ep q : Nat), let t := freePlace s ep q
    ((e2eOf t ep).lost = [] → freeSend s ep q = t) ∧
    (∀ x, (e2eOf t ep).lost = [x] → freeSend s ep q = coordAbort (setE2e t ep { e2eOf t ep with lost := [] }) x stPartnerLost))

/-- The partner die (R456 to R464): mirrored records are written and acknowledged, a heartbeat applies them, a loss of the path or of the die makes the
serving die SOLO, and the standby takes over. What ends SOLO, what the standby applies when, and what becomes of the mirror ring are the model's readings (log entries 32 to 35, 101). -/
def Obligations.PartnerDieMirrors : Prop :=
  (∀ (s : State) (k : Nat) (m : Msg), Arrives s k m tyMirror →
    let rs := recordsOf m.body.length m.body
    (isStandby s = true → s.dup.stale = false →
      ∃ s', exec (.mirror (.arrives k m)) s = .next s' ∧ s' = ackMirror (rs.foldl standbyTake s) (rs.foldl standbyTake s).dup.standbyAcked ∧ s'.led = s.led) ∧
    (isStandby s = false → split s = true → ∀ s0, mirrorPut s (rs.flatMap recordBytes) = .inl s0 →
      ∃ s', exec (.mirror (.arrives k m)) s = .next s' ∧ s'.dup.ring = rs.foldl ringTake s.dup.ring ∧ s'.mem = s0.mem ∧ s'.jn = s.jn ∧ s'.led = s.led)) ∧
  (∀ (s : State) (r : Rec), r.seq = s.dup.standbyAcked + 1 →
    (standbyTake s r).dup.standbyAcked = r.seq ∧ (standbyTake s r).jn.nextSeq = r.seq + 1 ∧ (standbyTake s r).led = s.led) ∧
  (∀ (s : State) (k : Nat) (m : Msg), Arrives s k m tyMirrorAck → m.arg.toNat < s.jn.nextSeq → s.dup.solo = false →
    let a := max s.dup.acked m.arg.toNat
    exec (.mirrorAck (.arrives k m)) s =
      .next { s with dup := { s.dup with acked := a, lastMirror := if a + 1 = s.jn.nextSeq then none else some s.tb } }) ∧
  (∀ (s : State) (k : Nat) (m : Msg), Arrives s k m tyHeartbeat → isStandby s = true → s.dup.stale = false →
    ∃ s', exec (.heartbeat (.arrives k m)) s = .next s' ∧ s' = applyMirrored s m.arg.toNat ∧
      s'.dup.applied = max s.dup.applied (min m.arg.toNat s.dup.standbyAcked) ∧ s'.jn = s.jn) ∧
  (∀ (s : State), s.part = .pv128d → s.dup.alive = true →
    (isStandby s = false → ∃ s', exec .dieAliveFall s = .next s' ∧ s'.dup.alive = false ∧ s'.dup.solo = true ∧ s'.led = s.led ∧ s'.cores = s.cores) ∧
    (isStandby s = true → s.dup.stale = false → s.mgmt.state = .service →
      ∃ s', exec .dieAliveFall s = .next s' ∧ s'.dup.alive = false ∧ s'.dup.role = 1 ∧ s'.dup.solo = true ∧ s'.jn.durable = s.dup.standbyAcked ∧
        s'.dup.takeovers = sat 255 (s.dup.takeovers + 1)) ∧
    (isStandby s = true → s.dup.stale = true → ∃ s', exec .dieAliveFall s = .next s' ∧ s'.dup.alive = false ∧ s'.dup.role = s.dup.role ∧ s'.jn = s.jn)) ∧
  (∀ (s : State), s.part = .pv128d → s.dup.solo = false → s.dup.stale = false →
    (s.dup.alive = true → s.dup.lastFlit + 4000 ≤ s.tb → ∃ s', exec .partnerPathSilence s = .next s' ∧ s'.led = s.led ∧
      (s.dup.role = 2 → s'.dup.stale = true) ∧ (s.dup.role ≠ 2 → s'.dup.solo = true)) ∧
    (∀ t, s.dup.lastMirror = some t → t + 4000 ≤ s.tb → ∃ s', exec .mirrorAckTimeout s = .next s' ∧ s'.led = s.led ∧
      (s.dup.role = 2 → s'.dup.stale = true) ∧ (s.dup.role ≠ 2 → s'.dup.solo = true)))

/-- Flits (R430 to R433, R435, R439, R442): what each kind does once its ACK and CRED fields are taken.
Where the spec leaves a point open this rests on the model's choice (log entries 41, 44, 110). -/
def Obligations.LinksCarryFlits : Prop :=
  (∀ (s : State) (k : Nat) (w : FlitIn),
    let st := flitTaken s k w
    let l := linkOf st k
    let b := w.data
    let p := poolOf (byteAt b 0)
    let owed := tgetD l.rxUsed p 0
    FlitArrives s k w → flitType b = 1 → l.state = .up →
    (field b 2 2 = l.rxExpect → owed < poolDepth st k (p % 4) (p / 4) → byteAt b 1 = 3 → tget l.rxParts p = none →
      let t := setLink st k { l with rxExpect := (l.rxExpect + 1) % 4096, reqSent := 0, rxUsed := tput l.rxUsed p (owed + 1), rxParts := tdel l.rxParts p }
      ∃ s', exec (.dataFlit k w) s = .next s' ∧ s'.fab.inbox = st.fab.inbox ++ [(k, assemble (slice b 8 52))] ∧
        s' = { st with fab := s'.fab, out := s'.out } ∧ s'.out = (answerData t k).out ∧ st.out.length < s'.out.length ∧ s'.fab.links = (answerData t k).fab.links) ∧
    (field b 2 2 ≠ l.rxExpect → l.reqSent ≠ 0 → exec (.dataFlit k w) s = .next st) ∧
    (field b 2 2 ≠ l.rxExpect → l.reqSent = 0 → exec (.dataFlit k w) s = .next (sendRetryReq st k))) ∧
  (∀ (s : State) (k : Nat) (w : FlitIn), FlitArrives s k w → flitType w.data = 0 → exec (.idleFlit k w) s = .next (flitTaken s k w)) ∧
  (∀ (s : State) (k : Nat) (w : FlitIn), FlitArrives s k w → isCtrl 2 w.data = true → exec (.flitNak k w) s = .next (flitTaken s k w)) ∧
  (∀ (s : State) (k : Nat) (w : FlitIn),
    let st := flitTaken s k w
    let l := linkOf st k
    FlitArrives s k w → isCtrl 1 w.data = true →
    exec (.retryReq k w) s = .next ((l.unacked.dropWhile fun d => field d 2 2 != field w.data 10 2 % 4096).foldl (fun a d => sendData a k d)
      (setLink st k { l with retryReqs := sat (2 ^ 32 - 1) (l.retryReqs + 1) }))) ∧
  (∀ (s : State) (k : Nat) (w : FlitIn),
    let st := flitTaken s k w
    FlitArrives s k w → isCtrl 3 w.data = true → (linkOf st k).state = .exchange →
    (identFault st k w.data = none →
      ∃ s', exec (.ident k w) s = .next s' ∧ (linkOf s' k).state = .up ∧
        (linkOf s' k).peer = field w.data 10 2 % 2048 ∧ s'.led = s.led ∧ s'.jn = s.jn) ∧
    (∀ r, identFault st k w.data = some r →
      ∃ s', exec (.ident k w) s = .next s' ∧ (linkOf s' k).state = .down ∧ (linkOf s' k).reason = r ∧ (r = 0x04 → s'.fab.epochErr = true) ∧
        s'.led = s.led ∧ s'.jn = s.jn)) ∧
  (∀ (s : State) (k : Nat) (b : Bytes), let l := linkOf s k
    (takeAckCred s k b).led = s.led ∧ (l.txQueue = [] → bits (field b 6 2) 10 3 = 0 → bitOf (field b 4 2) 15 = false → takeAckCred s k b = setLink s k l))

/-- Bring-up and the links' timers (R429, R433, R434, R443): each event's whole effect on its link.
Where the spec leaves a point open this rests on the model's choice (log entries 42, 43, 108). -/
def Obligations.LinksComeUpAndGoDown : Prop :=
  (∀ (s : State) (k : Nat),
    let l := linkOf s k
    let good := fun (n : Nat) => ({ ok := true, header := BitVec.ofNat 20 (0x2B5 * 1024 + n % 1024) } : Codeword)
    (∀ n, n < 1024 → l.locked = false → l.goodWords = 0 →
      let l1 := { l with locked := true, goodWords := 0, badWords := 0, lastWord := (n + 3) % 1024 }
      (l.state = .lock → exec (.receiverLock { link := k, words := [good n, good (n + 1), good (n + 2), good (n + 3)] }) s =
        .next (sendCtrl (changeLink s k { l1 with state := .exchange, since := s.tb }) k 2 (identBytes s k))) ∧
      (l.state = .exchange ∨ l.state = .up → exec (.receiverLock { link := k, words := [good n, good (n + 1), good (n + 2), good (n + 3)] }) s = .next (setLink s k l1))) ∧
    (∀ ws : List Codeword, l.locked = true → l.badWords = 0 → l.state = .exchange ∨ l.state = .up → ws.length = 8 →
      (∀ w ∈ ws, w.ok = false ∨ w.header.extractLsb' 10 10 ≠ 0x2B5#10) →
      exec (.receiverLockLoss { link := k, words := ws }) s = .next (setLink s k { l with locked := false, goodWords := 0, badWords := 0, lastWord := (l.lastWord + 8) % 1024 })) ∧
    (l.state = .training → s.board.fabOk = true → exec (.trainingDone k) s = .next (changeLink s k { l with state := .lock, since := s.tb })) ∧
    (l.state = .training → l.since + 500000000 ≤ s.tb → exec (.trainingTimeout k) s = .next (downLink s k 0x02)) ∧
    (l.state = .lock → l.since + 50000000 ≤ s.tb → exec (.lockTimeout k) s = .next (downLink s k 0x03)) ∧
    (∀ t, l.retrainFrom = some t → l.state ≠ .up → t + 10000000 ≤ s.tb → exec (.retrainDeadline k) s = .next (downLink s k 0x07)) ∧
    (∀ t, l.violStart = some t → t + 1000000 ≤ s.tb → exec (.linkViolationWindowEnd k) s = .next (setLink s k { l with violStart := none, violOpen := 0 })) ∧
    (l.state = .up → 0 < l.reqSent → l.reqAt + 2000 ≤ s.tb →
      (l.reqSent < 8 → exec (.retryReqRepeat k) s = .next (sendRetryReq s k)) ∧ (8 ≤ l.reqSent → exec (.retryReqRepeat k) s = .next (retryRetrain s k))) ∧
    (k < nLinks s.part → l.enable = true → linksRun s = true →
      (l.state = .down → exec (.linkRetrain k) s = .next (trainLink s k)) ∧ (l.state = .up → exec (.linkRetrain k) s = .next (retrainLink s k)))) ∧
  (∀ (s : State) (k : Nat) (v : Dbl), k < nLinks s.part → linksRun s = true → v.getLsbD 0 = true → (linkOf s k).state = .disabled →
    ∃ s', exec (.linkEnable k v) s = .next s' ∧ (linkOf s' k).state = .training ∧ (linkOf s' k).enable = true ∧ (linkOf s' k).since = s.tb ∧
      (linkOf s' k).txNext = 0 ∧ (linkOf s' k).rxExpect = 0 ∧ s'.led = s.led ∧ s'.jn = s.jn) ∧
  (∀ (s : State) (k : Nat) (r : Byte), (linkOf (downLink s k r) k).state = .down ∧ (linkOf (downLink s k r) k).reason = r ∧
    (linkOf (downLink s k r) k).unacked = [] ∧ (linkOf (downLink s k r) k).txQueue = []) ∧
  (∀ (s : State) (k : Nat), (linkOf (retrainLink s k) k).state = .training ∧ (linkOf (retrainLink s k) k).unacked = (linkOf s k).unacked ∧
    (linkOf (retrainLink s k) k).txNext = (linkOf s k).txNext ∧ (linkOf (retrainLink s k) k).retrainFrom = (linkOf s k).retrainFrom ∧
    retryRetrain s k = setLink (retrainLink s k) k { linkOf (retrainLink s k) k with retrainFrom := some s.tb }) ∧
  (∀ (s : State) (k j : Nat), j ≠ k → ∀ r, linkOf (downLink s k r) j = linkOf s j ∧ linkOf (trainLink s k) j = linkOf s j ∧ linkOf (retrainLink s k) j = linkOf s j)

/-- FAB_CTL and the timebase exchange (R13, R454, R465). The master's device is the outside's: what depends on it is stated for either case.
Where the spec leaves a point open this rests on the model's choice (log entries 46, 47). -/
def Obligations.FabricUnitAndTimebase : Prop :=
  (∀ (s : State) (v : Dbl),
    (s.fab.enable = false → v.getLsbD 0 = true → fabRefused s (fabFields s.fab v) = false →
      ∃ s', exec (.fabEnable v) s = .next s' ∧ s' = startLinks { s with fab := { fabFields s.fab v with enable := true } } ∧ s'.fab.enable = true ∧
        s'.led = s.led ∧ s'.jn = s.jn) ∧
    (s.fab.enable = false → v.getLsbD 0 = true → fabRefused s (fabFields s.fab v) = true →
      exec (.fabEnable v) s = .next { s with fab := { s.fab with cfgErr := true } }) ∧
    (s.fab.enable = true → v.getLsbD 0 = false → s.fab.coords = [] → resolverHeld s = 0 →
      ∃ s', exec (.fabDisable v) s = .next s' ∧ s' = linksOff { s with fab := { s.fab with enable := false } } ∧ s'.fab.enable = false ∧ s'.led = s.led) ∧
    (s.fab.enable = true → v.getLsbD 0 = false → s.fab.coords ≠ [] ∨ resolverHeld s ≠ 0 →
      exec (.fabDisable v) s = .next { s with fab := { s.fab with cfgErr := true } })) ∧
  (∀ (s : State) (k : Nat) (w : FlitIn),
    let st := flitTaken s k w
    FlitArrives s k w →
    (isCtrl 4 w.data = true → exec (.timeReq k w) s = .next (sendCtrl st k 2 ([5] ++ zeros 7 ++ le 8 st.tb ++ le 8 st.tb))) ∧
    (∀ t1, isCtrl 5 w.data = true → s.fab.timeReq = some t1 → exec (.timeResp k w) s = .next (if timeLink st = some k then
      correctTime { st with fab := { st.fab with timeReq := none } } ((((field w.data 16 8 : Nat) : Int) - t1 + (((field w.data 24 8 : Nat) : Int) - s.tb)).tdiv 2)
      else st))) ∧
  (∀ (s : State), s.fab.timeMaster = false → s.fab.enable = true → s.fab.lastTimeReq + 125000 ≤ s.tb →
    exec .timeReqPeriod s = .next (match timeLink s with
      | none => s
      | some k => sendCtrl { s with fab := { s.fab with timeReq := some s.tb, lastTimeReq := s.tb } } k 2 ([4] ++ zeros 7 ++ le 8 s.tb))) ∧
  (∀ (s : State), s.fab.syncEn = true →
    ∃ s', exec .syncInEdge s = .next s' ∧ s'.fab.timeLock = true ∧ s'.led = s.led ∧
      (s.tb % 1000000 < 500000 → s'.tb = s.tb ∧ s'.tbHold = s.tb % 1000000) ∧
      (500000 ≤ s.tb % 1000000 → s'.tb = (s.tb + (1000000 - s.tb % 1000000)) % 2 ^ 64 ∧ s'.tbHold = 0)) ∧
  (∀ (s : State), s.fab.syncEn = true → s.tb % 1000000 = 0 → s.fab.lastSync ≠ s.tb →
    exec .syncOutPulse s = .next { s with fab := { s.fab with lastSync := s.tb }, out := s.out ++ [.syncOut s.tb] })

/-- The instructions of binary arithmetic that write rd (R301, R302, R304, Tables 8.4 and 8.6): the new value, the next pc, and the frame.
Where the spec leaves a point open this rests on the model's choice (log entry 66). -/
def Obligations.ArithmeticWritesRd : Prop :=
  ∀ (s : State) (c f : Nat) (w lit : Word),
    let x := frameOf s c f
    let p := gReg x (fRa w)
    let q := gReg x (fRb w)
    let i := sext 15 (wf w 14 0)
    let z := BitVec.ofNat 32 (wf w 14 0)
    let rd := fun (v : Word) => setG x (fRd w) v
    (Ready s c f .add w → Does (.add c) s s c f (rd (aluW (fFunc w) p q)) (x.pc + 4)) ∧
    (Ready s c f .mul w → Does (.mul c) s s c f (rd (p * q)) (x.pc + 4)) ∧
    (Ready s c f .sel w → Does (.sel c) s s c f (rd (if p ≠ 0 then q else gReg x (wf w 9 5))) (x.pc + 4)) ∧
    (Ready s c f .lui w → Does (.lui c) s s c f (rd (BitVec.ofNat 32 (wf w 19 0) <<< 12)) (x.pc + 4)) ∧
    (Ready s c f .shiftImmediate w → Does (.shiftImmediate c) s s c f (rd (shiftW (fRb w) p (wf w 4 0))) (x.pc + 4)) ∧
    (Ready s c f .addi w → ∃ v, Does (.addi c) s s c f (rd v) (x.pc + 4) ∧ (fMajor w = 0x08 → v = p + i) ∧ (fMajor w = 0x09 → v = p &&& z) ∧
      (fMajor w = 0x0A → v = p ||| z) ∧ (fMajor w = 0x0B → v = p ^^^ z)) ∧
    (Ready s c f .compareImmediate w → ∃ b : Bool, Does (.compareImmediate c) s s c f (rd (if b then 1 else 0)) (x.pc + 4) ∧
      (fMajor w = 0x0C → b = decide (p = i)) ∧ (fMajor w = 0x0D → b = decide (p ≠ i)) ∧ (fMajor w = 0x0E → b = decide (p.toInt < i.toInt)) ∧
      (fMajor w = 0x0F → b = decide (p.toNat < i.toNat)) ∧ (fMajor w = 0x10 → b = decide (i.toInt < p.toInt)) ∧
      (fMajor w = 0x11 → b = decide (i.toNat < p.toNat))) ∧
    (Ready s c f .longLiteralOp w → fetchedAt x (x.pc + 4) = .word lit → ∃ v, Does (.longLiteralOp c) s s c f (rd v) (x.pc + 8) ∧
      (fRb w = 0 → v = lit) ∧ (fRb w = 1 → v = p + lit) ∧ (fRb w = 2 → v = p &&& lit) ∧ (fRb w = 3 → v = p ||| lit) ∧ (fRb w = 4 → v = p ^^^ lit) ∧
      (fRb w = 5 → v = if p = lit then 1 else 0) ∧ (fRb w = 6 → v = if p.toInt < lit.toInt then 1 else 0) ∧
      (fRb w = 7 → v = if p.toNat < lit.toNat then 1 else 0))

/-- The long products, the quotients and remainders, and division by zero (R302, R303). -/
def Obligations.ProductsAndQuotients : Prop :=
  ∀ (s : State) (c f : Nat) (w : Word),
    let x := frameOf s c f
    let p := gReg x (fRa w)
    let q := gReg x (fRb w)
    (Ready s c f .muld w → Does (.muld c) s s c f (setPair x (fRd w) (BitVec.ofNat 64 (p.toNat * q.toNat))) (x.pc + 4)) ∧
    (Ready s c f .mulds w → Does (.mulds c) s s c f (setPair x (fRd w) (BitVec.ofInt 64 (p.toInt * q.toInt))) (x.pc + 4)) ∧
    (q ≠ 0 →
      (Ready s c f .divu w → Does (.divu c) s s c f (setG x (fRd w) (BitVec.ofNat 32 (p.toNat / q.toNat))) (x.pc + 4)) ∧
      (Ready s c f .remu w → Does (.remu c) s s c f (setG x (fRd w) (BitVec.ofNat 32 (p.toNat % q.toNat))) (x.pc + 4)) ∧
      (Ready s c f .divs w → Does (.divs c) s s c f (setG x (fRd w) (BitVec.ofInt 32 (p.toInt.tdiv q.toInt))) (x.pc + 4)) ∧
      (Ready s c f .rems w → Does (.rems c) s s c f (setG x (fRd w) (BitVec.ofInt 32 (p.toInt.tmod q.toInt))) (x.pc + 4))) ∧
    (q = 0 →
      (Ready s c f .divu w → Traps (.divu c) s c f { vec := 13 }) ∧ (Ready s c f .divs w → Traps (.divs c) s c f { vec := 13 }) ∧
      (Ready s c f .remu w → Traps (.remu c) s c f { vec := 13 }) ∧ (Ready s c f .rems w → Traps (.rems c) s c f { vec := 13 }))

/-- Branches, and the modulo descriptors (R305, R310). A target that is no multiple of 4 raises vector 3 at the branch, and a call then writes no link.
Where the spec leaves a point open this rests on the model's choice (log entry 69). -/
def Obligations.BranchesAndDescriptors : Prop :=
  ∀ (s : State) (c f : Nat) (w : Word),
    let x := frameOf s c f
    let near := x.pc + sext 20 (wf w 19 0) * 4
    let far := x.pc + sext 25 (wf w 24 0) * 4
    let p := gReg x (fRa w)
    let bad := fun (t : Word) => ({ vec := 3, addr := t.setWidth 64, acc := 2 } : Exc)
    (Ready s c f .bz w → gReg x (fRd w) ≠ 0 → Does (.bz c) s s c f x (x.pc + 4)) ∧
    (Ready s c f .bz w → gReg x (fRd w) = 0 → near.toNat % 4 = 0 → Does (.bz c) s s c f x near) ∧
    (Ready s c f .bnz w → gReg x (fRd w) = 0 → Does (.bnz c) s s c f x (x.pc + 4)) ∧
    (Ready s c f .bnz w → gReg x (fRd w) ≠ 0 → near.toNat % 4 = 0 → Does (.bnz c) s s c f x near) ∧
    (Ready s c f .j w → far.toNat % 4 = 0 → Does (.j c) s s c f x far) ∧
    (Ready s c f .call w → far.toNat % 4 = 0 → Does (.call c) s s c f (setG x 31 (x.pc + 4)) far) ∧
    (Ready s c f .jr w → p.toNat % 4 = 0 → Does (.jr c) s s c f x p) ∧
    (Ready s c f .jr w → p.toNat % 4 ≠ 0 → Traps (.jr c) s c f (bad p)) ∧
    (Ready s c f .callr w → p.toNat % 4 = 0 → Does (.callr c) s s c f (setG x 31 (x.pc + 4)) p) ∧
    (Ready s c f .callr w → p.toNat % 4 ≠ 0 → Traps (.callr c) s c f (bad p)) ∧
    (Ready s c f .mtm w → Does (.mtm c) s s c f (setM x (fRd w) (p, gReg x (fRb w))) (x.pc + 4)) ∧
    (Ready s c f .mfmb w → Does (.mfmb c) s s c f (setG x (fRd w) (mDesc x (fRa w)).1) (x.pc + 4)) ∧
    (Ready s c f .mfml w → Does (.mfml c) s s c f (setG x (fRd w) (mDesc x (fRa w)).2) (x.pc + 4))

/-- Loads, stores and compare-and-swap (R306 to R309, R311, R312). An access that is answered leaves the value, extended as its size says, in rd, or has taken the
register's low bytes; the base moves on where the mode says so. -/
def Obligations.LoadsAndStores : Prop :=
  (∀ (s s1 : State) (c f : Nat) (w : Word) (b : Bytes),
    let x := frameOf s c f
    let a := taskActor s c f false
    let m := mAddress x w
    let n := mfAddress x w
    let k := fMajor w - 0x14
    let y := match m.2 with | some v => setG x (fRa w) v | none => x
    let z := match n.2 with | some v => setPair x (fRa w) v | none => x
    frameOf s1 c f = x →
    (Ready s c f .load w → loadBytes s a (m.1.setWidth 64) (sizeBytes k) = .ok s1 b →
      Does (.load c) s s1 c f (setG y (fRd w) (extendLoad k b)) (x.pc + 4)) ∧
    (Ready s c f .ldf w → loadBytes s a n.1 (sizeBytes (wf w 14 12)) = .ok s1 b →
      Does (.ldf c) s s1 c f (setG z (fRd w) (extendLoad (wf w 14 12) b)) (x.pc + 4)) ∧
    (Ready s c f .store w → storeBytes s a (m.1.setWidth 64) (le (2 ^ (fMajor w - 0x19)) (gReg x (fRd w)).toNat) = .ok s1 () →
      Does (.store c) s s1 c f y (x.pc + 4)) ∧
    (Ready s c f .stf w → storeBytes s a n.1 (le (sizeBytes (wf w 14 12)) (gReg x (fRd w)).toNat) = .ok s1 () →
      Does (.stf c) s s1 c f z (x.pc + 4))) ∧
  (∀ (s s1 : State) (c f : Nat) (w : Word) (p : Piece),
    let x := frameOf s c f
    let a := taskActor s c f false
    let va := gReg x (fRa w)
    let old := wordAt (memBytes s1 p.pa 4) 0
    Ready s c f .cas w → va.toNat % 4 = 0 → (coreOf s c).sb = [] → resolve1 s a .write (va.setWidth 64) 4 = .ok s1 p →
    frameOf s1 c f = x → (coreOf s1 c).sb = [] → memLopBusy s1 c = false → areaOf s1 p.pa = .general → p.se = false →
    l1Need s1 c (lineOfPa p.pa) a.key true = .hit → l1Need s1 c (lineOfPa p.pa) a.key false = .hit →
    (old = gReg x (fRd w) →
      Does (.cas c) s (setMemBytes (dirtyL1 s1 c p.pa 4) p.pa (le 4 (gReg x (fRb w)).toNat)) c f (setG x (fRd w) old) (x.pc + 4)) ∧
    (old ≠ gReg x (fRd w) → Does (.cas c) s (serveLosers s1 (lineOfPa p.pa)) c f (setG x (fRd w) old) (x.pc + 4)))

/-- The accesses themselves with translation off (R280, R281, R284, R306): a misaligned one raises vector 3; a load from a line that the L1 holds returns the bytes, and one whose port a
long operation holds waits; a store to HBM enters
the store buffer when it has room, and changes no byte; a store to the core's own pantry writes its bytes and no other.
Where the spec leaves a point open this rests on the model's choice (log entry 65). -/
def Obligations.AccessesFollowTheirChecks : Prop :=
  ∀ (s : State) (a : Actor) (va : Dbl) (n : Nat) (b : Bytes),
    let k := coreOf s a.c
    let x := frameOf s a.c a.f
    (va.toNat % n ≠ 0 → loadBytes s a va n = .exc s { vec := 3, addr := va, acc := 0 }) ∧
    (va.toNat % b.length ≠ 0 → storeBytes s a va b = .exc s { vec := 3, addr := va, acc := 1 }) ∧
    (bitOf (crNow s a.c x 8).toNat 0 = false → va.toNat < 2 ^ 46 →
      (va.toNat % n = 0 → checkPa s a.master va.toNat .read = none → busFails s va.toNat = false →
        (areaOf s va.toNat = .general → portTaken s a va.toNat = false → x.lop = none →
          overlapsSb s a.c va.toNat n = false → l1Need s a.c (lineOfPa va.toNat) a.key false = .hit →
          loadBytes s a va n = .ok s (memBytes s va.toNat n)) ∧
        (portTaken s a va.toNat = true → loadBytes s a va n = .stay)) ∧
      (va.toNat % b.length = 0 → isHbm s va.toNat = true → k.sb.length < 8 →
        ∃ s1 e, storeBytes s a va b = .ok s1 () ∧ s1 = setCore s a.c { k with sb := k.sb ++ [e] } ∧ e.pa = va.toNat ∧ e.data = b ∧ e.key = a.key ∧
          e.priv = a.sup ∧ e.frame = a.f ∧ s1.mem = s.mem) ∧
      (va.toNat % b.length = 0 → isHbm s va.toNat = true → 8 ≤ k.sb.length → storeBytes s a va b = .stay) ∧
      (MemWf s → va.toNat % b.length = 0 → isHbm s va.toNat = false → areaOf s va.toNat = .pantry a.c → checkPa s a.master va.toNat .write = none →
        lopHolds s a.c true = false → lopUses s a.c a.f x true = false →
        ∃ s1, storeBytes s a va b = .ok s1 () ∧ s1 = { s with mem := s1.mem } ∧
          (∀ i, i < b.length → byteOf s1 (va.toNat + i) = byteAt b i) ∧
          (∀ p, (p < va.toNat ∨ va.toNat + b.length ≤ p) → byteOf s1 p = byteOf s p)))

/-- Synchronous exceptions (R374, R377, R382 to R384): entry while MSK is clear; a double fault while it is set, through vector 1, which keeps EPC; a third fault, one while DF is set or one in reading word 1, resets the core.
SVC and BRK enter on their vectors with the code of the word, and return behind themselves. -/
def Obligations.ExceptionsEnterOnce : Prop :=
  (∀ (s s1 s2 : State) (c f : Nat) (e : Exc) (ia ra h : Word),
    let x := frameOf s c f
    x.state = .running → x.lop = none → x.rep = none → (∀ p ∈ x.pend, p.left = none) → pMsk x.psw = false → pDf x.psw = false → CanEnter s c f e.vec s1 s2 h →
    ∃ s', raiseSync s c f e ia ra = some s' ∧ Entered s2 s' c f e h ra) ∧
  (∀ (s s1 : State) (c f : Nat) (e : Exc) (ia ra h : Word),
    let x := frameOf s c f
    x.state = .running → x.lop = none → x.rep = none → (∀ p ∈ x.pend, p.left = none) → pMsk x.psw = true → pDf x.psw = false → e.entry = false →
    setFrame s c f x = s → vectorWord s c f 1 = .ok s1 h → frameOf s1 c f = x →
    ∃ s', raiseSync s c f e ia ra = some s' ∧ s' = { s1 with cores := { s1.cores with cores := s'.cores.cores } } ∧
      frameOf s' c f = { x with
        pc := h, fetch := [], wait := .idle, last := none, dfpc := ia, eaddr := e.addr,
        einfo := einfoOf { e with vec := 1, cause := e.vec, ovr := false, code := 0 }, psw := (x.psw ||| 0x403) &&& 0xFFFFFDFF }) ∧
  (∀ (s : State) (c f : Nat) (e : Exc) (ia ra : Word),
    let x := frameOf s c f
    x.state = .running → x.lop = none → x.rep = none → (∀ p ∈ x.pend, p.left = none) → pDf x.psw = true → setFrame s c f x = s →
    raiseSync s c f e ia ra = some (coreReset s c f)) ∧
  (∀ (s s1 : State) (c f : Nat) (e e1 : Exc) (ia ra : Word),
    let x := frameOf s c f
    x.state = .running → x.lop = none → x.rep = none → (∀ p ∈ x.pend, p.left = none) → pMsk x.psw = true → pDf x.psw = false → setFrame s c f x = s →
    vectorWord s c f 1 = .exc s1 e1 → raiseSync s c f e ia ra = some (coreReset s1 c f)) ∧
  (∀ (s s1 s2 : State) (c f : Nat) (w h : Word),
    let x := frameOf s c f
    pMsk x.psw = false → pDf x.psw = false →
    (Ready s c f .svc w → CanEnter (countFault s c x .svc w { vec := 16 }) c f 16 s1 s2 h →
      ∃ s', exec (.svc c) s = .next s' ∧ Entered s2 s' c f { vec := 16, code := wf w 14 5 } h (x.pc + 4)) ∧
    (Ready s c f .brk w → CanEnter (countFault s c x .brk w { vec := 17 }) c f 17 s1 s2 h →
      ∃ s', exec (.brk c) s = .next s' ∧ Entered s2 s' c f { vec := 17, code := wf w 14 5 } h (x.pc + 4)))

/-- ERET returns from the block that DLAZY names, with the accumulators loaded again when the block holds them; its second form returns from a double fault; both are
privileged (R380, R382).
Where the spec leaves a point open this rests on the model's choice (log entry 69). -/
def Obligations.ReturnsRestoreTheTask : Prop :=
  ∀ (s s1 s2 : State) (c f : Nat) (w : Word) (h v : Bytes) (y : Frame),
    let x := frameOf s c f
    let b := x.dlazy &&& 0xFFFFFFF8
    let a := taskActor s c f true
    let back := fun (z : Frame) =>
      let z1 := { z with
        dlazy := wordAt h 0 &&& 0xFFFFFFFB, repc := wordAt h 4, repv := (wordAt h 16).getLsbD 0, lopw := wordAt h 8, lopa := wordAt h 12, lov := (wordAt h 16).getLsbD 1 }
      let z2 := if pSuper z.epsw then setG z1 29 (b + 288) else { setG z1 29 z.ssp with ssp := b + 288 }
      { z2 with psw := z.epsw }
    (Ready s c f .eret w → pSuper x.psw = true → b ≠ 0 → readVa s a wrap32 b.toNat 24 = .ok s1 h → frameOf s1 c f = x → chainDue s1 a x = none →
      (x.dlazy.getLsbD 1 = false → Does (.eret c) s s1 c f (back x) x.epc) ∧
      (x.dlazy.getLsbD 1 = true → readVa s1 a wrap32 ((b.toNat + 24) % wrap32) 264 = .ok s2 v → frameOf s2 c f = x → accsFrom x v = some y →
        Does (.eret c) s s2 c f (back y) y.epc)) ∧
    (Ready s c f .eretDoubleFault w → pSuper x.psw = true →
      Does (.eretDoubleFault c) s s c f { x with psw := x.psw &&& 0xFFFFFBFF } x.dfpc)

/-- The two short operations of a word: B sees what A did, and the word ends behind both (R269, R271, Table 8.5); what the register forms do. The prefixes REPI and REPU (R313): the count;
with none the repeated word is passed over; else it runs that many times, here for ADDI.
Where the spec leaves a point open this rests on the model's choice (log entry 67). -/
def Obligations.ShortOperationsAndPrefixes : Prop :=
  (∀ (s s1 s2 : State) (c f : Nat) (w : Word),
    let x := frameOf s c f
    let a := taskActor s c f false
    Ready s c f .shortOperationWord w → shOp (slotB w) ≠ 0x1D → shOp (slotB w) ≠ 0x1E → runShort s a (slotA w) = .done s1 → runShort s1 a (slotB w) = .done s2 →
    (frameOf s1 c f).psw = x.psw → (frameOf s1 c f).pend = x.pend → setFrame s1 c f (frameOf s1 c f) = s1 →
    (frameOf s2 c f).epoch = x.epoch → (frameOf s2 c f).pend = x.pend → (frameOf s2 c f).state = .running →
    Does (.shortOperationWord c) s s2 c f (frameOf s2 c f) (x.pc + 4)) ∧
  (∀ (s s1 : State) (c f : Nat) (w : Word),
    let x := frameOf s c f
    let a := taskActor s c f false
    Ready s c f .shortOperationWord w → shOp (slotB w) = 0x1D → (gReg x (shY (slotB w))).toNat % 4 = 0 → runShort s a (slotA w) = .done s1 →
    (frameOf s1 c f).pend = x.pend → (frameOf s1 c f).epoch = x.epoch → (frameOf s1 c f).state = .running →
    gReg (frameOf s1 c f) (shY (slotB w)) = gReg x (shY (slotB w)) → setFrame s1 c f (frameOf s1 c f) = s1 →
    Does (.shortOperationWord c) s s1 c f (frameOf s1 c f) (gReg x (shY (slotB w)))) ∧
  (∀ (s : State) (a : Actor) (v : Nat),
    let x := frameOf s a.c a.f
    let p := gReg x (shX v)
    let q := gReg x (shY v)
    let k := q.toNat % 32
    let n := shY v
    let puts := fun (t : Word) => runShort s a v = .done (setFrame s a.c a.f (setG x (shX v) t))
    (shOp v = 0x00 → runShort s a v = .done s) ∧ (shOp v = 0x01 → puts q) ∧ (shOp v = 0x02 → puts (p + q)) ∧ (shOp v = 0x03 → puts (p - q)) ∧
    (shOp v = 0x04 → puts (p &&& q)) ∧ (shOp v = 0x05 → puts (p ||| q)) ∧ (shOp v = 0x06 → puts (p ^^^ q)) ∧ (shOp v = 0x07 → puts (p <<< k)) ∧
    (shOp v = 0x08 → puts (p >>> k)) ∧ (shOp v = 0x09 → puts (p.sshiftRight k)) ∧ (shOp v = 0x0A → puts (p + sext 5 n)) ∧ (shOp v = 0x0B → puts (p <<< n)) ∧
    (shOp v = 0x0C → puts (p >>> n)) ∧ (shOp v = 0x0D → puts (p.sshiftRight n)) ∧ (shOp v = 0x0E → puts (sext 5 n)) ∧ (shOp v = 0x0F → puts (-q)) ∧
    (shOp v = 0x10 → puts (if p = q then 1 else 0)) ∧ (shOp v = 0x11 → puts (if p ≠ q then 1 else 0)) ∧
    (shOp v = 0x12 → puts (if p.toInt < q.toInt then 1 else 0)) ∧ (shOp v = 0x13 → puts (if p.toNat < q.toNat then 1 else 0)) ∧
    (shOp v = 0x14 → puts (if p.toInt ≤ q.toInt then 1 else 0)) ∧ (shOp v = 0x15 → puts (if p.toNat ≤ q.toNat then 1 else 0)) ∧ (shOp v = 0x16 → puts (p * q))) ∧
  (∀ (s : State) (c f : Nat) (w v : Word),
    let x := frameOf s c f
    let n := repCount x .repi w
    let m := repCount x .repu w
    fetchedAt x (x.pc + 4) = .word v → repeatable v = true → x.repv = false →
    (bitOf w.toNat 14 = true → n = wf w 13 0) ∧ (bitOf w.toNat 14 = false → n = (gReg x (fRa w)).toNat) ∧ (wf w 5 0 = 0 → m = 64) ∧ (wf w 5 0 ≠ 0 → m = wf w 5 0) ∧
    (Ready s c f .repi w → n = 0 → Does (.repi c) s s c f x (x.pc + 8)) ∧
    (Ready s c f .repi w → n ≠ 0 → Does (.repi c) s s c f { x with rep := some n } x.pc) ∧
    (Ready s c f .repu w → Does (.repu c) s s c f { x with rep := some m } x.pc)) ∧
  (∀ (s : State) (c f n : Nat) (w : Word),
    let x := frameOf s c f
    let y := setG x (fRd w) (gReg x (fRa w) + sext 15 (wf w 14 0))
    fMajor w = 0x08 →
    (Ready s c f .addi w .idle (some (n + 2)) → Does (.addi c) s s c f { y with rep := some (n + 1) } x.pc) ∧
    (Ready s c f .addi w .idle (some 1) → Does (.addi c) s s c f { y with rep := none } (x.pc + 8)))
/-- The barriers and YIELD (R286, R290, R363, R367). SYNC waits for long operations, for buffered stores and for the core's misses and network accesses, puts pending writes in force and discards the fetch buffer; SYNC.TLB
waits for the core's broadcasts too; YIELD leaves for the next READY frame.
Where the spec leaves a point open this rests on the model's choice (log entry 76). -/
def Obligations.BarriersAndSwitches : Prop :=
  (∀ (s : State) (c f : Nat) (w : Word),
    let x := frameOf s c f
    let t := applyAll s c f
    let a := taskActor s c f false
    (Ready s c f .sync w → (coreOf s c).sb = [] → missesLeft s a = false → (frameOf t c f).epoch = x.epoch → (frameOf t c f).state = .running → (frameOf t c f).pend = [] →
      Does (.sync c) s t c f (frameOf t c f) (x.pc + 4)) ∧
    (Ready s c f .sync w → ((coreOf s c).sb ≠ [] ∨ missesLeft s a = true) → exec (.sync c) s = .next s) ∧
    (missesLeft s a = true ↔ ∃ e ∈ (coreOf s c).frames, e.1 ≠ f ∧ (e.2.wait = .net ∨ ∃ l own, e.2.wait = .line l own)) ∧
    (Ready s c f .syncTlb w → pSuper x.psw = true → (∀ b ∈ s.mem.tlbis, b.core = c → b.left = []) → (coreOf s c).sb = [] → missesLeft s a = false →
      (frameOf t c f).epoch = x.epoch → (frameOf t c f).state = .running → (frameOf t c f).pend = [] →
      Does (.syncTlb c) s t c f (frameOf t c f) (x.pc + 4)) ∧
    (Ready s c f .syncTlb w → pSuper x.psw = true → (∃ b ∈ s.mem.tlbis, b.core = c ∧ b.left ≠ []) → exec (.syncTlb c) s = .next s) ∧
    (Ready s c f .syncTlb w → pSuper x.psw = false → Traps (.syncTlb c) s c f { vec := 10 }) ∧
    (Ready s c f .dbar w → Does (.dbar c) s s c f x (x.pc + 4)) ∧
    (Ready s c f .yield w → (bitOf w.toNat 5 = false ∨ pMsk x.psw = true) → nextReady s c f = none → Does (.yield c) s s c f x (x.pc + 4)) ∧
    (∀ v : Dbl, x.state ≠ .off → x.pend = [{ reg := 8, val := v }] → frameOf t c f = { x with pend := [], tcr := v.setWidth 32 })) ∧
  (∀ (s : State) (c f g : Nat) (w : Word),
    let x := frameOf s c f
    Ready s c f .yield w → nextReady s c f = some g → g ≠ f →
    ∃ s', exec (.yield c) s = .next s' ∧ (coreOf s' c).running = some g ∧ frameOf s' c g = { frameOf s c g with state := .running } ∧
      (frameOf s' c f).pc = x.pc + 4 ∧ (frameOf s' c f).g = x.g ∧
      (frameOf s' c f).state = (if bitOf w.toNat 5 && !pMsk x.psw then .sleep else .ready) ∧
      s' = { s with cores := { s.cores with cores := s'.cores.cores } }) ∧
  (∀ (s : State) (c f : Nat) (w : Word),
    Ready s c f .yield w → bitOf w.toNat 5 = true → pMsk (frameOf s c f).psw = false → (∀ g, g < nFrames s → (frameOf s c g).state ≠ .ready) →
    ∃ s', exec (.yield c) s = .next s' ∧ (coreOf s' c).running = none ∧ (frameOf s' c f).state = .sleep ∧ (frameOf s' c f).pc = (frameOf s c f).pc + 4)

/-- MFC and MTC (R288, R290, R297): a read gives the last value written; a write of registers 2 to 7 is in force at once, one of PSW, EVB or TASKCTL after three more instructions,
the others at SYNC. Both are privileged. -/
def Obligations.ControlRegisters : Prop :=
  ∀ (s : State) (c f : Nat) (w : Word),
    let x := frameOf s c f
    let r := wf w 9 5
    let v := crRead s c x r
    let u := crMask s r v (if r = 5 ∨ r = 9 then gPair x (fRa w) else (gReg x (fRa w)).setWidth 64)
    (Ready s c f .mfc w → pSuper x.psw = true →
      ((r = 5 ∨ r = 9) → Does (.mfc c) s s c f (setPair x (fRd w) v) (x.pc + 4)) ∧
      (¬(r = 5 ∨ r = 9) → Does (.mfc c) s s c f (setG x (fRd w) (v.setWidth 32)) (x.pc + 4))) ∧
    (Ready s c f .mfc w → pSuper x.psw = false → Traps (.mfc c) s c f { vec := 10 }) ∧
    (Ready s c f .mtc w → pSuper x.psw = true →
      ((r = 0 ∨ r = 1 ∨ r = 11) → Does (.mtc c) s s c f { x with pend := x.pend ++ [{ reg := r, val := u, left := some 3 }] } (x.pc + 4)) ∧
      (2 ≤ r → r ≤ 7 → Does (.mtc c) s s c f (crPut x r u) (x.pc + 4)) ∧
      ((8 ≤ r → r ≠ 11 → Does (.mtc c) s s c f { x with pend := x.pend ++ [{ reg := r, val := u, left := none }] } (x.pc + 4)))) ∧
    (Ready s c f .mtc w → pSuper x.psw = false → Traps (.mtc c) s c f { vec := 10 }) ∧
    (x.pend = [] → crRead s c x 8 = crNow s c x 8) ∧
    (∀ (q : PendWrite) (l : List PendWrite), x.pend = l ++ [q] → q.reg ≠ 11 → crRead s c x q.reg = q.val)

/-- Save areas (R369, R370): SAVL and SAVU write the area of a STOPPED frame that holds nothing, and SVP then names it; RSTL and RSTU load it back and SVP takes the link. A frame in another
state raises vector 2, cause 0x10; a task in user mode raises vector 10. -/
def Obligations.SaveAreas : Prop :=
  ∀ (s s1 : State) (c f : Nat) (w : Word) (b : Bytes) (y : Frame),
    let x := frameOf s c f
    let a := taskActor s c f false
    let g := (gReg x (fRa w)).toNat % 64
    let ad := gReg x (fRb w)
    let z := frameOf s c g
    let still := frameOf s1 c f = x ∧ frameOf s1 c g = z
    let loaded := fun (i : Instr) (t : Frame) => ∃ s', exec i s = .next s' ∧ frameOf s' c g = t ∧
      { frameOf s' c f with fetch := [], last := none } =
        { x with svp := wordAt b 0 &&& 0xFFFFFFC0, pc := x.pc + 4, wait := .idle, fetch := [], last := none } ∧
      s' = { s1 with cores := { s1.cores with cores := s'.cores.cores } }
    (pSuper x.psw = true → g < nFrames s → g ≠ f →
      (z.state = .stopped → locksOf s c g = [] → z.cmds = [] → portsOf s c g = 0 → ad.toNat % 64 = 0 → still →
        (Ready s c f .savl w → writeVa s a wrap32 ad.toNat (lowerArea (savedFrame s c z) g x.svp) = .ok s1 () → Does (.savl c) s s1 c f { x with svp := ad } (x.pc + 4)) ∧
        (Ready s c f .savu w → writeVa s a wrap32 ad.toNat (upperArea z g x.svp) = .ok s1 () → Does (.savu c) s s1 c f { x with svp := ad } (x.pc + 4))) ∧
      ((z.state = .stopped ∨ z.state = .off) → still →
        (Ready s c f .rstl w → readVa s a wrap32 x.svp.toNat 256 = .ok s1 b → byteAt b 4 = 0x4C → allZero (slice b 6 2) = true →
          allZero (slice b 200 56) = true → (wordAt b 184).toNat < 8 → loaded (.rstl c) (loadLower s1 z b)) ∧
        (Ready s c f .rstu w → readVa s a wrap32 x.svp.toNat 384 = .ok s1 b → byteAt b 4 = 0x55 → allZero (slice b 6 10) = true →
          allZero (slice b 344 40) = true → accsFrom z (slice b 80 264) = some y → twf (coreOf s1 c).frames = true →
          loaded (.rstu c) ((List.range 16).foldl (fun (t : Frame) n => setG t (16 + n) (wordAt b (16 + 4 * n))) y))) ∧
      (z.state ≠ .stopped → z.state ≠ .off →
        (Ready s c f .savl w → Traps (.savl c) s c f { vec := 2, cause := 0x10 }) ∧ (Ready s c f .savu w → Traps (.savu c) s c f { vec := 2, cause := 0x10 }) ∧
        (Ready s c f .rstl w → Traps (.rstl c) s c f { vec := 2, cause := 0x10 }) ∧ (Ready s c f .rstu w → Traps (.rstu c) s c f { vec := 2, cause := 0x10 }))) ∧
    (pSuper x.psw = false →
      (Ready s c f .savl w → Traps (.savl c) s c f { vec := 10 }) ∧ (Ready s c f .savu w → Traps (.savu c) s c f { vec := 10 }) ∧
      (Ready s c f .rstl w → Traps (.rstl c) s c f { vec := 10 }) ∧ (Ready s c f .rstu w → Traps (.rstu c) s c f { vec := 10 }))

/-- TLB invalidation and storage keys (R251, R315, R316, R418): the core's own entries go at once and a broadcast to the other units is outstanding; KEYSET, KEYGET and KEYCLR act on the key of the
frame that the pair names, once the network access they wait for is answered.
Where the spec leaves a point open this rests on the model's choice (log entry 72). -/
def Obligations.TlbAndStorageKeys : Prop :=
  ∀ (s : State) (c f : Nat) (w : Word),
    let x := frameOf s c f
    let asid : Half := (gReg x (fRa w)).setWidth 16
    let pa := (gPair x (fRb w)).toNat
    let key := storageKey s (pa / 4096)
    let issued := fun (i : Instr) (k : TlbiKind) =>
      ∃ s', exec i s = .next s' ∧ s'.mem.tlbis = s.mem.tlbis ++ [{ core := c, kind := k, left := tlbiUnits s c }] ∧ s'.mem = { s.mem with tlbis := s'.mem.tlbis } ∧
        (coreOf s' c).tlb = (coreOf s c).tlb.filter (fun t => !tlbiHits k t) ∧ (coreOf s' c).walk = (coreOf s c).walk.filter (fun t => !tlbiHitsWalk k t) ∧
        { frameOf s' c f with fetch := [], last := none } = { x with pc := x.pc + 4, fetch := [], last := none }
    let rd := fun (v : Half) => { setG x (fRd w) (v.setWidth 32) with pc := x.pc + 4, wait := .idle, fetch := [], last := none }
    (pSuper x.psw = true →
      (Ready s c f .tlbiVa w → issued (.tlbiVa c) (.va asid pa)) ∧
      (Ready s c f .tlbiAsid w → issued (.tlbiAsid c) (.asid asid)) ∧
      (Ready s c f .tlbiAll w → issued (.tlbiAll c) .all) ∧
      (isHbm s pa = true → memLopBusy s c = true → Ready s c f .keyget w (.filled [] true) → exec (.keyget c) s = .next s) ∧
      (isHbm s pa = true → memLopBusy s c = false →
        (Ready s c f .keyset w (.filled [] true) →
          ∃ s', exec (.keyset c) s = .next s' ∧
            s'.guard.storageKeys = tset s.guard.storageKeys (pa / 4096) 0x2000 ((key &&& 0xC000) ||| ((gReg x (fRa w)).setWidth 16 &&& 0x3FFF)) ∧
            s'.mem.bytes = s.mem.bytes ∧ { frameOf s' c f with fetch := [], last := none } = { x with pc := x.pc + 4, wait := .idle, fetch := [], last := none }) ∧
        (Ready s c f .keyget w (.filled [] true) → Does (.keyget c) s s c f (setG x (fRd w) (key.setWidth 32)) (x.pc + 4)) ∧
        (Ready s c f .keyclr w (.filled [] true) →
          ∃ s', exec (.keyclr c) s = .next s' ∧ s'.guard.storageKeys = tset s.guard.storageKeys (pa / 4096) 0x2000 (key &&& 0x3FFF) ∧ s'.mem.bytes = s.mem.bytes ∧
            { frameOf s' c f with fetch := [], last := none } = rd key)) ∧
      (isHbm s pa = false →
        (Ready s c f .keyset w → Traps (.keyset c) s c f { vec := 4, addr := BitVec.ofNat 64 pa, acc := 1, phys := true }) ∧
        (Ready s c f .keyget w → Traps (.keyget c) s c f { vec := 4, addr := BitVec.ofNat 64 pa, acc := 0, phys := true }) ∧
        (Ready s c f .keyclr w → Traps (.keyclr c) s c f { vec := 4, addr := BitVec.ofNat 64 pa, acc := 1, phys := true }))) ∧
    (pSuper x.psw = false →
      (Ready s c f .tlbiVa w → Traps (.tlbiVa c) s c f { vec := 10 }) ∧ (Ready s c f .tlbiAsid w → Traps (.tlbiAsid c) s c f { vec := 10 }) ∧
      (Ready s c f .tlbiAll w → Traps (.tlbiAll c) s c f { vec := 10 }) ∧ (Ready s c f .keyset w → Traps (.keyset c) s c f { vec := 10 }) ∧
      (Ready s c f .keyget w → Traps (.keyget c) s c f { vec := 10 }) ∧ (Ready s c f .keyclr w → Traps (.keyclr c) s c f { vec := 10 }))

/-- The posting port (R320, R321, R323, Table 8.15). A block that passes its checks takes a free slot and waits for its ticket; one that is refused completes at once with its code in the
slot; with no slot free it waits, read and checked, for one; the grant brings the handle to rd; PWAIT and PTEST give the STATUS of a posting that is done and free its slot; a handle that the frame does not hold raises vector 10.
Where the spec leaves a point open this rests on the model's choice (log entries 64, 73). -/
def Obligations.PortPostings : Prop :=
  (∀ (s s1 s2 s3 : State) (c f n : Nat) (w : Word) (d : Bytes) (ok locked : Bool) (i : Instr) (o : LOp) (area : List Nat) (desc ext : Bytes) (parent : Option Nat),
    let x := frameOf s c f
    let a := taskActor s c f true
    let b := (gReg x (fRa w)).toNat
    let q := gReg x (fRb w)
    let tk := parent.bind (ticketOf s3)
    let cmd : Cmd := { desc := desc, ext := ext, tenant := a.key, trayNo := tk.bind (·.cmd.trayNo), traySeq := (tk.map (·.cmd.traySeq)).getD 0,
                       inner := locked, supervisor := a.sup, verifyKey := if cOp { desc := desc } = 0x18 then ((keyOf s3 a.key).cur.map (·.key)) else none }
    (i, o, locked) ∈ [(Instr.ppost c, LOp.ppost, false), (.ppostl c, .ppostl, true)] →
    (Ready s c f o w (.filled d ok) → Does i s s c f (setG x (fRd w) (wordAt d 0)) (x.pc + 4)) ∧
    (Ready s c f o w → b % 32 ≠ 0 → q = 0 → Traps i s c f { vec := 3, addr := BitVec.ofNat 64 b, acc := 0 }) ∧
    (Ready s c f o w → b % 32 = 0 → parent = ((x.cmds.find? fun e => e.2 == q).map (·.1)) → (q = 0 ∨ parent.isSome = true) →
      portArea s a wrap32 b 32 = .ok s1 area → readVa s1 a wrap32 ((b + 32) % wrap32) 128 = .ok s2 desc →
      readVa s2 a wrap32 ((b + 160) % wrap32) (128 * cNext { desc := desc }) = .ok s3 ext → destOf cmd = none → freeSlot s3 c = some n → frameOf s3 c f = x →
      (portSieve s3 cmd (locksOf s3 c f) = none →
        ∃ s', exec i s = .next s' ∧ (frameOf s' c f).wait = .grant w n ∧ (frameOf s' c f).g = x.g ∧
          ∃ y, slotOf s' c n = some y ∧ y.state = .waiting ∧ y.cmd = cmd ∧ y.frame = f ∧ y.epoch = x.epoch ∧ y.parent = parent ∧ y.area = area ∧ y.ticket = none) ∧
      (∀ code, portSieve s3 cmd (locksOf s3 c f) = some code →
        ∃ s' y, exec i s = .next s' ∧ slotOf s' c n = some y ∧ y.state = .done ∧ y.status = code ∧ y.frame = f ∧ (frameOf s' c f).pc = x.pc + 4 ∧
          (frameOf s' c f).g = (setG x (fRd w) y.handle).g)) ∧
    (Ready s c f o w → b % 32 = 0 → parent = ((x.cmds.find? fun e => e.2 == q).map (·.1)) → (q = 0 ∨ parent.isSome = true) →
      portArea s a wrap32 b 32 = .ok s1 area → readVa s1 a wrap32 ((b + 32) % wrap32) 128 = .ok s2 desc →
      readVa s2 a wrap32 ((b + 160) % wrap32) (128 * cNext { desc := desc }) = .ok s3 ext → destOf cmd = none → freeSlot s3 c = none → frameOf s3 c f = x →
      ∃ s' y, exec i s = .next s' ∧ (frameOf s' c f).wait = .grant w 32 ∧ (coreOf s' c).portWait = (coreOf s3 c).portWait ++ [y] ∧ y.cmd = cmd ∧ y.frame = f ∧
        y.epoch = x.epoch ∧ y.area = area ∧ y.refused = portSieve s3 cmd (locksOf s3 c f) ∧ (coreOf s' c).slots = (coreOf s3 c).slots)) ∧
  (∀ (s : State) (c f n : Nat) (w : Word) (y : PortSlot) (d : Bytes) (ok : Bool) (i : Instr) (o : LOp),
    let x := frameOf s c f
    let a := taskActor s c f false
    let h := gReg x (fRa w)
    let t := freeSlotOf s c n
    (i, o) ∈ [(Instr.pwait c, LOp.pwait), (.ptest c, .ptest)] →
    (slotNamed s a h = some (n, y) ↔ n = bits h.toNat 4 0 ∧ slotOf s c n = some y ∧ y.handle = h ∧ y.frame = f ∧ y.epoch = x.epoch) ∧
    (Ready s c f o w → slotNamed s a h = some (n, y) → y.state = .done → frameOf t c f = x →
      (twf (coreOf s c).slots = true → (coreOf s c).portWait = [] → slotOf t c n = none) ∧ Does i s t c f (setG x (fRd w) (y.status.setWidth 32)) (x.pc + 4)) ∧
    (Ready s c f o w → slotNamed s a h = none → Traps i s c f { vec := 10 }) ∧
    (Ready s c f .pwait w (.filled d ok) → Does (.pwait c) s s c f (setG x (fRd w) (wordAt d 0)) (x.pc + 4)) ∧
    (Ready s c f .pwait w → slotNamed s a h = some (n, y) → y.state ≠ .done →
      ∃ s', exec (.pwait c) s = .next s' ∧ (frameOf s' c f).wait = .port w n ∧ (frameOf s' c f).pc = x.pc ∧ (frameOf s' c f).g = x.g) ∧
    (Ready s c f .ptest w → slotNamed s a h = some (n, y) → y.state ≠ .done → Does (.ptest c) s s c f (setG x (fRd w) 0xFFFFFFFF) (x.pc + 4)))

/-- LQTAKE and LCOMPL (R317, R319, Table 8.13): the oldest command that the task may take goes from the queue to the buffer, with a handle in rd; 0 when there is none, 2 when the frame holds 16.
LCOMPL gives a held command its completion, and the frame holds it no longer.
Where the spec leaves a point open this rests on the model's choice (log entry 73). -/
def Obligations.TaskQueueCommands : Prop :=
  (∀ (s s1 : State) (c f : Nat) (w : Word) (e : QEntry) (t : Ticket) (v : Wait) (go : Bool),
    let x := frameOf s c f
    let a := taskActor s c f go
    let q := wf w 8 5
    let b := (gReg x (fRa w)).toNat
    let g := takeFree 15 s
    let h : Word := BitVec.ofNat 32 (e.ticket * 65536 + g.1.toNat * 2 + 1)
    let s2 := setQueue s1 q ((queueOf s1 q).filter fun (y : QEntry) => decide (y.ticket ≠ e.ticket))
    ((v = .idle ∧ go = false) ∨ ∃ d ok, v = .filled d ok ∧ go = true) → Ready s c f .lqtake w v → b % 32 = 0 →
    (16 ≤ x.cmds.length → Does (.lqtake c) s s c f (setG x (fRd w) 2) (x.pc + 4)) ∧
    (x.cmds.length < 16 → takeable s a q = none → Does (.lqtake c) s s c f (setG x (fRd w) 0) (x.pc + 4)) ∧
    (x.cmds.length < 16 → takeable s a q = some (e, t) → writeVa g.2 a wrap32 b (takeBuffer e t h) = .ok s1 () → frameOf s1 c f = x →
      Does (.lqtake c) s s2 c f (setG { x with cmds := x.cmds ++ [(e.ticket, h)] } (fRd w) h) (x.pc + 4))) ∧
  (∀ (s : State) (c f : Nat) (w : Word), Ready s c f .lqtake w → (gReg (frameOf s c f) (fRa w)).toNat % 32 ≠ 0 →
    Traps (.lqtake c) s c f { vec := 3, addr := BitVec.ofNat 64 (gReg (frameOf s c f) (fRa w)).toNat, acc := 1 }) ∧
  (∀ (s s1 : State) (c f tk : Nat) (w h : Word) (b : Bytes) (t : Ticket) (v : Wait) (go : Bool),
    let x := frameOf s c f
    let a := taskActor s c f go
    h = gReg x (fRa w) → ((v = .idle ∧ go = false) ∨ ∃ d ok, v = .filled d ok ∧ go = true) →
    (Ready s c f .lcompl w v → x.cmds.find? (fun e => e.2 == h) = some (tk, h) → readVa s a wrap32 (gReg x (fRb w)).toNat 32 = .ok s1 b → ticketOf s1 tk = some t →
      frameOf s1 c f = x →
      Does (.lcompl c) s (setTicket s1 tk { t with result := some (imageCompl t b) }) c f { x with cmds := x.cmds.filter fun e => e.2 != h } (x.pc + 4)) ∧
    (Ready s c f .lcompl w → x.cmds.find? (fun e => e.2 == h) = none → Traps (.lcompl c) s c f { vec := 10 })) ∧
  (∀ (t : Ticket) (b : Bytes),
    let r := imageCompl t b
    r.seq = field b 16 8 ∧ r.info = halfAt b 26 ∧ r.avail = unpack (b.take 16) ∧ r.hostTag = cHostTag t.cmd ∧
    (listedStatus (byteAt b 24) = true → r.status = byteAt b 24) ∧ (listedStatus (byteAt b 24) = false → r.status = 0x60))

/-- The account locks of a task (R322, R323, Table 8.14): a free lock is taken at once, one that another holds is waited for at the end of its queue, and what is refused gives its code.
Where the spec leaves a point open this rests on the model's choice (log entry 73). -/
def Obligations.AccountLocksOfTasks : Prop :=
  (∀ (s : State) (c f : Nat) (w : Word) (d : Bytes) (ok : Bool) (l : Lock),
    let x := frameOf s c f
    let a := taskActor s c f false
    let id := gPair x (fRa w)
    let me := frameOwner c f
    let held := locksOf s c f
    (∀ n, Ready s c f .alock w → alockCode s a id = some n → Does (.alock c) s s c f (setG x (fRd w) (BitVec.ofNat 32 n)) (x.pc + 4)) ∧
    ((∃ k ∈ held, id.toNat ≤ k) → alockCode s a id = some 1) ∧
    ((∀ k ∈ held, k < id.toNat) → 16 ≤ held.length → alockCode s a id = some 2) ∧
    ((∀ k ∈ held, k < id.toNat) → held.length < 16 → (idReserved id = true ∨ (pSuper x.psw = false ∧ idTenant id ≠ pAk x.psw)) → alockCode s a id = some 3) ∧
    (Ready s c f .alock w → alockCode s a id = none → tget s.locks id.toNat = none →
      Does (.alock c) s { s with locks := tput s.locks id.toNat { owner := me, epoch := x.epoch } } c f (setG x (fRd w) 0) (x.pc + 4)) ∧
    (Ready s c f .alock w → alockCode s a id = none → tget s.locks id.toNat = some l → l.owner ≠ me → (∀ v ∈ l.waiters, v.owner ≠ me) →
      ∃ s', exec (.alock c) s = .next s' ∧ (frameOf s' c f).wait = .lock w id.toNat ∧ (frameOf s' c f).pc = x.pc ∧ (frameOf s' c f).g = x.g ∧
        s'.locks = tput s.locks id.toNat { l with waiters := l.waiters ++ [{ owner := me, epoch := x.epoch, prio := false }] }) ∧
    (Ready s c f .alock w (.filled d ok) → Does (.alock c) s s c f (setG x (fRd w) 0) (x.pc + 4))) ∧
  (∀ (s : State) (c f : Nat) (w : Word),
    let x := frameOf s c f
    let a := taskActor s c f false
    let key := (gPair x (fRa w)).toNat
    (Ready s c f .aunlock w → holdsLock s (frameOwner c f) x.epoch none key = false → Does (.aunlock c) s s c f x (x.pc + 4)) ∧
    (Ready s c f .aunlock w → holdsLock s (frameOwner c f) x.epoch none key = true → lentOut s a key = false →
      Does (.aunlock c) s (releaseLock s (frameOwner c f) x.epoch key) c f x (x.pc + 4)) ∧
    (Ready s c f .aunlock w → holdsLock s (frameOwner c f) x.epoch none key = true → lentOut s a key = true →
      ∃ s', exec (.aunlock c) s = .next s' ∧ (frameOf s' c f).wait = .lent ∧ s'.locks = s.locks) ∧
    (Ready s c f .aunlockall w → (∀ k ∈ locksOf s c f, lentOut s a k = false) →
      Does (.aunlockall c) s (releaseOwner s (frameOwner c f) x.epoch) c f x (x.pc + 4))) ∧
  (∀ (s : State) (c f key : Nat) (l : Lock),
    tget s.locks key = some l → l.owner = frameOwner c f → l.epoch = (frameOf s c f).epoch →
    (l.waiters = [] → (releaseLock s (frameOwner c f) l.epoch key).locks = tdel s.locks key) ∧
    (∀ v r, l.waiters = v :: r →
      (releaseLock s (frameOwner c f) l.epoch key).locks = tput s.locks key { owner := v.owner, epoch := v.epoch, waiters := r }) ∧
    (∀ w, key < 2 ^ 64 → (frameOf s c f).wait = .lock w key → (frameOf s c f).state = .running →
      ∃ s', exec (.lockGrant (BitVec.ofNat 64 key)) s = .next s' ∧ frameOf s' c f = { frameOf s c f with wait := .filled [] true } ∧ s'.locks = s.locks))

/-- The coprocessor block (R324 to R327, R146, R150, R455). A service's request goes to the seal engine with its input and the frame waits; a unit's answer is written and its result word goes to rd; CPR
asks for random bytes; CX sends its block to the companion and ends with its answer, at once with status 1 or 2 when there is none to send to, and with 3 after its time limit.
Where the spec leaves a point open this rests on the model's choice (log entries 10, 11, 74). -/
def Obligations.SealServicesAndCompanion : Prop :=
  (∀ (s s1 s2 s3 : State) (c f func : Nat) (w : Word) (d blk input : Bytes) (ok : Bool) (i : Instr) (o : LOp) (out : List Nat),
    let x := frameOf s c f
    let a := taskActor s c f true
    let b := (gReg x (fRa w)).toNat
    (i, o, func) ∈ [(Instr.cpsEcdsaP256Sign c, LOp.cpsEcdsaP256Sign, 1), (.cpsEcdsaP256Verify c, .cpsEcdsaP256Verify, 2), (.cpsEcdhP256 c, .cpsEcdhP256, 3),
      (.cpsEcdsaP384Verify c, .cpsEcdsaP384Verify, 4), (.cpsEd25519Sign c, .cpsEd25519Sign, 5), (.cpsEd25519Verify c, .cpsEd25519Verify, 6),
      (.cpsAesCmacVerify c, .cpsAesCmacVerify, 7), (.cpsSha256 c, .cpsSha256, 8), (.cpsSha384 c, .cpsSha384, 9)] →
    (Ready s c f o w (.filled d ok) → Does i s s c f (setG x (fRd w) (wordAt d 0)) (x.pc + 4)) ∧
    (Ready s c f o w → b % 32 ≠ 0 → Traps i s c f { vec := 3, addr := BitVec.ofNat 64 b, acc := 0 }) ∧
    (Ready s c f o w → b % 32 = 0 → readVa s a wrap32 b 32 = .ok s1 blk → (func = 7 → pSuper x.psw = true ∨ field blk 12 4 % 8192 = pAk x.psw) →
      readVa s1 a wrap64 (field blk 0 8) (field blk 8 4) = .ok s2 input → outArea s2 a wrap64 (field blk 16 8) (field blk 24 4) = .ok s3 out → frameOf s3 c f = x →
      ∃ s', exec i s = .next s' ∧ (frameOf s' c f).wait = .seal w out s3.cores.posts ∧ (frameOf s' c f).pc = x.pc ∧ (frameOf s' c f).g = x.g ∧
        s'.cores.jobs = s3.cores.jobs ++ [{ core := c, frame := f, epoch := x.epoch, func := func, input := input, keysel := field blk 12 4, outLen := field blk 24 4, tag := s3.cores.posts }])) ∧
  (∀ (s s1 s2 : State) (c f : Nat) (w : Word) (d blk : Bytes) (ok : Bool) (out : List Nat),
    let x := frameOf s c f
    let a := taskActor s c f true
    let b := (gReg x (fRa w)).toNat
    (Ready s c f .cpr w (.filled d ok) → Does (.cpr c) s s c f (setG x (fRd w) (wordAt d 0)) (x.pc + 4)) ∧
    (Ready s c f .cpr w → b % 32 = 0 → readVa s a wrap32 b 32 = .ok s1 blk → outArea s1 a wrap64 (field blk 16 8) (field blk 24 4) = .ok s2 out → frameOf s2 c f = x →
      ∃ s', exec (.cpr c) s = .next s' ∧ (frameOf s' c f).wait = .seal w out s2.cores.posts ∧
        s'.cores.jobs = s2.cores.jobs ++ [{ core := c, frame := f, epoch := x.epoch, func := 0x100, outLen := field blk 24 4, tag := s2.cores.posts }])) ∧
  (∀ (s : State) (n unit : Nat) (j : SealJob) (w : Word) (out : List Nat),
    let x := frameOf s j.core j.frame
    let r := sealAnswer s j
    let bytes := outputBytes r j.outLen
    s.cores.jobs[n]? = some j → n < 8 → unitServes s unit = true → x.wait = .seal w out j.tag → x.epoch = j.epoch → x.state = .running →
    MemWf s → out.Nodup → (∀ p ∈ out, areaOf s p = .general ∨ ∃ q, areaOf s p = .pantry q) →
    ∃ s', exec (.sealServiceResult n unit) s = .next s' ∧ s'.cores.jobs = s.cores.jobs.eraseIdx n ∧
      frameOf s' j.core j.frame = { x with wait := .filled (le 4 (resultWord r unit).toNat) true } ∧
      (∀ k p, k < bytes.length → out[k]? = some p → byteOf s' p = byteAt bytes k) ∧ (∀ p, p ∉ out → byteOf s' p = byteOf s p)) ∧
  (∀ (s s1 s2 : State) (c f k : Nat) (w : Word) (d blk : Bytes) (ok : Bool) (out : List Nat),
    let x := frameOf s c f
    let a := taskActor s c f true
    let b := (gReg x (fRa w)).toNat
    (Ready s c f .cx w (.filled d ok) → Does (.cx c) s s c f (setPair x (fRd w) (wordAt d 4 ++ wordAt d 0)) (x.pc + 4)) ∧
    (Ready s c f .cx w → b % 64 = 0 → readVa s a wrap32 b 64 = .ok s1 blk → outArea s1 a wrap32 b 64 = .ok s2 out → frameOf s2 c f = x →
      (cxLinkOf s2 = none → Does (.cx c) s s2 c f (setPair x (fRd w) 1) (x.pc + 4)) ∧
      (cxLinkOf s2 = some k → (linkOf s2 k).state ≠ .up → Does (.cx c) s s2 c f (setPair x (fRd w) 2) (x.pc + 4)) ∧
      (cxLinkOf s2 = some k → (linkOf s2 k).state = .up →
        ∃ s', exec (.cx c) s = .next s' ∧ (frameOf s' c f).wait = .cx w out x.ctag s2.tb ∧ (frameOf s' c f).ctag = x.ctag + 1 ∧ (frameOf s' c f).g = x.g))) ∧
  (∀ (s : State) (k c f : Nat) (m : Msg) (w : Word) (out : List Nat) (tag : Half) (since : Nat),
    let x := frameOf s c f
    x.wait = .cx w out tag since → x.state = .running →
    (m.typ = tyCxResp → isCx s k = true → cxBad m = false → (byteAt m.body 8).toNat = c → (byteAt m.body 9).toNat = f → halfAt m.body 10 = tag →
      MemWf s → out.Nodup → (∀ p ∈ out, areaOf s p = .general ∨ ∃ q, areaOf s p = .pantry q) →
      ∃ s', exec (.cxResp (.arrives k m)) s = .next s' ∧ frameOf s' c f = { x with wait := .filled (le 4 (byteAt m.body 0).toNat ++ slice m.body 4 4) true } ∧
        (byteAt m.body 0 = 0 → ∀ n p, n < 64 → out[n]? = some p → byteOf s' p = byteAt m.body (16 + n)) ∧ (byteAt m.body 0 ≠ 0 → s'.mem = s.mem)) ∧
    (since + 1000 * cfgCxTimeout s ≤ s.tb →
      ∃ s', exec (.cxTimeout c f) s = .next s' ∧ frameOf s' c f = { x with wait := .filled (le 8 3) true } ∧ s'.mem = s.mem))

/-- The decimal instructions on accumulators (R330, R331, R333, R339, R340, R342, R343, R345): a value that fits 63 digits is the result, with the sources' flags; one that does not raises vector 12,
or leaves its low 63 digits and OV; an accumulator that is no valid one raises vector 11. -/
def Obligations.AccumulatorArithmetic : Prop :=
  (∀ (s : State) (c f : Nat) (w : Word) (i : Instr) (o : LOp) (op : Int → Int → Int),
    let x := frameOf s c f
    let p := dAcc x (daDa w)
    let q := dAcc x (daDb w)
    let v := op p.val q.val
    let low : Int := if v < 0 then -((v.natAbs % 10 ^ 63 : Nat) : Int) else ((v.natAbs % 10 ^ 63 : Nat) : Int)
    (i, o, op) ∈ [(Instr.addp c, LOp.addp, fun a b : Int => a + b), (.subp c, .subp, fun a b : Int => a - b)] → Ready s c f o w →
    (p.val.natAbs < 10 ^ 63 → q.val.natAbs < 10 ^ 63 →
      (v.natAbs < 10 ^ 63 → Does i s s c f (setD x (daDd w) { val := v, ov := p.ov || q.ov, dz := p.dz || q.dz }) (x.pc + 4)) ∧
      (10 ^ 63 ≤ v.natAbs → pOv x.psw = false → Does i s s c f (setD x (daDd w) { val := low, ov := true, dz := p.dz || q.dz }) (x.pc + 4)) ∧
      (10 ^ 63 ≤ v.natAbs → pOv x.psw = true → Traps i s c f { vec := 12 })) ∧
    ((10 ^ 63 ≤ p.val.natAbs ∨ 10 ^ 63 ≤ q.val.natAbs) → Traps i s c f { vec := 11 })) ∧
  (∀ (s : State) (c f : Nat) (w : Word) (i : Instr) (o : LOp) (v : Int),
    let x := frameOf s c f
    let p := dAcc x (daDa w)
    (i, o, v) ∈ [(Instr.movp c, LOp.movp, p.val), (.negp c, .negp, -p.val), (.absp c, .absp, (p.val.natAbs : Int)),
      (.shrp c, .shrp, shiftRound p.val (sextI 7 (wf w 10 4)) (wf w 3 0)),
      (.shrpr c, .shrpr, shiftRound p.val (sextI 7 (bits (gReg x (wf w 10 6)).toNat 6 0)) (wf w 3 0))] → Ready s c f o w →
    (p.val.natAbs < 10 ^ 63 → v.natAbs < 10 ^ 63 → Does i s s c f (setD x (daDd w) { val := v, ov := p.ov, dz := p.dz }) (x.pc + 4)) ∧
    (p.val.natAbs < 10 ^ 63 → 10 ^ 63 ≤ v.natAbs → pOv x.psw = true → Traps i s c f { vec := 12 }) ∧
    (p.val.natAbs < 10 ^ 63 → 10 ^ 63 ≤ v.natAbs → pOv x.psw = false →
      let low : Int := if v < 0 then -((v.natAbs % 10 ^ 63 : Nat) : Int) else ((v.natAbs % 10 ^ 63 : Nat) : Int)
      Does i s s c f (setD x (daDd w) { val := low, ov := true, dz := p.dz }) (x.pc + 4)) ∧
    (10 ^ 63 ≤ p.val.natAbs → Traps i s c f { vec := 11 })) ∧
  (∀ (w : Word) (v : Int) (r : Nat), shiftRound v 0 r = v ∧ (decode w = some .shrp ∨ decode w = some .shrpr → wf w 3 0 ≤ 9)) ∧
  (∀ (v : Int) (n r : Nat), 0 < n → shiftRound v n r = v * 10 ^ n ∧
    shiftRound v (-(n : Int)) r = (if v < 0 then -1 else 1) * (((v.natAbs + r * 10 ^ (n - 1)) / 10 ^ n : Nat) : Int)) ∧
  (∀ (s : State) (c f : Nat) (w : Word),
    let x := frameOf s c f
    let p := dAcc x (daDa w)
    let q := dAcc x (daDb w)
    let k := dAcc x (dcDk w)
    let holds : Bool := match wf w 5 3 with
      | 0 => decide (p.val = q.val) | 1 => decide (p.val ≠ q.val) | 2 => decide (p.val < q.val)
      | 3 => decide (p.val ≤ q.val) | 4 => decide (q.val < p.val) | _ => decide (q.val ≤ p.val)
    (Ready s c f .clrp w → Does (.clrp c) s s c f (setD x (daDd w) {}) (x.pc + 4)) ∧
    (Ready s c f .cmpp w → p.val.natAbs < 10 ^ 63 → q.val.natAbs < 10 ^ 63 → Does (.cmpp c) s s c f (setG x (wf w 10 6) (if holds then 1 else 0)) (x.pc + 4)) ∧
    (Ready s c f .tstp w → p.val.natAbs < 10 ^ 63 →
      let y := setG x (wf w 10 6) (BitVec.ofNat 32 ((if p.val < 0 then 1 else 0) + (if p.val = 0 then 2 else 0) + (if p.ov then 4 else 0) + (if p.dz then 8 else 0)))
      Does (.tstp c) s s c f (if bitOf w.toNat 5 then setD y (daDa w) { p with ov := false, dz := false } else y) (x.pc + 4)) ∧
    (Ready s c f .cvbd w → Does (.cvbd c) s s c f (setD x (dcDk w) { val := (gPair x (dcRa w)).toInt }) (x.pc + 4)) ∧
    (Ready s c f .cvdb w → -(2 : Int) ^ 63 ≤ k.val → k.val < 2 ^ 63 → Does (.cvdb c) s s c f (setPair x (dcRa w) (BitVec.ofInt 64 k.val)) (x.pc + 4)) ∧
    (Ready s c f .cvdb w → k.val.natAbs < 10 ^ 63 → (k.val < -(2 : Int) ^ 63 ∨ 2 ^ 63 ≤ k.val) → pOv x.psw = true → Traps (.cvdb c) s c f { vec := 12 }) ∧
    (Ready s c f .cvdb w → k.val.natAbs < 10 ^ 63 → (k.val < -(2 : Int) ^ 63 ∨ 2 ^ 63 ≤ k.val) → pOv x.psw = false →
      Does (.cvdb c) s s c f (setD (setPair x (dcRa w) (BitVec.ofInt 64 k.val)) (dcDk w) { k with ov := true }) (x.pc + 4)))

/-- The decimal instructions with an operand in memory (R336, R344 to R346): the operand is read and checked as packed or zoned decimal, the result goes to the accumulator or, with its bytes
checked for writing first, to memory. -/
def Obligations.DecimalOperandsInMemory : Prop :=
  (∀ (s s1 : State) (c f : Nat) (w : Word) (b : Bytes),
    let x := frameOf s c f
    let a := taskActor s c f false
    let p := dAcc x (dmDk w)
    let v := unpack b
    frameOf s1 c f = x → readVa s a wrap32 (dmAddr x w) (dmLen w) = .ok s1 b →
    (packOk b = true →
      (Ready s c f .ldp w → Does (.ldp c) s s1 c f (setD x (dmDk w) { val := v }) (x.pc + 4)) ∧
      (Ready s c f .addpMemory w → p.val.natAbs < 10 ^ 63 → (p.val + v).natAbs < 10 ^ 63 →
        Does (.addpMemory c) s s1 c f (setD x (dmDk w) { p with val := p.val + v }) (x.pc + 4)) ∧
      (Ready s c f .subpMemory w → p.val.natAbs < 10 ^ 63 → (p.val - v).natAbs < 10 ^ 63 →
        Does (.subpMemory c) s s1 c f (setD x (dmDk w) { p with val := p.val - v }) (x.pc + 4))) ∧
    (packOk b = false → Ready s c f .ldp w →
      ∀ s', raiseSync (countFault s1 c x .ldp w { vec := 11 }) c f { vec := 11 } x.pc x.pc = some s' → exec (.ldp c) s = .next s')) ∧
  (∀ (s s1 : State) (c f : Nat) (w : Word) (b : Bytes) (v : Int),
    let x := frameOf s c f
    let a := taskActor s c f false
    frameOf s1 c f = x → readVa s a wrap32 (gReg x (dcRa w)).toNat (dcN w) = .ok s1 b → Ready s c f .cvzd w →
    (unzone (pZm x.psw) b = some v → Does (.cvzd c) s s1 c f (setD x (dcDk w) { val := v }) (x.pc + 4)) ∧
    (unzone (pZm x.psw) b = none → ∀ s', raiseSync (countFault s1 c x .cvzd w { vec := 11 }) c f { vec := 11 } x.pc x.pc = some s' → exec (.cvzd c) s = .next s')) ∧
  (∀ (s s1 s2 s3 : State) (c f : Nat) (w : Word) (ps : List Piece),
    let x := frameOf s c f
    let a := taskActor s c f false
    frameOf s1 c f = x → frameOf s3 c f = x →
    (Ready s c f .stp w → resolve a .write wrap32 (dmLen w + 1) s (dmAddr x w) (dmLen w) = .ok s1 ps → (dAcc x (dmDk w)).val.natAbs < 10 ^ (2 * dmLen w - 1) →
      (dAcc x (dmDk w)).val.natAbs < 10 ^ 63 → readyWrite a s1 ps = .ok s2 () → writePieces a s2 ps (pack (dmLen w) (dAcc x (dmDk w)).val) = .ok s3 () →
      Does (.stp c) s s3 c f x (x.pc + 4)) ∧
    (Ready s c f .cvdz w → resolve a .write wrap32 (dcN w + 1) s (gReg x (dcRa w)).toNat (dcN w) = .ok s1 ps → (dAcc x (dcDk w)).val.natAbs < 10 ^ dcN w →
      (dAcc x (dcDk w)).val.natAbs < 10 ^ 63 → readyWrite a s1 ps = .ok s2 () →
      writePieces a s2 ps (zoned (pZm x.psw) (bitOf w.toNat 1) (dcN w) (dAcc x (dcDk w)).val) = .ok s3 () →
      Does (.cvdz c) s s3 c f x (x.pc + 4))) ∧
  (∀ (s s1 s2 s3 s4 : State) (c f : Nat) (w : Word) (ps qs : List Piece) (b d : Bytes),
    let x := frameOf s c f
    let a := taskActor s c f false
    let n := dxLen w
    let p := dAcc x (dxDk w)
    let v := p.val + unpack b * unpack d
    let y := setD x (dxDk w) { p with val := v }
    let z := setG y (dxGa w) (gReg x (dxGa w) + BitVec.ofNat 32 n)
    Ready s c f .macp w → frameOf s4 c f = x → resolve a .read wrap32 (n + 1) s (gReg x (dxGa w)).toNat n = .ok s1 ps →
    resolve a .read wrap32 (n + 1) s1 (gReg x (dxGb w)).toNat n = .ok s2 qs → readPieces a false s2 ps = .ok s3 b → readPieces a false s3 qs = .ok s4 d →
    p.val.natAbs < 10 ^ 63 → packOk b = true → packOk d = true → v.natAbs < 10 ^ 63 →
    (dxP w = false → Does (.macp c) s s4 c f y (x.pc + 4)) ∧
    (dxP w = true → Does (.macp c) s s4 c f (setG z (dxGb w) (gReg x (dxGb w) + BitVec.ofNat 32 n)) (x.pc + 4)))

/-- The long operations (R283, R341, R347, R348, R354, R357): each is in flight once it has issued; MULP and DIVP give their results as they retire, and an exception of one whose task is switched out is kept for it; MVS and MVSX move on in chunks and EDIT and
EDITM in elements until nothing is left; one that was stopped goes on.
Where the spec leaves a point open this rests on the model's choice (log entry 68). -/
def Obligations.LongOperations : Prop :=
  (∀ (s : State) (c f : Nat) (w : Word) (i : Instr) (o : LOp),
    let x := frameOf s c f
    (i, o) ∈ [(Instr.mulp c, LOp.mulp), (.divp c, .divp), (.mvs c, .mvs), (.mvsx c, .mvsx), (.edit c, .edit), (.editm c, .editm)] → Ready s c f o w →
    Does i s s c f { x with lop := some (w, x.pc), lopPsw := x.psw, lopSb := if o = .mulp ∨ o = .divp then 0 else (coreOf s c).sb.length } (x.pc + 4)) ∧
  (∀ (s : State) (c f : Nat) (w ad : Word),
    let x := frameOf s c f
    let p := dAcc x (daDa w)
    let q := dAcc x (daDb w)
    let ends := fun (y : Frame) => ∃ s', exec (.longOperationRetire c f) s = .next s' ∧ frameOf s' c f = { y with lop := none } ∧ s'.mem = s.mem
    x.lop = some (w, ad) → x.state = .running → p.val.natAbs < 10 ^ 63 → q.val.natAbs < 10 ^ 63 →
    (decode w = some .mulp → (p.val * q.val).natAbs < 10 ^ 63 → ends (setD x (daDd w) { val := p.val * q.val, ov := p.ov || q.ov, dz := p.dz || q.dz })) ∧
    (decode w = some .divp → q.val ≠ 0 →
      let y := setD x (daDd w) { val := p.val.tdiv q.val, ov := p.ov || q.ov, dz := p.dz || q.dz }
      ends (if bitOf w.toNat 7 then setD y (wf w 10 8) { val := p.val.tmod q.val, ov := p.ov || q.ov, dz := p.dz || q.dz } else y)) ∧
    (decode w = some .divp → q.val = 0 → pDz x.lopPsw = false →
      let y := setD x (daDd w) { val := 0, ov := p.ov || q.ov, dz := true }
      ends (if bitOf w.toNat 7 then setD y (wf w 10 8) { val := p.val, ov := p.ov || q.ov, dz := true } else y))) ∧
  (∀ (s : State) (c f : Nat) (w ad : Word),
    let x := frameOf s c f
    x.lop = some (w, ad) → decode w = some .divp → (dAcc x (daDa w)).val.natAbs < 10 ^ 63 → (dAcc x (daDb w)).val = 0 → pDz x.lopPsw = true →
    x.state = .ready → (coreOf s c).running ≠ some f → x.traceDue = none →
    ∃ s', exec (.longOperationRetire c f) s = .next s' ∧ s'.mem = s.mem ∧
      frameOf s' c f = { x with lop := none, lopExc := some { word := w, addr := ad, exc := { vec := 13 }, msk := pMsk x.psw } }) ∧
  (∀ (s s1 : State) (c f : Nat) (w ad : Word),
    let x := frameOf s c f
    x.lop = some (w, ad) → hasMemLop x = true → x.state ≠ .stopping → x.lopSb = 0 →
    lopRun (lopActor x c f) w lopFuel s = .fin s1 → exec (.longOperationRetire c f) s = .next (lopEnd s1 c f)) ∧
  (∀ (s s1 : State) (a : Actor) (w : Word) (m n : Nat),
    (lopStep s a w = .more s1 m → lopRun a w (n + 1) s = lopRun a w n s1) ∧ (lopStep s a w = .fin s1 → lopRun a w (n + 1) s = .fin s1)) ∧
  (∀ (s s1 : State) (a : Actor) (w : Word),
    let x := frameOf s a.c a.f
    let n := (gReg x (dlRc w)).toNat
    let k := min n (16 - (gReg x (dlRa w)).toNat % 16)
    decode w = some .mvs →
    (n = 0 → lopStep s a w = .fin s) ∧
    (n ≠ 0 → frameOf s1 a.c a.f = x → chunk s a (gReg x (dlRb w)).toNat k (gReg x (dlRa w)).toNat k 0 = .ok s1 () →
      ∃ m, lopStep s a w = .more (setFrame s1 a.c a.f
        (setG (setG (setG x (dlRa w) (gReg x (dlRa w) + BitVec.ofNat 32 k)) (dlRb w) (gReg x (dlRb w) + BitVec.ofNat 32 k)) (dlRc w)
          (BitVec.ofNat 32 (n - k)))) m)) ∧
  (∀ (s s1 : State) (a : Actor) (w : Word),
    let x := frameOf s a.c a.f
    let n := (gReg x (dlRa w + 1)).toNat
    let k := min n (16 - (gReg x (dlRa w)).toNat % 16)
    let j := min k (gReg x (dlRb w + 1)).toNat
    decode w = some .mvsx →
    (n = 0 → lopStep s a w = .fin s) ∧
    (n ≠ 0 → frameOf s1 a.c a.f = x → chunk s a (gReg x (dlRb w)).toNat j (gReg x (dlRa w)).toNat k ((gReg x (dlRc w)).setWidth 8) = .ok s1 () →
      ∃ m, lopStep s a w = .more (setFrame s1 a.c a.f (advancePair (advancePair x (dlRa w) k) (dlRb w) j)) m)) ∧
  (∀ (s : State) (c f : Nat) (o : LOp),
    let x := frameOf s c f
    (coreOf s c).running = some f → x.lov = true → decBusy s c = false → x.state = .running → decode x.lopw = some o → isMemLongOp o = true →
    ∃ s', exec (.longOperationResume c) s = .next s' ∧
      frameOf s' c f = { x with lov := false, lop := some (x.lopw, x.lopa), lopPsw := x.psw, lopSb := (coreOf s c).sb.length } ∧ s'.mem = s.mem)

/-- EDIT's pattern bytes (R353, R354, Tables 9.7 and 9.8): what each writes and how the progress word follows; the start captures the sign; a pattern of length 0 ends it. Comparing and scanning strings
(R349 to R352) go a round of 16 bytes at a time: the round that decides writes rd and ends the instruction; one that does not leaves the pc.
Where the spec leaves a point open this rests on the model's choice (log entry 75). -/
def Obligations.EditAndStrings : Prop :=
  (∀ (x : Frame) (w p : Word) (zm : Bool) (b y : Byte),
    let e := editByte x w zm p b y
    let d := (dAcc x (dlDk w)).val.natAbs / 10 ^ (pDrem p - 1) % 10
    (b = 0x01 → pSig p = false → d = 0 → e.out = some (pFill p) ∧ e.isFill = true ∧ e.n = 1 ∧ e.p = withDrem p (pDrem p - 1)) ∧
    (b = 0x01 → pSig p = true → e.out = some (zoneDigit zm d) ∧ e.isFill = false ∧ e.n = 1 ∧ e.p = withDrem p (pDrem p - 1)) ∧
    ((b = 0x01 ∧ d ≠ 0 ∨ b = 0x02) → pSig p = false → e.out = some (zoneDigit zm d) ∧ e.mark = true ∧ e.float = (pFlt p && pLf p) ∧ e.n = 1) ∧
    (b = 0x03 → e.n = 2 ∧ e.out = some y ∧ e.p = p) ∧
    (b = 0x04 → e.n = 2 ∧ e.out = none ∧ e.p = putBit (withFsym p y) 18 true) ∧
    (b = 0x05 → e.n = 2 ∧ e.out = some (if pNeg p then y else pFill p) ∧ e.isFill = !pNeg p ∧ e.p = p) ∧
    (b = 0x06 → e.n = 2 ∧ e.out = some (if pNeg p then pFill p else y) ∧ e.isFill = pNeg p ∧ e.p = p) ∧
    (b = 0x07 → e.n = 1 ∧ e.out = none ∧ e.p = putBit p 16 true) ∧
    (0x20 ≤ b.toNat → e.n = 1 ∧ e.out = some (if pSig p then b else pFill p) ∧ e.isFill = !pSig p ∧ e.p = p)) ∧
  (∀ (s : State) (a : Actor) (w : Word) (mark : Bool),
    let x := frameOf s a.c a.f
    let p := gReg x (dlRc w)
    let d := dAcc x (dlDk w)
    (pReserved p = true → stepEdit s a w mark = .exc s { vec := 14, cause := 0x02 }) ∧
    (pReserved p = false → pStarted p = true → gReg x (dlRb w + 1) = 0 → stepEdit s a w mark = .fin s) ∧
    (pReserved p = false → pStarted p = false → d.val.natAbs < 10 ^ 63 → d.val.natAbs < 10 ^ pDrem p →
      editStart s a w = .more (setFrame s a.c a.f (setG x (dlRc w) (putBit (putBit p 19 (decide (d.val < 0))) 17 true))) 0) ∧
    (pReserved p = false → pStarted p = false → d.val.natAbs < 10 ^ 63 → 10 ^ pDrem p ≤ d.val.natAbs → pOv a.psw = true →
      stepEdit s a w mark = .exc s { vec := 12 })) ∧
  (∀ (s s1 : State) (c f : Nat) (w : Word) (b : Bytes),
    let x := frameOf s c f
    let a := taskActor s c f false
    let len := (gReg x (dsRa w + 1)).toNat
    let stop := fun (y : Byte) => (y == (gReg x (dsRb w)).setWidth 8) != bitOf w.toNat 5
    Ready s c f .scn w → frameOf s1 c f = x → readVa s a wrap32 (gReg x (dsRa w)).toNat (min 16 len) = .ok s1 b →
    (∀ i, b.findIdx? stop = some i → Does (.scn c) s s1 c f (setG (advancePair x (dsRa w) i) (dsRd w) 1) (x.pc + 4)) ∧
    (b.findIdx? stop = none → len ≤ 16 → Does (.scn c) s s1 c f (setG (advancePair x (dsRa w) b.length) (dsRd w) 0) (x.pc + 4)) ∧
    (b.findIdx? stop = none → 16 < len → Does (.scn c) s s1 c f (advancePair x (dsRa w) b.length) x.pc)) ∧
  (∀ (s s1 s2 s3 s4 : State) (c f : Nat) (w : Word) (ps qs : List Piece) (p q : Bytes),
    let x := frameOf s c f
    let a := taskActor s c f false
    let la := (gReg x (dsRa w + 1)).toNat
    let lb := (gReg x (dsRb w + 1)).toNat
    let sp := zoneSpace (pZm x.psw)
    let n := min 16 (max la lb)
    let u := fun (i : Nat) => (p[i]?).getD sp
    let v := fun (i : Nat) => (q[i]?).getD sp
    let moved := fun (k : Nat) => advancePair (advancePair x (dsRa w) (min k la)) (dsRb w) (min k lb)
    Ready s c f .cls w → frameOf s4 c f = x → resolve a .read wrap32 (min 16 la + 1) s (gReg x (dsRa w)).toNat (min 16 la) = .ok s1 ps →
    resolve a .read wrap32 (min 16 lb + 1) s1 (gReg x (dsRb w)).toNat (min 16 lb) = .ok s2 qs → readPieces a false s2 ps = .ok s3 p → readPieces a false s3 qs = .ok s4 q →
    (∀ i, i < n → u i ≠ v i → (∀ k, k < i → u k = v k) →
      Does (.cls c) s s4 c f (setG (moved i) (dsRd w) (BitVec.ofNat 32 (b2n (relHolds (dsRel w) (decide ((u i).toNat < (v i).toNat)) false)))) (x.pc + 4)) ∧
    ((∀ i, i < n → u i = v i) → la ≤ 16 → lb ≤ 16 →
      Does (.cls c) s s4 c f (setG (moved n) (dsRd w) (BitVec.ofNat 32 (b2n (relHolds (dsRel w) false true)))) (x.pc + 4)) ∧
    ((∀ i, i < n → u i = v i) → (16 < la ∨ 16 < lb) → Does (.cls c) s s4 c f (moved n) x.pc)) ∧
  (∀ (s s1 s2 : State) (c f : Nat) (w : Word) (y e : Byte),
    let x := frameOf s c f
    let a := taskActor s c f false
    let m : Byte := (gReg x (dsRd w)).setWidth 8
    Ready s c f .sct w → frameOf s2 c f = x → gReg x (dsRa w + 1) = 1 → readVa s a wrap32 (gReg x (dsRa w)).toNat 1 = .ok s1 [y] →
    readVa s1 a wrap32 (((gReg x (dsRb w)).toNat + y.toNat) % wrap32) 1 = .ok s2 [e] →
    (e &&& m ≠ 0 → Does (.sct c) s s2 c f (setG (advancePair x (dsRa w) 0) (dsRd w) (e.setWidth 32)) (x.pc + 4)) ∧
    (e &&& m = 0 → Does (.sct c) s s2 c f (setG (advancePair x (dsRa w) 1) (dsRd w) 0) (x.pc + 4))) ∧
  (∀ (s s1 : State) (c f : Nat) (w : Word),
    let x := frameOf s c f
    Ready s c f .sct w → frameOf s1 c f = x → gReg x (dsRa w + 1) = 0 → readVa s (taskActor s c f false) wrap32 (gReg x (dsRa w)).toNat 0 = .ok s1 [] →
    Does (.sct c) s s1 c f (setG (advancePair x (dsRa w) 0) (dsRd w) 0) (x.pc + 4))

/-- What happens in a core beside the issue of instructions (R275, R276, R279, R280, R282, R363 to R366, R384, R385, R390): a block is fetched, a stall ends, a buffered store is written or fails, store
errors and interrupts enter their handlers, a core starts at frame 0, frames start, stop and are reset.
Where the spec leaves a point open this rests on the model's choice (log entries 70, 71). -/
def Obligations.CoresBesideInstructions : Prop :=
  (∀ (s s1 s2 : State) (c f ad : Nat) (ps : List Piece) (b : Bytes) (e : Exc),
    let x := frameOf s c f
    let a := taskActor s c f true
    (coreOf s c).running = some f → coreIn s c = true → x.state = .running → fetchWanted s c f = some ad →
    (resolve a .exec wrap32 17 s ad 16 = .ok s1 ps → readPieces a true s1 ps = .ok s2 b → frameOf s2 c f = x →
      ∃ s', exec (.blockFetch c) s = .next s' ∧ frameOf s' c f = { x with fetch := x.fetch ++ [{ addr := ad, data := b }] } ∧
        s' = { s2 with cores := { s2.cores with cores := s'.cores.cores } }) ∧
    (resolve a .exec wrap32 17 s ad 16 = .exc s1 e → frameOf s1 c f = x →
      ∃ s', exec (.blockFetch c) s = .next s' ∧ frameOf s' c f = { x with fetch := x.fetch ++ [{ addr := ad, fault := some e }] } ∧
        s' = { s1 with cores := { s1.cores with cores := s'.cores.cores } })) ∧
  (∀ (s : State) (c f l : Nat) (own ok : Bool) (data : Bytes),
    let x := frameOf s c f
    let need := l1Need s c l (pAk x.psw) own
    x.wait = .line l own →
    ((need = .shared ∨ need = .own) → exec (.l1MissFill c f data ok) s = .next s) ∧
    ((need = .hit ∨ need = .recheck) → x.state = .running → (coreOf s c).running = some f →
      exec (.l1MissFill c f data ok) s = .next (issueAs (setFrame s c f { x with wait := .filled [] true }) c f none)) ∧
    ((need = .hit ∨ need = .recheck) → x.state = .stalled → (∃ g, g ≠ f ∧ (coreOf s c).running = some g) →
      ∃ s', exec (.l1MissFill c f data ok) s = .next s' ∧ frameOf s' c f = { x with state := .ready, wait := .filled [] true })) ∧
  (∀ (s : State) (c : Nat) (e : SbEntry) (r : List SbEntry),
    let m := sbMaster c e
    let l := lineOfPa e.pa
    (coreOf s c).sb = e :: r → memLopBusy s c = false → twf s.cores.cores = true →
    (MemWf s → checkPa s m e.pa .write = none → busFails s e.pa = false → (l1Need s c l e.key true = .hit ∨ l1Need s c l e.key true = .recheck) →
      ∃ s', exec (.storeBufferDrain c) s = .next s' ∧ (coreOf s' c).sb = r ∧ (∀ i, i < e.data.length → byteOf s' (e.pa + i) = byteAt e.data i) ∧
        (∀ p, (p < e.pa ∨ e.pa + e.data.length ≤ p) → byteOf s' p = byteOf s p)) ∧
    (checkPa s m e.pa .write = none → busFails s e.pa = false → l1Need s c l e.key true = .own → exec (.storeBufferDrain c) s = .next s) ∧
    (∀ y, checkPa s m e.pa .write = some y → (frameOf s c e.frame).epoch = e.epoch → (frameOf s c e.frame).ste = none →
      ∃ s', exec (.storeBufferDrain c) s = .next s' ∧ (coreOf s' c).sb = r ∧ s'.mem = s.mem ∧
        (frameOf s' c e.frame).ste = some { vec := 5, cause := y.cause, addr := BitVec.ofNat 64 e.pa, phys := true, imp := true })) ∧
  (∀ (s s1 s2 : State) (c f n : Nat) (e : Exc) (h : Word) (src : Source),
    let x := frameOf s c f
    let t := setFrame s c f { x with ste := none }
    (coreOf s c).running = some f → x.state = .running → x.lop = none → x.rep = none →
    (storeErrorReady x = some e → e.vec = 5 → CanEnter t c f 5 s1 s2 h → ∃ s', exec (.storeErrorDelivery c) s = .next s' ∧ Entered s2 s' c f e h x.pc) ∧
    (deliverable s c none = some (n, src) → coreIn s c = true → srcFrame src = f → mayLeave x = true → CanEnter s c f (32 + srcPrio src) s1 s2 h →
      ∃ s', exec (.interruptDelivery c) s = .next s' ∧ Entered s2 s' c f { vec := 32 + srcPrio src, code := n } h x.pc)) ∧
  (∀ (s s1 s2 : State) (c r g n : Nat) (h : Word) (src : Source),
    let t := switchTo s c g
    (coreOf s c).running = some r → r ≠ g → deliverable s c none = some (n, src) → coreIn s c = true → srcFrame src = g → mayLeave (frameOf s c r) = true →
    mayLeave (frameOf t c g) = true → (frameOf s c g).lop = none → (frameOf s c g).rep = none → (frameOf s c r).lop = none → CanEnter t c g (32 + srcPrio src) s1 s2 h →
    (frameOf t c r).state = .ready ∧
    ∃ s', exec (.interruptDelivery c) s = .next s' ∧ Entered s2 s' c g { vec := 32 + srcPrio src, code := n } h (frameOf s c g).pc) ∧
  (∀ (s s3 : State) (c : Nat) (h : Word),
    let t := setFrame s c 0 (bootFrame s c)
    let t2 := setCore t c { coreOf t c with running := some 0, starting := false }
    readyToStart s c = true → vectorWord t2 c 0 0 = .ok s3 h → frameOf s3 c 0 = bootFrame s c → (coreOf s3 c).running = some 0 →
    ∃ s', exec (.coreStart c) s = .next s' ∧ (coreOf s' c).running = some 0 ∧
      frameOf s' c 0 = { bootFrame s c with pc := h, fetch := [], wait := .idle, last := none }) ∧
  (∀ (s : State) (c f : Nat),
    let x := frameOf s c f
    f < nFrames s → coreIn s c = true →
    ((x.state = .stopped ∨ (x.state = .off ∧ x.restored = true)) → (∃ g, (coreOf s c).running = some g) →
      ∃ s', exec (.frameStart c f) s = .next s' ∧ frameOf s' c f = { x with state := .ready }) ∧
    (x.state = .sleep → exec (.frameStart c f) s = .next (setFrame s c f { x with cmdErr := true })) ∧
    ((x.state = .ready ∨ x.state = .sleep) → x.lop = none → x.wait = .idle → x.rep = none →
      ∃ s', exec (.frameStop c f) s = .next s' ∧ frameOf s' c f = { x with state := .stopped }) ∧
    ((x.state = .stopped ∨ x.state = .off) → exec (.frameStop c f) s = .next s) ∧
    ((coreOf s c).portWait = [] → ∃ s', exec (.frameReset c f) s = .next s' ∧ frameOf s' c f = { state := .resetting, epoch := x.epoch + 1 } ∧ s'.mem = s.mem ∧ s'.led = s.led ∧ s'.jn = s.jn) ∧
    (x.state = .resetting → twf s.cores.cores = true → twf (coreOf s c).frames = true → twf s.locks = true →
      ∃ s', exec (.frameResetEnd c f) s = .next s' ∧ (frameOf s' c f).state = .off ∧
        (∀ k l, tget s.locks k = some l → l.owner = frameOwner c f → l.epoch ≠ x.epoch → l.lent = none → l.waiters = [] → tget s'.locks k = none)) ∧
    (x.state ≠ .resetting → exec (.frameResetEnd c f) s = .next s))

/-- The event controller (R387 to R394): what an event does to its source, coalescing, claims and their ends, software events, the comparators, and a write of a source's configuration. -/
def Obligations.EventController : Prop :=
  (∀ (tb : Nat) (x : Source),
    let y := srcEvent tb x
    srcEn x = true → srcSense x ≠ 0 →
    (x.state = .idle → srcCount x ≤ x.cnt + 1 → y.state = .pending ∧ y.cnt = 0) ∧
    (x.state = .idle → x.cnt + 1 < srcCount x → y.state = .idle ∧ y.cnt = x.cnt + 1 ∧ (x.cnt = 0 → y.t0 = tb)) ∧
    (x.state = .pending → y = x) ∧
    (x.state = .active → y = { x with lost := min 65535 (x.lost + 1) })) ∧
  (∀ (s : State) (n : Nat),
    (16 ≤ n → n < 0x200 → srcReserved n = false →
      exec (.eventSourceInput n) s = .next { s with ev := { s.ev with srcs := tset s.ev.srcs n {} (srcEvent s.tb (srcOf s n)) } }) ∧
    (n < 16 → queueOf s n ≠ [] → srcEn (srcOf s n) = true → srcSense (srcOf s n) = 0 → (srcOf s n).state ≠ .active →
      ∃ s', exec (.eventSourceInput n) s = .next s' ∧ srcOf s' n = { srcOf s n with level := true, state := .pending } ∧ s' = { s with ev := s'.ev }) ∧
    (srcEn (srcOf s n) = true → (srcOf s n).state = .idle → 0 < (srcOf s n).cnt → srcTime (srcOf s n) ≠ 0 → srcSense (srcOf s n) ≠ 0 →
      (up64 ((srcOf s n).t0 + srcTime (srcOf s n) * 64) ≤ s.tb →
        exec (.coalesceTime n) s = .next { s with ev := { s.ev with srcs := tset s.ev.srcs n {} { srcOf s n with state := .pending, cnt := 0 } } }) ∧
      (s.tb < up64 ((srcOf s n).t0 + srcTime (srcOf s n) * 64) → exec (.coalesceTime n) s = .next s))) ∧
  (∀ (s : State) (c f n : Nat) (x : Source),
    let k := coreOf s c
    let best := bestSource s fun _ y => srcTargets s y c && abovePrio k (srcPrio y)
    coreIn s c = true → f < nFrames s →
    (k.stack.length < 8 → best = some (n, x) →
      (claim s c f).1 = BitVec.ofNat 64 (srcPrio x * 2 ^ 16 + n) ∧
      ∃ s', exec (.claim c f) s = .next s' ∧ srcOf s' n = { x with state := .active, owner := c } ∧
        (coreOf s' c).stack = k.stack ++ [{ prio := srcPrio x, src := n, frame := f }]) ∧
    ((8 ≤ k.stack.length ∨ best = none) → (claim s c f).1 = 0x3FF ∧ exec (.claim c f) s = .next s)) ∧
  (∀ (s : State) (c f : Nat) (e : StackEntry) (r : List StackEntry),
    let k := coreOf s c
    coreIn s c = true → f < nFrames s → k.stack = r ++ [e] → twf s.cores.cores = true → twf s.ev.srcs = true →
    (e.frame = f → srcSense (srcOf s e.src) ≠ 0 →
      ∃ s', exec (.eoi c f) s = .next s' ∧ (coreOf s' c).stack = r ∧ srcOf s' e.src = { srcOf s e.src with state := .idle, owner := 0 }) ∧
    (e.frame ≠ f → ∃ s', exec (.eoi c f) s = .next s' ∧ coreOf s' c = { k with eoiErr := true })) ∧
  (∀ (s : State) (v : Dbl),
    let n := v.toNat % 1024
    (0x200 ≤ n → n ≤ 0x3FE → exec (.ecSet v) s = .next { s with ev := { s.ev with srcs := tset s.ev.srcs n {} (srcEvent s.tb (srcOf s n)) } }) ∧
    ((n < 0x200 ∨ n = 0x3FF) → exec (.ecSet v) s = .next s)) ∧
  (∀ (s : State) (k : Nat) (v : Dbl),
    let fired := fun (w : Nat) (s' : State) => s'.ev.cmps = tput s.ev.cmps k (w, false) ∧ srcOf s' (0x110 + k) = srcEvent s.tb (srcOf s (0x110 + k)) ∧ s' = { s with ev := s'.ev }
    k < 16 → twf s.ev.srcs = true →
    (s.tb < v.toNat → exec (.tbCmpWrite k v) s = .next { s with ev := { s.ev with cmps := tput s.ev.cmps k (v.toNat, true) } }) ∧
    (v.toNat ≤ s.tb → ∃ s', exec (.tbCmpWrite k v) s = .next s' ∧ tget s'.ev.cmps k = some (v.toNat, false) ∧
      srcOf s' (0x110 + k) = srcEvent s.tb (srcOf s (0x110 + k))) ∧
    (∀ w, tget s.ev.cmps k = some (w, true) → w ≤ s.tb → ∃ s', exec (.tbCmpFire k) s = .next s' ∧ fired w s') ∧
    (∀ w b, tget s.ev.cmps k = some (w, b) → (b = false ∨ s.tb < w) → exec (.tbCmpFire k) s = .next s)) ∧
  (∀ (s : State) (n : Nat) (v : Dbl),
    let x := srcOf s n
    n < 0x400 → srcReserved n = false → twf s.ev.srcs = true →
    (srcEn x = true → v.getLsbD 0 = true → exec (.srcCfgWrite n v) s = .next s) ∧
    (srcEn x = true → v.getLsbD 0 = false → ∃ s', exec (.srcCfgWrite n v) s = .next s' ∧
      srcOf s' n = { x with cfg := x.cfg &&& ~~~1#64, state := if x.state = .pending then .idle else x.state }) ∧
    (srcEn x = false → v.getLsbD 0 = true → bits v.toNat 7 6 ≠ 0 → bits v.toNat 35 28 ≠ 0 →
      ∃ s', exec (.srcCfgWrite n v) s = .next s' ∧ srcOf s' n = { x with cfg := v &&& srcMask, lost := 0, cnt := 0 }) ∧
    (srcEn x = false → v.getLsbD 0 = true → bits v.toNat 7 6 ≠ 0 → bits v.toNat 35 28 = 0 →
      ∃ s', exec (.srcCfgWrite n v) s = .next s' ∧ srcOf s' n = { x with cfg := v &&& srcMask &&& ~~~1#64 }))

/-- The directories, TLB broadcasts, the scrubber and the debug master (R250, R406, R418, R421 to R423, R505): the states a request leaves its line in; no request changes a byte.
Where the spec leaves a point open this rests on the model's choice (log entries 63, 72, 77, 99, 112). -/
def Obligations.DirectoriesAndErrors : Prop :=
  (∀ (s : State) (c l k : Nat),
    let wr := keyAllows k (storageKey s (l / 32)) .write
    l < 2 ^ 39 → l1Of s c l = none → requestKey s c l false = some k →
    ∃ s', exec (.gets c l) s = .next s' ∧ s'.mem.bytes = s.mem.bytes ∧
      (dirOf s l = none → wr = true → l1Of s' c l = some { st := .e, key := k, wr := true } ∧ dirOf s' l = some { st := .exclusive, owner := c }) ∧
      (dirOf s l = none → wr = false → l1Of s' c l = some { st := .s, key := k } ∧ dirOf s' l = some { st := .shared, sharers := [c] }) ∧
      (∀ d, dirOf s l = some d → (d.st = .shared ∨ d.st = .owned) →
        l1Of s' c l = some { st := .s, key := k } ∧ dirOf s' l = some { d with sharers := insertUp c d.sharers }) ∧
      (∀ d x, dirOf s l = some d → d.st = .exclusive → d.owner ≠ c → l1Of s d.owner l = some x →
        l1Of s' c l = some { st := .s, key := k } ∧
        (x.st = .m → l1Of s' d.owner l = some { x with st := .o } ∧ dirOf s' l = some { st := .owned, owner := d.owner, sharers := [c] }) ∧
        (x.st ≠ .m → l1Of s' d.owner l = some { x with st := .s, wr := false } ∧
          dirOf s' l = some { st := .shared, owner := 0, sharers := insertUp c [d.owner] }))) ∧
  (∀ (s : State) (c l k : Nat) (i : Instr),
    l < 2 ^ 39 → requestKey s c l true = some k → 
    ((i = .getm c l ∧ l1Of s c l = none) ∨ (i = .upgrade c l ∧ (l1Of s c l = none ∨ heldShared s c l = true))) →
    (mustWait s c l = true → exec i s = .next s) ∧
    (mustWait s c l = false →
      ∃ s', exec i s = .next s' ∧ s'.mem.bytes = s.mem.bytes ∧ l1Of s' c l = some { st := .m, key := k, wr := true, dirty := heldDirty s l } ∧
        dirOf s' l = some { st := .exclusive, owner := c, losers := losersOf s c l } ∧ (∀ o, o ≠ c → l1Of s' o l = none))) ∧
  (∀ (s : State) (c l : Nat) (x : L1Line) (d : DirLine),
    twf s.mem.l1 = true → twf s.mem.dir = true → l1Of s c l = some x →
    (x.st = .s → exec (.putm c l) s = .next s) ∧
    (x.st ≠ .s → dirOf s l = some d → d.owner = c →
      ∃ s', exec (.putm c l) s = .next s' ∧ l1Of s' c l = none ∧ s'.mem.bytes = s.mem.bytes ∧
        (d.st = .exclusive → dirOf s' l = none) ∧
        (d.st = .owned → dirOf s' l = some { st := .shared, owner := 0, sharers := d.sharers }))) ∧
  (∀ (s : State) (n u : Nat) (t : Tlbi),
    s.mem.tlbis[n]? = some t → u ∈ t.left → u < 128 → twf s.cores.cores = true →
    ∃ s', exec (.tlbiReceipt (.nth n) u) s = .next s' ∧ (coreOf s' u).tlb = (coreOf s u).tlb.filter (fun e => !tlbiHits t.kind e) ∧
      (coreOf s' u).walk = (coreOf s u).walk.filter (fun e => !tlbiHitsWalk t.kind e) ∧
      ((∃ e ∈ (coreOf s u).sb, tlbiHolds t.kind e = true) → s'.mem.tlbis = s.mem.tlbis) ∧
      ((∀ e ∈ (coreOf s u).sb, tlbiHolds t.kind e = false) →
        (t.left.filter (· != u) = [] → s'.mem.tlbis = s.mem.tlbis.eraseIdx n) ∧
        (t.left.filter (· != u) ≠ [] → s'.mem.tlbis[n]? = some { t with left := t.left.filter (· != u) }))) ∧
  (∀ (s : State) (n u : Nat) (t : Tlbi),
    s.mem.tlbis[n]? = some t → u ∈ t.left → 128 ≤ u → u < 256 → t.left.filter (· != u) = [] →
    ∃ s', exec (.tlbiReceipt (.nth n) u) s = .next s' ∧ s'.mem.tlbis = s.mem.tlbis.eraseIdx n ∧
      (t.kind = .all → engTlb s' (u - 128) = []) ∧ (t.kind ≠ .all → s'.eng = s.eng)) ∧
  (∀ (s : State) (u : Nat) (k : TlbiKind),
    partnerThere s = true → (tlbiUnits s 256).filter (· != 256) ≠ [] →
    exec (.tlbiReceipt (.heard k) u) s =
      .next { s with mem := { s.mem with tlbis := s.mem.tlbis ++ [{ core := 256, kind := k, left := (tlbiUnits s 256).filter (· != 256) }] } }) ∧
  (∀ (s : State) (l : Nat),
    isHbm s (l * 128) = true → s.mem.scrubEn = true →
    (s.mem.ce < 2 ^ 64 - 1 → ∃ s', exec (.scrubPass (sliceOf s l) [(l, true)]) s = .next s' ∧ s' = { s with mem := { s.mem with ce := s.mem.ce + 1 } }) ∧
    (s.mem.poison.contains l = false → s.mem.ue < 2 ^ 64 - 1 → s.mem.ueValid = false →
      let t := invalidateLine { s with mem := { s.mem with
        poison := insertUp l s.mem.poison, ue := s.mem.ue + 1, ueValid := true, ueSlice := sliceOf s l, ueLine := l, ueSram := false } } l
      (heldDirty s l ≠ BitVec.allOnes 128 → exec (.scrubPass (sliceOf s l) [(l, false)]) s = .next t) ∧
      (heldDirty s l = BitVec.allOnes 128 → exec (.scrubPass (sliceOf s l) [(l, false)]) s =
        .next { t with mem := { t.mem with poison := t.mem.poison.filter (· != l) } }))) ∧
  (∀ (s : State) (op : DebugOp) (pa n : Nat) (b : Bytes),
    (s.store.debugOpen = false → exec (.omesquePrivateInstruction op) s = .next s) ∧
    (s.store.debugOpen = true → refusedPart s debugMaster .read (lineParts (n + 1) pa n) = none →
      (∀ p ∈ lineParts (n + 1) pa n, areaOf s p.1 = .general ∧ poisoned s p.1 = false) →
      ∃ s', exec (.omesquePrivateInstruction (.read pa n)) s = .next s' ∧ s'.out = s.out ++ [.tap (memBytes s pa n)] ∧ s'.mem.bytes = s.mem.bytes) ∧
    (s.store.debugOpen = true → MemWf s → refusedPart s debugMaster .write (lineParts (b.length + 1) pa b.length) = none →
      (∀ p ∈ lineParts (b.length + 1) pa b.length, areaOf s p.1 = .general ∨ ∃ q, areaOf s p.1 = .pantry q) →
      ∃ s', exec (.omesquePrivateInstruction (.write pa b)) s = .next s' ∧ (∀ i, i < b.length → byteOf s' (pa + i) = byteAt b i) ∧
        (∀ p, (p < pa ∨ pa + b.length ≤ p) → byteOf s' p = byteOf s p)))

/-- Resets, the boot order, power, rails, clocks, temperatures and the test port (R13, R143, R470 to R472, R483, R496 to R499, R505, R517 to R520, R524, R527 to R530). A reset keeps the journal and the counts of
its row and runs the boot order from step 1, whose failing step holds the die with its reason (shown where the ROM step fails, and step by step).
Where the spec leaves a point open this rests on the model's choice (log entries 5, 6, 59, 60, 61). -/
def Obligations.BoardAndResets : Prop :=
  (∀ (s : State) (i : Instr) (kind : Byte) (hw : Hw),
    ((i = .coldReset hw ∧ kind = 1 ∧ hw.rom = false) ∨ (i = .mgmtWatchdog ∧ kind = 3 ∧ s.hw.rom = false) ∨
      (i = .powerResume ∧ kind = 4 ∧ s.hw.rom = false ∧ s.mgmt.state = .down ∧ s.board.thermtrip = false)) →
    ∃ s', exec i s = .next s' ∧ s'.mgmt.state = .held ∧ s'.mgmt.reason = 0x0F ∧ s'.mgmt.resetKind = (if kind ≠ 1 ∧ s.part = .pv128d then 6 else kind) ∧
      s'.jn.blocks = s.jn.blocks ∧ s'.jn.durable = s.jn.durable ∧ s'.jn.nextSeq = s.jn.durable + 1 ∧ s'.led = {} ∧ s'.locks = [] ∧ s'.tk.held = [] ∧
      s'.tb = (if kind = 1 then 0 else s.tb) ∧ s'.store.bootCount = s.store.bootCount ∧ s'.pending = s.pending ∧
      s'.mgmt.rstWatchdog = (if kind = 1 then 0 else if kind = 3 then min 65535 (s.mgmt.rstWatchdog + 1) else s.mgmt.rstWatchdog) ∧
      s'.mgmt.rstResume = (if kind = 1 then 0 else if kind = 4 then min 65535 (s.mgmt.rstResume + 1) else s.mgmt.rstResume)) ∧
  (∀ (f : State → State × Option Byte) (r : List (State → State × Option Byte)) (n : Nat) (s : State),
    (n = 3 → s.board.railOk ≠ 511 → runSteps (f :: r) n s = { s with board := { s.board with railWait := true } }) ∧
    ((n ≠ 3 ∨ s.board.railOk = 511) →
      (∀ s1, f s = (s1, none) → runSteps (f :: r) n s = runSteps r (n + 1) { s1 with mgmt := { s1.mgmt with step := n } }) ∧
      (∀ s1 reason, f s = (s1, some reason) → runSteps (f :: r) n s = enterHeld s1 reason))) ∧
  (∀ (s : State),
    (cfgSelect s = none → (bootConfig s).2 = some 0x01) ∧
    (∀ b c, cfgSelect s = some (b, c) → cfgPartBad s.part c = true → (bootConfig s).2 = some 0x03) ∧
    (∀ b c, cfgSelect s = some (b, c) → cfgPartBad s.part c = false → cfgInvalid s.part c = true → (bootConfig s).2 = some 0x02) ∧
    (∀ b c, cfgSelect s = some (b, c) → cfgPartBad s.part c = false → cfgInvalid s.part c = false → (bootConfig s).2 = none ∧ (bootConfig s).1.store.cfg = c) ∧
    (s.store.magic = false → (bootLedger s).2 = some 0x04) ∧
    (s.store.magic = true → s.store.ledgerId ≠ dblAt s.store.cfg 16 → (bootLedger s).2 = some 0x05) ∧
    (s.store.magic = true → s.store.ledgerId = dblAt s.store.cfg 16 → s.dup.role ≠ 2 →
      (bootLedger s).2 = none ∧ (bootLedger s).1.store.bootCount = s.store.bootCount + 1) ∧
    (s.jn.blocks ≠ [] → (bootRestart s).2 = some 0x0A) ∧ (s.jn.blocks = [] → (bootRestart s).2 = none) ∧
    ((bootService s).2 = none ∧ (bootService s).1.mgmt.state = .service)) ∧
  (∀ s : State,
    (s.mgmt.state = .held → s.mgmt.reason = 0x08 → s.board.holdupOk = true → exec .holdupResample s = .next (bootFrom s 6)) ∧
    ((s.mgmt.state ≠ .held ∨ s.mgmt.reason ≠ 0x08 ∨ s.board.holdupOk = false) → exec .holdupResample s = .next s) ∧
    (s.board.railWait = true → exec .railWaitEnd s = .next (bootFrom { s with board := { s.board with railWait := false, railOk := 511 } } 3)) ∧
    (s.board.railWait = false → exec .railWaitEnd s = .next s) ∧
    (s.board.powerFail = false → s.mgmt.state ≠ .down →
      ∃ s', exec .pwrfailAssert s = .next s' ∧ s'.board = { s.board with pwrfail := true, powerFail := true } ∧ s'.mgmt = { s.mgmt with state := .quiescing } ∧
        s'.jn.blocks = s.jn.blocks.map (fun b => if b.state = .opened then { b with state := .closing } else b) ∧ s'.led = s.led ∧ s'.tk = s.tk) ∧
    (∀ r, r < 9 → s.board.powerFail = false → (s.mgmt.state = .service ∨ s.mgmt.state = .held) →
      ∃ s', exec (.railLow r) s = .next s' ∧ s'.board.powerFail = true ∧ s'.mgmt.state = .quiescing ∧ s'.board.railLow.getLsbD r = true ∧ s'.board.railOk.getLsbD r = false) ∧
    (s.mgmt.pfGlitch < 2 ^ 32 - 1 → exec .pwrfailGlitch s = .next { s with mgmt := { s.mgmt with pfGlitch := s.mgmt.pfGlitch + 1 } }) ∧
    (s.board.powerFail = true → ∃ s', exec .dieEntersDown s = .next s' ∧ s'.mgmt.state = .down ∧ s'.board.powerFail = false ∧ s'.store.pfSeq = s.store.pfSeq + 1 ∧
      s'.store.flogCount = s.store.flogCount + 1 ∧ s'.jn = s.jn) ∧
    (∃ s', exec .vddAonRemoval s = .next s' ∧ s'.led = {} ∧ s'.mem.bytes = [] ∧ s'.tk.held = [] ∧ s'.jn.blocks = s.jn.blocks ∧ s'.store.flash = s.store.flash ∧ s'.tb = 0) ∧
    (s.mgmt.state = .service → s.board.powerFail = false → s.board.holdupOk = true →
      ∃ s', exec .holdupOkFall s = .next s' ∧ s'.board = { s.board with holdupOk := false } ∧ s'.store.flogCount = s.store.flogCount + 1 ∧ s'.mgmt.state = .service ∧ s'.led = s.led ∧
        (twf s.ev.srcs = true → srcOf s' 0x154 = srcEvent s.tb (srcOf s 0x154))) ∧
    exec .holdupOkRise s = .next { s with board := { s.board with holdupOk := true } }) ∧
  (∀ (s : State) (isl st : List (Nat × Nat)) (p : Nat),
    (∃ s', exec (.temperatureUpdate isl st) s = .next s' ∧ s'.board.dieTj = maxVal s'.board.islandTj ∧
      s'.board.hbmTj = maxVal (st.filter fun e => decide (e.2 < 256)) ∧ (s'.board.hot = true ↔ s.board.thermHi + 64 ≤ s'.board.dieTj) ∧
      (s'.board.hbmHot = true ↔ 149 ≤ s'.board.hbmTj) ∧ (s'.board.hbmOver = true ↔ 159 < s'.board.hbmTj) ∧
      ((184 ≤ s'.board.dieTj ∨ 169 ≤ s'.board.hbmTj) → s'.board.thermtrip = true ∧ (s.mgmt.state ≠ .down → s'.board.powerFail = true)) ∧
      (s'.board.dieTj < 184 → s'.board.hbmTj < 169 → s'.board.thermtrip = s.board.thermtrip ∧ s'.mgmt = s.mgmt)) ∧
    (exec (.refclkLoss .tb) s = .next { s with board := { s.board with tbOk := false, tbLost := true } } ∧
      exec (.refclkReturn .tb) s = .next { s with board := { s.board with tbOk := true } } ∧
      (∃ s', exec (.refclkLoss .fab) s = .next s' ∧ s'.board = { s.board with fabOk := false }) ∧
      exec (.refclkReturn .fab) s = .next { s with board := { s.board with fabOk := true } }) ∧
    (∀ k n, k < 256 → s.tb / 10000 ≠ s.board.rateWindow →
      exec (.islandRateUpdate [(k, n)]) s = .next { s with board := { s.board with rateWindow := s.tb / 10000, rates := tset s.board.rates k 0 (n / 10 % 65536) } }) ∧
    (∀ l, s.tb / 10000 = s.board.rateWindow → exec (.islandRateUpdate l) s = .next s) ∧
    (∀ k, k < 256 → (islandOut s k = true → (readIsland s k).extractLsb' 0 17 = 0x10000#17) ∧ (ladleRuns s = false → k < 128 → islandOut s k = true)) ∧
    (s.tbHold = 0 → exec .timebaseTick s = .next { s with tb := (s.tb + 1) % 2 ^ 64 }) ∧
    (0 < s.tbHold → exec .timebaseTick s = .next { s with tbHold := s.tbHold - 1 }) ∧
    (∀ u, s.mgmt.state = .service → ∃ s', exec (.floorUnitFailure u) s = .next s' ∧ s'.mgmt.state = .quiescing ∧ s'.mgmt.quiesceFor = 0x07) ∧
    (p < 2 → (p = 0 ∨ s.part ≠ .pv32) → ∃ s', exec (.portReset p) s = .next s' ∧ s'.mgmt.rstPort = min 65535 (s.mgmt.rstPort + 1) ∧ s'.led = s.led ∧ s'.jn.blocks = s.jn.blocks ∧
      (s.jn.port = decide (p = 1) → s'.jn.enable = false) ∧
      (∀ f, f / 8192 = p → (tget s.host.fns f).isSome = true → (fnOf s' f).dbEnable = false ∧ (fnOf s' f).resetting = true))) ∧
  (∀ (s : State) (b : Bytes),
    exec .idcode s = .next { s with store := { s.store with tapIr := 1 }, out := s.out ++ [.tap (le 4 Config.idcode.toNat)] } ∧
    exec (.bypass b) s = .next { s with store := { s.store with tapIr := 0xFF }, out := s.out ++ [.tap (le b.length (ofLe b * 2))] } ∧
    (∃ v, exec (.samplePreload b) s = .next { s with store := { s.store with tapIr := 2, boundary := b }, fresh := s.fresh + 1, out := s.out ++ [.tap v] } ∧ v.length = b.length) ∧
    ((s.mgmt.state = .boot ∨ s.mgmt.state = .held) →
      ∃ v, exec (.extest b) s = .next { s with store := { s.store with tapIr := 0, boundary := b }, fresh := s.fresh + 1, out := s.out ++ [.tap v] }) ∧
    (s.mgmt.state = .service → exec (.extest b) s = exec (.bypass b) s))

/-- The mailbox (R475, R478, R479, R482 to R495, R505, Tables 13.12 to 13.14). A request in a state that bars it answers BAD_STATE, one beside a running command is an overrun; each command's answer follows its rule; the end writes the
response and does what the command asks for. Where the outside or an unstated function decides (a write of the control area, a signature, an unwrapping), both outcomes are given.
Where the spec leaves a point open this rests on the model's choice (log entries 53, 54, 55, 57). -/
def Obligations.MailboxCommands : Prop :=
  ∀ (s : State) (m : MbIn),
    let ready := fun (cmd : Byte) (n : Nat) => mbOpen s = true ∧ mbBusy s cmd = false ∧ heldFor s 0x0F = false ∧ mbArgsOk (mbReq s cmd m) n = true
    let req := fun (cmd : Byte) => mbReq s cmd m
    let a := fun (cmd : Byte) => (mbReq s cmd m).drop 8
    let answers := fun (i : Instr) (s1 : State) (cmd : Byte) (r : MbAns) => exec i s = .next (mbFinish s1 (req cmd) r)
    let inHeldOrService := s.mgmt.state = .held ∨ s.mgmt.state = .service
    let later := { s with fresh := s.fresh + 1 }
    let asked := fun (ad : Dbl) (n : Nat) => emit s (.read 0 ad n)
    (ready 0x01 0 → answers (.getInfo m) s 0x01 { results := infoBytes s }) ∧
    (mbOpen s = true → mbBusy s 0x01 = true → exec (.getInfo m) s = .next { s with mgmt := { s.mgmt with overrun := true } }) ∧
    (mbOpen s = false → exec (.getInfo m) s = .next s) ∧
    (ready 0x0B 0 → s.mgmt.state = .service → answers (.resume m) s 0x0B { status := 2 }) ∧
    (ready 0x02 8 → inHeldOrService → m.dma = none → answers (.writeConfig m) (asked (dblAt (a 0x02) 0) 256) 0x02 { status := 4 }) ∧
    (ready 0x02 8 → inHeldOrService → ∀ b, m.dma = some b → b.length = 256 →
      let t := { asked (dblAt (a 0x02) 0) 256 with fresh := s.fresh + 1 }
      let bad := !cfgIntact b || cfgPartBad s.part b || cfgInvalid s.part b || !genAbove s b
      (bad = true → answers (.writeConfig m) (asked (dblAt (a 0x02) 0) 256) 0x02 { status := 3 }) ∧
      (bad = false → Config.choice s.fresh = false → answers (.writeConfig m) t 0x02 { status := 8 }) ∧
      (bad = false → Config.choice s.fresh = true → s.mgmt.state = .service → answers (.writeConfig m) (putConfig t b) 0x02 {})) ∧
    (ready 0x03 9 → inHeldOrService → byteAt (a 0x03) 8 = 0 → answers (.readConfig m) (dmaOut s 0 (dblAt (a 0x03) 0) (fit 256 s.store.cfgA)) 0x03 {}) ∧
    (ready 0x03 9 → inHeldOrService → byteAt (a 0x03) 8 = 1 → answers (.readConfig m) (dmaOut s 0 (dblAt (a 0x03) 0) (fit 256 s.store.cfgB)) 0x03 {}) ∧
    (ready 0x04 14 → heldFor s 0x06 = true → allZero (slice (a 0x04) 1 3) = true →
      let same := decide (byteAt (a 0x04) 0 = steppingByte) && decide (wordAt (a 0x04) 4 = s.store.fwVersion) && decide (wordAt (a 0x04) 8 = s.eng.patchId) && decide (halfAt (a 0x04) 12 = s.store.abi)
      (same = true → answers (.runUnqualified m) { s with mgmt := { s.mgmt with unqual := true } } 0x04 { after := .resumeAt 6 }) ∧
      (same = false → answers (.runUnqualified m) s 0x04 { status := 9 })) ∧
    (ready 0x05 8 → heldFor s 0x04 = true →
      (dblAt (a 0x05) 0 ≠ 0 → answers (.ledgerNew m) s 0x05 { status := 9 }) ∧
      (dblAt (a 0x05) 0 = 0 → Config.choice s.fresh = true → answers (.ledgerNew m) (newLedger later) 0x05 { after := .resumeAt 8 }) ∧
      (dblAt (a 0x05) 0 = 0 → Config.choice s.fresh = false → answers (.ledgerNew m) later 0x05 { status := 8 })) ∧
    (ready 0x06 24 → heldFor s 0x0A = true →
      (field (a 0x06) 16 8 ≠ s.recov.image.length → answers (.loadImage m) s 0x06 { status := 6 }) ∧
      (∀ b, m.dma = some b → field (a 0x06) 16 8 = s.recov.image.length →
        let r := takePiece (asked (dblAt (a 0x06) 0) (field (a 0x06) 8 8)) s.recov.image.length (fit (field (a 0x06) 8 8) b)
        answers (.loadImage m) r.1 0x06 r.2)) ∧
    (ready 0x07 12 → heldFor s 0x0A = true → ∀ b, m.dma = some b →
      let n := field (a 0x07) 8 4
      let r := takeBlocks (asked (dblAt (a 0x07) 0) (n * 65536)) none (pieces 65536 n (fit (n * 65536) b))
      answers (.loadBlocks m) r.1 0x07 r.2) ∧
    (ready 0x08 0 → heldFor s 0x0A = true →
      let t := replayRecs s (scanFrontier s) (windowRecs s.jn)
      let short := (t.recov.loaded && !t.recov.confirmed) || decide (t.recov.lastSeq < t.recov.e)
      (reachesWindow s = false → answers (.replayEnd m) s 0x08 { status := 6 }) ∧
      (reachesWindow s = true → short = true → answers (.replayEnd m) t 0x08 { status := 5 }) ∧
      (reachesWindow s = true → short = false →
        answers (.replayEnd m) (resolveXdev { t with recov := { t.recov with replayed := true } }) 0x08 { after := .resumeAt 10 })) ∧
    (ready 0x09 17 → s.mgmt.state = .service → allZero (slice (a 0x09) 2 6) = true → (byteAt (a 0x09) 16).toNat ≤ 1 →
      let held := s.fab.parts.find? fun e => e.2.src == field (a 0x09) 0 2 && e.2.xseq == field (a 0x09) 8 8 && decide (e.2.state = .prepared) && e.2.unknown
      let go := byteAt (a 0x09) 16 == 0
      (held = none → answers (.resolve m) s 0x09 { status := 3 }) ∧
      (∀ p v, held = some (p, v) → canAppend s [partDecisionRec v go] = true → answers (.resolve m) (logFault (partDecide s p go) 0x0B 3 v.src 0 v.xseq 0) 0x09 {})) ∧
    (ready 0x0A 0 → s.mgmt.state = .service →
      ∃ s', exec (.quiesce m) s = .next s' ∧ s'.mgmt.state = .quiescing ∧ s'.mgmt.quiesceFor = 0x0C ∧ s'.mgmt.running = some {} ∧ s'.led = s.led ∧ s'.jn = s.jn) ∧
    (s.mgmt.state = .quiescing → s.board.powerFail = false → drained s = true → (∀ b ∈ s.jn.blocks, b.state = .closed) →
      ∃ s', exec .quiesceDrained s = .next s' ∧ s'.mgmt.state = .held ∧ s'.mgmt.reason = s.mgmt.quiesceFor ∧ s'.led = s.led ∧ s'.jn = s.jn) ∧
    (s.mgmt.state = .quiescing → drained s = false → exec .quiesceDrained s = .next s) ∧
    (ready 0x0B 0 → heldFor s 0x0C = true → answers (.resume m) (returnToService s) 0x0B {}) ∧
    (ready 0x0C 0 → answers (.resetCmd m) s 0x0C { after := .warmReset }) ∧
    (ready 0x0D 24 →
      let kind := (byteAt (a 0x0D) 0).toNat
      let n := field (a 0x0D) 16 8
      1 ≤ kind → kind ≤ 3 → allZero (slice (a 0x0D) 1 7) = true → 1024 ≤ n → n ≤ slotSize kind → ∀ b, m.dma = some b →
      let t := asked (dblAt (a 0x0D) 8) n
      let u := { t with store := { t.store with flash := tput t.store.flash (spareSlot s kind) (fit n b) } }
      answers (.imageWrite m) u 0x0D { status := if imgVerifies u kind (fit n b) then 0 else 5 }) ∧
    (ready 0x0E 1 → inHeldOrService →
      (s.mgmt.unqual = true → answers (.svnCommit m) s 0x0E { status := 7 }) ∧
      (s.mgmt.unqual = false → (byteAt (a 0x0E) 0).toNat ≤ 7 →
        answers (.svnCommit m) (([1, 2, 3].filter fun k => bitOf (byteAt (a 0x0E) 0).toNat (k - 1)).foldl burnSvn s) 0x0E {})) ∧
    (ready 0x0F 128 → s.mgmt.state = .service → cwPresent (keyOf s 0) = false → cwGen (keyOf s 0) < (wordAt (a 0x0F) 76).toNat →
      exec (.opkeySet m) s = .next (match operatorKey s (a 0x0F) with
        | none => mbFinish s (req 0x0F) { status := 5 }
        | some key => if Config.choice s.fresh then mbFinish (installOperator later (wordAt (a 0x0F) 76) key) (req 0x0F) {} else mbFinish later (req 0x0F) { status := 8 })) ∧
    (ready 0x0F 128 → s.mgmt.state = .service → cwPresent (keyOf s 0) = true → answers (.opkeySet m) s 0x0F { status := 7 }) ∧
    (ready 0x10 0 → s.mgmt.state = .service →
      (Config.choice s.fresh = false → answers (.sealKeygen m) later 0x10 { status := 8 }) ∧
      (Config.choice s.fresh = true → ∃ (u : State) (k : KeyRec) (p : BitVec 256), answers (.sealKeygen m) u 0x10 {} ∧ u.store.sealKey = some k ∧ u.store.sealPriv = some p ∧
        k.alg = cfgSealAlg s ∧ k.keyId = (match s.store.sealKey with | some q => q.keyId | none => 0) + 1 ∧ u.led = s.led ∧ u.jn = s.jn)) ∧
    (ready 0x11 96 → s.mgmt.state = .held →
      (cfgDebugPermit s = false → answers (.debugOpen m) s 0x11 { status := 7 }) ∧
      (cfgDebugPermit s = true →
        let signed := Config.imageSigOk (Config.sha384 (le 8 Config.serial.toNat ++ le 8 s.store.debugNonce.toNat)) (slice (a 0x11) 0 96)
        (signed = false → answers (.debugOpen m) s 0x11 { status := 5 }) ∧
        (signed = true → ∃ u, answers (.debugOpen m) u 0x11 {} ∧ u.store.debugOpen = true ∧ u.mgmt.state = .held ∧ u.mgmt.reason = 0x0D ∧
          (∀ e ∈ u.guard.keys, e.2.cur = none ∧ e.2.other = none)))) ∧
    (ready 0x12 0 → heldFor s 0x0B = true →
      (m.dma = none → answers (.standbyJoin m) s 0x12 { status := 6 }) ∧
      (m.dma = some [] → ∃ u, answers (.standbyJoin m) u 0x12 {} ∧ u.mgmt.state = .service ∧ u.dup.stale = false ∧ u.dup.role = 2)) ∧
    (s.mgmt.running.isSome = true → exec .mailboxOverrun s = .next { s with mgmt := { s.mgmt with overrun := true } }) ∧
    (s.mgmt.running = none → s.mgmt.latched = none → exec .mailboxOverrun s = .next s) ∧
    (∀ r, s.mgmt.running = some r → r.resp ≠ [] →
      let t := { s with mgmt := { s.mgmt with resp := r.resp, done := true, running := none, latched := none } }
      (r.after = .nothing → r.silent = false → exec .mailboxCommandEnd s = .next (mailboxVector t)) ∧
      (r.after = .nothing → r.silent = true → exec .mailboxCommandEnd s = .next t) ∧
      (∀ n, r.after = .resumeAt n → r.silent = true → exec .mailboxCommandEnd s = .next (bootFrom t n)) ∧
      (r.after = .warmReset → r.silent = true → exec .mailboxCommandEnd s = .next (dieReset { t with mgmt := { t.mgmt with rstMailbox := min 65535 (t.mgmt.rstMailbox + 1) } } 2)))

/-- Writes of registers by their addresses, and some reads (R15, R16, R17, R187, R202, R221, R465, R484, R485, R532, Tables 3.9, 4.6, 5.8, 5.12, 5.20, 11.7, 12.15, 13.2, 14.10). A register takes what is written to it, but for
what its table says a unit's ENABLE bars; flags are cleared by ones; GO copies the request or is an overrun. A place that holds no register takes nothing and reads as zero.
Where the spec leaves a point open this rests on the model's choice (log entries 51, 53, 111). -/
def Obligations.RegisterWrites : Prop :=
  ∀ (s : State) (v : Dbl),
    (∀ r, ∃ s', exec (.registerWrite r v) s = .next s') ∧
    (∀ off, off < 0xA0000 → (off < 0x1000 ∨ off % 8 ≠ 0) → exec (.registerWrite (.mgmt off) v) s = .next s) ∧ (∀ off, 0x2000 ≤ off → off < 0x6000 → exec (.registerWrite (.mgmt off) v) s = .next s) ∧
    (∀ off, 0xC0000 ≤ off → exec (.registerWrite (.mgmt off) v) s = .next s) ∧ (∀ f off, fnExists s.part f = false ∨ off % 8 ≠ 0 → exec (.registerWrite (.setup f off) v) s = .next s) ∧
    -- the mailbox
    (let t := { s with mgmt := { s.mgmt with irqEn := v.getLsbD 3, overrun := s.mgmt.overrun && !v.getLsbD 2, done := s.mgmt.done && !v.getLsbD 1 } }
     let q := (List.range 256).map fun i => tgetD s.mgmt.req i 0
     let busy := s.mgmt.running.isSome || s.mgmt.latched.isSome
     (v.getLsbD 0 = false ∨ mbOpen s = false → exec (.registerWrite (.mgmt 0x1008) v) s = .next t) ∧
     (v.getLsbD 0 = true → mbOpen s = true → busy = true → exec (.registerWrite (.mgmt 0x1008) v) s = .next { t with mgmt := { t.mgmt with overrun := true } }) ∧
     (v.getLsbD 0 = true → mbOpen s = true → busy = false → 1 ≤ (byteAt q 0).toNat → (byteAt q 0).toNat ≤ 0x12 →
       exec (.registerWrite (.mgmt 0x1008) v) s = .next { t with mgmt := { t.mgmt with latched := some q } }) ∧
     (v.getLsbD 0 = true → mbOpen s = true → busy = false → (byteAt q 0 = 0 ∨ 0x12 < (byteAt q 0).toNat) →
       exec (.registerWrite (.mgmt 0x1008) v) s = .next { t with mgmt := { t.mgmt with latched := some q, running := some { resp := respBytes q { status := 1 } } } })) ∧
    (∀ n, n < 32 → ∃ s', exec (.registerWrite (.mgmt (0x1100 + 8 * n)) v) s = .next s' ∧ s'.led = s.led ∧ s'.jn = s.jn ∧ s'.mgmt.latched = s.mgmt.latched ∧
      (twf s.mgmt.req = true → ∀ i, (i < 8 → tgetD s'.mgmt.req (8 * n + i) 0 = v.extractLsb' (8 * i) 8) ∧
        (i < 8 * n ∨ 8 * n + 8 ≤ i → tgetD s'.mgmt.req i 0 = tgetD s.mgmt.req i 0))) ∧
    -- the fault log and the violation log
    (s.mgmt.flogEnable = false → exec (.registerWrite (.mgmt 0x1300) v) s = .next { s with mgmt := { s.mgmt with flogBase := v &&& 0xFFFFFFFFFFFFF000#64 } }) ∧
    (s.mgmt.flogEnable = true → exec (.registerWrite (.mgmt 0x1300) v) s = .next s) ∧
    (s.host.vlogEnable = false → exec (.registerWrite (.mgmt 0x8100) v) s = .next { s with host := { s.host with vlogBase := v &&& 0xFFFFFFFFFFFFF000#64 } }) ∧
    (s.host.vlogEnable = true → exec (.registerWrite (.mgmt 0x8100) v) s = .next s) ∧
    exec (.registerWrite (.mgmt 0x8208) v) s = .next { s with host := { s.host with mapErr := s.host.mapErr && !v.getLsbD 0 } } ∧
    -- the journal and the engines
    (s.jn.enable = false → exec (.registerWrite (.mgmt 0x6008) v) s = .next { s with jn := { s.jn with drainBase := v &&& 0xFFFFFFFFFFFF0000#64 } } ∧
      exec (.registerWrite (.mgmt 0x6010) v) s = .next { s with jn := { s.jn with wmAddr := v &&& 0xFFFFFFFFFFFFFFF8#64 } }) ∧
    (s.jn.enable = true → exec (.registerWrite (.mgmt 0x6008) v) s = .next s ∧ exec (.registerWrite (.mgmt 0x6010) v) s = .next s) ∧
    exec (.registerWrite (.mgmt 0x6018) v) s = .next { s with jn := { s.jn with sealFault := s.jn.sealFault && !v.getLsbD 6, cfgErr := s.jn.cfgErr && !v.getLsbD 3, wmErr := s.jn.wmErr && !v.getLsbD 2 } } ∧
    (s.eng.traceEnable = false → exec (.registerWrite (.mgmt 0x7208) v) s = .next { s with eng := { s.eng with traceBase := v &&& 0xFFFFFFFFFFFFF000#64 } }) ∧
    (s.eng.traceEnable = true → exec (.registerWrite (.mgmt 0x7208) v) s = .next s) ∧ exec (.registerWrite (.mgmt 0x7218) v) s = .next { s with eng := { s.eng with traceFilter := v &&& ~~~0x0000800100000000#64 } } ∧
    -- memory
    exec (.registerWrite (.mgmt 0xA010) v) s = .next { s with mem := { s.mem with ueValid := s.mem.ueValid && !v.getLsbD 63, ueOvf := s.mem.ueOvf && !v.getLsbD 62 } } ∧
    (v.extractLsb' 8 8 ≠ 0 → exec (.registerWrite (.mgmt 0xA018) v) s = .next { s with mem := { s.mem with scrubHours := (v.extractLsb' 8 8).toNat, scrubEn := v.getLsbD 0 } }) ∧
    -- the fabric
    (s.fab.enable = true → exec (.registerWrite (.mgmt 0xB000) v) s = .next s ∧ (∀ d, d < 32 → exec (.registerWrite (.mgmt (0xB100 + 8 * d)) v) s = .next s) ∧ (∀ k, k < 8192 → exec (.registerWrite (.mgmt (0x90000 + 8 * k)) v) s = .next s) ∧
      (∀ k, k < 65536 → exec (.registerWrite (.mgmt (0xA0000 + 2 * k)) v) s = .next s)) ∧
    (s.fab.enable = false → exec (.registerWrite (.mgmt 0xB000) v) s = .next { s with fab := { s.fab with device := (v.extractLsb' 0 10).toNat } } ∧
      (∀ d, d < 32 → exec (.registerWrite (.mgmt (0xB100 + 8 * d)) v) s = .next { s with fab := { s.fab with routes := tset s.fab.routes d 0 (v.setWidth 16 &&& 0xBFBF#16) } }) ∧
      (∀ k, k ≤ maxTenant s.part → exec (.registerWrite (.mgmt (0x90000 + 8 * k)) v) s = .next { s with fab := { s.fab with place := tput s.fab.place k (v &&& 0x83FFFFFF000007FF#64) } }) ∧
      (∀ k, k < 65536 → exec (.registerWrite (.mgmt (0xA0000 + 2 * k)) v) s = .next { s with fab := { s.fab with shard := tset s.fab.shard k 0 (v.setWidth 16 &&& 0x07FF#16) } })) ∧
    exec (.registerWrite (.mgmt 0xB010) v) s = .next
      { s with fab := { s.fab with timeErr := s.fab.timeErr && !v.getLsbD 3, epochErr := s.fab.epochErr && !v.getLsbD 2, abandon := s.fab.abandon && !v.getLsbD 1, cfgErr := s.fab.cfgErr && !v.getLsbD 0 } } ∧
    -- the board
    exec (.registerWrite (.mgmt 0xD808) v) s = .next { s with board := { s.board with wasHot := s.board.wasHot && !v.getLsbD 2 } } ∧
    (60 ≤ (v.extractLsb' 0 8).toNat → (v.extractLsb' 0 8).toNat ≤ 115 → exec (.registerWrite (.mgmt 0xD810) v) s = .next { s with board := { s.board with thermHi := (v.extractLsb' 0 8).toNat } }) ∧
    ((v.extractLsb' 0 8).toNat < 60 ∨ 115 < (v.extractLsb' 0 8).toNat → exec (.registerWrite (.mgmt 0xD810) v) s = .next s) ∧
    exec (.registerWrite (.mgmt 0xD818) v) s = .next { s with board := { s.board with railLow := s.board.railLow &&& ~~~(v.extractLsb' 16 9) } } ∧
    exec (.registerWrite (.mgmt 0xD820) v) s = .next { s with board := { s.board with tbLost := s.board.tbLost && !v.getLsbD 1 } } ∧
    -- functions and trays
    (∀ f, fnExists s.part f = true →
      let fn := fnOf s f
      (fn.dbEnable = true → exec (.registerWrite (.setup f 0x08) v) s = .next s) ∧ (fn.dbEnable = false → exec (.registerWrite (.setup f 0x08) v) s = .next (setFn s f { fn with dbBase := v &&& 0xFFFFFFFFFFFFF000#64 })) ∧
      exec (.registerWrite (.setup f 0x20) v) s = .next (setFn s f { fn with dbViol := fn.dbViol && !v.getLsbD 1, dbErr := fn.dbErr && !v.getLsbD 0 }) ∧
      (∀ t, t < 2048 → trayExists s f t = false → ∀ r, r < 8 → exec (.registerWrite (.setup f (0x20000 + 64 * t + 8 * r)) v) s = .next s) ∧
      (∀ t, t < 2048 → trayExists s f t = true →
        let x := trayOf s f t
        (x.enable = true → exec (.registerWrite (.setup f (0x20000 + 64 * t + 0x08)) v) s = .next s ∧ exec (.registerWrite (.setup f (0x20000 + 64 * t + 0x10)) v) s = .next s ∧ exec (.registerWrite (.setup f (0x20000 + 64 * t + 0x18)) v) s = .next s) ∧
        (x.enable = false → exec (.registerWrite (.setup f (0x20000 + 64 * t + 0x08)) v) s = .next (setTray s f t { x with crBase := v &&& 0xFFFFFFFFFFFFF000#64 }) ∧
          exec (.registerWrite (.setup f (0x20000 + 64 * t + 0x10)) v) s = .next (setTray s f t { x with cqBase := v &&& 0xFFFFFFFFFFFFF000#64 }) ∧
          exec (.registerWrite (.setup f (0x20000 + 64 * t + 0x18)) v) s = .next (setTray s f t { x with cfg := v &&& 0xFFFF0FFFFFFFFFFF#64 })) ∧
        exec (.registerWrite (.setup f (0x20000 + 64 * t + 0x20)) v) s = .next (setTray s f t { x with cfgErr := x.cfgErr && !v.getLsbD 8 })) ∧
      (v.getLsbD 0 = true →
        exec (.registerWrite (.fnMask f) v) s = .next (setFn s f { fn with fnMasked := true }) ∧
        ∀ n, n < 2048 → exec (.registerWrite (.msixMask f n) v) s = .next (setFn s f { fn with unmasked := fn.unmasked.filter fun m => m != n })) ∧
      (v.getLsbD 0 = false →
        exec (.registerWrite (.fnMask f) v) s = .next (sendPending (setFn s f { fn with fnMasked := false }) f) ∧
        ∀ n, n < 2048 → exec (.registerWrite (.msixMask f n) v) s = .next (sendPending (setFn s f { fn with unmasked := insertUp n fn.unmasked }) f))) ∧
    -- what reads return
    (∀ off, off < 0x1000 ∨ off % 8 ≠ 0 ∨ 0xC0000 ≤ off → readMgmt s off = 0) ∧ (∀ off ∈ [0x6050, 0x7008, 0x8200, 0x9A00, 0xB020], readMgmt s off = 0) ∧
    (∀ f off, readPush s f off = 0) ∧
    (s.jn.enable = false → (∃ s', exec (.registerWrite (.mgmt 0x6008) v) s = .next s' ∧ readMgmt s' 0x6008 = v &&& 0xFFFFFFFFFFFF0000#64)) ∧
    (∀ f t r, fnExists s.part f = true → t < 2048 → r < 8 → trayExists s f t = false → readSetup s f (0x20000 + 64 * t + 8 * r) = 0) ∧ (∀ f, readSetup s f 0x18 = 0)

/-- An accepted posting of local legs, applied to books whose accounts all satisfy R40, leaves them so and conserves each currency's total (R40, R42, R52, R62): every account rises by the sum of its own legs,
holds, suspense counters and the set of accounts stay. The premise on LAST_SEQ says that the record is newer than every account (R39).
Where the spec leaves a point open this rests on the model's choice (log entry 83). -/
def Obligations.AcceptedPostingsKeepTheBooks : Prop :=
  ∀ (l l' : Ledger) (legs : List Leg) (seq : Nat),
    let total := fun (x : Ledger) (cur : Half) => ((x.accounts.filter fun e => decide (e.2.currency = cur)).map fun e => e.2.ledger).sum
    let moved := fun (k : Nat) => ((legs.filter fun g => decide (g.account.toNat = k)).map fun g => g.amount).sum
    let b := postEffect l seq (numberLegs 0 legs)
    twf l.accounts = true → (∀ e ∈ l.accounts, inconsistency e.2 e.1 = none ∧ e.2.lastSeq < seq) → postingRule legs = none →
    evalLegs l (numberLegs 0 legs) = .inl l' →
    (∀ cur, total b cur = total l cur) ∧ (∀ e ∈ b.accounts, inconsistency e.2 e.1 = none) ∧ b.accounts.map (·.1) = l.accounts.map (·.1) ∧
    (∀ k a, tget l.accounts k = some a → ∃ a', tget b.accounts k = some a' ∧ a'.ledger = a.ledger + moved k ∧ a'.avail = a.avail + moved k ∧ a'.holds = a.holds ∧
      a'.currency = a.currency ∧ a'.flags = a.flags) ∧
    (∀ k, (∀ g ∈ legs, g.account.toNat ≠ k) → tget b.accounts k = tget l.accounts k) ∧
    b.holds = l.holds ∧ b.suspense = l.suspense ∧ b.reversal = l.reversal ∧ b.day = l.day

/-- General registers, pairs and memory read back what was written (R295, R298): register 0 reads as zero and takes nothing; no legal word names a pair by an odd register; a write of a register leaves every other one, and a write of bytes every
byte outside them. The premise is the canonical form, which every writer keeps. -/
def Obligations.RegistersAndMemoryReadBack : Prop :=
  (∀ (x : Frame) (n m : Nat) (v : Word), twf x.g = true →
    gReg (setG x n v) m = (if m = n ∧ n ≠ 0 then v else gReg x m) ∧ twf (setG x n v).g = true ∧ gReg x 0 = 0 ∧ setG x 0 v = x) ∧
  (∀ (x : Frame) (n : Nat) (v : Dbl), twf x.g = true → n ≠ 0 → gPair (setPair x n v) n = v) ∧
  (∀ (x : Frame) (n : Nat), (gPair x n).setWidth 32 = gReg x n ∧ (gPair x n).extractLsb' 32 32 = gReg x (n + 1) ∧ (gPair x 0).setWidth 32 = (0 : Word)) ∧
  (∀ (x : Frame) (v : Dbl), setPair x 0 v = setG x 1 (v.extractLsb' 32 32)) ∧
  (∀ (w : Word) (o : LOp), decode w = some o → ∀ n ∈ pairsNamed o w, n % 2 = 0) ∧
  (∀ (s : State) (a : Nat) (b : Bytes), MemWf s →
    MemWf (setMemBytes s a b) ∧ (∀ i (h : i < b.length), byteOf (setMemBytes s a b) (a + i) = b[i]) ∧
    (∀ k, k < a ∨ a + b.length ≤ k → byteOf (setMemBytes s a b) k = byteOf s k) ∧
    memBytes (setMemBytes s a b) a b.length = b)

end
end

