-- ==== Sys2Proof/Laws/Tbl.lean ====
section
/-! SUPPORT. What reading a sparse table gives after a write, and that writes keep its canonical form. -/
namespace Sys2Proof.Machine
set_option Elab.async false

variable {α : Type}

@[simp] theorem tget_nil (k : Nat) : tget ([] : Tbl α) k = none := rfl

theorem tget_cons (k k' : Nat) (v : α) (r : Tbl α) : tget ((k', v) :: r) k = if k = k' then some v else tget r k := rfl

/-- Reading the key that was listed. -/
@[simp] theorem tget_tput_same (t : Tbl α) (k : Nat) (v : α) : tget (tput t k v) k = some v := by
  induction t with
  | nil => simp [tput, tget]
  | cons e r ih =>
    obtain ⟨k', v'⟩ := e
    simp only [tput]
    split
    · simp [tget]
    · split
      · simp [tget]
      · rename_i h; simp [tget, h, ih]

/-- Reading any other key. -/
theorem tget_tput_other (t : Tbl α) {k m : Nat} (v : α) (h : m ≠ k) : tget (tput t k v) m = tget t m := by
  induction t with
  | nil => simp [tput, tget, h]
  | cons e r ih =>
    obtain ⟨k', v'⟩ := e
    simp only [tput]
    split
    · simp [tget, h]
    · split
      · subst_vars; simp [tget, h]
      · simp [tget, ih]

theorem tget_tput (t : Tbl α) (k m : Nat) (v : α) : tget (tput t k v) m = if m = k then some v else tget t m := by
  split
  · subst_vars; simp
  · exact tget_tput_other t v ‹_›

/-- No key below the first is listed. -/
theorem tget_of_twfFrom (t : Tbl α) {lo k : Nat} (h : twfFrom lo t = true) (hk : k < lo) : tget t k = none := by
  induction t generalizing lo with
  | nil => rfl
  | cons e r ih =>
    obtain ⟨k', v'⟩ := e
    simp only [twfFrom, Bool.and_eq_true, decide_eq_true_eq] at h
    simp only [tget]
    rw [if_neg (by omega)]
    exact ih h.2 (by omega)

theorem twfFrom_mono (t : Tbl α) {lo lo' : Nat} (h : twfFrom lo t = true) (hl : lo' ≤ lo) : twfFrom lo' t = true := by
  cases t with
  | nil => rfl
  | cons e r =>
    simp only [twfFrom, Bool.and_eq_true, decide_eq_true_eq] at h ⊢
    exact ⟨by omega, h.2⟩

theorem twfFrom_tput (t : Tbl α) {lo k : Nat} (v : α) (h : twfFrom lo t = true) (hk : lo ≤ k) : twfFrom lo (tput t k v) = true := by
  induction t generalizing lo with
  | nil => simp [tput, twfFrom, hk]
  | cons e r ih =>
    obtain ⟨k', v'⟩ := e
    simp only [twfFrom, Bool.and_eq_true, decide_eq_true_eq] at h
    simp only [tput]
    split
    · simp only [twfFrom, Bool.and_eq_true, decide_eq_true_eq]; exact ⟨hk, by omega, h.2⟩
    · split
      · subst_vars; simp only [twfFrom, Bool.and_eq_true, decide_eq_true_eq]; exact h
      · simp only [twfFrom, Bool.and_eq_true, decide_eq_true_eq]; exact ⟨h.1, ih h.2 (by omega)⟩

/-- Listing a key keeps the keys strictly rising. -/
theorem twf_tput (t : Tbl α) (k : Nat) (v : α) (h : twf t = true) : twf (tput t k v) = true :=
  twfFrom_tput t v h (Nat.zero_le k)

theorem twfFrom_tdel (t : Tbl α) {lo : Nat} (k : Nat) (h : twfFrom lo t = true) : twfFrom lo (tdel t k) = true := by
  induction t generalizing lo with
  | nil => rfl
  | cons e r ih =>
    obtain ⟨k', v'⟩ := e
    simp only [twfFrom, Bool.and_eq_true, decide_eq_true_eq] at h
    simp only [tdel]
    split
    · exact twfFrom_mono r h.2 (by omega)
    · split
      · simp only [twfFrom, Bool.and_eq_true, decide_eq_true_eq]; exact h
      · simp only [twfFrom, Bool.and_eq_true, decide_eq_true_eq]; exact ⟨h.1, ih h.2⟩

/-- Taking a key out keeps the keys strictly rising. -/
theorem twf_tdel (t : Tbl α) (k : Nat) (h : twf t = true) : twf (tdel t k) = true := twfFrom_tdel t k h

theorem tget_tdel_from (t : Tbl α) {lo : Nat} (k m : Nat) (h : twfFrom lo t = true) : tget (tdel t k) m = if m = k then none else tget t m := by
  induction t generalizing lo with
  | nil => simp [tdel]
  | cons e r ih =>
    obtain ⟨k', v'⟩ := e
    simp only [twfFrom, Bool.and_eq_true, decide_eq_true_eq] at h
    simp only [tdel]
    split
    · subst_vars
      by_cases hm : m = k'
      · subst hm; simp only [if_true]; exact tget_of_twfFrom r h.2 (by omega)
      · simp [tget, hm]
    · split
      · by_cases hm : m = k
        · subst hm
          simp only [tget, if_true]
          rw [if_neg (by omega)]
          exact tget_of_twfFrom r h.2 (by omega)
        · simp [hm]
      · simp only [tget, ih h.2]
        by_cases hm : m = k'
        · subst hm; rw [if_pos rfl, if_pos rfl, if_neg (by omega)]
        · simp [hm]

/-- Reading after a key is taken out of a table whose keys strictly rise. -/
theorem tget_tdel (t : Tbl α) (k m : Nat) (h : twf t = true) : tget (tdel t k) m = if m = k then none else tget t m :=
  tget_tdel_from t k m h

variable [DecidableEq α]

/-- Reading after a write of a table with a default. -/
theorem tgetD_tset (t : Tbl α) (k m : Nat) (d v : α) (h : twf t = true) : tgetD (tset t k d v) m d = if m = k then v else tgetD t m d := by
  simp only [tgetD, tset]
  split
  · subst_vars
    rw [tget_tdel t k m h]
    split <;> simp
  · rw [tget_tput]
    split <;> simp

omit [DecidableEq α] in
@[simp] theorem tgetD_nil (k : Nat) (d : α) : tgetD [] k d = d := rfl

/-- A write of a value that is not the default reads back in any table. -/
theorem tgetD_tset_same (t : Tbl α) (k : Nat) {d v : α} (h : v ≠ d) : tgetD (tset t k d v) k d = v := by
  simp [tgetD, tset, h]

/-- A write keeps the keys strictly rising. -/
theorem twf_tset (t : Tbl α) (k : Nat) (d v : α) (h : twf t = true) : twf (tset t k d v) = true := by
  simp only [tset]
  split
  · exact twf_tdel t k h
  · exact twf_tput t k v h

theorem tnodef_tput (t : Tbl α) (k : Nat) (d v : α) (h : tnodef t d = true) (hv : v ≠ d) : tnodef (tput t k v) d = true := by
  induction t with
  | nil => simp [tput, tnodef, hv]
  | cons e r ih =>
    obtain ⟨k', v'⟩ := e
    simp only [tnodef, List.all_cons, Bool.and_eq_true, decide_eq_true_eq] at h ih
    simp only [tput]
    split
    · simp only [tnodef, List.all_cons, Bool.and_eq_true, decide_eq_true_eq]; exact ⟨hv, h.1, h.2⟩
    · split
      · simp only [tnodef, List.all_cons, Bool.and_eq_true, decide_eq_true_eq]; exact ⟨hv, h.2⟩
      · simp only [tnodef, List.all_cons, Bool.and_eq_true, decide_eq_true_eq]; exact ⟨h.1, ih h.2⟩

theorem tnodef_tdel (t : Tbl α) (k : Nat) (d : α) (h : tnodef t d = true) : tnodef (tdel t k) d = true := by
  induction t with
  | nil => rfl
  | cons e r ih =>
    obtain ⟨k', v'⟩ := e
    simp only [tnodef, List.all_cons, Bool.and_eq_true, decide_eq_true_eq] at h ih
    simp only [tdel]
    split
    · exact h.2
    · split
      · simp only [tnodef, List.all_cons, Bool.and_eq_true, decide_eq_true_eq]; exact h
      · simp only [tnodef, List.all_cons, Bool.and_eq_true, decide_eq_true_eq]; exact ⟨h.1, ih h.2⟩

/-- A write through `tset` lists no default. -/
theorem tnodef_tset (t : Tbl α) (k : Nat) (d v : α) (h : tnodef t d = true) : tnodef (tset t k d v) d = true := by
  simp only [tset]
  split
  · exact tnodef_tdel t k d h
  · exact tnodef_tput t k d v h ‹_›

omit [DecidableEq α] in
/-- Reading after every entry is changed. -/
theorem tget_tmap (t : Tbl α) (f : Nat → α → α) (k : Nat) : tget (tmap t f) k = (tget t k).map (f k) := by
  induction t with
  | nil => rfl
  | cons e r ih =>
    obtain ⟨k', v'⟩ := e
    simp only [tmap, List.map_cons, tget] at ih ⊢
    split
    · subst_vars; rfl
    · exact ih

end Sys2Proof.Machine
end

