-- ==== Sys2Proof/Laws/State.lean ====
section
/-! SUPPORT. Reading State after the named updates: one lemma for each field that an update leaves, and one for what it writes. -/
namespace Sys2Proof.Machine
set_option Elab.async false

variable (s : State)

/-! `emit`. -/

@[simp] theorem emit_pending (o : Out) : (emit s o).pending = s.pending := rfl
@[simp] theorem emit_part (o : Out) : (emit s o).part = s.part := rfl
@[simp] theorem emit_tb (o : Out) : (emit s o).tb = s.tb := rfl
@[simp] theorem emit_tbHold (o : Out) : (emit s o).tbHold = s.tbHold := rfl
@[simp] theorem emit_led (o : Out) : (emit s o).led = s.led := rfl
@[simp] theorem emit_jn (o : Out) : (emit s o).jn = s.jn := rfl
@[simp] theorem emit_guard (o : Out) : (emit s o).guard = s.guard := rfl
@[simp] theorem emit_eng (o : Out) : (emit s o).eng = s.eng := rfl
@[simp] theorem emit_locks (o : Out) : (emit s o).locks = s.locks := rfl
@[simp] theorem emit_tk (o : Out) : (emit s o).tk = s.tk := rfl
@[simp] theorem emit_host (o : Out) : (emit s o).host = s.host := rfl
@[simp] theorem emit_ev (o : Out) : (emit s o).ev = s.ev := rfl
@[simp] theorem emit_cores (o : Out) : (emit s o).cores = s.cores := rfl
@[simp] theorem emit_mem (o : Out) : (emit s o).mem = s.mem := rfl
@[simp] theorem emit_fab (o : Out) : (emit s o).fab = s.fab := rfl
@[simp] theorem emit_dup (o : Out) : (emit s o).dup = s.dup := rfl
@[simp] theorem emit_mgmt (o : Out) : (emit s o).mgmt = s.mgmt := rfl
@[simp] theorem emit_store (o : Out) : (emit s o).store = s.store := rfl
@[simp] theorem emit_recov (o : Out) : (emit s o).recov = s.recov := rfl
@[simp] theorem emit_board (o : Out) : (emit s o).board = s.board := rfl
@[simp] theorem emit_hw (o : Out) : (emit s o).hw = s.hw := rfl
@[simp] theorem emit_fresh (o : Out) : (emit s o).fresh = s.fresh := rfl

/-! `dmaOut`. -/

@[simp] theorem dmaOut_pending (n : Nat) (a : Dbl) (b : Bytes) : (dmaOut s n a b).pending = s.pending := rfl
@[simp] theorem dmaOut_part (n : Nat) (a : Dbl) (b : Bytes) : (dmaOut s n a b).part = s.part := rfl
@[simp] theorem dmaOut_tb (n : Nat) (a : Dbl) (b : Bytes) : (dmaOut s n a b).tb = s.tb := rfl
@[simp] theorem dmaOut_tbHold (n : Nat) (a : Dbl) (b : Bytes) : (dmaOut s n a b).tbHold = s.tbHold := rfl
@[simp] theorem dmaOut_led (n : Nat) (a : Dbl) (b : Bytes) : (dmaOut s n a b).led = s.led := rfl
@[simp] theorem dmaOut_jn (n : Nat) (a : Dbl) (b : Bytes) : (dmaOut s n a b).jn = s.jn := rfl
@[simp] theorem dmaOut_guard (n : Nat) (a : Dbl) (b : Bytes) : (dmaOut s n a b).guard = s.guard := rfl
@[simp] theorem dmaOut_eng (n : Nat) (a : Dbl) (b : Bytes) : (dmaOut s n a b).eng = s.eng := rfl
@[simp] theorem dmaOut_locks (n : Nat) (a : Dbl) (b : Bytes) : (dmaOut s n a b).locks = s.locks := rfl
@[simp] theorem dmaOut_tk (n : Nat) (a : Dbl) (b : Bytes) : (dmaOut s n a b).tk = s.tk := rfl
@[simp] theorem dmaOut_host (n : Nat) (a : Dbl) (b : Bytes) : (dmaOut s n a b).host = s.host := rfl
@[simp] theorem dmaOut_ev (n : Nat) (a : Dbl) (b : Bytes) : (dmaOut s n a b).ev = s.ev := rfl
@[simp] theorem dmaOut_cores (n : Nat) (a : Dbl) (b : Bytes) : (dmaOut s n a b).cores = s.cores := rfl
@[simp] theorem dmaOut_mem (n : Nat) (a : Dbl) (b : Bytes) : (dmaOut s n a b).mem = s.mem := rfl
@[simp] theorem dmaOut_fab (n : Nat) (a : Dbl) (b : Bytes) : (dmaOut s n a b).fab = s.fab := rfl
@[simp] theorem dmaOut_dup (n : Nat) (a : Dbl) (b : Bytes) : (dmaOut s n a b).dup = s.dup := rfl
@[simp] theorem dmaOut_mgmt (n : Nat) (a : Dbl) (b : Bytes) : (dmaOut s n a b).mgmt = s.mgmt := rfl
@[simp] theorem dmaOut_store (n : Nat) (a : Dbl) (b : Bytes) : (dmaOut s n a b).store = s.store := rfl
@[simp] theorem dmaOut_recov (n : Nat) (a : Dbl) (b : Bytes) : (dmaOut s n a b).recov = s.recov := rfl
@[simp] theorem dmaOut_board (n : Nat) (a : Dbl) (b : Bytes) : (dmaOut s n a b).board = s.board := rfl
@[simp] theorem dmaOut_hw (n : Nat) (a : Dbl) (b : Bytes) : (dmaOut s n a b).hw = s.hw := rfl
@[simp] theorem dmaOut_fresh (n : Nat) (a : Dbl) (b : Bytes) : (dmaOut s n a b).fresh = s.fresh := rfl

/-! `msixOut`. -/

@[simp] theorem msixOut_pending (f n : Nat) : (msixOut s f n).pending = s.pending := by unfold msixOut; split <;> rfl
@[simp] theorem msixOut_part (f n : Nat) : (msixOut s f n).part = s.part := by unfold msixOut; split <;> rfl
@[simp] theorem msixOut_tb (f n : Nat) : (msixOut s f n).tb = s.tb := by unfold msixOut; split <;> rfl
@[simp] theorem msixOut_tbHold (f n : Nat) : (msixOut s f n).tbHold = s.tbHold := by unfold msixOut; split <;> rfl
@[simp] theorem msixOut_led (f n : Nat) : (msixOut s f n).led = s.led := by unfold msixOut; split <;> rfl
@[simp] theorem msixOut_jn (f n : Nat) : (msixOut s f n).jn = s.jn := by unfold msixOut; split <;> rfl
@[simp] theorem msixOut_guard (f n : Nat) : (msixOut s f n).guard = s.guard := by unfold msixOut; split <;> rfl
@[simp] theorem msixOut_eng (f n : Nat) : (msixOut s f n).eng = s.eng := by unfold msixOut; split <;> rfl
@[simp] theorem msixOut_locks (f n : Nat) : (msixOut s f n).locks = s.locks := by unfold msixOut; split <;> rfl
@[simp] theorem msixOut_tk (f n : Nat) : (msixOut s f n).tk = s.tk := by unfold msixOut; split <;> rfl
@[simp] theorem msixOut_host (f n : Nat) : (msixOut s f n).host = s.host := by unfold msixOut; split <;> rfl
@[simp] theorem msixOut_ev (f n : Nat) : (msixOut s f n).ev = s.ev := by unfold msixOut; split <;> rfl
@[simp] theorem msixOut_cores (f n : Nat) : (msixOut s f n).cores = s.cores := by unfold msixOut; split <;> rfl
@[simp] theorem msixOut_mem (f n : Nat) : (msixOut s f n).mem = s.mem := by unfold msixOut; split <;> rfl
@[simp] theorem msixOut_fab (f n : Nat) : (msixOut s f n).fab = s.fab := by unfold msixOut; split <;> rfl
@[simp] theorem msixOut_dup (f n : Nat) : (msixOut s f n).dup = s.dup := by unfold msixOut; split <;> rfl
@[simp] theorem msixOut_mgmt (f n : Nat) : (msixOut s f n).mgmt = s.mgmt := by unfold msixOut; split <;> rfl
@[simp] theorem msixOut_store (f n : Nat) : (msixOut s f n).store = s.store := by unfold msixOut; split <;> rfl
@[simp] theorem msixOut_recov (f n : Nat) : (msixOut s f n).recov = s.recov := by unfold msixOut; split <;> rfl
@[simp] theorem msixOut_board (f n : Nat) : (msixOut s f n).board = s.board := by unfold msixOut; split <;> rfl
@[simp] theorem msixOut_hw (f n : Nat) : (msixOut s f n).hw = s.hw := by unfold msixOut; split <;> rfl
@[simp] theorem msixOut_fresh (f n : Nat) : (msixOut s f n).fresh = s.fresh := by unfold msixOut; split <;> rfl

/-! `takeFree`. -/

@[simp] theorem takeFree_pending (w : Nat) : ((takeFree w s).2).pending = s.pending := rfl
@[simp] theorem takeFree_part (w : Nat) : ((takeFree w s).2).part = s.part := rfl
@[simp] theorem takeFree_tb (w : Nat) : ((takeFree w s).2).tb = s.tb := rfl
@[simp] theorem takeFree_tbHold (w : Nat) : ((takeFree w s).2).tbHold = s.tbHold := rfl
@[simp] theorem takeFree_led (w : Nat) : ((takeFree w s).2).led = s.led := rfl
@[simp] theorem takeFree_jn (w : Nat) : ((takeFree w s).2).jn = s.jn := rfl
@[simp] theorem takeFree_guard (w : Nat) : ((takeFree w s).2).guard = s.guard := rfl
@[simp] theorem takeFree_eng (w : Nat) : ((takeFree w s).2).eng = s.eng := rfl
@[simp] theorem takeFree_locks (w : Nat) : ((takeFree w s).2).locks = s.locks := rfl
@[simp] theorem takeFree_tk (w : Nat) : ((takeFree w s).2).tk = s.tk := rfl
@[simp] theorem takeFree_host (w : Nat) : ((takeFree w s).2).host = s.host := rfl
@[simp] theorem takeFree_ev (w : Nat) : ((takeFree w s).2).ev = s.ev := rfl
@[simp] theorem takeFree_cores (w : Nat) : ((takeFree w s).2).cores = s.cores := rfl
@[simp] theorem takeFree_mem (w : Nat) : ((takeFree w s).2).mem = s.mem := rfl
@[simp] theorem takeFree_fab (w : Nat) : ((takeFree w s).2).fab = s.fab := rfl
@[simp] theorem takeFree_dup (w : Nat) : ((takeFree w s).2).dup = s.dup := rfl
@[simp] theorem takeFree_mgmt (w : Nat) : ((takeFree w s).2).mgmt = s.mgmt := rfl
@[simp] theorem takeFree_store (w : Nat) : ((takeFree w s).2).store = s.store := rfl
@[simp] theorem takeFree_recov (w : Nat) : ((takeFree w s).2).recov = s.recov := rfl
@[simp] theorem takeFree_board (w : Nat) : ((takeFree w s).2).board = s.board := rfl
@[simp] theorem takeFree_hw (w : Nat) : ((takeFree w s).2).hw = s.hw := rfl
@[simp] theorem takeFree_out (w : Nat) : ((takeFree w s).2).out = s.out := rfl

/-! `takeDraw`. -/

@[simp] theorem takeDraw_pending (w : Nat) : ((takeDraw w s).2).pending = s.pending := rfl
@[simp] theorem takeDraw_part (w : Nat) : ((takeDraw w s).2).part = s.part := rfl
@[simp] theorem takeDraw_tb (w : Nat) : ((takeDraw w s).2).tb = s.tb := rfl
@[simp] theorem takeDraw_tbHold (w : Nat) : ((takeDraw w s).2).tbHold = s.tbHold := rfl
@[simp] theorem takeDraw_led (w : Nat) : ((takeDraw w s).2).led = s.led := rfl
@[simp] theorem takeDraw_jn (w : Nat) : ((takeDraw w s).2).jn = s.jn := rfl
@[simp] theorem takeDraw_guard (w : Nat) : ((takeDraw w s).2).guard = s.guard := rfl
@[simp] theorem takeDraw_eng (w : Nat) : ((takeDraw w s).2).eng = s.eng := rfl
@[simp] theorem takeDraw_locks (w : Nat) : ((takeDraw w s).2).locks = s.locks := rfl
@[simp] theorem takeDraw_tk (w : Nat) : ((takeDraw w s).2).tk = s.tk := rfl
@[simp] theorem takeDraw_host (w : Nat) : ((takeDraw w s).2).host = s.host := rfl
@[simp] theorem takeDraw_ev (w : Nat) : ((takeDraw w s).2).ev = s.ev := rfl
@[simp] theorem takeDraw_cores (w : Nat) : ((takeDraw w s).2).cores = s.cores := rfl
@[simp] theorem takeDraw_mem (w : Nat) : ((takeDraw w s).2).mem = s.mem := rfl
@[simp] theorem takeDraw_fab (w : Nat) : ((takeDraw w s).2).fab = s.fab := rfl
@[simp] theorem takeDraw_dup (w : Nat) : ((takeDraw w s).2).dup = s.dup := rfl
@[simp] theorem takeDraw_mgmt (w : Nat) : ((takeDraw w s).2).mgmt = s.mgmt := rfl
@[simp] theorem takeDraw_store (w : Nat) : ((takeDraw w s).2).store = s.store := rfl
@[simp] theorem takeDraw_recov (w : Nat) : ((takeDraw w s).2).recov = s.recov := rfl
@[simp] theorem takeDraw_board (w : Nat) : ((takeDraw w s).2).board = s.board := rfl
@[simp] theorem takeDraw_hw (w : Nat) : ((takeDraw w s).2).hw = s.hw := rfl
@[simp] theorem takeDraw_out (w : Nat) : ((takeDraw w s).2).out = s.out := rfl

/-! `setFn`. -/

@[simp] theorem setFn_pending (f : Nat) (x : Fn) : (setFn s f x).pending = s.pending := rfl
@[simp] theorem setFn_part (f : Nat) (x : Fn) : (setFn s f x).part = s.part := rfl
@[simp] theorem setFn_tb (f : Nat) (x : Fn) : (setFn s f x).tb = s.tb := rfl
@[simp] theorem setFn_tbHold (f : Nat) (x : Fn) : (setFn s f x).tbHold = s.tbHold := rfl
@[simp] theorem setFn_led (f : Nat) (x : Fn) : (setFn s f x).led = s.led := rfl
@[simp] theorem setFn_jn (f : Nat) (x : Fn) : (setFn s f x).jn = s.jn := rfl
@[simp] theorem setFn_guard (f : Nat) (x : Fn) : (setFn s f x).guard = s.guard := rfl
@[simp] theorem setFn_eng (f : Nat) (x : Fn) : (setFn s f x).eng = s.eng := rfl
@[simp] theorem setFn_locks (f : Nat) (x : Fn) : (setFn s f x).locks = s.locks := rfl
@[simp] theorem setFn_tk (f : Nat) (x : Fn) : (setFn s f x).tk = s.tk := rfl
@[simp] theorem setFn_ev (f : Nat) (x : Fn) : (setFn s f x).ev = s.ev := rfl
@[simp] theorem setFn_cores (f : Nat) (x : Fn) : (setFn s f x).cores = s.cores := rfl
@[simp] theorem setFn_mem (f : Nat) (x : Fn) : (setFn s f x).mem = s.mem := rfl
@[simp] theorem setFn_fab (f : Nat) (x : Fn) : (setFn s f x).fab = s.fab := rfl
@[simp] theorem setFn_dup (f : Nat) (x : Fn) : (setFn s f x).dup = s.dup := rfl
@[simp] theorem setFn_mgmt (f : Nat) (x : Fn) : (setFn s f x).mgmt = s.mgmt := rfl
@[simp] theorem setFn_store (f : Nat) (x : Fn) : (setFn s f x).store = s.store := rfl
@[simp] theorem setFn_recov (f : Nat) (x : Fn) : (setFn s f x).recov = s.recov := rfl
@[simp] theorem setFn_board (f : Nat) (x : Fn) : (setFn s f x).board = s.board := rfl
@[simp] theorem setFn_hw (f : Nat) (x : Fn) : (setFn s f x).hw = s.hw := rfl
@[simp] theorem setFn_out (f : Nat) (x : Fn) : (setFn s f x).out = s.out := rfl
@[simp] theorem setFn_fresh (f : Nat) (x : Fn) : (setFn s f x).fresh = s.fresh := rfl

/-! `setTray`. -/

@[simp] theorem setTray_pending (f t : Nat) (x : Tray) : (setTray s f t x).pending = s.pending := rfl
@[simp] theorem setTray_part (f t : Nat) (x : Tray) : (setTray s f t x).part = s.part := rfl
@[simp] theorem setTray_tb (f t : Nat) (x : Tray) : (setTray s f t x).tb = s.tb := rfl
@[simp] theorem setTray_tbHold (f t : Nat) (x : Tray) : (setTray s f t x).tbHold = s.tbHold := rfl
@[simp] theorem setTray_led (f t : Nat) (x : Tray) : (setTray s f t x).led = s.led := rfl
@[simp] theorem setTray_jn (f t : Nat) (x : Tray) : (setTray s f t x).jn = s.jn := rfl
@[simp] theorem setTray_guard (f t : Nat) (x : Tray) : (setTray s f t x).guard = s.guard := rfl
@[simp] theorem setTray_eng (f t : Nat) (x : Tray) : (setTray s f t x).eng = s.eng := rfl
@[simp] theorem setTray_locks (f t : Nat) (x : Tray) : (setTray s f t x).locks = s.locks := rfl
@[simp] theorem setTray_tk (f t : Nat) (x : Tray) : (setTray s f t x).tk = s.tk := rfl
@[simp] theorem setTray_ev (f t : Nat) (x : Tray) : (setTray s f t x).ev = s.ev := rfl
@[simp] theorem setTray_cores (f t : Nat) (x : Tray) : (setTray s f t x).cores = s.cores := rfl
@[simp] theorem setTray_mem (f t : Nat) (x : Tray) : (setTray s f t x).mem = s.mem := rfl
@[simp] theorem setTray_fab (f t : Nat) (x : Tray) : (setTray s f t x).fab = s.fab := rfl
@[simp] theorem setTray_dup (f t : Nat) (x : Tray) : (setTray s f t x).dup = s.dup := rfl
@[simp] theorem setTray_mgmt (f t : Nat) (x : Tray) : (setTray s f t x).mgmt = s.mgmt := rfl
@[simp] theorem setTray_store (f t : Nat) (x : Tray) : (setTray s f t x).store = s.store := rfl
@[simp] theorem setTray_recov (f t : Nat) (x : Tray) : (setTray s f t x).recov = s.recov := rfl
@[simp] theorem setTray_board (f t : Nat) (x : Tray) : (setTray s f t x).board = s.board := rfl
@[simp] theorem setTray_hw (f t : Nat) (x : Tray) : (setTray s f t x).hw = s.hw := rfl
@[simp] theorem setTray_out (f t : Nat) (x : Tray) : (setTray s f t x).out = s.out := rfl
@[simp] theorem setTray_fresh (f t : Nat) (x : Tray) : (setTray s f t x).fresh = s.fresh := rfl

/-! `setCtx`. -/

@[simp] theorem setCtx_pending (e c : Nat) (x : Ctx) : (setCtx s e c x).pending = s.pending := rfl
@[simp] theorem setCtx_part (e c : Nat) (x : Ctx) : (setCtx s e c x).part = s.part := rfl
@[simp] theorem setCtx_tb (e c : Nat) (x : Ctx) : (setCtx s e c x).tb = s.tb := rfl
@[simp] theorem setCtx_tbHold (e c : Nat) (x : Ctx) : (setCtx s e c x).tbHold = s.tbHold := rfl
@[simp] theorem setCtx_led (e c : Nat) (x : Ctx) : (setCtx s e c x).led = s.led := rfl
@[simp] theorem setCtx_jn (e c : Nat) (x : Ctx) : (setCtx s e c x).jn = s.jn := rfl
@[simp] theorem setCtx_guard (e c : Nat) (x : Ctx) : (setCtx s e c x).guard = s.guard := rfl
@[simp] theorem setCtx_locks (e c : Nat) (x : Ctx) : (setCtx s e c x).locks = s.locks := rfl
@[simp] theorem setCtx_tk (e c : Nat) (x : Ctx) : (setCtx s e c x).tk = s.tk := rfl
@[simp] theorem setCtx_host (e c : Nat) (x : Ctx) : (setCtx s e c x).host = s.host := rfl
@[simp] theorem setCtx_ev (e c : Nat) (x : Ctx) : (setCtx s e c x).ev = s.ev := rfl
@[simp] theorem setCtx_cores (e c : Nat) (x : Ctx) : (setCtx s e c x).cores = s.cores := rfl
@[simp] theorem setCtx_mem (e c : Nat) (x : Ctx) : (setCtx s e c x).mem = s.mem := rfl
@[simp] theorem setCtx_fab (e c : Nat) (x : Ctx) : (setCtx s e c x).fab = s.fab := rfl
@[simp] theorem setCtx_dup (e c : Nat) (x : Ctx) : (setCtx s e c x).dup = s.dup := rfl
@[simp] theorem setCtx_mgmt (e c : Nat) (x : Ctx) : (setCtx s e c x).mgmt = s.mgmt := rfl
@[simp] theorem setCtx_store (e c : Nat) (x : Ctx) : (setCtx s e c x).store = s.store := rfl
@[simp] theorem setCtx_recov (e c : Nat) (x : Ctx) : (setCtx s e c x).recov = s.recov := rfl
@[simp] theorem setCtx_board (e c : Nat) (x : Ctx) : (setCtx s e c x).board = s.board := rfl
@[simp] theorem setCtx_hw (e c : Nat) (x : Ctx) : (setCtx s e c x).hw = s.hw := rfl
@[simp] theorem setCtx_out (e c : Nat) (x : Ctx) : (setCtx s e c x).out = s.out := rfl
@[simp] theorem setCtx_fresh (e c : Nat) (x : Ctx) : (setCtx s e c x).fresh = s.fresh := rfl

/-! `setTicket`. -/

@[simp] theorem setTicket_pending (k : Nat) (x : Ticket) : (setTicket s k x).pending = s.pending := rfl
@[simp] theorem setTicket_part (k : Nat) (x : Ticket) : (setTicket s k x).part = s.part := rfl
@[simp] theorem setTicket_tb (k : Nat) (x : Ticket) : (setTicket s k x).tb = s.tb := rfl
@[simp] theorem setTicket_tbHold (k : Nat) (x : Ticket) : (setTicket s k x).tbHold = s.tbHold := rfl
@[simp] theorem setTicket_led (k : Nat) (x : Ticket) : (setTicket s k x).led = s.led := rfl
@[simp] theorem setTicket_jn (k : Nat) (x : Ticket) : (setTicket s k x).jn = s.jn := rfl
@[simp] theorem setTicket_guard (k : Nat) (x : Ticket) : (setTicket s k x).guard = s.guard := rfl
@[simp] theorem setTicket_eng (k : Nat) (x : Ticket) : (setTicket s k x).eng = s.eng := rfl
@[simp] theorem setTicket_locks (k : Nat) (x : Ticket) : (setTicket s k x).locks = s.locks := rfl
@[simp] theorem setTicket_host (k : Nat) (x : Ticket) : (setTicket s k x).host = s.host := rfl
@[simp] theorem setTicket_ev (k : Nat) (x : Ticket) : (setTicket s k x).ev = s.ev := rfl
@[simp] theorem setTicket_cores (k : Nat) (x : Ticket) : (setTicket s k x).cores = s.cores := rfl
@[simp] theorem setTicket_mem (k : Nat) (x : Ticket) : (setTicket s k x).mem = s.mem := rfl
@[simp] theorem setTicket_fab (k : Nat) (x : Ticket) : (setTicket s k x).fab = s.fab := rfl
@[simp] theorem setTicket_dup (k : Nat) (x : Ticket) : (setTicket s k x).dup = s.dup := rfl
@[simp] theorem setTicket_mgmt (k : Nat) (x : Ticket) : (setTicket s k x).mgmt = s.mgmt := rfl
@[simp] theorem setTicket_store (k : Nat) (x : Ticket) : (setTicket s k x).store = s.store := rfl
@[simp] theorem setTicket_recov (k : Nat) (x : Ticket) : (setTicket s k x).recov = s.recov := rfl
@[simp] theorem setTicket_board (k : Nat) (x : Ticket) : (setTicket s k x).board = s.board := rfl
@[simp] theorem setTicket_hw (k : Nat) (x : Ticket) : (setTicket s k x).hw = s.hw := rfl
@[simp] theorem setTicket_out (k : Nat) (x : Ticket) : (setTicket s k x).out = s.out := rfl
@[simp] theorem setTicket_fresh (k : Nat) (x : Ticket) : (setTicket s k x).fresh = s.fresh := rfl

/-! `dropTicket`. -/

@[simp] theorem dropTicket_pending (k : Nat) : (dropTicket s k).pending = s.pending := rfl
@[simp] theorem dropTicket_part (k : Nat) : (dropTicket s k).part = s.part := rfl
@[simp] theorem dropTicket_tb (k : Nat) : (dropTicket s k).tb = s.tb := rfl
@[simp] theorem dropTicket_tbHold (k : Nat) : (dropTicket s k).tbHold = s.tbHold := rfl
@[simp] theorem dropTicket_led (k : Nat) : (dropTicket s k).led = s.led := rfl
@[simp] theorem dropTicket_jn (k : Nat) : (dropTicket s k).jn = s.jn := rfl
@[simp] theorem dropTicket_guard (k : Nat) : (dropTicket s k).guard = s.guard := rfl
@[simp] theorem dropTicket_eng (k : Nat) : (dropTicket s k).eng = s.eng := rfl
@[simp] theorem dropTicket_locks (k : Nat) : (dropTicket s k).locks = s.locks := rfl
@[simp] theorem dropTicket_host (k : Nat) : (dropTicket s k).host = s.host := rfl
@[simp] theorem dropTicket_ev (k : Nat) : (dropTicket s k).ev = s.ev := rfl
@[simp] theorem dropTicket_cores (k : Nat) : (dropTicket s k).cores = s.cores := rfl
@[simp] theorem dropTicket_mem (k : Nat) : (dropTicket s k).mem = s.mem := rfl
@[simp] theorem dropTicket_fab (k : Nat) : (dropTicket s k).fab = s.fab := rfl
@[simp] theorem dropTicket_dup (k : Nat) : (dropTicket s k).dup = s.dup := rfl
@[simp] theorem dropTicket_mgmt (k : Nat) : (dropTicket s k).mgmt = s.mgmt := rfl
@[simp] theorem dropTicket_store (k : Nat) : (dropTicket s k).store = s.store := rfl
@[simp] theorem dropTicket_recov (k : Nat) : (dropTicket s k).recov = s.recov := rfl
@[simp] theorem dropTicket_board (k : Nat) : (dropTicket s k).board = s.board := rfl
@[simp] theorem dropTicket_hw (k : Nat) : (dropTicket s k).hw = s.hw := rfl
@[simp] theorem dropTicket_out (k : Nat) : (dropTicket s k).out = s.out := rfl
@[simp] theorem dropTicket_fresh (k : Nat) : (dropTicket s k).fresh = s.fresh := rfl

/-! `setSrc`. -/

@[simp] theorem setSrc_pending (n : Nat) (x : Source) : (setSrc s n x).pending = s.pending := rfl
@[simp] theorem setSrc_part (n : Nat) (x : Source) : (setSrc s n x).part = s.part := rfl
@[simp] theorem setSrc_tb (n : Nat) (x : Source) : (setSrc s n x).tb = s.tb := rfl
@[simp] theorem setSrc_tbHold (n : Nat) (x : Source) : (setSrc s n x).tbHold = s.tbHold := rfl
@[simp] theorem setSrc_led (n : Nat) (x : Source) : (setSrc s n x).led = s.led := rfl
@[simp] theorem setSrc_jn (n : Nat) (x : Source) : (setSrc s n x).jn = s.jn := rfl
@[simp] theorem setSrc_guard (n : Nat) (x : Source) : (setSrc s n x).guard = s.guard := rfl
@[simp] theorem setSrc_eng (n : Nat) (x : Source) : (setSrc s n x).eng = s.eng := rfl
@[simp] theorem setSrc_locks (n : Nat) (x : Source) : (setSrc s n x).locks = s.locks := rfl
@[simp] theorem setSrc_tk (n : Nat) (x : Source) : (setSrc s n x).tk = s.tk := rfl
@[simp] theorem setSrc_host (n : Nat) (x : Source) : (setSrc s n x).host = s.host := rfl
@[simp] theorem setSrc_cores (n : Nat) (x : Source) : (setSrc s n x).cores = s.cores := rfl
@[simp] theorem setSrc_mem (n : Nat) (x : Source) : (setSrc s n x).mem = s.mem := rfl
@[simp] theorem setSrc_fab (n : Nat) (x : Source) : (setSrc s n x).fab = s.fab := rfl
@[simp] theorem setSrc_dup (n : Nat) (x : Source) : (setSrc s n x).dup = s.dup := rfl
@[simp] theorem setSrc_mgmt (n : Nat) (x : Source) : (setSrc s n x).mgmt = s.mgmt := rfl
@[simp] theorem setSrc_store (n : Nat) (x : Source) : (setSrc s n x).store = s.store := rfl
@[simp] theorem setSrc_recov (n : Nat) (x : Source) : (setSrc s n x).recov = s.recov := rfl
@[simp] theorem setSrc_board (n : Nat) (x : Source) : (setSrc s n x).board = s.board := rfl
@[simp] theorem setSrc_hw (n : Nat) (x : Source) : (setSrc s n x).hw = s.hw := rfl
@[simp] theorem setSrc_out (n : Nat) (x : Source) : (setSrc s n x).out = s.out := rfl
@[simp] theorem setSrc_fresh (n : Nat) (x : Source) : (setSrc s n x).fresh = s.fresh := rfl

/-! `pulseSrc`. -/

@[simp] theorem pulseSrc_pending (n : Nat) : (pulseSrc s n).pending = s.pending := by unfold pulseSrc; split <;> rfl
@[simp] theorem pulseSrc_part (n : Nat) : (pulseSrc s n).part = s.part := by unfold pulseSrc; split <;> rfl
@[simp] theorem pulseSrc_tb (n : Nat) : (pulseSrc s n).tb = s.tb := by unfold pulseSrc; split <;> rfl
@[simp] theorem pulseSrc_tbHold (n : Nat) : (pulseSrc s n).tbHold = s.tbHold := by unfold pulseSrc; split <;> rfl
@[simp] theorem pulseSrc_led (n : Nat) : (pulseSrc s n).led = s.led := by unfold pulseSrc; split <;> rfl
@[simp] theorem pulseSrc_jn (n : Nat) : (pulseSrc s n).jn = s.jn := by unfold pulseSrc; split <;> rfl
@[simp] theorem pulseSrc_guard (n : Nat) : (pulseSrc s n).guard = s.guard := by unfold pulseSrc; split <;> rfl
@[simp] theorem pulseSrc_eng (n : Nat) : (pulseSrc s n).eng = s.eng := by unfold pulseSrc; split <;> rfl
@[simp] theorem pulseSrc_locks (n : Nat) : (pulseSrc s n).locks = s.locks := by unfold pulseSrc; split <;> rfl
@[simp] theorem pulseSrc_tk (n : Nat) : (pulseSrc s n).tk = s.tk := by unfold pulseSrc; split <;> rfl
@[simp] theorem pulseSrc_host (n : Nat) : (pulseSrc s n).host = s.host := by unfold pulseSrc; split <;> rfl
@[simp] theorem pulseSrc_cores (n : Nat) : (pulseSrc s n).cores = s.cores := by unfold pulseSrc; split <;> rfl
@[simp] theorem pulseSrc_mem (n : Nat) : (pulseSrc s n).mem = s.mem := by unfold pulseSrc; split <;> rfl
@[simp] theorem pulseSrc_fab (n : Nat) : (pulseSrc s n).fab = s.fab := by unfold pulseSrc; split <;> rfl
@[simp] theorem pulseSrc_dup (n : Nat) : (pulseSrc s n).dup = s.dup := by unfold pulseSrc; split <;> rfl
@[simp] theorem pulseSrc_mgmt (n : Nat) : (pulseSrc s n).mgmt = s.mgmt := by unfold pulseSrc; split <;> rfl
@[simp] theorem pulseSrc_store (n : Nat) : (pulseSrc s n).store = s.store := by unfold pulseSrc; split <;> rfl
@[simp] theorem pulseSrc_recov (n : Nat) : (pulseSrc s n).recov = s.recov := by unfold pulseSrc; split <;> rfl
@[simp] theorem pulseSrc_board (n : Nat) : (pulseSrc s n).board = s.board := by unfold pulseSrc; split <;> rfl
@[simp] theorem pulseSrc_hw (n : Nat) : (pulseSrc s n).hw = s.hw := by unfold pulseSrc; split <;> rfl
@[simp] theorem pulseSrc_out (n : Nat) : (pulseSrc s n).out = s.out := by unfold pulseSrc; split <;> rfl
@[simp] theorem pulseSrc_fresh (n : Nat) : (pulseSrc s n).fresh = s.fresh := by unfold pulseSrc; split <;> rfl

/-! `levelSrc`. -/

@[simp] theorem levelSrc_pending (n : Nat) (b : Bool) : (levelSrc s n b).pending = s.pending := rfl
@[simp] theorem levelSrc_part (n : Nat) (b : Bool) : (levelSrc s n b).part = s.part := rfl
@[simp] theorem levelSrc_tb (n : Nat) (b : Bool) : (levelSrc s n b).tb = s.tb := rfl
@[simp] theorem levelSrc_tbHold (n : Nat) (b : Bool) : (levelSrc s n b).tbHold = s.tbHold := rfl
@[simp] theorem levelSrc_led (n : Nat) (b : Bool) : (levelSrc s n b).led = s.led := rfl
@[simp] theorem levelSrc_jn (n : Nat) (b : Bool) : (levelSrc s n b).jn = s.jn := rfl
@[simp] theorem levelSrc_guard (n : Nat) (b : Bool) : (levelSrc s n b).guard = s.guard := rfl
@[simp] theorem levelSrc_eng (n : Nat) (b : Bool) : (levelSrc s n b).eng = s.eng := rfl
@[simp] theorem levelSrc_locks (n : Nat) (b : Bool) : (levelSrc s n b).locks = s.locks := rfl
@[simp] theorem levelSrc_tk (n : Nat) (b : Bool) : (levelSrc s n b).tk = s.tk := rfl
@[simp] theorem levelSrc_host (n : Nat) (b : Bool) : (levelSrc s n b).host = s.host := rfl
@[simp] theorem levelSrc_cores (n : Nat) (b : Bool) : (levelSrc s n b).cores = s.cores := rfl
@[simp] theorem levelSrc_mem (n : Nat) (b : Bool) : (levelSrc s n b).mem = s.mem := rfl
@[simp] theorem levelSrc_fab (n : Nat) (b : Bool) : (levelSrc s n b).fab = s.fab := rfl
@[simp] theorem levelSrc_dup (n : Nat) (b : Bool) : (levelSrc s n b).dup = s.dup := rfl
@[simp] theorem levelSrc_mgmt (n : Nat) (b : Bool) : (levelSrc s n b).mgmt = s.mgmt := rfl
@[simp] theorem levelSrc_store (n : Nat) (b : Bool) : (levelSrc s n b).store = s.store := rfl
@[simp] theorem levelSrc_recov (n : Nat) (b : Bool) : (levelSrc s n b).recov = s.recov := rfl
@[simp] theorem levelSrc_board (n : Nat) (b : Bool) : (levelSrc s n b).board = s.board := rfl
@[simp] theorem levelSrc_hw (n : Nat) (b : Bool) : (levelSrc s n b).hw = s.hw := rfl
@[simp] theorem levelSrc_out (n : Nat) (b : Bool) : (levelSrc s n b).out = s.out := rfl
@[simp] theorem levelSrc_fresh (n : Nat) (b : Bool) : (levelSrc s n b).fresh = s.fresh := rfl

/-! `ringOut`. -/

@[simp] theorem ringOut_pending (n : Nat) (a : Dbl) (b : Bytes) : (ringOut s n a b).pending = s.pending := by unfold ringOut; split <;> rfl
@[simp] theorem ringOut_part (n : Nat) (a : Dbl) (b : Bytes) : (ringOut s n a b).part = s.part := by unfold ringOut; split <;> rfl
@[simp] theorem ringOut_tb (n : Nat) (a : Dbl) (b : Bytes) : (ringOut s n a b).tb = s.tb := by unfold ringOut; split <;> rfl
@[simp] theorem ringOut_tbHold (n : Nat) (a : Dbl) (b : Bytes) : (ringOut s n a b).tbHold = s.tbHold := by unfold ringOut; split <;> rfl
@[simp] theorem ringOut_led (n : Nat) (a : Dbl) (b : Bytes) : (ringOut s n a b).led = s.led := by unfold ringOut; split <;> rfl
@[simp] theorem ringOut_jn (n : Nat) (a : Dbl) (b : Bytes) : (ringOut s n a b).jn = s.jn := by unfold ringOut; split <;> rfl
@[simp] theorem ringOut_guard (n : Nat) (a : Dbl) (b : Bytes) : (ringOut s n a b).guard = s.guard := by unfold ringOut; split <;> rfl
@[simp] theorem ringOut_eng (n : Nat) (a : Dbl) (b : Bytes) : (ringOut s n a b).eng = s.eng := by unfold ringOut; split <;> rfl
@[simp] theorem ringOut_locks (n : Nat) (a : Dbl) (b : Bytes) : (ringOut s n a b).locks = s.locks := by unfold ringOut; split <;> rfl
@[simp] theorem ringOut_tk (n : Nat) (a : Dbl) (b : Bytes) : (ringOut s n a b).tk = s.tk := by unfold ringOut; split <;> rfl
@[simp] theorem ringOut_host (n : Nat) (a : Dbl) (b : Bytes) : (ringOut s n a b).host = s.host := by unfold ringOut; split <;> rfl
@[simp] theorem ringOut_ev (n : Nat) (a : Dbl) (b : Bytes) : (ringOut s n a b).ev = s.ev := by unfold ringOut; split <;> rfl
@[simp] theorem ringOut_cores (n : Nat) (a : Dbl) (b : Bytes) : (ringOut s n a b).cores = s.cores := by unfold ringOut; split <;> rfl
@[simp] theorem ringOut_mem (n : Nat) (a : Dbl) (b : Bytes) : (ringOut s n a b).mem = s.mem := by unfold ringOut; split <;> rfl
@[simp] theorem ringOut_fab (n : Nat) (a : Dbl) (b : Bytes) : (ringOut s n a b).fab = s.fab := by unfold ringOut; split <;> rfl
@[simp] theorem ringOut_dup (n : Nat) (a : Dbl) (b : Bytes) : (ringOut s n a b).dup = s.dup := by unfold ringOut; split <;> rfl
@[simp] theorem ringOut_mgmt (n : Nat) (a : Dbl) (b : Bytes) : (ringOut s n a b).mgmt = s.mgmt := by unfold ringOut; split <;> rfl
@[simp] theorem ringOut_store (n : Nat) (a : Dbl) (b : Bytes) : (ringOut s n a b).store = s.store := by unfold ringOut; split <;> rfl
@[simp] theorem ringOut_recov (n : Nat) (a : Dbl) (b : Bytes) : (ringOut s n a b).recov = s.recov := by unfold ringOut; split <;> rfl
@[simp] theorem ringOut_board (n : Nat) (a : Dbl) (b : Bytes) : (ringOut s n a b).board = s.board := by unfold ringOut; split <;> rfl
@[simp] theorem ringOut_hw (n : Nat) (a : Dbl) (b : Bytes) : (ringOut s n a b).hw = s.hw := by unfold ringOut; split <;> rfl
@[simp] theorem ringOut_fresh (n : Nat) (a : Dbl) (b : Bytes) : (ringOut s n a b).fresh = s.fresh := by unfold ringOut; split <;> rfl

/-! `logFault`. -/

@[simp] theorem logFault_pending (k c : Byte) (u d a b : Nat) : (logFault s k c u d a b).pending = s.pending := by unfold logFault; dsimp only; split; rfl; rw [pulseSrc_pending]; split <;> simp
@[simp] theorem logFault_part (k c : Byte) (u d a b : Nat) : (logFault s k c u d a b).part = s.part := by unfold logFault; dsimp only; split; rfl; rw [pulseSrc_part]; split <;> simp
@[simp] theorem logFault_tb (k c : Byte) (u d a b : Nat) : (logFault s k c u d a b).tb = s.tb := by unfold logFault; dsimp only; split; rfl; rw [pulseSrc_tb]; split <;> simp
@[simp] theorem logFault_tbHold (k c : Byte) (u d a b : Nat) : (logFault s k c u d a b).tbHold = s.tbHold := by unfold logFault; dsimp only; split; rfl; rw [pulseSrc_tbHold]; split <;> simp
@[simp] theorem logFault_led (k c : Byte) (u d a b : Nat) : (logFault s k c u d a b).led = s.led := by unfold logFault; dsimp only; split; rfl; rw [pulseSrc_led]; split <;> simp
@[simp] theorem logFault_jn (k c : Byte) (u d a b : Nat) : (logFault s k c u d a b).jn = s.jn := by unfold logFault; dsimp only; split; rfl; rw [pulseSrc_jn]; split <;> simp
@[simp] theorem logFault_guard (k c : Byte) (u d a b : Nat) : (logFault s k c u d a b).guard = s.guard := by unfold logFault; dsimp only; split; rfl; rw [pulseSrc_guard]; split <;> simp
@[simp] theorem logFault_eng (k c : Byte) (u d a b : Nat) : (logFault s k c u d a b).eng = s.eng := by unfold logFault; dsimp only; split; rfl; rw [pulseSrc_eng]; split <;> simp
@[simp] theorem logFault_locks (k c : Byte) (u d a b : Nat) : (logFault s k c u d a b).locks = s.locks := by unfold logFault; dsimp only; split; rfl; rw [pulseSrc_locks]; split <;> simp
@[simp] theorem logFault_tk (k c : Byte) (u d a b : Nat) : (logFault s k c u d a b).tk = s.tk := by unfold logFault; dsimp only; split; rfl; rw [pulseSrc_tk]; split <;> simp
@[simp] theorem logFault_host (k c : Byte) (u d a b : Nat) : (logFault s k c u d a b).host = s.host := by unfold logFault; dsimp only; split; rfl; rw [pulseSrc_host]; split <;> simp
@[simp] theorem logFault_cores (k c : Byte) (u d a b : Nat) : (logFault s k c u d a b).cores = s.cores := by unfold logFault; dsimp only; split; rfl; rw [pulseSrc_cores]; split <;> simp
@[simp] theorem logFault_mem (k c : Byte) (u d a b : Nat) : (logFault s k c u d a b).mem = s.mem := by unfold logFault; dsimp only; split; rfl; rw [pulseSrc_mem]; split <;> simp
@[simp] theorem logFault_fab (k c : Byte) (u d a b : Nat) : (logFault s k c u d a b).fab = s.fab := by unfold logFault; dsimp only; split; rfl; rw [pulseSrc_fab]; split <;> simp
@[simp] theorem logFault_dup (k c : Byte) (u d a b : Nat) : (logFault s k c u d a b).dup = s.dup := by unfold logFault; dsimp only; split; rfl; rw [pulseSrc_dup]; split <;> simp
@[simp] theorem logFault_recov (k c : Byte) (u d a b : Nat) : (logFault s k c u d a b).recov = s.recov := by unfold logFault; dsimp only; split; rfl; rw [pulseSrc_recov]; split <;> simp
@[simp] theorem logFault_board (k c : Byte) (u d a b : Nat) : (logFault s k c u d a b).board = s.board := by unfold logFault; dsimp only; split; rfl; rw [pulseSrc_board]; split <;> simp
@[simp] theorem logFault_hw (k c : Byte) (u d a b : Nat) : (logFault s k c u d a b).hw = s.hw := by unfold logFault; dsimp only; split; rfl; rw [pulseSrc_hw]; split <;> simp
@[simp] theorem logFault_fresh (k c : Byte) (u d a b : Nat) : (logFault s k c u d a b).fresh = s.fresh := by unfold logFault; dsimp only; split; rfl; rw [pulseSrc_fresh]; split <;> simp

/-! `setKey`. -/

@[simp] theorem setKey_pending (t : Nat) (k : TenantKey) : (setKey s t k).pending = s.pending := rfl
@[simp] theorem setKey_part (t : Nat) (k : TenantKey) : (setKey s t k).part = s.part := rfl
@[simp] theorem setKey_tb (t : Nat) (k : TenantKey) : (setKey s t k).tb = s.tb := rfl
@[simp] theorem setKey_tbHold (t : Nat) (k : TenantKey) : (setKey s t k).tbHold = s.tbHold := rfl
@[simp] theorem setKey_led (t : Nat) (k : TenantKey) : (setKey s t k).led = s.led := rfl
@[simp] theorem setKey_jn (t : Nat) (k : TenantKey) : (setKey s t k).jn = s.jn := rfl
@[simp] theorem setKey_eng (t : Nat) (k : TenantKey) : (setKey s t k).eng = s.eng := rfl
@[simp] theorem setKey_locks (t : Nat) (k : TenantKey) : (setKey s t k).locks = s.locks := rfl
@[simp] theorem setKey_tk (t : Nat) (k : TenantKey) : (setKey s t k).tk = s.tk := rfl
@[simp] theorem setKey_host (t : Nat) (k : TenantKey) : (setKey s t k).host = s.host := rfl
@[simp] theorem setKey_ev (t : Nat) (k : TenantKey) : (setKey s t k).ev = s.ev := rfl
@[simp] theorem setKey_cores (t : Nat) (k : TenantKey) : (setKey s t k).cores = s.cores := rfl
@[simp] theorem setKey_mem (t : Nat) (k : TenantKey) : (setKey s t k).mem = s.mem := rfl
@[simp] theorem setKey_fab (t : Nat) (k : TenantKey) : (setKey s t k).fab = s.fab := rfl
@[simp] theorem setKey_dup (t : Nat) (k : TenantKey) : (setKey s t k).dup = s.dup := rfl
@[simp] theorem setKey_mgmt (t : Nat) (k : TenantKey) : (setKey s t k).mgmt = s.mgmt := rfl
@[simp] theorem setKey_store (t : Nat) (k : TenantKey) : (setKey s t k).store = s.store := rfl
@[simp] theorem setKey_recov (t : Nat) (k : TenantKey) : (setKey s t k).recov = s.recov := rfl
@[simp] theorem setKey_board (t : Nat) (k : TenantKey) : (setKey s t k).board = s.board := rfl
@[simp] theorem setKey_hw (t : Nat) (k : TenantKey) : (setKey s t k).hw = s.hw := rfl
@[simp] theorem setKey_out (t : Nat) (k : TenantKey) : (setKey s t k).out = s.out := rfl
@[simp] theorem setKey_fresh (t : Nat) (k : TenantKey) : (setKey s t k).fresh = s.fresh := rfl

/-! `grantBits`. -/

@[simp] theorem grantBits_pending (a : Nat) (w : Bool) : (grantBits s a w).pending = s.pending := by unfold grantBits; split <;> rfl
@[simp] theorem grantBits_part (a : Nat) (w : Bool) : (grantBits s a w).part = s.part := by unfold grantBits; split <;> rfl
@[simp] theorem grantBits_tb (a : Nat) (w : Bool) : (grantBits s a w).tb = s.tb := by unfold grantBits; split <;> rfl
@[simp] theorem grantBits_tbHold (a : Nat) (w : Bool) : (grantBits s a w).tbHold = s.tbHold := by unfold grantBits; split <;> rfl
@[simp] theorem grantBits_led (a : Nat) (w : Bool) : (grantBits s a w).led = s.led := by unfold grantBits; split <;> rfl
@[simp] theorem grantBits_jn (a : Nat) (w : Bool) : (grantBits s a w).jn = s.jn := by unfold grantBits; split <;> rfl
@[simp] theorem grantBits_eng (a : Nat) (w : Bool) : (grantBits s a w).eng = s.eng := by unfold grantBits; split <;> rfl
@[simp] theorem grantBits_locks (a : Nat) (w : Bool) : (grantBits s a w).locks = s.locks := by unfold grantBits; split <;> rfl
@[simp] theorem grantBits_tk (a : Nat) (w : Bool) : (grantBits s a w).tk = s.tk := by unfold grantBits; split <;> rfl
@[simp] theorem grantBits_host (a : Nat) (w : Bool) : (grantBits s a w).host = s.host := by unfold grantBits; split <;> rfl
@[simp] theorem grantBits_ev (a : Nat) (w : Bool) : (grantBits s a w).ev = s.ev := by unfold grantBits; split <;> rfl
@[simp] theorem grantBits_cores (a : Nat) (w : Bool) : (grantBits s a w).cores = s.cores := by unfold grantBits; split <;> rfl
@[simp] theorem larderMem_bytes (l : Nat) : (larderMem s l).bytes = s.mem.bytes := by
  unfold larderMem; split
  · rfl
  · split
    · rfl
    · split <;> rfl
@[simp] theorem larderTake_bytes (l : Nat) : (larderTake s l).mem.bytes = s.mem.bytes := larderMem_bytes s l
@[simp] theorem grantBits_bytes (a : Nat) (w : Bool) : (grantBits s a w).mem.bytes = s.mem.bytes := by
  unfold grantBits; split
  · rfl
  · exact larderTake_bytes _ _
@[simp] theorem grantBits_fab (a : Nat) (w : Bool) : (grantBits s a w).fab = s.fab := by unfold grantBits; split <;> rfl
@[simp] theorem grantBits_dup (a : Nat) (w : Bool) : (grantBits s a w).dup = s.dup := by unfold grantBits; split <;> rfl
@[simp] theorem grantBits_mgmt (a : Nat) (w : Bool) : (grantBits s a w).mgmt = s.mgmt := by unfold grantBits; split <;> rfl
@[simp] theorem grantBits_store (a : Nat) (w : Bool) : (grantBits s a w).store = s.store := by unfold grantBits; split <;> rfl
@[simp] theorem grantBits_recov (a : Nat) (w : Bool) : (grantBits s a w).recov = s.recov := by unfold grantBits; split <;> rfl
@[simp] theorem grantBits_board (a : Nat) (w : Bool) : (grantBits s a w).board = s.board := by unfold grantBits; split <;> rfl
@[simp] theorem grantBits_hw (a : Nat) (w : Bool) : (grantBits s a w).hw = s.hw := by unfold grantBits; split <;> rfl
@[simp] theorem grantBits_out (a : Nat) (w : Bool) : (grantBits s a w).out = s.out := by unfold grantBits; split <;> rfl
@[simp] theorem grantBits_fresh (a : Nat) (w : Bool) : (grantBits s a w).fresh = s.fresh := by unfold grantBits; split <;> rfl

/-! `setCore`. -/

@[simp] theorem setCore_pending (c : Nat) (x : Core) : (setCore s c x).pending = s.pending := rfl
@[simp] theorem setCore_part (c : Nat) (x : Core) : (setCore s c x).part = s.part := rfl
@[simp] theorem setCore_tb (c : Nat) (x : Core) : (setCore s c x).tb = s.tb := rfl
@[simp] theorem setCore_tbHold (c : Nat) (x : Core) : (setCore s c x).tbHold = s.tbHold := rfl
@[simp] theorem setCore_led (c : Nat) (x : Core) : (setCore s c x).led = s.led := rfl
@[simp] theorem setCore_jn (c : Nat) (x : Core) : (setCore s c x).jn = s.jn := rfl
@[simp] theorem setCore_guard (c : Nat) (x : Core) : (setCore s c x).guard = s.guard := rfl
@[simp] theorem setCore_eng (c : Nat) (x : Core) : (setCore s c x).eng = s.eng := rfl
@[simp] theorem setCore_locks (c : Nat) (x : Core) : (setCore s c x).locks = s.locks := rfl
@[simp] theorem setCore_tk (c : Nat) (x : Core) : (setCore s c x).tk = s.tk := rfl
@[simp] theorem setCore_host (c : Nat) (x : Core) : (setCore s c x).host = s.host := rfl
@[simp] theorem setCore_ev (c : Nat) (x : Core) : (setCore s c x).ev = s.ev := rfl
@[simp] theorem setCore_mem (c : Nat) (x : Core) : (setCore s c x).mem = s.mem := rfl
@[simp] theorem setCore_fab (c : Nat) (x : Core) : (setCore s c x).fab = s.fab := rfl
@[simp] theorem setCore_dup (c : Nat) (x : Core) : (setCore s c x).dup = s.dup := rfl
@[simp] theorem setCore_mgmt (c : Nat) (x : Core) : (setCore s c x).mgmt = s.mgmt := rfl
@[simp] theorem setCore_store (c : Nat) (x : Core) : (setCore s c x).store = s.store := rfl
@[simp] theorem setCore_recov (c : Nat) (x : Core) : (setCore s c x).recov = s.recov := rfl
@[simp] theorem setCore_board (c : Nat) (x : Core) : (setCore s c x).board = s.board := rfl
@[simp] theorem setCore_hw (c : Nat) (x : Core) : (setCore s c x).hw = s.hw := rfl
@[simp] theorem setCore_out (c : Nat) (x : Core) : (setCore s c x).out = s.out := rfl
@[simp] theorem setCore_fresh (c : Nat) (x : Core) : (setCore s c x).fresh = s.fresh := rfl

/-! `setFrame`. -/

@[simp] theorem setFrame_pending (c f : Nat) (x : Frame) : (setFrame s c f x).pending = s.pending := rfl
@[simp] theorem setFrame_part (c f : Nat) (x : Frame) : (setFrame s c f x).part = s.part := rfl
@[simp] theorem setFrame_tb (c f : Nat) (x : Frame) : (setFrame s c f x).tb = s.tb := rfl
@[simp] theorem setFrame_tbHold (c f : Nat) (x : Frame) : (setFrame s c f x).tbHold = s.tbHold := rfl
@[simp] theorem setFrame_led (c f : Nat) (x : Frame) : (setFrame s c f x).led = s.led := rfl
@[simp] theorem setFrame_jn (c f : Nat) (x : Frame) : (setFrame s c f x).jn = s.jn := rfl
@[simp] theorem setFrame_guard (c f : Nat) (x : Frame) : (setFrame s c f x).guard = s.guard := rfl
@[simp] theorem setFrame_eng (c f : Nat) (x : Frame) : (setFrame s c f x).eng = s.eng := rfl
@[simp] theorem setFrame_locks (c f : Nat) (x : Frame) : (setFrame s c f x).locks = s.locks := rfl
@[simp] theorem setFrame_tk (c f : Nat) (x : Frame) : (setFrame s c f x).tk = s.tk := rfl
@[simp] theorem setFrame_host (c f : Nat) (x : Frame) : (setFrame s c f x).host = s.host := rfl
@[simp] theorem setFrame_ev (c f : Nat) (x : Frame) : (setFrame s c f x).ev = s.ev := rfl
@[simp] theorem setFrame_mem (c f : Nat) (x : Frame) : (setFrame s c f x).mem = s.mem := rfl
@[simp] theorem setFrame_fab (c f : Nat) (x : Frame) : (setFrame s c f x).fab = s.fab := rfl
@[simp] theorem setFrame_dup (c f : Nat) (x : Frame) : (setFrame s c f x).dup = s.dup := rfl
@[simp] theorem setFrame_mgmt (c f : Nat) (x : Frame) : (setFrame s c f x).mgmt = s.mgmt := rfl
@[simp] theorem setFrame_store (c f : Nat) (x : Frame) : (setFrame s c f x).store = s.store := rfl
@[simp] theorem setFrame_recov (c f : Nat) (x : Frame) : (setFrame s c f x).recov = s.recov := rfl
@[simp] theorem setFrame_board (c f : Nat) (x : Frame) : (setFrame s c f x).board = s.board := rfl
@[simp] theorem setFrame_hw (c f : Nat) (x : Frame) : (setFrame s c f x).hw = s.hw := rfl
@[simp] theorem setFrame_out (c f : Nat) (x : Frame) : (setFrame s c f x).out = s.out := rfl
@[simp] theorem setFrame_fresh (c f : Nat) (x : Frame) : (setFrame s c f x).fresh = s.fresh := rfl

/-! `countStep`. -/

@[simp] theorem countStep_pending (c o n : Nat) : (countStep s c o n).pending = s.pending := rfl
@[simp] theorem countStep_part (c o n : Nat) : (countStep s c o n).part = s.part := rfl
@[simp] theorem countStep_tb (c o n : Nat) : (countStep s c o n).tb = s.tb := rfl
@[simp] theorem countStep_tbHold (c o n : Nat) : (countStep s c o n).tbHold = s.tbHold := rfl
@[simp] theorem countStep_led (c o n : Nat) : (countStep s c o n).led = s.led := rfl
@[simp] theorem countStep_jn (c o n : Nat) : (countStep s c o n).jn = s.jn := rfl
@[simp] theorem countStep_guard (c o n : Nat) : (countStep s c o n).guard = s.guard := rfl
@[simp] theorem countStep_eng (c o n : Nat) : (countStep s c o n).eng = s.eng := rfl
@[simp] theorem countStep_locks (c o n : Nat) : (countStep s c o n).locks = s.locks := rfl
@[simp] theorem countStep_tk (c o n : Nat) : (countStep s c o n).tk = s.tk := rfl
@[simp] theorem countStep_host (c o n : Nat) : (countStep s c o n).host = s.host := rfl
@[simp] theorem countStep_ev (c o n : Nat) : (countStep s c o n).ev = s.ev := rfl
@[simp] theorem countStep_mem (c o n : Nat) : (countStep s c o n).mem = s.mem := rfl
@[simp] theorem countStep_fab (c o n : Nat) : (countStep s c o n).fab = s.fab := rfl
@[simp] theorem countStep_dup (c o n : Nat) : (countStep s c o n).dup = s.dup := rfl
@[simp] theorem countStep_mgmt (c o n : Nat) : (countStep s c o n).mgmt = s.mgmt := rfl
@[simp] theorem countStep_store (c o n : Nat) : (countStep s c o n).store = s.store := rfl
@[simp] theorem countStep_recov (c o n : Nat) : (countStep s c o n).recov = s.recov := rfl
@[simp] theorem countStep_board (c o n : Nat) : (countStep s c o n).board = s.board := rfl
@[simp] theorem countStep_hw (c o n : Nat) : (countStep s c o n).hw = s.hw := rfl
@[simp] theorem countStep_out (c o n : Nat) : (countStep s c o n).out = s.out := rfl
@[simp] theorem countStep_fresh (c o n : Nat) : (countStep s c o n).fresh = s.fresh := rfl

/-! `spend`. -/

@[simp] theorem spend_pending (c o n : Nat) : (spend s c o n).pending = s.pending := rfl
@[simp] theorem spend_part (c o n : Nat) : (spend s c o n).part = s.part := rfl
@[simp] theorem spend_tb (c o n : Nat) : (spend s c o n).tb = s.tb := rfl
@[simp] theorem spend_tbHold (c o n : Nat) : (spend s c o n).tbHold = s.tbHold := rfl
@[simp] theorem spend_led (c o n : Nat) : (spend s c o n).led = s.led := rfl
@[simp] theorem spend_jn (c o n : Nat) : (spend s c o n).jn = s.jn := rfl
@[simp] theorem spend_guard (c o n : Nat) : (spend s c o n).guard = s.guard := rfl
@[simp] theorem spend_eng (c o n : Nat) : (spend s c o n).eng = s.eng := rfl
@[simp] theorem spend_locks (c o n : Nat) : (spend s c o n).locks = s.locks := rfl
@[simp] theorem spend_tk (c o n : Nat) : (spend s c o n).tk = s.tk := rfl
@[simp] theorem spend_host (c o n : Nat) : (spend s c o n).host = s.host := rfl
@[simp] theorem spend_ev (c o n : Nat) : (spend s c o n).ev = s.ev := rfl
@[simp] theorem spend_mem (c o n : Nat) : (spend s c o n).mem = s.mem := rfl
@[simp] theorem spend_fab (c o n : Nat) : (spend s c o n).fab = s.fab := rfl
@[simp] theorem spend_dup (c o n : Nat) : (spend s c o n).dup = s.dup := rfl
@[simp] theorem spend_mgmt (c o n : Nat) : (spend s c o n).mgmt = s.mgmt := rfl
@[simp] theorem spend_store (c o n : Nat) : (spend s c o n).store = s.store := rfl
@[simp] theorem spend_recov (c o n : Nat) : (spend s c o n).recov = s.recov := rfl
@[simp] theorem spend_board (c o n : Nat) : (spend s c o n).board = s.board := rfl
@[simp] theorem spend_hw (c o n : Nat) : (spend s c o n).hw = s.hw := rfl
@[simp] theorem spend_out (c o n : Nat) : (spend s c o n).out = s.out := rfl
@[simp] theorem spend_fresh (c o n : Nat) : (spend s c o n).fresh = s.fresh := rfl

/-! `setMem`. -/

@[simp] theorem setMem_pending (m : Mem) : (setMem s m).pending = s.pending := rfl
@[simp] theorem setMem_part (m : Mem) : (setMem s m).part = s.part := rfl
@[simp] theorem setMem_tb (m : Mem) : (setMem s m).tb = s.tb := rfl
@[simp] theorem setMem_tbHold (m : Mem) : (setMem s m).tbHold = s.tbHold := rfl
@[simp] theorem setMem_led (m : Mem) : (setMem s m).led = s.led := rfl
@[simp] theorem setMem_jn (m : Mem) : (setMem s m).jn = s.jn := rfl
@[simp] theorem setMem_guard (m : Mem) : (setMem s m).guard = s.guard := rfl
@[simp] theorem setMem_eng (m : Mem) : (setMem s m).eng = s.eng := rfl
@[simp] theorem setMem_locks (m : Mem) : (setMem s m).locks = s.locks := rfl
@[simp] theorem setMem_tk (m : Mem) : (setMem s m).tk = s.tk := rfl
@[simp] theorem setMem_host (m : Mem) : (setMem s m).host = s.host := rfl
@[simp] theorem setMem_ev (m : Mem) : (setMem s m).ev = s.ev := rfl
@[simp] theorem setMem_cores (m : Mem) : (setMem s m).cores = s.cores := rfl
@[simp] theorem setMem_fab (m : Mem) : (setMem s m).fab = s.fab := rfl
@[simp] theorem setMem_dup (m : Mem) : (setMem s m).dup = s.dup := rfl
@[simp] theorem setMem_mgmt (m : Mem) : (setMem s m).mgmt = s.mgmt := rfl
@[simp] theorem setMem_store (m : Mem) : (setMem s m).store = s.store := rfl
@[simp] theorem setMem_recov (m : Mem) : (setMem s m).recov = s.recov := rfl
@[simp] theorem setMem_board (m : Mem) : (setMem s m).board = s.board := rfl
@[simp] theorem setMem_hw (m : Mem) : (setMem s m).hw = s.hw := rfl
@[simp] theorem setMem_out (m : Mem) : (setMem s m).out = s.out := rfl
@[simp] theorem setMem_fresh (m : Mem) : (setMem s m).fresh = s.fresh := rfl

/-! `setMemBytes`. -/

@[simp] theorem setMemBytes_pending (a : Nat) (b : Bytes) : (setMemBytes s a b).pending = s.pending := rfl
@[simp] theorem setMemBytes_part (a : Nat) (b : Bytes) : (setMemBytes s a b).part = s.part := rfl
@[simp] theorem setMemBytes_tb (a : Nat) (b : Bytes) : (setMemBytes s a b).tb = s.tb := rfl
@[simp] theorem setMemBytes_tbHold (a : Nat) (b : Bytes) : (setMemBytes s a b).tbHold = s.tbHold := rfl
@[simp] theorem setMemBytes_led (a : Nat) (b : Bytes) : (setMemBytes s a b).led = s.led := rfl
@[simp] theorem setMemBytes_jn (a : Nat) (b : Bytes) : (setMemBytes s a b).jn = s.jn := rfl
@[simp] theorem setMemBytes_guard (a : Nat) (b : Bytes) : (setMemBytes s a b).guard = s.guard := rfl
@[simp] theorem setMemBytes_eng (a : Nat) (b : Bytes) : (setMemBytes s a b).eng = s.eng := rfl
@[simp] theorem setMemBytes_locks (a : Nat) (b : Bytes) : (setMemBytes s a b).locks = s.locks := rfl
@[simp] theorem setMemBytes_tk (a : Nat) (b : Bytes) : (setMemBytes s a b).tk = s.tk := rfl
@[simp] theorem setMemBytes_host (a : Nat) (b : Bytes) : (setMemBytes s a b).host = s.host := rfl
@[simp] theorem setMemBytes_ev (a : Nat) (b : Bytes) : (setMemBytes s a b).ev = s.ev := rfl
@[simp] theorem setMemBytes_cores (a : Nat) (b : Bytes) : (setMemBytes s a b).cores = s.cores := rfl
@[simp] theorem setMemBytes_fab (a : Nat) (b : Bytes) : (setMemBytes s a b).fab = s.fab := rfl
@[simp] theorem setMemBytes_dup (a : Nat) (b : Bytes) : (setMemBytes s a b).dup = s.dup := rfl
@[simp] theorem setMemBytes_mgmt (a : Nat) (b : Bytes) : (setMemBytes s a b).mgmt = s.mgmt := rfl
@[simp] theorem setMemBytes_store (a : Nat) (b : Bytes) : (setMemBytes s a b).store = s.store := rfl
@[simp] theorem setMemBytes_recov (a : Nat) (b : Bytes) : (setMemBytes s a b).recov = s.recov := rfl
@[simp] theorem setMemBytes_board (a : Nat) (b : Bytes) : (setMemBytes s a b).board = s.board := rfl
@[simp] theorem setMemBytes_hw (a : Nat) (b : Bytes) : (setMemBytes s a b).hw = s.hw := rfl
@[simp] theorem setMemBytes_out (a : Nat) (b : Bytes) : (setMemBytes s a b).out = s.out := rfl
@[simp] theorem setMemBytes_fresh (a : Nat) (b : Bytes) : (setMemBytes s a b).fresh = s.fresh := rfl

/-! `setL1`. -/

@[simp] theorem setL1_pending (c l : Nat) (x : L1Line) : (setL1 s c l x).pending = s.pending := rfl
@[simp] theorem setL1_part (c l : Nat) (x : L1Line) : (setL1 s c l x).part = s.part := rfl
@[simp] theorem setL1_tb (c l : Nat) (x : L1Line) : (setL1 s c l x).tb = s.tb := rfl
@[simp] theorem setL1_tbHold (c l : Nat) (x : L1Line) : (setL1 s c l x).tbHold = s.tbHold := rfl
@[simp] theorem setL1_led (c l : Nat) (x : L1Line) : (setL1 s c l x).led = s.led := rfl
@[simp] theorem setL1_jn (c l : Nat) (x : L1Line) : (setL1 s c l x).jn = s.jn := rfl
@[simp] theorem setL1_guard (c l : Nat) (x : L1Line) : (setL1 s c l x).guard = s.guard := rfl
@[simp] theorem setL1_eng (c l : Nat) (x : L1Line) : (setL1 s c l x).eng = s.eng := rfl
@[simp] theorem setL1_locks (c l : Nat) (x : L1Line) : (setL1 s c l x).locks = s.locks := rfl
@[simp] theorem setL1_tk (c l : Nat) (x : L1Line) : (setL1 s c l x).tk = s.tk := rfl
@[simp] theorem setL1_host (c l : Nat) (x : L1Line) : (setL1 s c l x).host = s.host := rfl
@[simp] theorem setL1_ev (c l : Nat) (x : L1Line) : (setL1 s c l x).ev = s.ev := rfl
@[simp] theorem setL1_cores (c l : Nat) (x : L1Line) : (setL1 s c l x).cores = s.cores := rfl
@[simp] theorem setL1_fab (c l : Nat) (x : L1Line) : (setL1 s c l x).fab = s.fab := rfl
@[simp] theorem setL1_dup (c l : Nat) (x : L1Line) : (setL1 s c l x).dup = s.dup := rfl
@[simp] theorem setL1_mgmt (c l : Nat) (x : L1Line) : (setL1 s c l x).mgmt = s.mgmt := rfl
@[simp] theorem setL1_store (c l : Nat) (x : L1Line) : (setL1 s c l x).store = s.store := rfl
@[simp] theorem setL1_recov (c l : Nat) (x : L1Line) : (setL1 s c l x).recov = s.recov := rfl
@[simp] theorem setL1_board (c l : Nat) (x : L1Line) : (setL1 s c l x).board = s.board := rfl
@[simp] theorem setL1_hw (c l : Nat) (x : L1Line) : (setL1 s c l x).hw = s.hw := rfl
@[simp] theorem setL1_out (c l : Nat) (x : L1Line) : (setL1 s c l x).out = s.out := rfl
@[simp] theorem setL1_fresh (c l : Nat) (x : L1Line) : (setL1 s c l x).fresh = s.fresh := rfl

/-! `dropL1`. -/

@[simp] theorem dropL1_pending (c l : Nat) : (dropL1 s c l).pending = s.pending := rfl
@[simp] theorem dropL1_part (c l : Nat) : (dropL1 s c l).part = s.part := rfl
@[simp] theorem dropL1_tb (c l : Nat) : (dropL1 s c l).tb = s.tb := rfl
@[simp] theorem dropL1_tbHold (c l : Nat) : (dropL1 s c l).tbHold = s.tbHold := rfl
@[simp] theorem dropL1_led (c l : Nat) : (dropL1 s c l).led = s.led := rfl
@[simp] theorem dropL1_jn (c l : Nat) : (dropL1 s c l).jn = s.jn := rfl
@[simp] theorem dropL1_guard (c l : Nat) : (dropL1 s c l).guard = s.guard := rfl
@[simp] theorem dropL1_eng (c l : Nat) : (dropL1 s c l).eng = s.eng := rfl
@[simp] theorem dropL1_locks (c l : Nat) : (dropL1 s c l).locks = s.locks := rfl
@[simp] theorem dropL1_tk (c l : Nat) : (dropL1 s c l).tk = s.tk := rfl
@[simp] theorem dropL1_host (c l : Nat) : (dropL1 s c l).host = s.host := rfl
@[simp] theorem dropL1_ev (c l : Nat) : (dropL1 s c l).ev = s.ev := rfl
@[simp] theorem dropL1_cores (c l : Nat) : (dropL1 s c l).cores = s.cores := rfl
@[simp] theorem dropL1_fab (c l : Nat) : (dropL1 s c l).fab = s.fab := rfl
@[simp] theorem dropL1_dup (c l : Nat) : (dropL1 s c l).dup = s.dup := rfl
@[simp] theorem dropL1_mgmt (c l : Nat) : (dropL1 s c l).mgmt = s.mgmt := rfl
@[simp] theorem dropL1_store (c l : Nat) : (dropL1 s c l).store = s.store := rfl
@[simp] theorem dropL1_recov (c l : Nat) : (dropL1 s c l).recov = s.recov := rfl
@[simp] theorem dropL1_board (c l : Nat) : (dropL1 s c l).board = s.board := rfl
@[simp] theorem dropL1_hw (c l : Nat) : (dropL1 s c l).hw = s.hw := rfl
@[simp] theorem dropL1_out (c l : Nat) : (dropL1 s c l).out = s.out := rfl
@[simp] theorem dropL1_fresh (c l : Nat) : (dropL1 s c l).fresh = s.fresh := rfl

/-! `setDir`. -/

@[simp] theorem setDir_pending (l : Nat) (d : DirLine) : (setDir s l d).pending = s.pending := rfl
@[simp] theorem setDir_part (l : Nat) (d : DirLine) : (setDir s l d).part = s.part := rfl
@[simp] theorem setDir_tb (l : Nat) (d : DirLine) : (setDir s l d).tb = s.tb := rfl
@[simp] theorem setDir_tbHold (l : Nat) (d : DirLine) : (setDir s l d).tbHold = s.tbHold := rfl
@[simp] theorem setDir_led (l : Nat) (d : DirLine) : (setDir s l d).led = s.led := rfl
@[simp] theorem setDir_jn (l : Nat) (d : DirLine) : (setDir s l d).jn = s.jn := rfl
@[simp] theorem setDir_guard (l : Nat) (d : DirLine) : (setDir s l d).guard = s.guard := rfl
@[simp] theorem setDir_eng (l : Nat) (d : DirLine) : (setDir s l d).eng = s.eng := rfl
@[simp] theorem setDir_locks (l : Nat) (d : DirLine) : (setDir s l d).locks = s.locks := rfl
@[simp] theorem setDir_tk (l : Nat) (d : DirLine) : (setDir s l d).tk = s.tk := rfl
@[simp] theorem setDir_host (l : Nat) (d : DirLine) : (setDir s l d).host = s.host := rfl
@[simp] theorem setDir_ev (l : Nat) (d : DirLine) : (setDir s l d).ev = s.ev := rfl
@[simp] theorem setDir_cores (l : Nat) (d : DirLine) : (setDir s l d).cores = s.cores := rfl
@[simp] theorem setDir_fab (l : Nat) (d : DirLine) : (setDir s l d).fab = s.fab := rfl
@[simp] theorem setDir_dup (l : Nat) (d : DirLine) : (setDir s l d).dup = s.dup := rfl
@[simp] theorem setDir_mgmt (l : Nat) (d : DirLine) : (setDir s l d).mgmt = s.mgmt := rfl
@[simp] theorem setDir_store (l : Nat) (d : DirLine) : (setDir s l d).store = s.store := rfl
@[simp] theorem setDir_recov (l : Nat) (d : DirLine) : (setDir s l d).recov = s.recov := rfl
@[simp] theorem setDir_board (l : Nat) (d : DirLine) : (setDir s l d).board = s.board := rfl
@[simp] theorem setDir_hw (l : Nat) (d : DirLine) : (setDir s l d).hw = s.hw := rfl
@[simp] theorem setDir_out (l : Nat) (d : DirLine) : (setDir s l d).out = s.out := rfl
@[simp] theorem setDir_fresh (l : Nat) (d : DirLine) : (setDir s l d).fresh = s.fresh := rfl

/-! `dropDir`. -/

@[simp] theorem dropDir_pending (l : Nat) : (dropDir s l).pending = s.pending := rfl
@[simp] theorem dropDir_part (l : Nat) : (dropDir s l).part = s.part := rfl
@[simp] theorem dropDir_tb (l : Nat) : (dropDir s l).tb = s.tb := rfl
@[simp] theorem dropDir_tbHold (l : Nat) : (dropDir s l).tbHold = s.tbHold := rfl
@[simp] theorem dropDir_led (l : Nat) : (dropDir s l).led = s.led := rfl
@[simp] theorem dropDir_jn (l : Nat) : (dropDir s l).jn = s.jn := rfl
@[simp] theorem dropDir_guard (l : Nat) : (dropDir s l).guard = s.guard := rfl
@[simp] theorem dropDir_eng (l : Nat) : (dropDir s l).eng = s.eng := rfl
@[simp] theorem dropDir_locks (l : Nat) : (dropDir s l).locks = s.locks := rfl
@[simp] theorem dropDir_tk (l : Nat) : (dropDir s l).tk = s.tk := rfl
@[simp] theorem dropDir_host (l : Nat) : (dropDir s l).host = s.host := rfl
@[simp] theorem dropDir_ev (l : Nat) : (dropDir s l).ev = s.ev := rfl
@[simp] theorem dropDir_cores (l : Nat) : (dropDir s l).cores = s.cores := rfl
@[simp] theorem dropDir_fab (l : Nat) : (dropDir s l).fab = s.fab := rfl
@[simp] theorem dropDir_dup (l : Nat) : (dropDir s l).dup = s.dup := rfl
@[simp] theorem dropDir_mgmt (l : Nat) : (dropDir s l).mgmt = s.mgmt := rfl
@[simp] theorem dropDir_store (l : Nat) : (dropDir s l).store = s.store := rfl
@[simp] theorem dropDir_recov (l : Nat) : (dropDir s l).recov = s.recov := rfl
@[simp] theorem dropDir_board (l : Nat) : (dropDir s l).board = s.board := rfl
@[simp] theorem dropDir_hw (l : Nat) : (dropDir s l).hw = s.hw := rfl
@[simp] theorem dropDir_out (l : Nat) : (dropDir s l).out = s.out := rfl
@[simp] theorem dropDir_fresh (l : Nat) : (dropDir s l).fresh = s.fresh := rfl

/-! `setLink`. -/

@[simp] theorem setLink_pending (k : Nat) (x : Link) : (setLink s k x).pending = s.pending := rfl
@[simp] theorem setLink_part (k : Nat) (x : Link) : (setLink s k x).part = s.part := rfl
@[simp] theorem setLink_tb (k : Nat) (x : Link) : (setLink s k x).tb = s.tb := rfl
@[simp] theorem setLink_tbHold (k : Nat) (x : Link) : (setLink s k x).tbHold = s.tbHold := rfl
@[simp] theorem setLink_led (k : Nat) (x : Link) : (setLink s k x).led = s.led := rfl
@[simp] theorem setLink_jn (k : Nat) (x : Link) : (setLink s k x).jn = s.jn := rfl
@[simp] theorem setLink_guard (k : Nat) (x : Link) : (setLink s k x).guard = s.guard := rfl
@[simp] theorem setLink_eng (k : Nat) (x : Link) : (setLink s k x).eng = s.eng := rfl
@[simp] theorem setLink_locks (k : Nat) (x : Link) : (setLink s k x).locks = s.locks := rfl
@[simp] theorem setLink_tk (k : Nat) (x : Link) : (setLink s k x).tk = s.tk := rfl
@[simp] theorem setLink_host (k : Nat) (x : Link) : (setLink s k x).host = s.host := rfl
@[simp] theorem setLink_ev (k : Nat) (x : Link) : (setLink s k x).ev = s.ev := rfl
@[simp] theorem setLink_cores (k : Nat) (x : Link) : (setLink s k x).cores = s.cores := rfl
@[simp] theorem setLink_mem (k : Nat) (x : Link) : (setLink s k x).mem = s.mem := rfl
@[simp] theorem setLink_dup (k : Nat) (x : Link) : (setLink s k x).dup = s.dup := rfl
@[simp] theorem setLink_mgmt (k : Nat) (x : Link) : (setLink s k x).mgmt = s.mgmt := rfl
@[simp] theorem setLink_store (k : Nat) (x : Link) : (setLink s k x).store = s.store := rfl
@[simp] theorem setLink_recov (k : Nat) (x : Link) : (setLink s k x).recov = s.recov := rfl
@[simp] theorem setLink_board (k : Nat) (x : Link) : (setLink s k x).board = s.board := rfl
@[simp] theorem setLink_hw (k : Nat) (x : Link) : (setLink s k x).hw = s.hw := rfl
@[simp] theorem setLink_out (k : Nat) (x : Link) : (setLink s k x).out = s.out := rfl
@[simp] theorem setLink_fresh (k : Nat) (x : Link) : (setLink s k x).fresh = s.fresh := rfl

/-! `changeLink`. -/

@[simp] theorem changeLink_pending (k : Nat) (x : Link) : (changeLink s k x).pending = s.pending := by unfold changeLink; split <;> simp
@[simp] theorem changeLink_part (k : Nat) (x : Link) : (changeLink s k x).part = s.part := by unfold changeLink; split <;> simp
@[simp] theorem changeLink_tb (k : Nat) (x : Link) : (changeLink s k x).tb = s.tb := by unfold changeLink; split <;> simp
@[simp] theorem changeLink_tbHold (k : Nat) (x : Link) : (changeLink s k x).tbHold = s.tbHold := by unfold changeLink; split <;> simp
@[simp] theorem changeLink_led (k : Nat) (x : Link) : (changeLink s k x).led = s.led := by unfold changeLink; split <;> simp
@[simp] theorem changeLink_jn (k : Nat) (x : Link) : (changeLink s k x).jn = s.jn := by unfold changeLink; split <;> simp
@[simp] theorem changeLink_guard (k : Nat) (x : Link) : (changeLink s k x).guard = s.guard := by unfold changeLink; split <;> simp
@[simp] theorem changeLink_eng (k : Nat) (x : Link) : (changeLink s k x).eng = s.eng := by unfold changeLink; split <;> simp
@[simp] theorem changeLink_locks (k : Nat) (x : Link) : (changeLink s k x).locks = s.locks := by unfold changeLink; split <;> simp
@[simp] theorem changeLink_tk (k : Nat) (x : Link) : (changeLink s k x).tk = s.tk := by unfold changeLink; split <;> simp
@[simp] theorem changeLink_host (k : Nat) (x : Link) : (changeLink s k x).host = s.host := by unfold changeLink; split <;> simp
@[simp] theorem changeLink_cores (k : Nat) (x : Link) : (changeLink s k x).cores = s.cores := by unfold changeLink; split <;> simp
@[simp] theorem changeLink_mem (k : Nat) (x : Link) : (changeLink s k x).mem = s.mem := by unfold changeLink; split <;> simp
@[simp] theorem changeLink_dup (k : Nat) (x : Link) : (changeLink s k x).dup = s.dup := by unfold changeLink; split <;> simp
@[simp] theorem changeLink_mgmt (k : Nat) (x : Link) : (changeLink s k x).mgmt = s.mgmt := by unfold changeLink; split <;> simp
@[simp] theorem changeLink_store (k : Nat) (x : Link) : (changeLink s k x).store = s.store := by unfold changeLink; split <;> simp
@[simp] theorem changeLink_recov (k : Nat) (x : Link) : (changeLink s k x).recov = s.recov := by unfold changeLink; split <;> simp
@[simp] theorem changeLink_board (k : Nat) (x : Link) : (changeLink s k x).board = s.board := by unfold changeLink; split <;> simp
@[simp] theorem changeLink_hw (k : Nat) (x : Link) : (changeLink s k x).hw = s.hw := by unfold changeLink; split <;> simp
@[simp] theorem changeLink_out (k : Nat) (x : Link) : (changeLink s k x).out = s.out := by unfold changeLink; split <;> simp
@[simp] theorem changeLink_fresh (k : Nat) (x : Link) : (changeLink s k x).fresh = s.fresh := by unfold changeLink; split <;> simp

/-! `setFab`. -/

@[simp] theorem setFab_pending (f : Fabric) : (setFab s f).pending = s.pending := rfl
@[simp] theorem setFab_part (f : Fabric) : (setFab s f).part = s.part := rfl
@[simp] theorem setFab_tb (f : Fabric) : (setFab s f).tb = s.tb := rfl
@[simp] theorem setFab_tbHold (f : Fabric) : (setFab s f).tbHold = s.tbHold := rfl
@[simp] theorem setFab_led (f : Fabric) : (setFab s f).led = s.led := rfl
@[simp] theorem setFab_jn (f : Fabric) : (setFab s f).jn = s.jn := rfl
@[simp] theorem setFab_guard (f : Fabric) : (setFab s f).guard = s.guard := rfl
@[simp] theorem setFab_eng (f : Fabric) : (setFab s f).eng = s.eng := rfl
@[simp] theorem setFab_locks (f : Fabric) : (setFab s f).locks = s.locks := rfl
@[simp] theorem setFab_tk (f : Fabric) : (setFab s f).tk = s.tk := rfl
@[simp] theorem setFab_host (f : Fabric) : (setFab s f).host = s.host := rfl
@[simp] theorem setFab_ev (f : Fabric) : (setFab s f).ev = s.ev := rfl
@[simp] theorem setFab_cores (f : Fabric) : (setFab s f).cores = s.cores := rfl
@[simp] theorem setFab_mem (f : Fabric) : (setFab s f).mem = s.mem := rfl
@[simp] theorem setFab_dup (f : Fabric) : (setFab s f).dup = s.dup := rfl
@[simp] theorem setFab_mgmt (f : Fabric) : (setFab s f).mgmt = s.mgmt := rfl
@[simp] theorem setFab_store (f : Fabric) : (setFab s f).store = s.store := rfl
@[simp] theorem setFab_recov (f : Fabric) : (setFab s f).recov = s.recov := rfl
@[simp] theorem setFab_board (f : Fabric) : (setFab s f).board = s.board := rfl
@[simp] theorem setFab_hw (f : Fabric) : (setFab s f).hw = s.hw := rfl
@[simp] theorem setFab_out (f : Fabric) : (setFab s f).out = s.out := rfl
@[simp] theorem setFab_fresh (f : Fabric) : (setFab s f).fresh = s.fresh := rfl

/-! What an update writes, read back. -/

@[simp] theorem emit_out (o : Out) : (emit s o).out = s.out ++ [o] := rfl
@[simp] theorem dmaOut_out (n : Nat) (a : Dbl) (b : Bytes) : (dmaOut s n a b).out = s.out ++ [.dma n a b] := rfl
@[simp] theorem takeFree_fresh (w : Nat) : (takeFree w s).2.fresh = s.fresh + 1 := rfl
@[simp] theorem takeDraw_fresh (w : Nat) : (takeDraw w s).2.fresh = s.fresh + 1 := rfl
@[simp] theorem setMem_mem (m : Mem) : (setMem s m).mem = m := rfl
@[simp] theorem setFab_fab (f : Fabric) : (setFab s f).fab = f := rfl

theorem fnOf_setFn (f g : Nat) (x : Fn) (h : twf s.host.fns = true) : fnOf (setFn s f x) g = if g = f then x else fnOf s g :=
  tgetD_tset s.host.fns f g {} x h

theorem trayOf_setTray (f t g u : Nat) (x : Tray) (h : twf s.host.trays = true) :
    trayOf (setTray s f t x) g u = if trayKey g u = trayKey f t then x else trayOf s g u :=
  tgetD_tset s.host.trays (trayKey f t) (trayKey g u) {} x h

theorem ctxOf_setCtx (e c g d : Nat) (x : Ctx) (h : twf s.eng.ctxs = true) :
    ctxOf (setCtx s e c x) g d = if ctxKey g d = ctxKey e c then x else ctxOf s g d :=
  tgetD_tset s.eng.ctxs (ctxKey e c) (ctxKey g d) {} x h

@[simp] theorem ticketOf_setTicket (k m : Nat) (x : Ticket) : ticketOf (setTicket s k x) m = if m = k then some x else ticketOf s m :=
  tget_tput s.tk.held k m x

theorem ticketOf_dropTicket (k m : Nat) (h : twf s.tk.held = true) : ticketOf (dropTicket s k) m = if m = k then none else ticketOf s m :=
  tget_tdel s.tk.held k m h

theorem srcOf_setSrc (n m : Nat) (x : Source) (h : twf s.ev.srcs = true) : srcOf (setSrc s n x) m = if m = n then x else srcOf s m :=
  tgetD_tset s.ev.srcs n m {} x h

theorem keyOf_setKey (t u : Nat) (k : TenantKey) (h : twf s.guard.keys = true) : keyOf (setKey s t k) u = if u = t then k else keyOf s u :=
  tgetD_tset s.guard.keys t u {} k h

theorem coreOf_setCore (c d : Nat) (x : Core) (h : twf s.cores.cores = true) : coreOf (setCore s c x) d = if d = c then x else coreOf s d :=
  tgetD_tset s.cores.cores c d {} x h

/-- A core written reads back, whatever the table holds, when it is not what an unlisted core reads as; and every other core stays. -/
theorem coreOf_setCore_same (c : Nat) {x : Core} (h : x ≠ {}) : coreOf (setCore s c x) c = x := tgetD_tset_same s.cores.cores c h

theorem coreOf_setCore_other {c d : Nat} {x : Core} (h : x ≠ {}) (hd : d ≠ c) : coreOf (setCore s c x) d = coreOf s d := by
  simp only [coreOf, setCore, tset, if_neg h, tgetD, tget_tput_other _ x hd]

/-- A table that lists something is not the empty one. -/
theorem tset_ne_nil {α : Type} [DecidableEq α] (t : Tbl α) (k : Nat) {d v : α} (h : v ≠ d) : tset t k d v ≠ [] := by
  intro he
  have h2 := tgetD_tset_same t k h
  rw [he] at h2
  exact h h2.symm

theorem core_ne_default {k : Core} (h : k.frames ≠ []) : k ≠ {} := fun he => h (congrArg Core.frames he)

/-- A frame written is in its core's table; the core's other fields stay. -/
theorem coreOf_setFrame_same (c f : Nat) {x : Frame} (h : x ≠ {}) :
    coreOf (setFrame s c f x) c = { coreOf s c with frames := tset (coreOf s c).frames f {} x } :=
  coreOf_setCore_same s c (core_ne_default (tset_ne_nil _ f h))

theorem coreOf_setFrame_other {c d : Nat} (f : Nat) {x : Frame} (h : x ≠ {}) (hd : d ≠ c) : coreOf (setFrame s c f x) d = coreOf s d :=
  coreOf_setCore_other s (core_ne_default (tset_ne_nil _ f h)) hd

/-- A frame written reads back, whatever the tables hold, when it is not the frame that an unlisted one reads as. -/
theorem frameOf_setFrame_same (c f : Nat) {x : Frame} (h : x ≠ {}) : frameOf (setFrame s c f x) c f = x := by
  simp only [frameOf, coreOf_setFrame_same s c f h]
  exact tgetD_tset_same (coreOf s c).frames f h

/-- Every other frame of the core stays. -/
theorem frameOf_setFrame_other (c : Nat) {f g : Nat} {x : Frame} (h : x ≠ {}) (hg : g ≠ f) : frameOf (setFrame s c f x) c g = frameOf s c g := by
  simp only [frameOf, coreOf_setFrame_same s c f h]
  simp only [tgetD, tset, if_neg h, tget_tput_other _ x hg]

/-! The fields of a frame after a write of a register (R298). -/

variable (x : Frame)

@[simp] theorem setG_state (n : Nat) (v : Word) : (setG x n v).state = x.state := by unfold setG; split <;> rfl
@[simp] theorem setG_d (n : Nat) (v : Word) : (setG x n v).d = x.d := by unfold setG; split <;> rfl
@[simp] theorem setG_m (n : Nat) (v : Word) : (setG x n v).m = x.m := by unfold setG; split <;> rfl
@[simp] theorem setG_repc (n : Nat) (v : Word) : (setG x n v).repc = x.repc := by unfold setG; split <;> rfl
@[simp] theorem setG_repv (n : Nat) (v : Word) : (setG x n v).repv = x.repv := by unfold setG; split <;> rfl
@[simp] theorem setG_lopw (n : Nat) (v : Word) : (setG x n v).lopw = x.lopw := by unfold setG; split <;> rfl
@[simp] theorem setG_lopa (n : Nat) (v : Word) : (setG x n v).lopa = x.lopa := by unfold setG; split <;> rfl
@[simp] theorem setG_lov (n : Nat) (v : Word) : (setG x n v).lov = x.lov := by unfold setG; split <;> rfl
@[simp] theorem setG_pc (n : Nat) (v : Word) : (setG x n v).pc = x.pc := by unfold setG; split <;> rfl
@[simp] theorem setG_fetch (n : Nat) (v : Word) : (setG x n v).fetch = x.fetch := by unfold setG; split <;> rfl
@[simp] theorem setG_psw (n : Nat) (v : Word) : (setG x n v).psw = x.psw := by unfold setG; split <;> rfl
@[simp] theorem setG_evb (n : Nat) (v : Word) : (setG x n v).evb = x.evb := by unfold setG; split <;> rfl
@[simp] theorem setG_epc (n : Nat) (v : Word) : (setG x n v).epc = x.epc := by unfold setG; split <;> rfl
@[simp] theorem setG_epsw (n : Nat) (v : Word) : (setG x n v).epsw = x.epsw := by unfold setG; split <;> rfl
@[simp] theorem setG_einfo (n : Nat) (v : Word) : (setG x n v).einfo = x.einfo := by unfold setG; split <;> rfl
@[simp] theorem setG_eaddr (n : Nat) (v : Word) : (setG x n v).eaddr = x.eaddr := by unfold setG; split <;> rfl
@[simp] theorem setG_dfpc (n : Nat) (v : Word) : (setG x n v).dfpc = x.dfpc := by unfold setG; split <;> rfl
@[simp] theorem setG_svp (n : Nat) (v : Word) : (setG x n v).svp = x.svp := by unfold setG; split <;> rfl
@[simp] theorem setG_tcr (n : Nat) (v : Word) : (setG x n v).tcr = x.tcr := by unfold setG; split <;> rfl
@[simp] theorem setG_ttb (n : Nat) (v : Word) : (setG x n v).ttb = x.ttb := by unfold setG; split <;> rfl
@[simp] theorem setG_asid (n : Nat) (v : Word) : (setG x n v).asid = x.asid := by unfold setG; split <;> rfl
@[simp] theorem setG_keyctl (n : Nat) (v : Word) : (setG x n v).keyctl = x.keyctl := by unfold setG; split <;> rfl
@[simp] theorem setG_dlazy (n : Nat) (v : Word) : (setG x n v).dlazy = x.dlazy := by unfold setG; split <;> rfl
@[simp] theorem setG_ssp (n : Nat) (v : Word) : (setG x n v).ssp = x.ssp := by unfold setG; split <;> rfl
@[simp] theorem setG_ste (n : Nat) (v : Word) : (setG x n v).ste = x.ste := by unfold setG; split <;> rfl
@[simp] theorem setG_epoch (n : Nat) (v : Word) : (setG x n v).epoch = x.epoch := by unfold setG; split <;> rfl
@[simp] theorem setG_restored (n : Nat) (v : Word) : (setG x n v).restored = x.restored := by unfold setG; split <;> rfl
@[simp] theorem setG_cmdErr (n : Nat) (v : Word) : (setG x n v).cmdErr = x.cmdErr := by unfold setG; split <;> rfl
@[simp] theorem setG_pend (n : Nat) (v : Word) : (setG x n v).pend = x.pend := by unfold setG; split <;> rfl
@[simp] theorem setG_wait (n : Nat) (v : Word) : (setG x n v).wait = x.wait := by unfold setG; split <;> rfl
@[simp] theorem setG_lop (n : Nat) (v : Word) : (setG x n v).lop = x.lop := by unfold setG; split <;> rfl
@[simp] theorem setG_lopPsw (n : Nat) (v : Word) : (setG x n v).lopPsw = x.lopPsw := by unfold setG; split <;> rfl
@[simp] theorem setG_lopExc (n : Nat) (v : Word) : (setG x n v).lopExc = x.lopExc := by unfold setG; split <;> rfl
@[simp] theorem setG_lopSb (n : Nat) (v : Word) : (setG x n v).lopSb = x.lopSb := by unfold setG; split <;> rfl
@[simp] theorem setG_rep (n : Nat) (v : Word) : (setG x n v).rep = x.rep := by unfold setG; split <;> rfl
@[simp] theorem setG_cmds (n : Nat) (v : Word) : (setG x n v).cmds = x.cmds := by unfold setG; split <;> rfl
@[simp] theorem setG_ctag (n : Nat) (v : Word) : (setG x n v).ctag = x.ctag := by unfold setG; split <;> rfl
@[simp] theorem setG_last (n : Nat) (v : Word) : (setG x n v).last = x.last := by unfold setG; split <;> rfl
@[simp] theorem setG_traceDue (n : Nat) (v : Word) : (setG x n v).traceDue = x.traceDue := by unfold setG; split <;> rfl
@[simp] theorem setD_state (k : Nat) (a : Acc) : (setD x k a).state = x.state := rfl
@[simp] theorem setD_g (k : Nat) (a : Acc) : (setD x k a).g = x.g := rfl
@[simp] theorem setD_m (k : Nat) (a : Acc) : (setD x k a).m = x.m := rfl
@[simp] theorem setD_repc (k : Nat) (a : Acc) : (setD x k a).repc = x.repc := rfl
@[simp] theorem setD_repv (k : Nat) (a : Acc) : (setD x k a).repv = x.repv := rfl
@[simp] theorem setD_lopw (k : Nat) (a : Acc) : (setD x k a).lopw = x.lopw := rfl
@[simp] theorem setD_lopa (k : Nat) (a : Acc) : (setD x k a).lopa = x.lopa := rfl
@[simp] theorem setD_lov (k : Nat) (a : Acc) : (setD x k a).lov = x.lov := rfl
@[simp] theorem setD_pc (k : Nat) (a : Acc) : (setD x k a).pc = x.pc := rfl
@[simp] theorem setD_fetch (k : Nat) (a : Acc) : (setD x k a).fetch = x.fetch := rfl
@[simp] theorem setD_psw (k : Nat) (a : Acc) : (setD x k a).psw = x.psw := rfl
@[simp] theorem setD_evb (k : Nat) (a : Acc) : (setD x k a).evb = x.evb := rfl
@[simp] theorem setD_epc (k : Nat) (a : Acc) : (setD x k a).epc = x.epc := rfl
@[simp] theorem setD_epsw (k : Nat) (a : Acc) : (setD x k a).epsw = x.epsw := rfl
@[simp] theorem setD_einfo (k : Nat) (a : Acc) : (setD x k a).einfo = x.einfo := rfl
@[simp] theorem setD_eaddr (k : Nat) (a : Acc) : (setD x k a).eaddr = x.eaddr := rfl
@[simp] theorem setD_dfpc (k : Nat) (a : Acc) : (setD x k a).dfpc = x.dfpc := rfl
@[simp] theorem setD_svp (k : Nat) (a : Acc) : (setD x k a).svp = x.svp := rfl
@[simp] theorem setD_tcr (k : Nat) (a : Acc) : (setD x k a).tcr = x.tcr := rfl
@[simp] theorem setD_ttb (k : Nat) (a : Acc) : (setD x k a).ttb = x.ttb := rfl
@[simp] theorem setD_asid (k : Nat) (a : Acc) : (setD x k a).asid = x.asid := rfl
@[simp] theorem setD_keyctl (k : Nat) (a : Acc) : (setD x k a).keyctl = x.keyctl := rfl
@[simp] theorem setD_dlazy (k : Nat) (a : Acc) : (setD x k a).dlazy = x.dlazy := rfl
@[simp] theorem setD_ssp (k : Nat) (a : Acc) : (setD x k a).ssp = x.ssp := rfl
@[simp] theorem setD_ste (k : Nat) (a : Acc) : (setD x k a).ste = x.ste := rfl
@[simp] theorem setD_epoch (k : Nat) (a : Acc) : (setD x k a).epoch = x.epoch := rfl
@[simp] theorem setD_restored (k : Nat) (a : Acc) : (setD x k a).restored = x.restored := rfl
@[simp] theorem setD_cmdErr (k : Nat) (a : Acc) : (setD x k a).cmdErr = x.cmdErr := rfl
@[simp] theorem setD_pend (k : Nat) (a : Acc) : (setD x k a).pend = x.pend := rfl
@[simp] theorem setD_wait (k : Nat) (a : Acc) : (setD x k a).wait = x.wait := rfl
@[simp] theorem setD_lop (k : Nat) (a : Acc) : (setD x k a).lop = x.lop := rfl
@[simp] theorem setD_lopPsw (k : Nat) (a : Acc) : (setD x k a).lopPsw = x.lopPsw := rfl
@[simp] theorem setD_lopExc (k : Nat) (a : Acc) : (setD x k a).lopExc = x.lopExc := rfl
@[simp] theorem setD_lopSb (k : Nat) (a : Acc) : (setD x k a).lopSb = x.lopSb := rfl
@[simp] theorem setD_rep (k : Nat) (a : Acc) : (setD x k a).rep = x.rep := rfl
@[simp] theorem setD_cmds (k : Nat) (a : Acc) : (setD x k a).cmds = x.cmds := rfl
@[simp] theorem setD_ctag (k : Nat) (a : Acc) : (setD x k a).ctag = x.ctag := rfl
@[simp] theorem setD_last (k : Nat) (a : Acc) : (setD x k a).last = x.last := rfl
@[simp] theorem setD_traceDue (k : Nat) (a : Acc) : (setD x k a).traceDue = x.traceDue := rfl
@[simp] theorem setM_state (k : Nat) (v : Word × Word) : (setM x k v).state = x.state := rfl
@[simp] theorem setM_g (k : Nat) (v : Word × Word) : (setM x k v).g = x.g := rfl
@[simp] theorem setM_d (k : Nat) (v : Word × Word) : (setM x k v).d = x.d := rfl
@[simp] theorem setM_repc (k : Nat) (v : Word × Word) : (setM x k v).repc = x.repc := rfl
@[simp] theorem setM_repv (k : Nat) (v : Word × Word) : (setM x k v).repv = x.repv := rfl
@[simp] theorem setM_lopw (k : Nat) (v : Word × Word) : (setM x k v).lopw = x.lopw := rfl
@[simp] theorem setM_lopa (k : Nat) (v : Word × Word) : (setM x k v).lopa = x.lopa := rfl
@[simp] theorem setM_lov (k : Nat) (v : Word × Word) : (setM x k v).lov = x.lov := rfl
@[simp] theorem setM_pc (k : Nat) (v : Word × Word) : (setM x k v).pc = x.pc := rfl
@[simp] theorem setM_fetch (k : Nat) (v : Word × Word) : (setM x k v).fetch = x.fetch := rfl
@[simp] theorem setM_psw (k : Nat) (v : Word × Word) : (setM x k v).psw = x.psw := rfl
@[simp] theorem setM_evb (k : Nat) (v : Word × Word) : (setM x k v).evb = x.evb := rfl
@[simp] theorem setM_epc (k : Nat) (v : Word × Word) : (setM x k v).epc = x.epc := rfl
@[simp] theorem setM_epsw (k : Nat) (v : Word × Word) : (setM x k v).epsw = x.epsw := rfl
@[simp] theorem setM_einfo (k : Nat) (v : Word × Word) : (setM x k v).einfo = x.einfo := rfl
@[simp] theorem setM_eaddr (k : Nat) (v : Word × Word) : (setM x k v).eaddr = x.eaddr := rfl
@[simp] theorem setM_dfpc (k : Nat) (v : Word × Word) : (setM x k v).dfpc = x.dfpc := rfl
@[simp] theorem setM_svp (k : Nat) (v : Word × Word) : (setM x k v).svp = x.svp := rfl
@[simp] theorem setM_tcr (k : Nat) (v : Word × Word) : (setM x k v).tcr = x.tcr := rfl
@[simp] theorem setM_ttb (k : Nat) (v : Word × Word) : (setM x k v).ttb = x.ttb := rfl
@[simp] theorem setM_asid (k : Nat) (v : Word × Word) : (setM x k v).asid = x.asid := rfl
@[simp] theorem setM_keyctl (k : Nat) (v : Word × Word) : (setM x k v).keyctl = x.keyctl := rfl
@[simp] theorem setM_dlazy (k : Nat) (v : Word × Word) : (setM x k v).dlazy = x.dlazy := rfl
@[simp] theorem setM_ssp (k : Nat) (v : Word × Word) : (setM x k v).ssp = x.ssp := rfl
@[simp] theorem setM_ste (k : Nat) (v : Word × Word) : (setM x k v).ste = x.ste := rfl
@[simp] theorem setM_epoch (k : Nat) (v : Word × Word) : (setM x k v).epoch = x.epoch := rfl
@[simp] theorem setM_restored (k : Nat) (v : Word × Word) : (setM x k v).restored = x.restored := rfl
@[simp] theorem setM_cmdErr (k : Nat) (v : Word × Word) : (setM x k v).cmdErr = x.cmdErr := rfl
@[simp] theorem setM_pend (k : Nat) (v : Word × Word) : (setM x k v).pend = x.pend := rfl
@[simp] theorem setM_wait (k : Nat) (v : Word × Word) : (setM x k v).wait = x.wait := rfl
@[simp] theorem setM_lop (k : Nat) (v : Word × Word) : (setM x k v).lop = x.lop := rfl
@[simp] theorem setM_lopPsw (k : Nat) (v : Word × Word) : (setM x k v).lopPsw = x.lopPsw := rfl
@[simp] theorem setM_lopExc (k : Nat) (v : Word × Word) : (setM x k v).lopExc = x.lopExc := rfl
@[simp] theorem setM_lopSb (k : Nat) (v : Word × Word) : (setM x k v).lopSb = x.lopSb := rfl
@[simp] theorem setM_rep (k : Nat) (v : Word × Word) : (setM x k v).rep = x.rep := rfl
@[simp] theorem setM_cmds (k : Nat) (v : Word × Word) : (setM x k v).cmds = x.cmds := rfl
@[simp] theorem setM_ctag (k : Nat) (v : Word × Word) : (setM x k v).ctag = x.ctag := rfl
@[simp] theorem setM_last (k : Nat) (v : Word × Word) : (setM x k v).last = x.last := rfl
@[simp] theorem setM_traceDue (k : Nat) (v : Word × Word) : (setM x k v).traceDue = x.traceDue := rfl

@[simp] theorem gReg_zero : gReg x 0 = 0 := rfl
@[simp] theorem setG_zero (v : Word) : setG x 0 v = x := rfl

end Sys2Proof.Machine
end

