-- ==== Sys2Proof/Laws/Ops.lean ====
section
/-! SUPPORT. What the shared operations can do: traces, locks (R169), the mailbox's frame (R485, R486). -/
namespace Sys2Proof.Machine
set_option Elab.async false

variable (s : State)

/-! A trace record changes the engines' trace counters and what goes out, nothing else (R178). -/

@[simp] theorem tracePut_pending (b : Bytes) : (tracePut s b).pending = s.pending := rfl
@[simp] theorem tracePut_part (b : Bytes) : (tracePut s b).part = s.part := rfl
@[simp] theorem tracePut_tb (b : Bytes) : (tracePut s b).tb = s.tb := rfl
@[simp] theorem tracePut_tbHold (b : Bytes) : (tracePut s b).tbHold = s.tbHold := rfl
@[simp] theorem tracePut_led (b : Bytes) : (tracePut s b).led = s.led := rfl
@[simp] theorem tracePut_jn (b : Bytes) : (tracePut s b).jn = s.jn := rfl
@[simp] theorem tracePut_guard (b : Bytes) : (tracePut s b).guard = s.guard := rfl
@[simp] theorem tracePut_locks (b : Bytes) : (tracePut s b).locks = s.locks := rfl
@[simp] theorem tracePut_tk (b : Bytes) : (tracePut s b).tk = s.tk := rfl
@[simp] theorem tracePut_host (b : Bytes) : (tracePut s b).host = s.host := rfl
@[simp] theorem tracePut_ev (b : Bytes) : (tracePut s b).ev = s.ev := rfl
@[simp] theorem tracePut_cores (b : Bytes) : (tracePut s b).cores = s.cores := rfl
@[simp] theorem tracePut_mem (b : Bytes) : (tracePut s b).mem = s.mem := rfl
@[simp] theorem tracePut_fab (b : Bytes) : (tracePut s b).fab = s.fab := rfl
@[simp] theorem tracePut_dup (b : Bytes) : (tracePut s b).dup = s.dup := rfl
@[simp] theorem tracePut_mgmt (b : Bytes) : (tracePut s b).mgmt = s.mgmt := rfl
@[simp] theorem tracePut_store (b : Bytes) : (tracePut s b).store = s.store := rfl
@[simp] theorem tracePut_recov (b : Bytes) : (tracePut s b).recov = s.recov := rfl
@[simp] theorem tracePut_board (b : Bytes) : (tracePut s b).board = s.board := rfl
@[simp] theorem tracePut_hw (b : Bytes) : (tracePut s b).hw = s.hw := rfl
@[simp] theorem tracePut_fresh (b : Bytes) : (tracePut s b).fresh = s.fresh := rfl
@[simp] theorem trace_pending (e c t w d : Nat) (g : Bool) : (trace s e c t w d g).pending = s.pending := by
  unfold trace; dsimp only; repeat' split
  all_goals rfl
@[simp] theorem trace_part (e c t w d : Nat) (g : Bool) : (trace s e c t w d g).part = s.part := by
  unfold trace; dsimp only; repeat' split
  all_goals rfl
@[simp] theorem trace_tb (e c t w d : Nat) (g : Bool) : (trace s e c t w d g).tb = s.tb := by
  unfold trace; dsimp only; repeat' split
  all_goals rfl
@[simp] theorem trace_tbHold (e c t w d : Nat) (g : Bool) : (trace s e c t w d g).tbHold = s.tbHold := by
  unfold trace; dsimp only; repeat' split
  all_goals rfl
@[simp] theorem trace_led (e c t w d : Nat) (g : Bool) : (trace s e c t w d g).led = s.led := by
  unfold trace; dsimp only; repeat' split
  all_goals rfl
@[simp] theorem trace_jn (e c t w d : Nat) (g : Bool) : (trace s e c t w d g).jn = s.jn := by
  unfold trace; dsimp only; repeat' split
  all_goals rfl
@[simp] theorem trace_guard (e c t w d : Nat) (g : Bool) : (trace s e c t w d g).guard = s.guard := by
  unfold trace; dsimp only; repeat' split
  all_goals rfl
@[simp] theorem trace_locks (e c t w d : Nat) (g : Bool) : (trace s e c t w d g).locks = s.locks := by
  unfold trace; dsimp only; repeat' split
  all_goals rfl
@[simp] theorem trace_tk (e c t w d : Nat) (g : Bool) : (trace s e c t w d g).tk = s.tk := by
  unfold trace; dsimp only; repeat' split
  all_goals rfl
@[simp] theorem trace_host (e c t w d : Nat) (g : Bool) : (trace s e c t w d g).host = s.host := by
  unfold trace; dsimp only; repeat' split
  all_goals rfl
@[simp] theorem trace_ev (e c t w d : Nat) (g : Bool) : (trace s e c t w d g).ev = s.ev := by
  unfold trace; dsimp only; repeat' split
  all_goals rfl
@[simp] theorem trace_cores (e c t w d : Nat) (g : Bool) : (trace s e c t w d g).cores = s.cores := by
  unfold trace; dsimp only; repeat' split
  all_goals rfl
@[simp] theorem trace_mem (e c t w d : Nat) (g : Bool) : (trace s e c t w d g).mem = s.mem := by
  unfold trace; dsimp only; repeat' split
  all_goals rfl
@[simp] theorem trace_fab (e c t w d : Nat) (g : Bool) : (trace s e c t w d g).fab = s.fab := by
  unfold trace; dsimp only; repeat' split
  all_goals rfl
@[simp] theorem trace_dup (e c t w d : Nat) (g : Bool) : (trace s e c t w d g).dup = s.dup := by
  unfold trace; dsimp only; repeat' split
  all_goals rfl
@[simp] theorem trace_mgmt (e c t w d : Nat) (g : Bool) : (trace s e c t w d g).mgmt = s.mgmt := by
  unfold trace; dsimp only; repeat' split
  all_goals rfl
@[simp] theorem trace_store (e c t w d : Nat) (g : Bool) : (trace s e c t w d g).store = s.store := by
  unfold trace; dsimp only; repeat' split
  all_goals rfl
@[simp] theorem trace_recov (e c t w d : Nat) (g : Bool) : (trace s e c t w d g).recov = s.recov := by
  unfold trace; dsimp only; repeat' split
  all_goals rfl
@[simp] theorem trace_board (e c t w d : Nat) (g : Bool) : (trace s e c t w d g).board = s.board := by
  unfold trace; dsimp only; repeat' split
  all_goals rfl
@[simp] theorem trace_hw (e c t w d : Nat) (g : Bool) : (trace s e c t w d g).hw = s.hw := by
  unfold trace; dsimp only; repeat' split
  all_goals rfl
@[simp] theorem trace_fresh (e c t w d : Nat) (g : Bool) : (trace s e c t w d g).fresh = s.fresh := by
  unfold trace; dsimp only; repeat' split
  all_goals rfl
@[simp] theorem traceLock_pending (t : Nat) (o : Owner) (ep : Half) (k : Nat) : (traceLock s t o ep k).pending = s.pending := by
  unfold traceLock; split <;> simp
@[simp] theorem traceLock_part (t : Nat) (o : Owner) (ep : Half) (k : Nat) : (traceLock s t o ep k).part = s.part := by
  unfold traceLock; split <;> simp
@[simp] theorem traceLock_tb (t : Nat) (o : Owner) (ep : Half) (k : Nat) : (traceLock s t o ep k).tb = s.tb := by
  unfold traceLock; split <;> simp
@[simp] theorem traceLock_tbHold (t : Nat) (o : Owner) (ep : Half) (k : Nat) : (traceLock s t o ep k).tbHold = s.tbHold := by
  unfold traceLock; split <;> simp
@[simp] theorem traceLock_led (t : Nat) (o : Owner) (ep : Half) (k : Nat) : (traceLock s t o ep k).led = s.led := by
  unfold traceLock; split <;> simp
@[simp] theorem traceLock_jn (t : Nat) (o : Owner) (ep : Half) (k : Nat) : (traceLock s t o ep k).jn = s.jn := by
  unfold traceLock; split <;> simp
@[simp] theorem traceLock_guard (t : Nat) (o : Owner) (ep : Half) (k : Nat) : (traceLock s t o ep k).guard = s.guard := by
  unfold traceLock; split <;> simp
@[simp] theorem traceLock_locks (t : Nat) (o : Owner) (ep : Half) (k : Nat) : (traceLock s t o ep k).locks = s.locks := by
  unfold traceLock; split <;> simp
@[simp] theorem traceLock_tk (t : Nat) (o : Owner) (ep : Half) (k : Nat) : (traceLock s t o ep k).tk = s.tk := by
  unfold traceLock; split <;> simp
@[simp] theorem traceLock_host (t : Nat) (o : Owner) (ep : Half) (k : Nat) : (traceLock s t o ep k).host = s.host := by
  unfold traceLock; split <;> simp
@[simp] theorem traceLock_ev (t : Nat) (o : Owner) (ep : Half) (k : Nat) : (traceLock s t o ep k).ev = s.ev := by
  unfold traceLock; split <;> simp
@[simp] theorem traceLock_cores (t : Nat) (o : Owner) (ep : Half) (k : Nat) : (traceLock s t o ep k).cores = s.cores := by
  unfold traceLock; split <;> simp
@[simp] theorem traceLock_mem (t : Nat) (o : Owner) (ep : Half) (k : Nat) : (traceLock s t o ep k).mem = s.mem := by
  unfold traceLock; split <;> simp
@[simp] theorem traceLock_fab (t : Nat) (o : Owner) (ep : Half) (k : Nat) : (traceLock s t o ep k).fab = s.fab := by
  unfold traceLock; split <;> simp
@[simp] theorem traceLock_dup (t : Nat) (o : Owner) (ep : Half) (k : Nat) : (traceLock s t o ep k).dup = s.dup := by
  unfold traceLock; split <;> simp
@[simp] theorem traceLock_mgmt (t : Nat) (o : Owner) (ep : Half) (k : Nat) : (traceLock s t o ep k).mgmt = s.mgmt := by
  unfold traceLock; split <;> simp
@[simp] theorem traceLock_store (t : Nat) (o : Owner) (ep : Half) (k : Nat) : (traceLock s t o ep k).store = s.store := by
  unfold traceLock; split <;> simp
@[simp] theorem traceLock_recov (t : Nat) (o : Owner) (ep : Half) (k : Nat) : (traceLock s t o ep k).recov = s.recov := by
  unfold traceLock; split <;> simp
@[simp] theorem traceLock_board (t : Nat) (o : Owner) (ep : Half) (k : Nat) : (traceLock s t o ep k).board = s.board := by
  unfold traceLock; split <;> simp
@[simp] theorem traceLock_hw (t : Nat) (o : Owner) (ep : Half) (k : Nat) : (traceLock s t o ep k).hw = s.hw := by
  unfold traceLock; split <;> simp
@[simp] theorem traceLock_fresh (t : Nat) (o : Owner) (ep : Half) (k : Nat) : (traceLock s t o ep k).fresh = s.fresh := by
  unfold traceLock; split <;> simp

/-! Locks (R169): requests and releases change the locks and the trace, nothing else. -/

@[simp] theorem requestLock_pending (o : Owner) (ep : Half) (p : Bool) (k : Nat) : (requestLock s o ep p k).pending = s.pending := by
  unfold requestLock; repeat' split
  all_goals simp
@[simp] theorem requestLock_part (o : Owner) (ep : Half) (p : Bool) (k : Nat) : (requestLock s o ep p k).part = s.part := by
  unfold requestLock; repeat' split
  all_goals simp
@[simp] theorem requestLock_tb (o : Owner) (ep : Half) (p : Bool) (k : Nat) : (requestLock s o ep p k).tb = s.tb := by
  unfold requestLock; repeat' split
  all_goals simp
@[simp] theorem requestLock_tbHold (o : Owner) (ep : Half) (p : Bool) (k : Nat) : (requestLock s o ep p k).tbHold = s.tbHold := by
  unfold requestLock; repeat' split
  all_goals simp
@[simp] theorem requestLock_led (o : Owner) (ep : Half) (p : Bool) (k : Nat) : (requestLock s o ep p k).led = s.led := by
  unfold requestLock; repeat' split
  all_goals simp
@[simp] theorem requestLock_jn (o : Owner) (ep : Half) (p : Bool) (k : Nat) : (requestLock s o ep p k).jn = s.jn := by
  unfold requestLock; repeat' split
  all_goals simp
@[simp] theorem requestLock_guard (o : Owner) (ep : Half) (p : Bool) (k : Nat) : (requestLock s o ep p k).guard = s.guard := by
  unfold requestLock; repeat' split
  all_goals simp
@[simp] theorem requestLock_tk (o : Owner) (ep : Half) (p : Bool) (k : Nat) : (requestLock s o ep p k).tk = s.tk := by
  unfold requestLock; repeat' split
  all_goals simp
@[simp] theorem requestLock_host (o : Owner) (ep : Half) (p : Bool) (k : Nat) : (requestLock s o ep p k).host = s.host := by
  unfold requestLock; repeat' split
  all_goals simp
@[simp] theorem requestLock_ev (o : Owner) (ep : Half) (p : Bool) (k : Nat) : (requestLock s o ep p k).ev = s.ev := by
  unfold requestLock; repeat' split
  all_goals simp
@[simp] theorem requestLock_cores (o : Owner) (ep : Half) (p : Bool) (k : Nat) : (requestLock s o ep p k).cores = s.cores := by
  unfold requestLock; repeat' split
  all_goals simp
@[simp] theorem requestLock_mem (o : Owner) (ep : Half) (p : Bool) (k : Nat) : (requestLock s o ep p k).mem = s.mem := by
  unfold requestLock; repeat' split
  all_goals simp
@[simp] theorem requestLock_fab (o : Owner) (ep : Half) (p : Bool) (k : Nat) : (requestLock s o ep p k).fab = s.fab := by
  unfold requestLock; repeat' split
  all_goals simp
@[simp] theorem requestLock_dup (o : Owner) (ep : Half) (p : Bool) (k : Nat) : (requestLock s o ep p k).dup = s.dup := by
  unfold requestLock; repeat' split
  all_goals simp
@[simp] theorem requestLock_mgmt (o : Owner) (ep : Half) (p : Bool) (k : Nat) : (requestLock s o ep p k).mgmt = s.mgmt := by
  unfold requestLock; repeat' split
  all_goals simp
@[simp] theorem requestLock_store (o : Owner) (ep : Half) (p : Bool) (k : Nat) : (requestLock s o ep p k).store = s.store := by
  unfold requestLock; repeat' split
  all_goals simp
@[simp] theorem requestLock_recov (o : Owner) (ep : Half) (p : Bool) (k : Nat) : (requestLock s o ep p k).recov = s.recov := by
  unfold requestLock; repeat' split
  all_goals simp
@[simp] theorem requestLock_board (o : Owner) (ep : Half) (p : Bool) (k : Nat) : (requestLock s o ep p k).board = s.board := by
  unfold requestLock; repeat' split
  all_goals simp
@[simp] theorem requestLock_hw (o : Owner) (ep : Half) (p : Bool) (k : Nat) : (requestLock s o ep p k).hw = s.hw := by
  unfold requestLock; repeat' split
  all_goals simp
@[simp] theorem requestLock_fresh (o : Owner) (ep : Half) (p : Bool) (k : Nat) : (requestLock s o ep p k).fresh = s.fresh := by
  unfold requestLock; repeat' split
  all_goals simp
@[simp] theorem releaseLock_pending (o : Owner) (ep : Half) (k : Nat) : (releaseLock s o ep k).pending = s.pending := by
  unfold releaseLock; repeat' split
  all_goals simp
@[simp] theorem releaseLock_part (o : Owner) (ep : Half) (k : Nat) : (releaseLock s o ep k).part = s.part := by
  unfold releaseLock; repeat' split
  all_goals simp
@[simp] theorem releaseLock_tb (o : Owner) (ep : Half) (k : Nat) : (releaseLock s o ep k).tb = s.tb := by
  unfold releaseLock; repeat' split
  all_goals simp
@[simp] theorem releaseLock_tbHold (o : Owner) (ep : Half) (k : Nat) : (releaseLock s o ep k).tbHold = s.tbHold := by
  unfold releaseLock; repeat' split
  all_goals simp
@[simp] theorem releaseLock_led (o : Owner) (ep : Half) (k : Nat) : (releaseLock s o ep k).led = s.led := by
  unfold releaseLock; repeat' split
  all_goals simp
@[simp] theorem releaseLock_jn (o : Owner) (ep : Half) (k : Nat) : (releaseLock s o ep k).jn = s.jn := by
  unfold releaseLock; repeat' split
  all_goals simp
@[simp] theorem releaseLock_guard (o : Owner) (ep : Half) (k : Nat) : (releaseLock s o ep k).guard = s.guard := by
  unfold releaseLock; repeat' split
  all_goals simp
@[simp] theorem releaseLock_tk (o : Owner) (ep : Half) (k : Nat) : (releaseLock s o ep k).tk = s.tk := by
  unfold releaseLock; repeat' split
  all_goals simp
@[simp] theorem releaseLock_host (o : Owner) (ep : Half) (k : Nat) : (releaseLock s o ep k).host = s.host := by
  unfold releaseLock; repeat' split
  all_goals simp
@[simp] theorem releaseLock_ev (o : Owner) (ep : Half) (k : Nat) : (releaseLock s o ep k).ev = s.ev := by
  unfold releaseLock; repeat' split
  all_goals simp
@[simp] theorem releaseLock_cores (o : Owner) (ep : Half) (k : Nat) : (releaseLock s o ep k).cores = s.cores := by
  unfold releaseLock; repeat' split
  all_goals simp
@[simp] theorem releaseLock_mem (o : Owner) (ep : Half) (k : Nat) : (releaseLock s o ep k).mem = s.mem := by
  unfold releaseLock; repeat' split
  all_goals simp
@[simp] theorem releaseLock_fab (o : Owner) (ep : Half) (k : Nat) : (releaseLock s o ep k).fab = s.fab := by
  unfold releaseLock; repeat' split
  all_goals simp
@[simp] theorem releaseLock_dup (o : Owner) (ep : Half) (k : Nat) : (releaseLock s o ep k).dup = s.dup := by
  unfold releaseLock; repeat' split
  all_goals simp
@[simp] theorem releaseLock_mgmt (o : Owner) (ep : Half) (k : Nat) : (releaseLock s o ep k).mgmt = s.mgmt := by
  unfold releaseLock; repeat' split
  all_goals simp
@[simp] theorem releaseLock_store (o : Owner) (ep : Half) (k : Nat) : (releaseLock s o ep k).store = s.store := by
  unfold releaseLock; repeat' split
  all_goals simp
@[simp] theorem releaseLock_recov (o : Owner) (ep : Half) (k : Nat) : (releaseLock s o ep k).recov = s.recov := by
  unfold releaseLock; repeat' split
  all_goals simp
@[simp] theorem releaseLock_board (o : Owner) (ep : Half) (k : Nat) : (releaseLock s o ep k).board = s.board := by
  unfold releaseLock; repeat' split
  all_goals simp
@[simp] theorem releaseLock_hw (o : Owner) (ep : Half) (k : Nat) : (releaseLock s o ep k).hw = s.hw := by
  unfold releaseLock; repeat' split
  all_goals simp
@[simp] theorem releaseLock_fresh (o : Owner) (ep : Half) (k : Nat) : (releaseLock s o ep k).fresh = s.fresh := by
  unfold releaseLock; repeat' split
  all_goals simp

/-- A free lock is granted at once. -/
theorem requestLock_free {o : Owner} {ep : Half} {p : Bool} {k : Nat} (h : tget s.locks k = none) :
    (requestLock s o ep p k).locks = tput s.locks k { owner := o, epoch := ep, spill := spills s k } := by
  unfold requestLock; rw [h]; simp

@[simp] theorem trace_tlb (e c t w d : Nat) (g : Bool) : (trace s e c t w d g).eng.tlb = s.eng.tlb := by
  unfold trace; dsimp only; repeat' split
  all_goals rfl
@[simp] theorem traceLock_tlb (t : Nat) (o : Owner) (ep : Half) (k : Nat) : (traceLock s t o ep k).eng.tlb = s.eng.tlb := by
  unfold traceLock; split <;> simp
@[simp] theorem requestLock_tlb (o : Owner) (ep : Half) (p : Bool) (k : Nat) : (requestLock s o ep p k).eng.tlb = s.eng.tlb := by
  unfold requestLock; repeat' split
  all_goals simp
@[simp] theorem acquireAll_tlb (o : Owner) (ep : Half) (p : Bool) (lent : Option Nat) (keys : List Nat) : (acquireAll s o ep p lent keys).1.eng.tlb = s.eng.tlb := by
  induction keys generalizing s with
  | nil => rfl
  | cons k r ih => unfold acquireAll; dsimp only; repeat' split
                   all_goals simp [ih]

/-- A lock that another holds and that the owner does not wait for yet gets one more waiter, in its place. -/
theorem requestLock_held {o : Owner} {ep : Half} {p : Bool} {k : Nat} {l : Lock} (h : tget s.locks k = some l)
    (ho : (decide (l.owner = o) && l.epoch == ep) = false) (hw : l.waiters.any (fun w => decide (w.owner = o) && w.epoch == ep) = false) :
    (requestLock s o ep p k).locks = tput s.locks k { l with waiters := enqueue l.waiters { owner := o, epoch := ep, prio := p } } := by
  unfold requestLock; rw [h]; simp [ho, hw]

theorem holdsLock_locks {s s' : State} (h : s'.locks = s.locks) (o : Owner) (ep : Half) (lent : Option Nat) (k : Nat) :
    holdsLock s' o ep lent k = holdsLock s o ep lent k := by unfold holdsLock; rw [h]

/-- Keys that are all free are all granted: each is held by the owner, no other lock changes, and the request is complete. -/
theorem acquireAll_free (o : Owner) (ep : Half) (p : Bool) (lent : Option Nat) (keys : List Nat) :
    ∀ s : State, (∀ k ∈ keys, tget s.locks k = none ∨ ∃ b, tget s.locks k = some { owner := o, epoch := ep, spill := b }) →
      (acquireAll s o ep p lent keys).2 = true ∧
      (∀ k ∈ keys, ∃ b, tget (acquireAll s o ep p lent keys).1.locks k = some { owner := o, epoch := ep, spill := b }) ∧
      (∀ k, k ∉ keys → tget (acquireAll s o ep p lent keys).1.locks k = tget s.locks k) := by
  induction keys with
  | nil => intro s _; exact ⟨rfl, by simp, fun _ _ => rfl⟩
  | cons k r ih =>
    intro s h
    have hk := h k (by simp)
    by_cases hh : holdsLock s o ep lent k = true
    · have hs : ∃ b, tget s.locks k = some { owner := o, epoch := ep, spill := b } := by
        rcases hk with hk | hk
        · simp [holdsLock, hk] at hh
        · exact hk
      obtain ⟨h1, h2, h3⟩ := ih s (fun x hx => h x (by simp [hx]))
      have e : acquireAll s o ep p lent (k :: r) = acquireAll s o ep p lent r := by simp [acquireAll, hh]
      rw [e]
      refine ⟨h1, ?_, fun x hx => h3 x (by simp at hx; exact hx.2)⟩
      intro x hx
      by_cases hxr : x ∈ r
      · exact h2 x hxr
      · have : x = k := by simpa [hxr] using hx
        subst this; rw [h3 x hxr]; exact hs
    · have hn : tget s.locks k = none := by
        rcases hk with hk | ⟨b, hk⟩
        · exact hk
        · simp [holdsLock, hk] at hh
      have hl := requestLock_free (o := o) (ep := ep) (p := p) s hn
      have hg : holdsLock (requestLock s o ep p k) o ep lent k = true := by simp [holdsLock, hl]
      have e : acquireAll s o ep p lent (k :: r) = acquireAll (requestLock s o ep p k) o ep p lent r := by simp [acquireAll, hh, hg]
      obtain ⟨h1, h2, h3⟩ := ih (requestLock s o ep p k) (fun x hx => by
        rw [hl, tget_tput]; split
        · exact .inr ⟨_, rfl⟩
        · exact h x (by simp [hx]))
      rw [e]
      refine ⟨h1, ?_, ?_⟩
      · intro x hx
        by_cases hxr : x ∈ r
        · exact h2 x hxr
        · have : x = k := by simpa [hxr] using hx
          subst this; rw [h3 x hxr, hl]; simp
      · intro x hx
        simp only [List.mem_cons, not_or] at hx
        rw [h3 x hx.2, hl, tget_tput, if_neg hx.1]

@[simp] theorem acquireAll_pending (o : Owner) (ep : Half) (p : Bool) (lent : Option Nat) (keys : List Nat) : (acquireAll s o ep p lent keys).1.pending = s.pending := by
  induction keys generalizing s with
  | nil => rfl
  | cons k r ih => unfold acquireAll; dsimp only; repeat' split
                   all_goals simp [ih]
@[simp] theorem acquireAll_part (o : Owner) (ep : Half) (p : Bool) (lent : Option Nat) (keys : List Nat) : (acquireAll s o ep p lent keys).1.part = s.part := by
  induction keys generalizing s with
  | nil => rfl
  | cons k r ih => unfold acquireAll; dsimp only; repeat' split
                   all_goals simp [ih]
@[simp] theorem acquireAll_tb (o : Owner) (ep : Half) (p : Bool) (lent : Option Nat) (keys : List Nat) : (acquireAll s o ep p lent keys).1.tb = s.tb := by
  induction keys generalizing s with
  | nil => rfl
  | cons k r ih => unfold acquireAll; dsimp only; repeat' split
                   all_goals simp [ih]
@[simp] theorem acquireAll_tbHold (o : Owner) (ep : Half) (p : Bool) (lent : Option Nat) (keys : List Nat) : (acquireAll s o ep p lent keys).1.tbHold = s.tbHold := by
  induction keys generalizing s with
  | nil => rfl
  | cons k r ih => unfold acquireAll; dsimp only; repeat' split
                   all_goals simp [ih]
@[simp] theorem acquireAll_led (o : Owner) (ep : Half) (p : Bool) (lent : Option Nat) (keys : List Nat) : (acquireAll s o ep p lent keys).1.led = s.led := by
  induction keys generalizing s with
  | nil => rfl
  | cons k r ih => unfold acquireAll; dsimp only; repeat' split
                   all_goals simp [ih]
@[simp] theorem acquireAll_jn (o : Owner) (ep : Half) (p : Bool) (lent : Option Nat) (keys : List Nat) : (acquireAll s o ep p lent keys).1.jn = s.jn := by
  induction keys generalizing s with
  | nil => rfl
  | cons k r ih => unfold acquireAll; dsimp only; repeat' split
                   all_goals simp [ih]
@[simp] theorem acquireAll_guard (o : Owner) (ep : Half) (p : Bool) (lent : Option Nat) (keys : List Nat) : (acquireAll s o ep p lent keys).1.guard = s.guard := by
  induction keys generalizing s with
  | nil => rfl
  | cons k r ih => unfold acquireAll; dsimp only; repeat' split
                   all_goals simp [ih]
@[simp] theorem acquireAll_tk (o : Owner) (ep : Half) (p : Bool) (lent : Option Nat) (keys : List Nat) : (acquireAll s o ep p lent keys).1.tk = s.tk := by
  induction keys generalizing s with
  | nil => rfl
  | cons k r ih => unfold acquireAll; dsimp only; repeat' split
                   all_goals simp [ih]
@[simp] theorem acquireAll_host (o : Owner) (ep : Half) (p : Bool) (lent : Option Nat) (keys : List Nat) : (acquireAll s o ep p lent keys).1.host = s.host := by
  induction keys generalizing s with
  | nil => rfl
  | cons k r ih => unfold acquireAll; dsimp only; repeat' split
                   all_goals simp [ih]
@[simp] theorem acquireAll_ev (o : Owner) (ep : Half) (p : Bool) (lent : Option Nat) (keys : List Nat) : (acquireAll s o ep p lent keys).1.ev = s.ev := by
  induction keys generalizing s with
  | nil => rfl
  | cons k r ih => unfold acquireAll; dsimp only; repeat' split
                   all_goals simp [ih]
@[simp] theorem acquireAll_cores (o : Owner) (ep : Half) (p : Bool) (lent : Option Nat) (keys : List Nat) : (acquireAll s o ep p lent keys).1.cores = s.cores := by
  induction keys generalizing s with
  | nil => rfl
  | cons k r ih => unfold acquireAll; dsimp only; repeat' split
                   all_goals simp [ih]
@[simp] theorem acquireAll_mem (o : Owner) (ep : Half) (p : Bool) (lent : Option Nat) (keys : List Nat) : (acquireAll s o ep p lent keys).1.mem = s.mem := by
  induction keys generalizing s with
  | nil => rfl
  | cons k r ih => unfold acquireAll; dsimp only; repeat' split
                   all_goals simp [ih]
@[simp] theorem acquireAll_fab (o : Owner) (ep : Half) (p : Bool) (lent : Option Nat) (keys : List Nat) : (acquireAll s o ep p lent keys).1.fab = s.fab := by
  induction keys generalizing s with
  | nil => rfl
  | cons k r ih => unfold acquireAll; dsimp only; repeat' split
                   all_goals simp [ih]
@[simp] theorem acquireAll_dup (o : Owner) (ep : Half) (p : Bool) (lent : Option Nat) (keys : List Nat) : (acquireAll s o ep p lent keys).1.dup = s.dup := by
  induction keys generalizing s with
  | nil => rfl
  | cons k r ih => unfold acquireAll; dsimp only; repeat' split
                   all_goals simp [ih]
@[simp] theorem acquireAll_mgmt (o : Owner) (ep : Half) (p : Bool) (lent : Option Nat) (keys : List Nat) : (acquireAll s o ep p lent keys).1.mgmt = s.mgmt := by
  induction keys generalizing s with
  | nil => rfl
  | cons k r ih => unfold acquireAll; dsimp only; repeat' split
                   all_goals simp [ih]
@[simp] theorem acquireAll_store (o : Owner) (ep : Half) (p : Bool) (lent : Option Nat) (keys : List Nat) : (acquireAll s o ep p lent keys).1.store = s.store := by
  induction keys generalizing s with
  | nil => rfl
  | cons k r ih => unfold acquireAll; dsimp only; repeat' split
                   all_goals simp [ih]
@[simp] theorem acquireAll_recov (o : Owner) (ep : Half) (p : Bool) (lent : Option Nat) (keys : List Nat) : (acquireAll s o ep p lent keys).1.recov = s.recov := by
  induction keys generalizing s with
  | nil => rfl
  | cons k r ih => unfold acquireAll; dsimp only; repeat' split
                   all_goals simp [ih]
@[simp] theorem acquireAll_board (o : Owner) (ep : Half) (p : Bool) (lent : Option Nat) (keys : List Nat) : (acquireAll s o ep p lent keys).1.board = s.board := by
  induction keys generalizing s with
  | nil => rfl
  | cons k r ih => unfold acquireAll; dsimp only; repeat' split
                   all_goals simp [ih]
@[simp] theorem acquireAll_hw (o : Owner) (ep : Half) (p : Bool) (lent : Option Nat) (keys : List Nat) : (acquireAll s o ep p lent keys).1.hw = s.hw := by
  induction keys generalizing s with
  | nil => rfl
  | cons k r ih => unfold acquireAll; dsimp only; repeat' split
                   all_goals simp [ih]
@[simp] theorem acquireAll_fresh (o : Owner) (ep : Half) (p : Bool) (lent : Option Nat) (keys : List Nat) : (acquireAll s o ep p lent keys).1.fresh = s.fresh := by
  induction keys generalizing s with
  | nil => rfl
  | cons k r ih => unfold acquireAll; dsimp only; repeat' split
                   all_goals simp [ih]

/-! The mailbox (R485, R486). -/

@[simp] theorem mbFinish_pending (q : Bytes) (a : MbAns) : (mbFinish s q a).pending = s.pending := rfl
@[simp] theorem mbFinish_part (q : Bytes) (a : MbAns) : (mbFinish s q a).part = s.part := rfl
@[simp] theorem mbFinish_tb (q : Bytes) (a : MbAns) : (mbFinish s q a).tb = s.tb := rfl
@[simp] theorem mbFinish_tbHold (q : Bytes) (a : MbAns) : (mbFinish s q a).tbHold = s.tbHold := rfl
@[simp] theorem mbFinish_led (q : Bytes) (a : MbAns) : (mbFinish s q a).led = s.led := rfl
@[simp] theorem mbFinish_jn (q : Bytes) (a : MbAns) : (mbFinish s q a).jn = s.jn := rfl
@[simp] theorem mbFinish_guard (q : Bytes) (a : MbAns) : (mbFinish s q a).guard = s.guard := rfl
@[simp] theorem mbFinish_eng (q : Bytes) (a : MbAns) : (mbFinish s q a).eng = s.eng := rfl
@[simp] theorem mbFinish_locks (q : Bytes) (a : MbAns) : (mbFinish s q a).locks = s.locks := rfl
@[simp] theorem mbFinish_tk (q : Bytes) (a : MbAns) : (mbFinish s q a).tk = s.tk := rfl
@[simp] theorem mbFinish_host (q : Bytes) (a : MbAns) : (mbFinish s q a).host = s.host := rfl
@[simp] theorem mbFinish_ev (q : Bytes) (a : MbAns) : (mbFinish s q a).ev = s.ev := rfl
@[simp] theorem mbFinish_cores (q : Bytes) (a : MbAns) : (mbFinish s q a).cores = s.cores := rfl
@[simp] theorem mbFinish_mem (q : Bytes) (a : MbAns) : (mbFinish s q a).mem = s.mem := rfl
@[simp] theorem mbFinish_fab (q : Bytes) (a : MbAns) : (mbFinish s q a).fab = s.fab := rfl
@[simp] theorem mbFinish_dup (q : Bytes) (a : MbAns) : (mbFinish s q a).dup = s.dup := rfl
@[simp] theorem mbFinish_store (q : Bytes) (a : MbAns) : (mbFinish s q a).store = s.store := rfl
@[simp] theorem mbFinish_recov (q : Bytes) (a : MbAns) : (mbFinish s q a).recov = s.recov := rfl
@[simp] theorem mbFinish_board (q : Bytes) (a : MbAns) : (mbFinish s q a).board = s.board := rfl
@[simp] theorem mbFinish_hw (q : Bytes) (a : MbAns) : (mbFinish s q a).hw = s.hw := rfl
@[simp] theorem mbFinish_out (q : Bytes) (a : MbAns) : (mbFinish s q a).out = s.out := rfl
@[simp] theorem mbFinish_fresh (q : Bytes) (a : MbAns) : (mbFinish s q a).fresh = s.fresh := rfl

variable {s}

/-- A closed mailbox takes nothing. -/
theorem mailbox_closed {cmd : Byte} {n : Nat} {m : MbIn} {al : State → Bool} {f} (h : mbOpen s = false) : mailbox s cmd n m al f = s := by
  simp [mailbox, h]

/-- A request beside a running one is an overrun. -/
theorem mailbox_busy {cmd : Byte} {n : Nat} {m : MbIn} {al : State → Bool} {f} (h : mbOpen s = true) (hb : mbBusy s cmd = true) :
    mailbox s cmd n m al f = mbOverrun s := by
  simp [mailbox, h, hb]

/-- A state that bars the command answers BAD_STATE. -/
theorem mailbox_barred {cmd : Byte} {n : Nat} {m : MbIn} {al : State → Bool} {f} (h : mbOpen s = true) (hb : mbBusy s cmd = false)
    (ha : al s = false) : mailbox s cmd n m al f = mbFinish s (mbReq s cmd m) { status := mbBadState } := by
  simp [mailbox, h, hb, ha]

/-- A request whose reserved bytes are not zero answers BAD_ARG. -/
theorem mailbox_reserved {cmd : Byte} {n : Nat} {m : MbIn} {al : State → Bool} {f} (h : mbOpen s = true) (hb : mbBusy s cmd = false)
    (hf : heldFor s 0x0F = false) (ha : al s = true) (hr : mbArgsOk (mbReq s cmd m) n = false) :
    mailbox s cmd n m al f = mbFinish s (mbReq s cmd m) { status := mbBadArg } := by
  have hf' : s.mgmt.state = .held → s.mgmt.reason ≠ 15#8 := by
    intro h1 h2; rw [heldFor, h1, h2] at hf; exact absurd hf (by decide)
  simp only [mailbox, h, hb, ha, hr, Bool.and_assoc]
  simp only [Bool.not_true, Bool.false_eq_true, if_false, Bool.not_false, if_true, Bool.or_false, Bool.and_eq_true, decide_eq_true_eq, beq_iff_eq]
  rw [if_neg (fun hc => hf' hc.1 hc.2.1)]

/-- Otherwise the command's own rules answer. -/
theorem mailbox_runs {cmd : Byte} {n : Nat} {m : MbIn} {al : State → Bool} {f} (h : mbOpen s = true) (hb : mbBusy s cmd = false)
    (hf : heldFor s 0x0F = false) (ha : al s = true) (hr : mbArgsOk (mbReq s cmd m) n = true) :
    mailbox s cmd n m al f = mbFinish (f s ((mbReq s cmd m).drop 8) m.dma).1 (mbReq s cmd m) (f s ((mbReq s cmd m).drop 8) m.dma).2 := by
  have hf' : s.mgmt.state = .held → s.mgmt.reason ≠ 15#8 := by
    intro h1 h2; rw [heldFor, h1, h2] at hf; exact absurd hf (by decide)
  simp only [mailbox, h, hb, ha, hr, Bool.and_assoc]
  simp only [Bool.not_true, Bool.false_eq_true, if_false, Bool.not_false, if_true, Bool.or_false, Bool.and_eq_true, decide_eq_true_eq, beq_iff_eq]
  rw [if_neg (fun hc => hf' hc.1 hc.2.1)]

end Sys2Proof.Machine
end

