-- ==== Sys2Proof/Laws/Journal.lean ====
section
/-! SUPPORT. Appending records (R87, R110) and a command's wait for its locks (R77): what each can do. -/
namespace Sys2Proof.Machine
set_option Elab.async false

variable (s : State)

/-! One record: the journal alone changes, the next number rises by one, the frontier stays. -/

@[simp] theorem placeRec_pending (r : Rec) (w : Waiter) : (placeRec s r w).pending = s.pending := by
  unfold placeRec; dsimp only; repeat' split
  all_goals rfl
@[simp] theorem placeRec_part (r : Rec) (w : Waiter) : (placeRec s r w).part = s.part := by
  unfold placeRec; dsimp only; repeat' split
  all_goals rfl
@[simp] theorem placeRec_tb (r : Rec) (w : Waiter) : (placeRec s r w).tb = s.tb := by
  unfold placeRec; dsimp only; repeat' split
  all_goals rfl
@[simp] theorem placeRec_tbHold (r : Rec) (w : Waiter) : (placeRec s r w).tbHold = s.tbHold := by
  unfold placeRec; dsimp only; repeat' split
  all_goals rfl
@[simp] theorem placeRec_led (r : Rec) (w : Waiter) : (placeRec s r w).led = s.led := by
  unfold placeRec; dsimp only; repeat' split
  all_goals rfl
@[simp] theorem placeRec_guard (r : Rec) (w : Waiter) : (placeRec s r w).guard = s.guard := by
  unfold placeRec; dsimp only; repeat' split
  all_goals rfl
@[simp] theorem placeRec_eng (r : Rec) (w : Waiter) : (placeRec s r w).eng = s.eng := by
  unfold placeRec; dsimp only; repeat' split
  all_goals rfl
@[simp] theorem placeRec_locks (r : Rec) (w : Waiter) : (placeRec s r w).locks = s.locks := by
  unfold placeRec; dsimp only; repeat' split
  all_goals rfl
@[simp] theorem placeRec_tk (r : Rec) (w : Waiter) : (placeRec s r w).tk = s.tk := by
  unfold placeRec; dsimp only; repeat' split
  all_goals rfl
@[simp] theorem placeRec_host (r : Rec) (w : Waiter) : (placeRec s r w).host = s.host := by
  unfold placeRec; dsimp only; repeat' split
  all_goals rfl
@[simp] theorem placeRec_ev (r : Rec) (w : Waiter) : (placeRec s r w).ev = s.ev := by
  unfold placeRec; dsimp only; repeat' split
  all_goals rfl
@[simp] theorem placeRec_cores (r : Rec) (w : Waiter) : (placeRec s r w).cores = s.cores := by
  unfold placeRec; dsimp only; repeat' split
  all_goals rfl
@[simp] theorem placeRec_mem (r : Rec) (w : Waiter) : (placeRec s r w).mem = s.mem := by
  unfold placeRec; dsimp only; repeat' split
  all_goals rfl
@[simp] theorem placeRec_fab (r : Rec) (w : Waiter) : (placeRec s r w).fab = s.fab := by
  unfold placeRec; dsimp only; repeat' split
  all_goals rfl
@[simp] theorem placeRec_dup (r : Rec) (w : Waiter) : (placeRec s r w).dup = s.dup := by
  unfold placeRec; dsimp only; repeat' split
  all_goals rfl
@[simp] theorem placeRec_mgmt (r : Rec) (w : Waiter) : (placeRec s r w).mgmt = s.mgmt := by
  unfold placeRec; dsimp only; repeat' split
  all_goals rfl
@[simp] theorem placeRec_store (r : Rec) (w : Waiter) : (placeRec s r w).store = s.store := by
  unfold placeRec; dsimp only; repeat' split
  all_goals rfl
@[simp] theorem placeRec_recov (r : Rec) (w : Waiter) : (placeRec s r w).recov = s.recov := by
  unfold placeRec; dsimp only; repeat' split
  all_goals rfl
@[simp] theorem placeRec_board (r : Rec) (w : Waiter) : (placeRec s r w).board = s.board := by
  unfold placeRec; dsimp only; repeat' split
  all_goals rfl
@[simp] theorem placeRec_hw (r : Rec) (w : Waiter) : (placeRec s r w).hw = s.hw := by
  unfold placeRec; dsimp only; repeat' split
  all_goals rfl
@[simp] theorem placeRec_out (r : Rec) (w : Waiter) : (placeRec s r w).out = s.out := by
  unfold placeRec; dsimp only; repeat' split
  all_goals rfl
@[simp] theorem placeRec_fresh (r : Rec) (w : Waiter) : (placeRec s r w).fresh = s.fresh := by
  unfold placeRec; dsimp only; repeat' split
  all_goals rfl
@[simp] theorem placeRec_nextSeq (r : Rec) (w : Waiter) : (placeRec s r w).jn.nextSeq = s.jn.nextSeq + 1 := by
  unfold placeRec; dsimp only; repeat' split
  all_goals rfl
@[simp] theorem placeRec_durable (r : Rec) (w : Waiter) : (placeRec s r w).jn.durable = s.jn.durable := by
  unfold placeRec; dsimp only; repeat' split
  all_goals rfl
@[simp] theorem placeRec_stopped (r : Rec) (w : Waiter) : (placeRec s r w).jn.stopped = s.jn.stopped := by
  unfold placeRec; dsimp only; repeat' split
  all_goals rfl
@[simp] theorem placeRec_wm (r : Rec) (w : Waiter) : (placeRec s r w).jn.wm = s.jn.wm := by
  unfold placeRec; dsimp only; repeat' split
  all_goals rfl
@[simp] theorem placeRec_enable (r : Rec) (w : Waiter) : (placeRec s r w).jn.enable = s.jn.enable := by
  unfold placeRec; dsimp only; repeat' split
  all_goals rfl

/-! The records of one request take consecutive numbers. -/

@[simp] theorem placeRecs_pending (rs : List Rec) (w : Waiter) : (placeRecs s rs w).pending = s.pending := by
  induction rs generalizing s with
  | nil => rfl
  | cons r rs ih => exact (ih (placeRec s r w)).trans (placeRec_pending s r w)
@[simp] theorem placeRecs_part (rs : List Rec) (w : Waiter) : (placeRecs s rs w).part = s.part := by
  induction rs generalizing s with
  | nil => rfl
  | cons r rs ih => exact (ih (placeRec s r w)).trans (placeRec_part s r w)
@[simp] theorem placeRecs_tb (rs : List Rec) (w : Waiter) : (placeRecs s rs w).tb = s.tb := by
  induction rs generalizing s with
  | nil => rfl
  | cons r rs ih => exact (ih (placeRec s r w)).trans (placeRec_tb s r w)
@[simp] theorem placeRecs_tbHold (rs : List Rec) (w : Waiter) : (placeRecs s rs w).tbHold = s.tbHold := by
  induction rs generalizing s with
  | nil => rfl
  | cons r rs ih => exact (ih (placeRec s r w)).trans (placeRec_tbHold s r w)
@[simp] theorem placeRecs_led (rs : List Rec) (w : Waiter) : (placeRecs s rs w).led = s.led := by
  induction rs generalizing s with
  | nil => rfl
  | cons r rs ih => exact (ih (placeRec s r w)).trans (placeRec_led s r w)
@[simp] theorem placeRecs_guard (rs : List Rec) (w : Waiter) : (placeRecs s rs w).guard = s.guard := by
  induction rs generalizing s with
  | nil => rfl
  | cons r rs ih => exact (ih (placeRec s r w)).trans (placeRec_guard s r w)
@[simp] theorem placeRecs_eng (rs : List Rec) (w : Waiter) : (placeRecs s rs w).eng = s.eng := by
  induction rs generalizing s with
  | nil => rfl
  | cons r rs ih => exact (ih (placeRec s r w)).trans (placeRec_eng s r w)
@[simp] theorem placeRecs_locks (rs : List Rec) (w : Waiter) : (placeRecs s rs w).locks = s.locks := by
  induction rs generalizing s with
  | nil => rfl
  | cons r rs ih => exact (ih (placeRec s r w)).trans (placeRec_locks s r w)
@[simp] theorem placeRecs_tk (rs : List Rec) (w : Waiter) : (placeRecs s rs w).tk = s.tk := by
  induction rs generalizing s with
  | nil => rfl
  | cons r rs ih => exact (ih (placeRec s r w)).trans (placeRec_tk s r w)
@[simp] theorem placeRecs_host (rs : List Rec) (w : Waiter) : (placeRecs s rs w).host = s.host := by
  induction rs generalizing s with
  | nil => rfl
  | cons r rs ih => exact (ih (placeRec s r w)).trans (placeRec_host s r w)
@[simp] theorem placeRecs_ev (rs : List Rec) (w : Waiter) : (placeRecs s rs w).ev = s.ev := by
  induction rs generalizing s with
  | nil => rfl
  | cons r rs ih => exact (ih (placeRec s r w)).trans (placeRec_ev s r w)
@[simp] theorem placeRecs_cores (rs : List Rec) (w : Waiter) : (placeRecs s rs w).cores = s.cores := by
  induction rs generalizing s with
  | nil => rfl
  | cons r rs ih => exact (ih (placeRec s r w)).trans (placeRec_cores s r w)
@[simp] theorem placeRecs_mem (rs : List Rec) (w : Waiter) : (placeRecs s rs w).mem = s.mem := by
  induction rs generalizing s with
  | nil => rfl
  | cons r rs ih => exact (ih (placeRec s r w)).trans (placeRec_mem s r w)
@[simp] theorem placeRecs_fab (rs : List Rec) (w : Waiter) : (placeRecs s rs w).fab = s.fab := by
  induction rs generalizing s with
  | nil => rfl
  | cons r rs ih => exact (ih (placeRec s r w)).trans (placeRec_fab s r w)
@[simp] theorem placeRecs_dup (rs : List Rec) (w : Waiter) : (placeRecs s rs w).dup = s.dup := by
  induction rs generalizing s with
  | nil => rfl
  | cons r rs ih => exact (ih (placeRec s r w)).trans (placeRec_dup s r w)
@[simp] theorem placeRecs_mgmt (rs : List Rec) (w : Waiter) : (placeRecs s rs w).mgmt = s.mgmt := by
  induction rs generalizing s with
  | nil => rfl
  | cons r rs ih => exact (ih (placeRec s r w)).trans (placeRec_mgmt s r w)
@[simp] theorem placeRecs_store (rs : List Rec) (w : Waiter) : (placeRecs s rs w).store = s.store := by
  induction rs generalizing s with
  | nil => rfl
  | cons r rs ih => exact (ih (placeRec s r w)).trans (placeRec_store s r w)
@[simp] theorem placeRecs_recov (rs : List Rec) (w : Waiter) : (placeRecs s rs w).recov = s.recov := by
  induction rs generalizing s with
  | nil => rfl
  | cons r rs ih => exact (ih (placeRec s r w)).trans (placeRec_recov s r w)
@[simp] theorem placeRecs_board (rs : List Rec) (w : Waiter) : (placeRecs s rs w).board = s.board := by
  induction rs generalizing s with
  | nil => rfl
  | cons r rs ih => exact (ih (placeRec s r w)).trans (placeRec_board s r w)
@[simp] theorem placeRecs_hw (rs : List Rec) (w : Waiter) : (placeRecs s rs w).hw = s.hw := by
  induction rs generalizing s with
  | nil => rfl
  | cons r rs ih => exact (ih (placeRec s r w)).trans (placeRec_hw s r w)
@[simp] theorem placeRecs_out (rs : List Rec) (w : Waiter) : (placeRecs s rs w).out = s.out := by
  induction rs generalizing s with
  | nil => rfl
  | cons r rs ih => exact (ih (placeRec s r w)).trans (placeRec_out s r w)
@[simp] theorem placeRecs_fresh (rs : List Rec) (w : Waiter) : (placeRecs s rs w).fresh = s.fresh := by
  induction rs generalizing s with
  | nil => rfl
  | cons r rs ih => exact (ih (placeRec s r w)).trans (placeRec_fresh s r w)

@[simp] theorem placeRecs_nextSeq (rs : List Rec) (w : Waiter) : (placeRecs s rs w).jn.nextSeq = s.jn.nextSeq + rs.length := by
  induction rs generalizing s with
  | nil => rfl
  | cons r rs ih =>
    have h : (placeRecs s (r :: rs) w).jn.nextSeq = (placeRecs (placeRec s r w) rs w).jn.nextSeq := rfl
    rw [h, ih, placeRec_nextSeq, List.length_cons]; omega

@[simp] theorem placeRecs_durable (rs : List Rec) (w : Waiter) : (placeRecs s rs w).jn.durable = s.jn.durable := by
  induction rs generalizing s with
  | nil => rfl
  | cons r rs ih => exact (ih (placeRec s r w)).trans (placeRec_durable s r w)

/-- A die that mirrors nothing appends by placing the records. -/
theorem appendRecs_local (rs : List Rec) (w : Waiter) (h : mirrors s = false) : appendRecs s rs w = placeRecs s rs w := by
  simp [appendRecs, h]

variable {s}

/-! What a fetch reads (R77, R399, R419). -/

/-- What a fetch meets depends on the books, the poisoned lines, the working set of stacks and the engine's own translation alone. -/
theorem fetchFault_congr {s1 s2 : State} (hl : s1.led = s2.led) (hm : s1.mem = s2.mem) (hs : s1.store = s2.store) (hp : s1.part = s2.part)
    (ht : s1.eng.tlb = s2.eng.tlb) (e : Nat) (ids : List Nat) : fetchFault s1 e ids = fetchFault s2 e ids := by
  have hk : stacksUsed s1 = stacksUsed s2 := by unfold stacksUsed; rw [hs, hp]
  have hr : ∀ a b c, mapRow s1 a b c = mapRow s2 a b c := fun a b c => by unfold mapRow mapPart; rw [hk]
  have hf : ∀ id, fetchLines s1 id = fetchLines s2 id := fun id => by
    have hn : nodeLines s1 = nodeLines s2 := by funext n; simp only [nodeLines, nodeAddr, indexBase, hr]
    simp only [fetchLines, recLine, dirAddr, tablesBase, hl, hr, hn]
  have hx : ∀ l, lineFault s1 e l = lineFault s2 e l := fun l => by
    unfold lineFault engTlb engineTree tablesBase; rw [hr, hm, ht]
  induction ids with
  | nil => rfl
  | cons k r ih =>
    have hg : lineFault s1 e = lineFault s2 e := funext hx
    unfold fetchFault
    simp only [hf, hg, hl, ih]

/-- Where no line is poisoned, a fetch fails only of an inconsistent record. -/
theorem lineFault_clean {s : State} (h : s.mem.poison = []) (e l : Nat) : lineFault s e l = none := by simp [lineFault, h]

/-- A fetch changes nothing but the engine's own translation. -/
theorem fetchTouch_rest (s : State) (e : Nat) (ids : List Nat) :
    ∃ t, fetchTouch s e ids = { s with eng := { s.eng with tlb := t } } := by
  unfold fetchTouch; dsimp only; split
  · exact ⟨s.eng.tlb, rfl⟩
  · exact ⟨_, rfl⟩

/-- A command whose locks are all free, whose turn has come and whose records are good goes on with its checks, the locks held. -/
theorem withLocks_free {e c k : Nat} {t : Ticket} {keys accounts : List Nat} {shown : Option Dbl} {go : State → State} {bad : State → Byte → Option Dbl → State}
    (ht : ticketOf s k = some t) (hb : beforeOk s k (·.locked) = true) (hf : ∀ x ∈ sortUp keys, tget s.locks x = none)
    (hn : ∀ s1 : State, s1.host = s.host → s1.tk.held = tput s.tk.held k { t with locked := true } → beforeOk s1 k (·.numbered) = true)
    (hg : fetchFault s e (sortUp accounts) = none) :
    withLocks s e c k keys accounts shown go bad =
      go (fetchTouch (setTicket (acquireAll s (ctxOwner e c) (ctxOf s e c).epoch (cPrio t.cmd) (if t.cmd.inner then some (lendMark k) else none)
        (sortUp keys)).1 k { t with locked := true }) e (sortUp accounts)) := by
  obtain ⟨h1, _, _⟩ := acquireAll_free (ctxOwner e c) (ctxOf s e c).epoch (cPrio t.cmd) (if t.cmd.inner then some (lendMark k) else none) (sortUp keys) s
    (fun x hx => .inl (hf x hx))
  unfold withLocks
  simp only [ht, hb, h1, Bool.not_true, Bool.false_eq_true, if_false]
  rw [hn _ (by simp) (by simp [setTicket]), fetchFault_congr (by simp) (by simp) (by simp) (by simp) (by simp) (s2 := s), hg]
  rfl

end Sys2Proof.Machine
end

