-- ==== Sys2Proof/Laws/Ladle.lean ====
section
/-! SUPPORT. How an instruction of a ladle core issues and ends (R266, R292, R363): what `issue` makes of a word that nothing holds back, and what the end of an instruction leaves. -/
namespace Sys2Proof.Machine
set_option Elab.async false

/-- From `s` to `s'` only frame `f` and the counters of core `c` have changed, and the core lists a frame. -/
structure CoreOnly (s s' : State) (c f : Nat) : Prop where
  rest : s' = { s with cores := { s.cores with cores := s'.cores.cores } }
  cores : ∀ d, d ≠ c → coreOf s' d = coreOf s d
  core : coreOf s' c = { coreOf s c with frames := (coreOf s' c).frames, counts := (coreOf s' c).counts }
  others : ∀ g, g ≠ f → frameOf s' c g = frameOf s c g
  listed : (coreOf s' c).frames ≠ []

theorem CoreOnly.refl {s : State} {c f : Nat} (h : (coreOf s c).frames ≠ []) : CoreOnly s s c f :=
  ⟨rfl, fun _ _ => rfl, rfl, fun _ _ => rfl, h⟩

theorem CoreOnly.trans {s s1 s2 : State} {c f : Nat} (a : CoreOnly s s1 c f) (b : CoreOnly s1 s2 c f) : CoreOnly s s2 c f where
  rest := by rw [b.rest, a.rest]
  cores := fun d hd => (b.cores d hd).trans (a.cores d hd)
  core := by rw [b.core, a.core]
  others := fun g hg => (b.others g hg).trans (a.others g hg)
  listed := b.listed

/-- A running frame is listed. -/
theorem frames_of_running {s : State} {c f : Nat} (h : (frameOf s c f).state = .running) : (coreOf s c).frames ≠ [] := by
  intro he
  rw [frameOf, he] at h
  exact absurd (show FrameState.off = .running from h) (by decide)

theorem frame_ne_default {x : Frame} (h : x.state = .running) : x ≠ {} := by
  intro he; rw [he] at h; exact absurd h (by decide)

theorem coreOnly_setFrame (s : State) (c f : Nat) {x : Frame} (h : x ≠ {}) : CoreOnly s (setFrame s c f x) c f where
  rest := rfl
  cores := fun _ hd => coreOf_setFrame_other s f h hd
  core := by rw [coreOf_setFrame_same s c f h]
  others := fun _ hg => frameOf_setFrame_other s c h hg
  listed := by rw [coreOf_setFrame_same s c f h]; exact tset_ne_nil _ f h

theorem coreOf_countStep {s : State} {c : Nat} (o n : Nat) (h : (coreOf s c).frames ≠ []) :
    coreOf (countStep s c o n) c = { coreOf s c with counts := tset (coreOf s c).counts o 0 ((tgetD (coreOf s c).counts o 0 + n) % 2 ^ 64) } :=
  coreOf_setCore_same s c (core_ne_default h)

theorem coreOnly_countStep {s : State} {c : Nat} (f o n : Nat) (h : (coreOf s c).frames ≠ []) :
    CoreOnly s (countStep s c o n) c f ∧ frameOf (countStep s c o n) c f = frameOf s c f := by
  have hc := coreOf_countStep o n h
  refine ⟨⟨rfl, fun _ hd => coreOf_setCore_other s (core_ne_default h) hd, by rw [hc], fun g _ => by rw [frameOf, frameOf, hc], by rw [hc]; exact h⟩, ?_⟩
  rw [frameOf, frameOf, hc]

theorem coreOnly_spend {s : State} {c : Nat} (f o n : Nat) (h : (coreOf s c).frames ≠ []) :
    CoreOnly s (spend s c o n) c f ∧ frameOf (spend s c o n) c f = frameOf s c f := by
  obtain ⟨a1, a2⟩ := coreOnly_countStep f o n h
  obtain ⟨b1, b2⟩ := coreOnly_countStep f 0 n a1.listed
  exact ⟨a1.trans b1, b2.trans a2⟩

/-- Counting an instruction changes the counters only. -/
theorem coreOnly_countIssue {s : State} {c : Nat} (f : Nat) (x : Frame) (o : LOp) (w : Word) (h : (coreOf s c).frames ≠ []) :
    CoreOnly s (countIssue s c x o w) c f ∧ frameOf (countIssue s c x o w) c f = frameOf s c f := by
  have step : ∀ {t : State} (o' n' : Nat), CoreOnly s t c f ∧ frameOf t c f = frameOf s c f →
      CoreOnly s (countStep t c o' n') c f ∧ frameOf (countStep t c o' n') c f = frameOf s c f := by
    intro t o' n' ht
    obtain ⟨b1, b2⟩ := coreOnly_countStep f o' n' ht.1.listed
    exact ⟨ht.1.trans b1, b2.trans ht.2⟩
  have r : CoreOnly s s c f ∧ frameOf s c f = frameOf s c f := ⟨.refl h, rfl⟩
  unfold countIssue countGroup
  dsimp only [spend]
  refine step _ _ (step _ _ ?_)
  split
  · exact step _ _ r
  · split
    · exact r
    · split
      · exact step _ _ (step _ _ (step _ _ (step _ _ (step _ _ r))))
      · exact step _ _ (step _ _ (step _ _ r))

/-- With no shadow open, the tick of shadows writes the frame as it is. -/
theorem tickShadows_closed {s : State} {c f : Nat} (h : ∀ p ∈ (frameOf s c f).pend, p.left = none) :
    tickShadows s c f = s ∨ tickShadows s c f = setFrame s c f (frameOf s c f) := by
  unfold tickShadows
  dsimp only
  split
  · exact .inl rfl
  · right
    have e1 : (frameOf s c f).pend.map (fun (p : PendWrite) => { p with left := p.left.map (· - 1) }) = (frameOf s c f).pend := by
      refine Eq.trans (List.map_congr_left (g := id) fun p hp => ?_) (List.map_id _)
      rw [h p hp, Option.map_none, ← h p hp]; rfl
    rw [e1]
    have e2 : (frameOf s c f).pend.filter (fun (p : PendWrite) => decide (p.left = some 0)) = [] := by
      rw [List.filter_eq_nil_iff]; intro p hp; simp [h p hp]
    have e3 : (frameOf s c f).pend.filter (fun (p : PendWrite) => decide (p.left ≠ some 0)) = (frameOf s c f).pend := by
      rw [List.filter_eq_self]; intro p hp; simp [h p hp]
    rw [e2, e3]; rfl

/-- What `issue` makes of a word that nothing holds back and that is neither a long operation, a prefix nor a long literal: its operation's result, concluded. -/
theorem issue_ready {s : State} {c f : Nat} {o : LOp} {w : Word} {v : Wait} {rep : Option Nat} {g : Bool} (h : Ready s c f o w v rep)
    (hv : (v = .idle ∧ g = false) ∨ ∃ d b, v = .filled d b ∧ g = true) (hl : isLongOp o = false) (hp : o ≠ .repi ∧ o ≠ .repu) (hlit : o ≠ .longLiteralOp) :
    issue s c o = conclude s c f (frameOf s c f) o w
      (runOp o s (taskActor s c f g) w 0) := by
  have hm : mayIssue s c f = true := by
    unfold mayIssue
    dsimp only
    rw [h.runs.1, h.runs.2, h.core.2.2, h.core.2.1, h.calm.2.1]
    rcases hv with ⟨hv, _⟩ | ⟨d, b, hv, _⟩ <;> subst hv <;> simp [h.core.1]
  have hf : fill s c f o = .ok s () := by
    have : (usesAccs o && (frameOf s c f).dlazy.getLsbD 0) = false := by
      by_cases hu : usesAccs o = true
      · rw [h.filled hu, Bool.and_false]
      · rw [Bool.eq_false_iff.mpr hu, Bool.false_and]
    unfold fill; dsimp only; rw [this]; rfl
  have hb : beforeIssue s c f = none := by
    unfold beforeIssue
    simp only [h.kept.2, h.kept.1, h.calm.2.2.1, Bool.false_eq_true, if_false, Option.isSome_none]
  unfold issue
  rw [h.core.2.2]
  simp only [issueAs, hm, hb, h.word, h.names]
  simp only [Bool.not_true, Bool.false_eq_true, if_false, Option.isSome_none, reduceCtorEq, false_or, if_true, issueFor, h.free, literalAt, hlit, hf, hp.1, hp.2, hl, or_self]
  rw [h.runs.2]
  rcases hv with ⟨hv, hg⟩ | ⟨d, b, hv, hg⟩ <;> subst hv hg <;> rfl

/-- A frame that is not STOPPING stays as it is. -/
theorem settleStop_running {s : State} {c f : Nat} (h : (frameOf s c f).state = .running) : settleStop s c f = s := by
  unfold settleStop; dsimp only; rw [h]; simp

/-- The frame is written and its shadows tick, with none open. -/
theorem ended_tick {s t : State} {c f : Nat} {x y : Frame} {ad : Word} (a : CoreOnly s t c f) (hy : y.state = .running) (hs : ∀ p ∈ y.pend, p.left = none)
    (hxy : { y with fetch := [], last := none } = { x with pc := ad, wait := .idle, fetch := [], last := none }) :
    Ended s (tickShadows (setFrame t c f y) c f) c f x ad := by
  have hd := frame_ne_default hy
  have c1 := a.trans (coreOnly_setFrame t c f hd)
  have c2 := frameOf_setFrame_same t c f hd
  have key : CoreOnly s (tickShadows (setFrame t c f y) c f) c f ∧ frameOf (tickShadows (setFrame t c f y) c f) c f = y := by
    rcases tickShadows_closed (s := setFrame t c f y) (c := c) (f := f) (by rw [c2]; exact hs) with h | h
    · rw [h]; exact ⟨c1, c2⟩
    · rw [h, c2]; exact ⟨c1.trans (coreOnly_setFrame _ c f hd), frameOf_setFrame_same _ c f hd⟩
  exact ⟨by rw [key.2]; exact hxy, key.1.others, key.1.core, key.1.cores, key.1.rest⟩

/-- An instruction that has ended in a running frame has not stopped it. -/
theorem Ended.settled {s s' : State} {c f : Nat} {x : Frame} {t : Word} (h : Ended s s' c f x t) (hx : x.state = .running) : Ended s (settleStop s' c f) c f x t := by
  rw [settleStop_running ((congrArg Frame.state h.frame).trans hx)]; exact h

/-- An instruction that is done, in a frame that stays running and untraced, with no prefix and no shadow: the frame goes on at the next word. -/
theorem conclude_done {s : State} {c f : Nat} {o : LOp} {w : Word} {x : Frame} (hx : x.state = .running)
    (he : x.epoch = (frameOf s c f).epoch) (ht : pTr (frameOf s c f).psw = false) (hn : (frameOf s c f).rep = none) (hs : ∀ p ∈ x.pend, p.left = none) :
    Ended s (conclude s c f (frameOf s c f) o w (.done (setFrame s c f x))) c f x ((frameOf s c f).pc + BitVec.ofNat 32 (lenOf o)) := by
  have hd := frame_ne_default hx
  have a1 := coreOnly_setFrame s c f hd
  obtain ⟨b1, b2⟩ := coreOnly_countIssue f (frameOf s c f) o w a1.listed
  rw [frameOf_setFrame_same s c f hd] at b2
  have hne : ¬ (x.epoch ≠ (frameOf s c f).epoch) := fun h => h he
  simp only [conclude, hn, endInstr, b2, traceAfter, ht]
  rw [if_neg hne, if_neg Bool.false_ne_true]
  refine Ended.settled ?_ hx
  exact ended_tick (a1.trans b1) hx hs rfl

end Sys2Proof.Machine
end

