-- ==== Sys2Proof/Laws/Mem.lean ====
section
/-! SUPPORT. The operations over memory and the lines above it: which leave every byte, and that those that write keep the canonical form. -/
namespace Sys2Proof.Machine
set_option Elab.async false

/-- Writing bytes keeps the table canonical. -/
theorem putMem_canonical (b : Bytes) : ∀ (t : Tbl Byte) (a : Nat), twf t = true → tnodef t 0 = true → twf (putMem t a b) = true ∧ tnodef (putMem t a b) 0 = true := by
  induction b with
  | nil => exact fun _ _ h1 h2 => ⟨h1, h2⟩
  | cons x r ih => exact fun t a h1 h2 => ih _ _ (twf_tset t a 0 x h1) (tnodef_tset t a 0 x h2)

theorem memWf_iff (s : State) : MemWf s ↔ twf s.mem.bytes = true ∧ tnodef s.mem.bytes 0 = true := by
  simp [MemWf, Memory.wf]

/-- What leaves the bytes keeps the form. -/
theorem memWf_of_bytes {s s' : State} (h : s'.mem.bytes = s.mem.bytes) (hs : MemWf s) : MemWf s' := by
  rw [memWf_iff] at hs ⊢; rw [h]; exact hs

theorem memWf_of_mem {s s' : State} (h : s'.mem = s.mem) (hs : MemWf s) : MemWf s' := memWf_of_bytes (by rw [h]) hs

variable (s : State)

@[simp] theorem setMemBytes_bytes (a : Nat) (b : Bytes) : (setMemBytes s a b).mem.bytes = putMem s.mem.bytes a b := rfl

theorem setMemBytes_canonical {s : State} (a : Nat) (b : Bytes) (h : MemWf s) : MemWf (setMemBytes s a b) := by
  rw [memWf_iff] at h ⊢; exact putMem_canonical b s.mem.bytes a h.1 h.2

/-! Operations that leave every byte. -/

@[simp] theorem setL1_bytes (c l : Nat) (x : L1Line) : (setL1 s c l x).mem.bytes = s.mem.bytes := rfl
@[simp] theorem dropL1_bytes (c l : Nat) : (dropL1 s c l).mem.bytes = s.mem.bytes := rfl
@[simp] theorem setDir_bytes (l : Nat) (d : DirLine) : (setDir s l d).mem.bytes = s.mem.bytes := rfl
@[simp] theorem dropDir_bytes (l : Nat) : (dropDir s l).mem.bytes = s.mem.bytes := rfl
@[simp] theorem invalidateLine_bytes (l : Nat) : (invalidateLine s l).mem.bytes = s.mem.bytes := rfl

@[simp] theorem masterRead_bytes (l : Nat) : (masterRead s l).mem.bytes = s.mem.bytes := by
  unfold masterRead; repeat' split
  all_goals rfl

@[simp] theorem evict_bytes (c l : Nat) : (evict s c l).mem.bytes = s.mem.bytes := by
  unfold evict; dsimp only; repeat' split
  all_goals rfl

@[simp] theorem recallFor_bytes (l : Nat) : (recallFor s l).mem.bytes = s.mem.bytes := by
  unfold recallFor; dsimp only; repeat' split
  all_goals rfl

@[simp] theorem makeRoom_bytes (c l : Nat) : (makeRoom s c l).mem.bytes = s.mem.bytes := by
  unfold makeRoom; split <;> simp

@[simp] theorem prefetch_bytes (l : Nat) (b : Bool) : (prefetch s l b).mem.bytes = s.mem.bytes := by
  unfold prefetch; split <;> simp

@[simp] theorem getShared_bytes (c l key : Nat) : (getShared s c l key).mem.bytes = s.mem.bytes := by
  unfold getShared; dsimp only; repeat' split
  all_goals simp

@[simp] theorem getS_bytes (c l key : Nat) : (getS s c l key).mem.bytes = s.mem.bytes := by
  unfold getS; simp

@[simp] theorem getM_bytes (c l key : Nat) : (getM s c l key).mem.bytes = s.mem.bytes := by
  unfold getM; simp

@[simp] theorem serveLosers_bytes (l : Nat) : (serveLosers s l).mem.bytes = s.mem.bytes := by
  unfold serveLosers; repeat' split
  all_goals rfl

@[simp] theorem dirtyL1_bytes (c a n : Nat) : (dirtyL1 s c a n).mem.bytes = s.mem.bytes := by
  unfold dirtyL1; dsimp only; split <;> simp

@[simp] theorem acquireLine_bytes (c l key : Nat) (wr : Bool) : (acquireLine s c l key wr).mem.bytes = s.mem.bytes := by
  unfold acquireLine; split <;> simp

/-! Operations that write. -/

theorem masterWrite_canonical {s : State} (a : Nat) (b : Bytes) (h : MemWf s) : MemWf (masterWrite s a b) :=
  setMemBytes_canonical a b (memWf_of_bytes (by simp) h)

theorem masterWriteAll_canonical (n : Nat) : ∀ {s : State} (a : Nat) (b : Bytes), MemWf s → MemWf (masterWriteAll n s a b) := by
  induction n with
  | zero => exact fun _ _ h => h
  | succ n ih =>
    intro s a b h
    unfold masterWriteAll
    split
    · exact h
    · exact ih _ _ (masterWrite_canonical _ _ h)

@[simp] theorem clearPoison_bytes (a n : Nat) : (clearPoison s a n).mem.bytes = s.mem.bytes := by
  unfold clearPoison; split <;> rfl

@[simp] theorem logRefusal_mem (m : Master) (a : Nat) (k : Acc3) (r : Refuse) : (logRefusal s m a k r).mem = s.mem := by
  unfold logRefusal; dsimp only; repeat' split
  all_goals simp

@[simp] theorem faultRefusal_mem (m : Master) (a : Nat) (k : Acc3) (r : Refuse) : (faultRefusal s m a k r).mem = s.mem := by
  unfold faultRefusal; simp

/-- The management core's checked writes keep the canonical form. -/
theorem mgmtWrite_canonical (n : Nat) : ∀ {s : State} (a : Nat) (b : Bytes), MemWf s → MemWf (mgmtWrite n s a b) := by
  induction n with
  | zero => exact fun _ _ h => h
  | succ n ih =>
    intro s a b h
    unfold mgmtWrite
    split
    · exact h
    · refine ih _ _ ?_
      split
      · exact memWf_of_mem (by simp) h
      · split
        · exact memWf_of_bytes (by simp) (masterWrite_canonical a (b.take (128 - a % 128)) h)
        · exact setMemBytes_canonical _ _ h
        · exact h

theorem copyRuntime_canonical {s : State} (b : Bytes) (h : MemWf s) : MemWf (copyRuntime s b) := mgmtWrite_canonical _ _ b h

/-- R184, Table 6.2: a function's own DMA passes the host-window row, whatever the regions say. -/
theorem fnDma_allowed (f x : Nat) (k : Acc3) (hk : k ≠ .exec) (h : areaOf s (paHost + x) = .host) : mpuCheck s (fnMaster s f) (paHost + x) k = none := by
  unfold mpuCheck; rw [h]; simp [fnMaster, hk]

/-- A reset of the die leaves nothing listed (R470, R405). -/
theorem memAfterReset_canonical (m : Mem) (cold : Bool) : Memory.wf (memAfterReset m cold) = true := by
  unfold memAfterReset; split <;> rfl

theorem resetState_canonical (cold : Bool) : MemWf (resetState s cold) := memAfterReset_canonical s.mem cold

theorem reset_memWf : MemWf State.reset := rfl

end Sys2Proof.Machine
end

