-- ==== Sys2Proof/Tests/Fixtures.lean ====
section
/-! SUPPORT. Small states that the tests stand on: a die in service, a context whose command's turn has come, a running frame. -/
namespace Sys2Proof.Tests
open Sys2Proof.Machine

/-- A die in service. -/
def svc : State := { State.reset with mgmt := { state := .service }, board := { tbOk := true, fabOk := true, pcie0Ok := true, pcie1Ok := true } }

/-- A command: opcode, NLEGS, PARAM, and what stands in its slots (R72). -/
def cmdOf (op n param : Nat) (slots : Bytes) : Cmd :=
  { desc := fit 128 (le 1 op ++ le 1 n ++ zeros 14 ++ le 16 param ++ slots), ext := zeros 0 }

/-- An open account. -/
def acctOf (id : Nat) (bal : Int) : Account := { id := BitVec.ofNat 64 id, currency := 840, flags := 1, ledger := bal, avail := bal }

/-- Books of two accounts. -/
def books : Ledger := { accounts := [(1, acctOf 1 500), (2, acctOf 2 0)], day := 5 }

def legTo (id : Nat) (amt : Int) : Leg := { account := BitVec.ofNat 64 id, currency := 840, amount := amt }

def tkt (c : Cmd) : Ticket := { state := .held, origin := .tray 0 0, cmd := c }

/-- Context 0 of engine 0 is READY with a command that holds ticket 1. -/
def turnS (c : Cmd) (l : Ledger := books) (x : Ctx := {}) (j : Journal := {}) : State :=
  { svc with led := l, jn := { j with stopped := false }, eng := { ctxs := [(0, { x with state := .ready, ticket := some 1 })] }, tk := { held := [(1, tkt c)] } }

theorem cmdAt_turnS {c : Cmd} {l : Ledger} {x : Ctx} {j : Journal} {op : Nat} (h : cOp c = op) : cmdAt (turnS c l x j) 0 0 op = some (1, tkt c) := by
  subst h
  show (if cOp (tkt c).cmd = cOp c then some (1, tkt c) else none) = _
  exact if_pos rfl

/-- Its turn has come, whatever it locks. -/
theorem turn_of {c : Cmd} {l : Ledger} {x : Ctx} {j : Journal} {op : Nat} {keys accts : List Nat} (h : cOp c = op)
    (hf : fetchFault (turnS c l x j) 0 (sortUp accts) = none) : Turn (turnS c l x j) 0 0 op 1 (tkt c) keys accts where
  cmd := cmdAt_turnS h
  first := rfl
  next := rfl
  free := fun _ _ => rfl
  sound := hf
  runs := rfl

/-- Frame 0 of core 0 runs in supervisor mode at address 0 with a block of words from there in its fetch buffer. -/
def frameAt (ws : List Word) (x : Frame := {}) : Frame :=
  { x with state := .running, pc := 0, fetch := [{ addr := 0, data := fit 16 (ws.flatMap fun w => le 4 w.toNat) }] }

def coreS (ws : List Word) (x : Frame := {}) (s : State := svc) : State :=
  { s with cores := { s.cores with cores := [(0, { running := some 0, frames := [(0, frameAt ws x)] })] } }

/-- What makes the first word of the block ready to issue, as one test. -/
def readyB (s : State) (c f : Nat) (o : LOp) (w : Word) (v : Wait) (rep : Option Nat) : Bool :=
  let x := frameOf s c f
  decide (f < nFrames s) && coreIn s c && decide ((coreOf s c).running = some f) && decide (x.state = .running) && decide (x.wait = v) && decide (x.rep = rep) &&
  decide (x.lop = none) && decide (x.lov = false) && decide (x.traceDue = none) && !pTr x.psw && (decide (x.lopExc = none) && !s.hw.frameBad.contains (64 * c + f)) && (x.pend.all fun p => decide (p.left = none)) &&
  decide (fetchedAt x (nextPc x) = .word w) && decide (decode w = some o) && decide (held s c x o w = none) && !(usesAccs o && x.dlazy.getLsbD 0)

theorem ready_of {s : State} {c f : Nat} {o : LOp} {w : Word} {v : Wait} {rep : Option Nat} (h : readyB s c f o w v rep = true) : Ready s c f o w v rep := by
  simp only [readyB, Bool.and_eq_true, decide_eq_true_eq, Bool.not_eq_true', List.all_eq_true, Bool.and_eq_false_imp] at h
  obtain ⟨⟨⟨⟨⟨⟨⟨⟨⟨⟨⟨⟨⟨⟨⟨h1, h2⟩, h3⟩, h4⟩, h5⟩, h6⟩, h7⟩, h8⟩, h9⟩, h10⟩, hk⟩, h11⟩, h12⟩, h13⟩, h14⟩, h15⟩ := h
  exact ⟨⟨h1, h2, h3⟩, ⟨h4, h5⟩, h6, ⟨h7, h8, h9, h10⟩, hk, h11, h12, h13, h14, h15⟩

end Sys2Proof.Tests
end

