-- ==== Sys2Proof/Tests/Ladle.lean ====
section
/-! SUPPORT. States that meet the hypotheses of the statements about the ladle instructions. Words are built from the formats of chapter 08. -/
namespace Sys2Proof.Tests
set_option Elab.async false
open Sys2Proof.Machine

/-- A word of format R: major, rd, ra, rb, function. -/
def enc (m rd ra rb fn : Nat) : Word := BitVec.ofNat 32 (m * 2 ^ 25 + rd * 2 ^ 20 + ra * 2 ^ 15 + rb * 2 ^ 10 + fn)
/-- A word with 15 bits below ra. -/
def encI (m rd ra imm : Nat) : Word := BitVec.ofNat 32 (m * 2 ^ 25 + rd * 2 ^ 20 + ra * 2 ^ 15 + imm)
/-- Major 0x28 and 0x29: rd, ra, rb, imm5 and the operation. -/
def sysW (op rd ra rb imm : Nat) : Word := enc 0x28 rd ra rb (imm * 32 + op)
def portW (op rd ra rb imm : Nat) : Word := enc 0x29 rd ra rb (imm * 32 + op)
/-- Major 0x2A: the operation and dd, da, db with what follows. -/
def daW (op dd da db ext : Nat) : Word := BitVec.ofNat 32 (0x2A * 2 ^ 25 + op * 2 ^ 20 + dd * 2 ^ 17 + da * 2 ^ 14 + db * 2 ^ 11 + ext)

/-- Core 0 runs the words with two pages mapped: 0x1000 to its own pantry, 0x2000 to HBM's general area. -/
def mapS (ws : List Word) (x : Frame := {}) (m : Mem := {}) (fs : Tbl Frame := []) (sb : List SbEntry := []) : State :=
  { svc with
    mem := m,
    cores := { cores := [(0, { running := some 0, sb := sb, missQ := [0], frames := (0, frameAt ws { x with tcr := 1 }) :: fs,
                               tlb := [{ base := 1, e := BitVec.ofNat 64 (paPantry + 0x18D) }, { base := 2, e := BitVec.ofNat 64 (0x4C0000000 + 0x18D) }] })] } }

/-- Bytes in the pantry, seen at virtual address `va` of page 0x1000. -/
def at1 (va : Nat) (b : Bytes) : Mem := { bytes := putMem [] (paPantry + (va - 0x1000)) b }

/-- An access is answered, and what it answers passes a test. -/
def okB {α : Type} (r : MRes α) (p : State → α → Bool) : Bool := match r with | .ok s v => p s v | _ => false
theorem of_okB {α : Type} {r : MRes α} {p : State → α → Bool} (h : okB r p = true) : ∃ s v, r = .ok s v ∧ p s v = true := by
  cases r with
  | ok s v => exact ⟨s, v, rfl, h⟩
  | exc s e => exact Bool.noConfusion h
  | wait s w => exact Bool.noConfusion h
  | stay => exact Bool.noConfusion h

def excB {α : Type} (r : MRes α) (p : State → Exc → Bool) : Bool := match r with | .exc s e => p s e | _ => false

def doneB (r : IRes) (p : State → Bool) : Bool := match r with | .done s => p s | _ => false
theorem of_doneB {r : IRes} {p : State → Bool} (h : doneB r p = true) : ∃ s, r = .done s ∧ p s = true := by
  cases r with
  | done s => exact ⟨s, rfl, h⟩
  | jump s t => exact Bool.noConfusion h
  | raw s => exact Bool.noConfusion h
  | again s => exact Bool.noConfusion h
  | exc s e => exact Bool.noConfusion h
  | wait s w => exact Bool.noConfusion h
  | stay => exact Bool.noConfusion h

/-- Every word of a list is ready as its operation in one state. -/
def allReady (l : List (LOp × Word)) (mk : List Word → State) (lit : Word := 0) (v : Wait := .idle) : Bool := l.all fun e => readyB (mk [e.2, lit]) 0 0 e.1 e.2 v none
theorem ready_all {l : List (LOp × Word)} {mk : List Word → State} {lit : Word} {v : Wait} (h : allReady l mk lit v = true) :
    ∀ e ∈ l, Ready (mk [e.2, lit]) 0 0 e.1 e.2 v :=
  fun e he => ready_of (List.all_eq_true.mp h e he)

/-- Each major and function of the binary arithmetic, its destination at both ends of the register file. -/
def arithWords : List (LOp × Word) :=
  [(.add, enc 1 31 1 2 0), (.add, enc 1 0 1 0 0x0F), (.add, enc 1 3 1 2 0x1F), (.mul, enc 2 31 1 2 0), (.sel, enc 4 3 1 2 (4 * 32)), (.lui, encI 7 31 31 32767)] ++
  ([0, 1, 2, 3, 4].map fun k => (.shiftImmediate, enc 6 3 1 k 31)) ++ ([8, 9, 10, 11].map fun m => (.addi, encI m 31 1 32767)) ++
  ([12, 13, 14, 15, 16, 17].map fun m => (.compareImmediate, encI m 3 1 16384)) ++ ((.longLiteralOp, enc 5 3 0 0 0) :: [1, 2, 3, 4, 5, 6, 7].map fun k => (.longLiteralOp, enc 5 3 1 k 0))

theorem witness_arithmetic : (∀ e ∈ arithWords, Ready (coreS [e.2, 0xFFFFFFFF]) 0 0 e.1 e.2) ∧
    fetchedAt (frameOf (coreS [enc 5 3 1 7 0, 0xFFFFFFFF]) 0 0) 4 = .word 0xFFFFFFFF := by
  refine ⟨ready_all (mk := coreS) (by decide +kernel), by decide +kernel⟩

def quotWords : List (LOp × Word) :=
  [(.muld, enc 2 30 1 2 1), (.mulds, enc 2 0 1 2 2), (.divu, enc 3 3 1 2 0), (.divs, enc 3 3 1 2 1), (.remu, enc 3 3 1 2 2), (.rems, enc 3 3 1 2 3)]
theorem witness_products : (∀ e ∈ quotWords, Ready (coreS [e.2, 0] { g := [(1, 0x80000000), (2, 0xFFFFFFFF)] }) 0 0 e.1 e.2) ∧
    (∀ e ∈ quotWords, Ready (coreS [e.2, 0]) 0 0 e.1 e.2) ∧ gReg { g := [(1, 0x80000000), (2, 0xFFFFFFFF)] } 2 ≠ 0 ∧ gReg {} 2 = 0 := by
  refine ⟨ready_all (mk := fun ws => coreS ws { g := [(1, 0x80000000), (2, 0xFFFFFFFF)] }) (by decide +kernel), ready_all (mk := fun ws => coreS ws) (by decide +kernel), by decide +kernel, by decide +kernel⟩

def branchWords : List (LOp × Word) :=
  [(.bz, encI 0x20 1 31 32767), (.bnz, encI 0x21 1 16 0), (.j, encI 0x22 31 31 32767), (.call, encI 0x23 15 31 32767), (.jr, enc 0x24 0 1 0 0), (.callr, enc 0x24 0 1 0 1),
   (.mtm, enc 0x1F 3 1 2 0), (.mfmb, enc 0x1F 31 3 0 1), (.mfml, enc 0x1F 31 3 0 2)]
theorem witness_branches : (∀ e ∈ branchWords, Ready (coreS [e.2, 0]) 0 0 e.1 e.2) ∧ (∀ e ∈ branchWords, Ready (coreS [e.2, 0] { g := [(1, 2)] }) 0 0 e.1 e.2) ∧
    gReg {} 1 = 0 ∧ (gReg { g := [(1, 2)] } 1).toNat % 4 ≠ 0 ∧ ((0 : Word) + sext 20 (wf (encI 0x20 1 31 32767) 19 0) * 4).toNat % 4 = 0 ∧
    ((0 : Word) + sext 25 (wf (encI 0x22 31 31 32767) 24 0) * 4).toNat % 4 = 0 := by
  refine ⟨ready_all (mk := fun ws => coreS ws) (by decide +kernel), ready_all (mk := fun ws => coreS ws { g := [(1, 2)] }) (by decide +kernel), by decide +kernel, by decide +kernel, by decide +kernel, by decide +kernel⟩

/-- Registers: g1 and the pair (4, 5) point into the pantry, g6 into HBM. -/
def regs1 : Tbl Word := [(1, 0x1000), (4, 0x1000), (6, 0x2000)]
def accessWords : List (LOp × Word) :=
  ([0x14, 0x15, 0x16, 0x17, 0x18].map fun m => (.load, encI m 2 1 0x1FFC)) ++ ([0x14, 0x15, 0x16, 0x17, 0x18].map fun m => (.load, encI m 2 1 (2 * 2 ^ 13 + 4))) ++
  [(.load, encI 0x18 2 1 (1 * 2 ^ 13 + 7 * 256 + 2 * 64)), (.load, encI 0x18 2 1 (3 * 2 ^ 13 + 4)), (.store, encI 0x19 2 1 1), (.store, encI 0x1A 2 1 2), (.store, encI 0x1B 2 1 (2 * 2 ^ 13 + 4)),
   (.cas, enc 0x1E 2 6 3 0)] ++
  ([0, 1, 2, 3, 4].map fun k => (.ldf, encI 0x1C 2 4 (k * 4096 + 8))) ++ ([0, 2, 4].map fun k => (.stf, encI 0x1D 2 4 (k * 4096 + 2 * 1024 + 8)))
def casMem : Mem := { l1 := [(l1Key 0 (lineOfPa 0x4C0000000), { st := .e })] }

/-- The words, loads of each size and stores of 1, 2 and 4 bytes that are answered, and a CAS whose line the L1 holds. -/
theorem witness_accesses :
    (∀ e ∈ accessWords, Ready (mapS [e.2, 0] { g := regs1 }) 0 0 e.1 e.2) ∧
    (let s := mapS [0] { g := regs1 }
     let a := taskActor s 0 0 false
     (∀ n ∈ [1, 2, 4], okB (loadBytes s a 0x1000 n) (fun t b => decide (frameOf t 0 0 = frameOf s 0 0) && b == zeros n) = true) ∧
     (∀ n ∈ [1, 2, 4], okB (storeBytes s a 0x1FFC (zeros n)) (fun t _ => decide (frameOf t 0 0 = frameOf s 0 0)) = true ∧
       okB (storeBytes s a 0x2000 (zeros n)) (fun t _ => decide (frameOf t 0 0 = frameOf s 0 0)) = true)) ∧
    (let s := mapS [enc 0x1E 2 6 3 0] { g := regs1 } casMem
     okB (resolve1 s (taskActor s 0 0 false) .write 0x2000 4) fun t p => decide (frameOf t 0 0 = frameOf s 0 0 ∧ (coreOf t 0).sb = [] ∧ memLopBusy t 0 = false ∧ areaOf t p.pa = .general ∧ p.se = false ∧
       l1Need t 0 (lineOfPa p.pa) 0 true = .hit ∧ l1Need t 0 (lineOfPa p.pa) 0 false = .hit ∧ wordAt (memBytes t p.pa 4) 0 = gReg (frameOf s 0 0) 2)) = true := by
  refine ⟨ready_all (mk := fun ws => mapS ws { g := regs1 }) (by decide +kernel), by decide +kernel, by decide +kernel⟩

/-- Frame 7 of core 0, which is being stopped, has an MVS in flight: from its g2 to its g1, as many bytes as its g3 says. -/
def busyS (ws : List Word) (x : Frame) (y : Frame := {}) : State :=
  mapS ws y {} [(7, { x with state := .stopping, tcr := 1, lopPsw := 3, lop := some (BitVec.ofNat 32 (0x2E * 2 ^ 25 + 1 * 2 ^ 16 + 2 * 2 ^ 11 + 3 * 2 ^ 6), 0) })]

/-- The checks with translation off: a line held, a store buffer with room and one that is full, the core's own pantry at its first and last word. -/
theorem witness_access_checks :
    (let s := { coreS [0] with mem := casMem }
     let a := taskActor s 0 0 false
     (0x4C0000001#64).toNat % 4 ≠ 0 ∧ bitOf (crNow s 0 (frameOf s 0 0) 8).toNat 0 = false ∧ checkPa s a.master 0x4C0000000 .read = none ∧ busFails s 0x4C0000000 = false ∧
      areaOf s 0x4C0000000 = .general ∧ overlapsSb s 0 0x4C0000000 4 = false ∧ l1Need s 0 (lineOfPa 0x4C0000000) a.key false = .hit ∧ isHbm s 0x4C0000000 = true ∧ (coreOf s 0).sb.length < 8) ∧
    (8 ≤ (coreOf (mapS [0] {} {} [] (List.replicate 8 {})) 0).sb.length) ∧
    (let s := coreS [0]
     let a := taskActor s 0 0 false
     MemWf s ∧ (∀ p ∈ [paPantry, paPantry + 0x20000 + bankF s - 4], isHbm s p = false ∧ areaOf s p = .pantry a.c ∧ checkPa s a.master p .write = none) ∧ memLopBusy s a.c = false ∧
       lopHolds s a.c true = false ∧ lopUses s a.c a.f (frameOf s 0 0) true = false ∧ portTaken { s with mem := casMem } a 0x4C0000000 = false) ∧
    (let s := busyS [0] { g := [(1, 0x2000), (2, 0x1000), (3, 5)] }
     memLopBusy s 0 = true ∧ lopHolds s 0 true = true ∧ portTaken s (taskActor s 0 0 false) 0x4C0000000 = true ∧ memLopBusy (busyS [0] { g := [(1, 0x1080), (2, 0x1000), (3, 5)] }) 0 = false) := by
  refine ⟨by decide +kernel, by decide +kernel, by unfold MemWf; decide +kernel, by decide +kernel⟩

/-- An entry with a vector table at 0x1000 and a stack at 0x1200. -/
def canEnterB (s : State) (c f v : Nat) : Bool :=
  decide (setFrame s c f (frameOf s c f) = s) && decide ((entryStack (frameOf s c f)).toNat % 8 = 0) &&
  okB (writeVa s (entryActor s c f) wrap32 (entryStack (frameOf s c f) - 288).toNat (blockHeader (frameOf s c f))) fun s1 _ =>
    okB (vectorWord s1 c f v) fun s2 _ => decide (frameOf s2 c f = frameOf s c f)

theorem canEnter_of {s : State} {c f v : Nat} (h : canEnterB s c f v = true) : ∃ s1 s2 w, CanEnter s c f v s1 s2 w := by
  simp only [canEnterB, Bool.and_eq_true, decide_eq_true_eq] at h
  obtain ⟨⟨h1, h2⟩, h3⟩ := h
  obtain ⟨s1, _, h4, h5⟩ := of_okB h3
  obtain ⟨s2, w, h6, h7⟩ := of_okB h5
  exact ⟨s1, s2, w, ⟨h1, h2, h4, h6, of_decide_eq_true h7⟩⟩

def supX : Frame := { psw := 1, evb := 0x1000, g := [(29, 0x1200)] }

/-- SVC and BRK in supervisor mode, a double fault and a third one. -/
theorem witness_exceptions :
    (let s := mapS [sysW 4 0 0 31 31] supX
     Ready s 0 0 .svc (sysW 4 0 0 31 31) ∧ (∃ s1 s2 h, CanEnter s 0 0 16 s1 s2 h) ∧
      (∃ s1 s2 h, CanEnter (countFault s 0 (frameOf s 0 0) .svc (sysW 4 0 0 31 31) { vec := 16 }) 0 0 16 s1 s2 h) ∧ (frameOf s 0 0).state = .running ∧ (frameOf s 0 0).lop = none ∧ (frameOf s 0 0).rep = none ∧
      (∀ p ∈ (frameOf s 0 0).pend, p.left = none) ∧ pMsk (frameOf s 0 0).psw = false ∧ pDf (frameOf s 0 0).psw = false) ∧
    (let s := mapS [sysW 5 0 0 0 1] supX
     Ready s 0 0 .brk (sysW 5 0 0 0 1) ∧ ∃ s1 s2 h, CanEnter (countFault s 0 (frameOf s 0 0) .brk (sysW 5 0 0 0 1) { vec := 17 }) 0 0 17 s1 s2 h) ∧
    (let s := mapS [0] { supX with psw := 3 }
     pMsk (frameOf s 0 0).psw = true ∧ pDf (frameOf s 0 0).psw = false ∧ setFrame s 0 0 (frameOf s 0 0) = s ∧
      okB (vectorWord s 0 0 1) (fun t _ => decide (frameOf t 0 0 = frameOf s 0 0)) = true) ∧
    (let s := mapS [0] { supX with psw := 0x403 }
     pMsk (frameOf s 0 0).psw = true ∧ pDf (frameOf s 0 0).psw = true ∧ setFrame s 0 0 (frameOf s 0 0) = s) ∧
    excB (vectorWord (mapS [0] { supX with psw := 3 } (at1 0x1004 [1])) 0 0 1) (fun _ _ => true) = true := by
  refine ⟨⟨ready_of (by decide +kernel), canEnter_of (by decide +kernel), canEnter_of (by decide +kernel), by decide +kernel⟩, ⟨ready_of (by decide +kernel), canEnter_of (by decide +kernel)⟩, by decide +kernel, by decide +kernel, by decide +kernel⟩

/-- ERET from a block with and without accumulators, and from a double fault. -/
theorem witness_returns :
    (∀ dl ∈ ([0x1201, 0x1202] : List Nat),
      let s := mapS [sysW 6 0 0 0 0] { dlazy := BitVec.ofNat 32 dl } (at1 0x1218 (accImages {}))
      let a := taskActor s 0 0 true
      Ready s 0 0 .eret (sysW 6 0 0 0 0) ∧ pSuper (frameOf s 0 0).psw = true ∧
      okB (readVa s a wrap32 0x1200 24) (fun s1 _ => decide (frameOf s1 0 0 = frameOf s 0 0 ∧ chainDue s1 a (frameOf s 0 0) = none) &&
        okB (readVa s1 a wrap32 0x1218 264) fun s2 v => decide (frameOf s2 0 0 = frameOf s 0 0) && (accsFrom (frameOf s 0 0) v).isSome) = true) ∧
    Ready (mapS [sysW 6 0 0 0 1] { psw := 0x403 }) 0 0 .eretDoubleFault (sysW 6 0 0 0 1) := by
  refine ⟨fun dl h => ?_, ready_of (by decide +kernel)⟩
  rcases List.mem_cons.mp h with rfl | h
  · exact ⟨ready_of (by decide +kernel), by decide +kernel, by decide +kernel⟩
  rcases List.mem_cons.mp h with rfl | h
  · exact ⟨ready_of (by decide +kernel), by decide +kernel, by decide +kernel⟩
  exact absurd h List.not_mem_nil

def shW (a b : Nat) : Word := BitVec.ofNat 32 (2 ^ 31 + a * 65536 + b)
def shS (o x y : Nat) : Nat := o * 1024 + x * 32 + y

/-- A pair of register operations, a register operation with JR, and the prefixes with their counts. -/
theorem witness_short_operations :
    (let w := shW (shS 2 1 2) (shS 6 3 4)
     let s := coreS [w] { g := [(1, 5), (2, 6)] }
     let a := taskActor s 0 0 false
     Ready s 0 0 .shortOperationWord w ∧ doneB (runShort s a (slotA w)) (fun s1 => decide ((frameOf s1 0 0).psw = (frameOf s 0 0).psw ∧ (frameOf s1 0 0).pend = [] ∧ setFrame s1 0 0 (frameOf s1 0 0) = s1) &&
       doneB (runShort s1 a (slotB w)) fun s2 => decide ((frameOf s2 0 0).epoch = 0 ∧ (frameOf s2 0 0).pend = [] ∧ (frameOf s2 0 0).state = .running)) = true) ∧
    (let w := shW (shS 2 1 2) (shS 0x1D 0 4)
     let s := coreS [w] { g := [(4, 0x40)] }
     let a := taskActor s 0 0 false
     Ready s 0 0 .shortOperationWord w ∧ shOp (slotB w) = 0x1D ∧ (gReg (frameOf s 0 0) (shY (slotB w))).toNat % 4 = 0 ∧ doneB (runShort s a (slotA w)) (fun s1 =>
       decide (gReg (frameOf s1 0 0) 4 = 0x40 ∧ (frameOf s1 0 0).pend = [] ∧ (frameOf s1 0 0).state = .running ∧ setFrame s1 0 0 (frameOf s1 0 0) = s1)) = true) ∧
    (let v := encI 8 3 1 32767
     (∀ e ∈ [(LOp.repi, encI 0x25 0 0 (2 ^ 14 + 16383)), (.repi, encI 0x25 0 1 0), (.repu, encI 0x26 0 0 0), (.repu, encI 0x26 0 0 63)], Ready (coreS [e.2, v]) 0 0 e.1 e.2) ∧
      fetchedAt (frameOf (coreS [encI 0x26 0 0 63, v]) 0 0) 4 = .word v ∧ repeatable v = true ∧ fMajor v = 8 ∧
      repCount (frameOf (coreS [encI 0x25 0 1 0, v]) 0 0) .repi (encI 0x25 0 1 0) = 0 ∧ repCount (frameOf (coreS [0, v]) 0 0) .repi (encI 0x25 0 0 (2 ^ 14 + 16383)) = 16383 ∧
      Ready (coreS [encI 0x26 0 0 63, v] { rep := some 1 }) 0 0 .addi v .idle (some 1) ∧ Ready (coreS [encI 0x26 0 0 63, v] { rep := some 64 }) 0 0 .addi v .idle (some 64)) := by
  refine ⟨⟨ready_of (by decide +kernel), by decide +kernel⟩, ⟨ready_of (by decide +kernel), by decide +kernel⟩, ready_all (mk := coreS) (by decide +kernel), by decide +kernel, by decide +kernel, by decide +kernel,
    by decide +kernel, by decide +kernel, ready_of (by decide +kernel), ready_of (by decide +kernel)⟩

/-- Barriers with nothing and with something to wait for, YIELD alone, to another frame, and to sleep. -/
theorem witness_barriers :
    (∀ e ∈ [(LOp.sync, sysW 0 0 0 0 0), (.syncTlb, sysW 1 0 0 0 0), (.dbar, sysW 2 0 0 0 0), (.yield, sysW 3 0 0 0 0), (.yield, sysW 3 0 0 0 1)], Ready (coreS [e.2, 0]) 0 0 e.1 e.2) ∧
    (let s := coreS [0] { pend := [{ reg := 8, val := 1 }] }
     (coreOf s 0).sb = [] ∧ (frameOf (applyAll s 0 0) 0 0).epoch = 0 ∧ (frameOf (applyAll s 0 0) 0 0).state = .running ∧ (frameOf (applyAll s 0 0) 0 0).pend = [] ∧ nextReady s 0 0 = none) ∧
    Ready (mapS [sysW 0 0 0 0 0] {} {} [] [{}]) 0 0 .sync (sysW 0 0 0 0 0) ∧
    (let s := mapS [sysW 0 0 0 0 0] {} {} [(7, { state := .stalled, wait := .net })]
     Ready s 0 0 .sync (sysW 0 0 0 0 0) ∧ missesLeft s (taskActor s 0 0 false) = true ∧ missesLeft (mapS [0]) (taskActor (mapS [0]) 0 0 false) = false) ∧
    (let s := mapS [sysW 1 0 0 0 0] {} { tlbis := [{ left := [1] }] }
     Ready s 0 0 .syncTlb (sysW 1 0 0 0 0) ∧ ∃ b ∈ s.mem.tlbis, b.core = 0 ∧ b.left ≠ []) ∧
    Ready (coreS [sysW 1 0 0 0 0] { psw := 0 }) 0 0 .syncTlb (sysW 1 0 0 0 0) ∧
    (let s := mapS [sysW 3 0 0 0 1] { psw := 1 } {} [(7, { state := .ready })]
     Ready s 0 0 .yield (sysW 3 0 0 0 1) ∧ nextReady s 0 0 = some 7) ∧
    (let s := coreS [sysW 3 0 0 0 1] { psw := 1 }
     Ready s 0 0 .yield (sysW 3 0 0 0 1) ∧ bitOf (sysW 3 0 0 0 1).toNat 5 = true ∧ pMsk (frameOf s 0 0).psw = false ∧ ∀ g, g < nFrames s → (frameOf s 0 g).state ≠ .ready) := by
  refine ⟨ready_all (mk := coreS) (by decide +kernel), by decide +kernel, ready_of (by decide +kernel), ⟨ready_of (by decide +kernel), by decide +kernel⟩, ⟨ready_of (by decide +kernel), by decide +kernel⟩, ready_of (by decide +kernel),
    ⟨ready_of (by decide +kernel), by decide +kernel⟩, ready_of (by decide +kernel), by decide +kernel, by decide +kernel, by decide +kernel⟩

def crWords : List (LOp × Word) :=
  ((List.range 14).map fun r => (.mfc, sysW 7 4 0 0 r)) ++ ((List.range 14).map fun r => (.mtc, sysW 8 0 4 0 r))
theorem witness_control_registers : (∀ e ∈ crWords, Ready (coreS [e.2, 0]) 0 0 e.1 e.2) ∧ (∀ e ∈ crWords, Ready (coreS [e.2, 0] { psw := 0 }) 0 0 e.1 e.2) ∧
    pSuper (frameOf (coreS [0]) 0 0).psw = true ∧ pSuper (frameOf (coreS [0] { psw := 0 }) 0 0).psw = false := by
  refine ⟨ready_all (mk := coreS) (by decide +kernel), ready_all (mk := fun ws => coreS ws { psw := 0 }) (by decide +kernel), by decide +kernel, by decide +kernel⟩

/-- The running frame and frame 7 in a state; g1 is 7 and g2 an aligned address; SVP names an area written before. -/
def saveS (ws : List Word) (st : FrameState) (area : Bytes := []) (psw : Word := 3) : State :=
  mapS ws { psw := psw, svp := 0x1200, g := [(1, 7), (2, 0x1400)] } (at1 0x1200 area) [(7, { state := st })]
def saveWords : List (LOp × Word) := [(.savl, sysW 9 0 1 2 0), (.savu, sysW 10 0 1 2 0), (.rstl, sysW 11 0 1 0 0), (.rstu, sysW 12 0 1 0 0)]

theorem witness_save_areas :
    (∀ e ∈ saveWords, Ready (saveS [e.2, 0] .stopped) 0 0 e.1 e.2) ∧ (∀ e ∈ saveWords, Ready (saveS [e.2, 0] .ready) 0 0 e.1 e.2) ∧ (∀ e ∈ saveWords, Ready (saveS [e.2, 0] .off [] 0) 0 0 e.1 e.2) ∧
    (let s := saveS [sysW 9 0 1 2 0] .stopped
     let z := frameOf s 0 7
     7 < nFrames s ∧ locksOf s 0 7 = [] ∧ z.cmds = [] ∧ portsOf s 0 7 = 0 ∧
      okB (writeVa s (taskActor s 0 0 false) wrap32 0x1400 (lowerArea (savedFrame s 0 z) 7 0x1200)) (fun t _ => decide (frameOf t 0 0 = frameOf s 0 0 ∧ frameOf t 0 7 = z)) = true ∧
      okB (writeVa s (taskActor s 0 0 false) wrap32 0x1400 (upperArea z 7 0x1200)) (fun t _ => decide (frameOf t 0 0 = frameOf s 0 0 ∧ frameOf t 0 7 = z)) = true) ∧
    (let s := saveS [sysW 11 0 1 0 0] .stopped (lowerArea {} 7 0x1240)
     okB (readVa s (taskActor s 0 0 false) wrap32 0x1200 256) fun t b => decide (frameOf t 0 0 = frameOf s 0 0 ∧ frameOf t 0 7 = frameOf s 0 7 ∧ byteAt b 4 = 0x4C ∧ allZero (slice b 6 2) = true ∧
      allZero (slice b 200 56) = true ∧ (wordAt b 184).toNat < 8)) = true ∧
    (let s := saveS [sysW 12 0 1 0 0] .stopped (upperArea {} 7 0x1240)
     okB (readVa s (taskActor s 0 0 false) wrap32 0x1200 384) fun t b => decide (frameOf t 0 0 = frameOf s 0 0 ∧ frameOf t 0 7 = frameOf s 0 7 ∧ byteAt b 4 = 0x55 ∧ allZero (slice b 6 10) = true ∧
      allZero (slice b 344 40) = true ∧ (accsFrom (frameOf s 0 7) (slice b 80 264)).isSome ∧ twf (coreOf t 0).frames = true)) = true := by
  refine ⟨ready_all (mk := fun ws => saveS ws .stopped) (by decide +kernel), ready_all (mk := fun ws => saveS ws .ready) (by decide +kernel), ready_all (mk := fun ws => saveS ws .off [] 0) (by decide +kernel),
    by decide +kernel, by decide +kernel, by decide +kernel⟩

def tlbWords : List (LOp × Word) :=
  [(.tlbiVa, sysW 16 0 1 2 0), (.tlbiAsid, sysW 17 0 1 0 0), (.tlbiAll, sysW 18 0 0 0 0), (.keyset, sysW 20 0 1 2 0), (.keyget, sysW 21 1 0 2 0), (.keyclr, sysW 22 1 0 2 0)]
theorem witness_tlb_and_keys :
    (∀ e ∈ tlbWords, Ready (coreS [e.2, 0]) 0 0 e.1 e.2) ∧ (∀ e ∈ tlbWords, Ready (coreS [e.2, 0] { wait := .filled [] true }) 0 0 e.1 e.2 (.filled [] true)) ∧
    (∀ e ∈ tlbWords, Ready (coreS [e.2, 0] { psw := 0 }) 0 0 e.1 e.2) ∧ isHbm (coreS [0]) (gPair {} 2).toNat = true ∧
    (∀ e ∈ tlbWords, Ready (coreS [e.2, 0] { g := [(3, 0x18)] }) 0 0 e.1 e.2) ∧ isHbm (coreS [0]) (gPair { g := [(3, 0x18)] } 2).toNat = false ∧
    memLopBusy (coreS [0]) 0 = false ∧ (let s := busyS [sysW 21 1 0 2 0] { g := [(1, 0x2000), (2, 0x1000), (3, 5)] } { wait := .filled [] true }
      memLopBusy s 0 = true ∧ isHbm s (gPair (frameOf s 0 0) 2).toNat = true ∧ Ready s 0 0 .keyget (sysW 21 1 0 2 0) (.filled [] true)) := by
  refine ⟨ready_all (mk := coreS) (by decide +kernel), ready_all (mk := fun ws => coreS ws { wait := .filled [] true }) (by decide +kernel), ready_all (mk := fun ws => coreS ws { psw := 0 }) (by decide +kernel),
    by decide +kernel, ready_all (mk := fun ws => coreS ws { g := [(3, 0x18)] }) (by decide +kernel), by decide +kernel, by decide +kernel, by decide +kernel, by decide +kernel, ready_of (by decide +kernel)⟩

def portWords : List (LOp × Word) := [(.ppost, portW 0 3 6 7 0), (.ppostl, portW 1 3 6 7 0), (.pwait, portW 2 3 1 0 0), (.ptest, portW 3 3 1 0 0)]
/-- The posting block at 0x2000 with a NOP or with an opcode that no task may post. -/
def blockMem (op : Nat) : Mem := { bytes := putMem [] (0x4C0000000 + 32) (le 1 op) }
def postS (w : Word) (op : Nat) : State := mapS [w] { g := regs1 } (blockMem op)
/-- The same with every port slot in use. -/
def fullS (w : Word) : State :=
  let s := postS w 0x41
  setCore s 0 { coreOf s 0 with slots := (List.range 32).map fun n => (n, ({ frame := 7 } : PortSlot)) }

theorem witness_port :
    (∀ e ∈ portWords, Ready (mapS [e.2, 0] { g := regs1 }) 0 0 e.1 e.2) ∧ (∀ e ∈ portWords, Ready (mapS [e.2, 0] { g := [(6, 0x2010)] }) 0 0 e.1 e.2) ∧
    (∀ e ∈ portWords, Ready (mapS [e.2, 0] { wait := .filled (le 4 33) true }) 0 0 e.1 e.2 (.filled (le 4 33) true)) ∧
    (∀ op ∈ [0x41, 0x30],
      let s := postS (portW 0 3 6 7 0) op
      let a := taskActor s 0 0 true
      okB (portArea s a wrap32 0x2000 32) (fun s1 _ => okB (readVa s1 a wrap32 0x2020 128) fun s2 desc => okB (readVa s2 a wrap32 0x20A0 (128 * cNext { desc := desc })) fun s3 ext =>
        let cmd : Cmd := { desc := desc, ext := ext, tenant := a.key, supervisor := a.sup }
        decide (destOf cmd = none ∧ freeSlot s3 0 = some 0 ∧ frameOf s3 0 0 = frameOf s 0 0) && ((portSieve s3 cmd (locksOf s3 0 0)).isSome == decide (op = 0x30))) = true) ∧
    (let s := fullS (portW 0 3 6 7 0)
     let a := taskActor s 0 0 true
     Ready s 0 0 .ppost (portW 0 3 6 7 0) ∧
     okB (portArea s a wrap32 0x2000 32) (fun s1 _ => okB (readVa s1 a wrap32 0x2020 128) fun s2 desc => okB (readVa s2 a wrap32 0x20A0 (128 * cNext { desc := desc })) fun s3 ext =>
        decide (destOf { desc := desc, ext := ext, tenant := a.key, supervisor := a.sup } = none ∧ freeSlot s3 0 = none ∧ frameOf s3 0 0 = frameOf s 0 0)) = true) ∧
    (let y : PortSlot := { state := .done, handle := 33 }
     let s := fun y => { svc with cores := { cores := [(0, { frames := [(0, { g := [(1, 33)] })], slots := [(1, y)] })] } }
     slotNamed (s y) {} 33 = some (1, y) ∧ frameOf (freeSlotOf (s y) 0 1) 0 0 = frameOf (s y) 0 0 ∧ twf (coreOf (s y) 0).slots = true ∧ slotNamed (s y) {} 1 = none ∧
      slotNamed (s { y with state := .posted }) {} 33 = some (1, { y with state := .posted })) := by
  refine ⟨ready_all (mk := fun ws => mapS ws { g := regs1 }) (by decide +kernel), ready_all (mk := fun ws => mapS ws { g := [(6, 0x2010)] }) (by decide +kernel),
    ready_all (mk := fun ws => mapS ws { wait := .filled (le 4 33) true }) (by decide +kernel), by decide +kernel, ⟨ready_of (by decide +kernel), by decide +kernel⟩, by decide +kernel⟩

/-- A queue with one command, a frame that holds none and one that holds 16, a misaligned buffer, a handle held and one not. -/
theorem witness_task_queues :
    (let w := portW 4 3 1 0 15
     let q : QEntry := { ticket := 5, granted := 7 }
     let t : Ticket := { state := .held, cmd := cmdOf 0x20 0 0 [] }
     let s := fun (x : Frame) => let s := mapS [w] x; { s with tk := { held := [(5, t)] }, cores := { s.cores with queues := [(15, [q])] } }
     let s1 := s { g := regs1 }
     let a := taskActor s1 0 0 false
     Ready s1 0 0 .lqtake w ∧ Ready (s { g := regs1, wait := .filled [] true }) 0 0 .lqtake w (.filled [] true) ∧ takeable s1 a 15 = some (q, t) ∧ takeable (mapS [w] { g := regs1 }) a 15 = none ∧
      okB (writeVa (takeFree 15 s1).2 a wrap32 0x1000 (takeBuffer q t (BitVec.ofNat 32 (5 * 65536 + (takeFree 15 s1).1.toNat * 2 + 1)))) (fun t _ => decide (frameOf t 0 0 = frameOf s1 0 0)) = true ∧
      Ready (s { cmds := List.replicate 16 (1, 1) }) 0 0 .lqtake w ∧ Ready (s { g := [(1, 0x1008)] }) 0 0 .lqtake w) ∧
    (let w := portW 5 0 7 1 0
     let t : Ticket := { state := .held, cmd := cmdOf 0x20 0 0 [] }
     let s := { mapS [w] { g := regs1 ++ [(7, 0x50001)], cmds := [(5, 0x50001)] } with tk := { held := [(5, t)] } }
     Ready s 0 0 .lcompl w ∧ (frameOf s 0 0).cmds.find? (fun e => e.2 == gReg (frameOf s 0 0) 7) = some (5, 0x50001) ∧
      okB (readVa s (taskActor s 0 0 false) wrap32 0x1000 32) (fun s1 _ => decide (ticketOf s1 5 = some t ∧ frameOf s1 0 0 = frameOf s 0 0)) = true ∧
      Ready (mapS [w]) 0 0 .lcompl w ∧ (frameOf (mapS [w]) 0 0).cmds.find? (fun e => e.2 == 0) = none) := by
  refine ⟨⟨ready_of (by decide +kernel), ready_of (by decide +kernel), by decide +kernel, by decide +kernel, by decide +kernel, ready_of (by decide +kernel), ready_of (by decide +kernel)⟩, ready_of (by decide +kernel), by decide +kernel, by decide +kernel,
    ready_of (by decide +kernel), by decide +kernel⟩

def lockWords : List (LOp × Word) := [(.alock, portW 6 3 4 0 0), (.aunlock, portW 7 0 4 0 0), (.aunlockall, portW 8 0 0 0 0)]
/-- The pair (4, 5) names account 9; the lock table as given. -/
def lockS (ws : List Word) (l : Tbl Lock) (x : Frame := {}) : State := { coreS ws { x with g := [(4, 9)] } with locks := l }
def myLock : Lock := { owner := frameOwner 0 0 }

theorem witness_account_locks :
    (∀ l ∈ [([] : Tbl Lock), [(9, myLock)], [(9, { owner := frameOwner 1 0 })]], ∀ e ∈ lockWords, Ready (lockS [e.2, 0] l) 0 0 e.1 e.2) ∧
    (∀ e ∈ lockWords, Ready (lockS [e.2, 0] [] { wait := .filled [] true }) 0 0 e.1 e.2 (.filled [] true)) ∧
    (let a : Actor := { sup := true }
     alockCode (lockS [0] []) a 9 = none ∧ tget (lockS [0] [(9, { owner := frameOwner 1 0 })]).locks 9 = some { owner := frameOwner 1 0 } ∧
      alockCode (lockS [0] [(9, { owner := frameOwner 1 0 })]) a 9 = none ∧ locksOf (lockS [0] [(9, myLock)]) 0 0 = [9] ∧
      (locksOf (lockS [0] ((List.range 16).map fun i => (i, myLock))) 0 0).length = 16 ∧ idReserved 0 = true ∧
      holdsLock (lockS [0] [(9, myLock)]) (frameOwner 0 0) 0 none 9 = true ∧ holdsLock (lockS [0] []) (frameOwner 0 0) 0 none 9 = false ∧ lentOut (lockS [0] [(9, myLock)]) a 9 = false ∧
      lentOut { lockS [0] [(9, myLock)] with cores := { cores := [(0, { slots := [(0, { locked := true, cmd := cmdOf 0x09 0 9 [] })] })] } } a 9 = true) ∧
    (tget (lockS [0] [(9, { myLock with waiters := [{ owner := frameOwner 1 0 }] })]).locks 9 = some { myLock with waiters := [{ owner := frameOwner 1 0 }] } ∧
      (frameOf (lockS [0] [(9, myLock)] { wait := .lock 0 9 }) 0 0).wait = .lock 0 9) := by
  refine ⟨fun l h => ?_, ready_all (mk := fun ws => lockS ws [] { wait := .filled [] true }) (by decide +kernel), by decide +kernel, by decide +kernel⟩
  simp only [List.mem_cons, List.not_mem_nil, or_false] at h
  rcases h with rfl | rfl | rfl <;> exact ready_all (mk := fun ws => lockS ws _) (by decide +kernel)

end Sys2Proof.Tests
end

