-- ==== Sys2Proof/Tests/Board.lean ====
section
/-! SUPPORT. States that meet the hypotheses of the statements about the cores' other events, the event controller, the directories, the board, the mailbox, register writes and the books. -/
namespace Sys2Proof.Tests
set_option Elab.async false
open Sys2Proof.Machine

/-- An enabled edge source of priority 15 for a frame, pending, that targets core 0. -/
def srcAt (f : Nat) : Source := { cfg := BitVec.ofNat 64 (1 + 64 + 15 * 2 ^ 24 + 2 ^ 28 + f * 2 ^ 50), tgt := 1, state := .pending }
/-- Table 10.10's stack and vectors for frame 0 with an interrupt pending for a frame. -/
def intS (f : Nat) (fs : Tbl Frame := []) : State := { mapS [0] supX {} fs with ev := { srcs := [(0x200, srcAt f)] } }
def otherX : Frame := { supX with state := .ready, tcr := 1 }
/-- Core 0 about to start at the vector table that the configuration names. -/
def startS : State :=
  { svc with store := { cfg := zeros 40 ++ le 4 0x1000 ++ le 4 1 ++ zeros 16 },
             cores := { cores := [(0, { starting := true, tlb := [{ base := 1, e := BitVec.ofNat 64 (paPantry + 0x18D) }] })] } }

/-- Core 0 at 0x1000 with nothing fetched; the page's leaf has the flags given. -/
def fetchS (flags : Nat) : State :=
  { svc with cores := { cores := [(0, { running := some 0, frames := [(0, { state := .running, pc := 0x1000, tcr := 1 })], tlb := [{ base := 1, e := BitVec.ofNat 64 (paPantry + flags) }] })] } }

theorem witness_cores_beside :
    (let s := fetchS 0x18D
     let x := frameOf s 0 0
     let a := taskActor s 0 0 true
     (coreOf s 0).running = some 0 ∧ coreIn s 0 = true ∧ x.state = .running ∧ fetchWanted s 0 0 = some 0x1000 ∧
      excB (resolve a .exec wrap32 17 s 0x1000 16) (fun s1 _ => decide (frameOf s1 0 0 = x)) = true) ∧
    (let s := fetchS 0x19D
     fetchWanted s 0 0 = some 0x1000 ∧ okB (resolve (taskActor s 0 0 true) .exec wrap32 17 s 0x1000 16) (fun s1 ps => okB (readPieces (taskActor s 0 0 true) true s1 ps) fun s2 b =>
       decide (frameOf s2 0 0 = frameOf s 0 0) && b == zeros 16) = true) ∧
    (let nop := encI 8 0 0 0
     let s := { svc with cores := { cores := [(0, { running := some 0, frames := [(0, { state := .running, pc := 4, fetch := [{ data := [nop, nop, nop, nop].flatMap fun w => le 4 w.toNat }] })] })] } }
     fetchWanted s 0 0 = none ∧ fetchWanted (setFrame s 0 0 { frameOf s 0 0 with pc := 8 }) 0 0 = some 16) ∧
    (let l := lineOfPa 0x4C0000000
     let s := mapS [0] { wait := .line l true } casMem
     (frameOf s 0 0).wait = .line l true ∧ l1Need s 0 l 0 true = .hit ∧ l1Need (mapS [0] { wait := .line l true }) 0 l 0 true = .own ∧
      (frameOf (mapS [0] {} casMem [(7, { state := .stalled, wait := .line l true })]) 0 7).state = .stalled) ∧
    (let e : SbEntry := { pa := 0x4C0000000, data := [1, 2, 3, 4], priv := true }
     let s := mapS [0] {} casMem [] [e]
     (coreOf s 0).sb = [e] ∧ memLopBusy s 0 = false ∧ twf s.cores.cores = true ∧ Memory.wf s.mem = true ∧ checkPa s (sbMaster 0 e) e.pa .write = none ∧ busFails s e.pa = false ∧
      l1Need s 0 (lineOfPa e.pa) 0 true = .hit ∧ l1Need (mapS [0] {} {} [] [e]) 0 (lineOfPa e.pa) 0 true = .own ∧ (checkPa s (sbMaster 0 { e with priv := false }) e.pa .write).isSome = true ∧
      (frameOf s 0 0).ste = none) ∧
    (let e : Exc := { vec := 5, cause := 4, phys := true, imp := true }
     let s := mapS [0] { supX with ste := some e }
     storeErrorReady (frameOf s 0 0) = some e ∧ ∃ s1 s2 h, CanEnter (setFrame s 0 0 { frameOf s 0 0 with ste := none }) 0 0 5 s1 s2 h) ∧
    (deliverable (intS 0) 0 none = some (0x200, srcAt 0) ∧ srcFrame (srcAt 0) = 0 ∧ mayLeave (frameOf (intS 0) 0 0) = true ∧ ∃ s1 s2 h, CanEnter (intS 0) 0 0 (32 + 15) s1 s2 h) ∧
    (let s := intS 7 [(7, otherX)]
     let t := switchTo s 0 7
     deliverable s 0 none = some (0x200, srcAt 7) ∧ srcFrame (srcAt 7) = 7 ∧ mayLeave (frameOf s 0 0) = true ∧ mayLeave (frameOf t 0 7) = true ∧ ∃ s1 s2 h, CanEnter t 0 7 (32 + 15) s1 s2 h) ∧
    (let t := setFrame startS 0 0 (bootFrame startS 0)
     let t2 := setCore t 0 { coreOf t 0 with running := some 0, starting := false }
     readyToStart startS 0 = true ∧ okB (vectorWord t2 0 0 0) (fun s3 _ => decide (frameOf s3 0 0 = bootFrame startS 0 ∧ (coreOf s3 0).running = some 0)) = true) ∧
    (let s := mapS [0] {} {} [(1, { state := .stopped }), (2, { restored := true }), (3, { state := .sleep }), (4, { state := .ready }), (7, { state := .resetting, epoch := 1 })]
     7 < nFrames s ∧ (frameOf s 0 1).state = .stopped ∧ (frameOf s 0 2).state = .off ∧ (frameOf s 0 2).restored = true ∧ (frameOf s 0 3).state = .sleep ∧ (frameOf s 0 4).state = .ready ∧
      (frameOf s 0 7).state = .resetting ∧ twf s.cores.cores = true ∧ twf (coreOf s 0).frames = true ∧ (0 : Half) ≠ (frameOf s 0 7).epoch) := by
  refine ⟨by decide +kernel, by decide +kernel, by decide +kernel, by decide +kernel, by decide +kernel, ⟨by decide +kernel, canEnter_of (by decide +kernel)⟩,
    ⟨by decide +kernel, by decide +kernel, by decide +kernel, canEnter_of (by decide +kernel)⟩,
    ⟨by decide +kernel, by decide +kernel, by decide +kernel, by decide +kernel, canEnter_of (by decide +kernel)⟩, by decide +kernel, by decide +kernel⟩

theorem witness_events :
    (let x : Source := { cfg := BitVec.ofNat 64 (1 + 64 + 2 * 2 ^ 28 + 2 ^ 36) }
     srcEn x = true ∧ srcSense x ≠ 0 ∧ x.cnt + 1 < srcCount x ∧ srcCount x ≤ { x with cnt := 1 }.cnt + 1 ∧ srcTime x ≠ 0 ∧ srcReserved 0x10F = false ∧ srcReserved 0x144 = true) ∧
    (let y : Source := { cfg := 1 }
     let s := { svc with cores := { queues := [(15, [{}])] }, ev := { srcs := [(15, y)] } }
     queueOf s 15 ≠ [] ∧ srcEn (srcOf s 15) = true ∧ srcSense (srcOf s 15) = 0 ∧ (srcOf s 15).state ≠ .active) ∧
    (let s := intS 0
     let k := coreOf s 0
     bestSource s (fun _ y => srcTargets s y 0 && abovePrio k (srcPrio y)) = some (0x200, srcAt 0) ∧ k.stack.length < 8 ∧
      bestSource svc (fun _ y => srcTargets svc y 0 && abovePrio k (srcPrio y)) = none) ∧
    (let s := { intS 0 with cores := { cores := [(0, { stack := [{ prio := 15, src := 0x200, frame := 0 }] })] } }
     (coreOf s 0).stack = [] ++ [{ prio := 15, src := 0x200, frame := 0 }] ∧ twf s.cores.cores = true ∧ twf s.ev.srcs = true ∧ srcSense (srcOf s 0x200) ≠ 0) ∧
    (let s := { svc with tb := 100, ev := { cmps := [(15, (100, true))] } }
     tget s.ev.cmps 15 = some (100, true) ∧ 100 ≤ s.tb ∧ s.tb < (101#64).toNat) ∧
    (let v : Dbl := BitVec.ofNat 64 (1 + 64 + 2 ^ 28)
     v.getLsbD 0 = true ∧ bits v.toNat 7 6 ≠ 0 ∧ bits v.toNat 35 28 ≠ 0 ∧ bits (65#64).toNat 35 28 = 0 ∧ srcEn (srcOf svc 0x3FE) = false ∧ srcReserved 0x3FE = false) := by
  refine ⟨by decide +kernel, by decide +kernel, by decide +kernel, by decide +kernel, by decide +kernel, by decide +kernel⟩

theorem witness_directories :
    (let l := lineOfPa 0x4C0000000
     let w := fun (own : Bool) (m : Mem) => mapS [0] { wait := .line l own } m
     let held := fun (st : L1St) => ({ l1 := [(l1Key 1 l, { st := st, wr := true })], dir := [(l, { st := .exclusive, owner := 1 })] } : Mem)
     l < 2 ^ 39 ∧ l1Of (w false {}) 0 l = none ∧ requestKey (w false {}) 0 l false = some 0 ∧ requestKey (w true {}) 0 l true = some 0 ∧ dirOf (w false {}) l = none ∧
      keyAllows 0 (storageKey (w false {}) (l / 32)) .write = true ∧ keyAllows 1 (storageKey (w false {}) (l / 32)) .write = false ∧
      dirOf (w false (held .m)) l = some { st := .exclusive, owner := 1 } ∧ l1Of (w false (held .e)) 1 l = some { st := .e, wr := true } ∧ twf (held .m).l1 = true ∧ twf (held .m).dir = true ∧
      mustWait (w true {}) 0 l = false ∧ heldDirty (w true {}) l ≠ BitVec.allOnes 128 ∧
      heldDirty (w true { l1 := [(l1Key 1 l, { st := .m, dirty := BitVec.allOnes 128 })], dir := [(l, { st := .exclusive, owner := 1 })] }) l = BitVec.allOnes 128 ∧
      (let u := w true { dir := [(l, { st := .exclusive, owner := 1, losers := [0] })] }
       mustWait { u with cores := { u.cores with cores := u.cores.cores ++ [(1, { sb := [{ pa := 128 * l }] })] } } 0 l = true) ∧
      heldShared (w true { l1 := [(l1Key 0 l, {})], dir := [(l, { sharers := [0] })] }) 0 l = true ∧ sliceOf svc l = sliceOf svc l ∧ isHbm svc (l * 128) = true ∧ svc.mem.scrubEn = true) ∧
    (let s := { svc with mem := { tlbis := [{ left := [1, 3] }] } }
     s.mem.tlbis[0]? = some { left := [1, 3] } ∧ 3 ∈ [1, 3] ∧ [1, 3].filter (· != 3) ≠ [] ∧ [3].filter (· != 3) = []) ∧
    (let s := { svc with part := .pv128d, dup := { alive := true }, mem := { tlbis := [{ left := [191] }] } }
     partnerThere s = true ∧ (tlbiUnits s 256).filter (· != 256) ≠ [] ∧ s.mem.tlbis[0]? = some { left := [191] } ∧ [191].filter (· != 191) = []) ∧
    (let s := { svc with store := { debugOpen := true } }
     lineParts 201 0x4C0000000 200 = [(0x4C0000000, 128), (0x4C0000080, 72)] ∧ refusedPart s debugMaster .read (lineParts 201 0x4C0000000 200) = none ∧
      areaOf s 0x4C0000000 = .general ∧ areaOf s 0x4C0000080 = .general ∧ poisoned s 0x4C0000000 = false ∧ poisoned s 0x4C0000080 = false ∧
      lineParts 5 paPantry 4 = [(paPantry, 4)] ∧ refusedPart s debugMaster .write (lineParts 5 paPantry 4) = none ∧ areaOf s paPantry = .pantry 0) := by
  refine ⟨by decide +kernel, by decide +kernel, by decide +kernel, by decide +kernel⟩

/-- A configuration block: its magic, version, a generation and identity, its check. -/
def cfgBlock : Bytes :=
  let b := fit 252 (le 4 0x47464E43 ++ le 2 1 ++ le 2 0 ++ le 8 1 ++ le 8 7 ++ zeros 6 ++ [1, 1] ++ zeros 4 ++ le 2 1)
  b ++ le 4 (crc32 b).toNat

set_option maxRecDepth 20000 in
theorem witness_board :
    (let s := { svc with hw := { svc.hw with rom := false }, mgmt := { state := .down } }
     s.hw.rom = false ∧ s.mgmt.state = .down ∧ s.board.thermtrip = false) ∧
    (svc.board.railOk = 511 ∧ ({ svc with board := { railOk := 510 } } : State).board.railOk ≠ 511 ∧ runSteps [fun t => (t, none)] 3 svc = runSteps [] 4 { svc with mgmt := { svc.mgmt with step := 3 } }) ∧
    (cfgSelect svc = none ∧ cfgSelect { svc with store := { cfgA := cfgBlock } } = some (false, cfgBlock) ∧ cfgPartBad .pv128 cfgBlock = false ∧ cfgPartBad .pv128d cfgBlock = true ∧ cfgInvalid .pv128 cfgBlock = false ∧
      cfgInvalid .pv128 (zeros 256) = true ∧ svc.store.ledgerId = dblAt svc.store.cfg 16 ∧ svc.store.magic = false ∧ svc.dup.role ≠ 2 ∧ svc.jn.blocks = []) ∧
    (svc.board.powerFail = false ∧ svc.mgmt.state = .service ∧ svc.board.holdupOk = true ∧ svc.mgmt.pfGlitch < 2 ^ 32 - 1 ∧ svc.tbHold = 0 ∧ svc.part ≠ .pv32 ∧ twf svc.ev.srcs = true ∧
      (tget svc.host.fns 8192).isSome = true ∧ 8192 / 8192 = 1) := by
  refine ⟨by decide +kernel, ⟨by decide +kernel, by decide +kernel, rfl⟩, by decide +kernel, by decide +kernel⟩

/-- A die in a state of Table 13.1 with a reason. -/
def mbS (st : DevState) (reason : Byte := 0) : State := { svc with mgmt := { state := st, reason := reason } }
def readyFor (s : State) (cmd : Byte) (n : Nat) (m : MbIn) : Bool := mbOpen s && !mbBusy s cmd && !heldFor s 0x0F && mbArgsOk (mbReq s cmd m) n

set_option maxRecDepth 20000 in
/-- Each mailbox command in the state that takes it, and what each of its outcomes stands on. -/
theorem witness_mailbox :
    ([(0x01, 0), (0x0B, 0), (0x02, 8), (0x03, 9), (0x09, 17), (0x0A, 0), (0x0C, 0), (0x0D, 24), (0x0E, 1), (0x0F, 128), (0x10, 0)].all fun e => readyFor (mbS .service) (BitVec.ofNat 8 e.1) e.2 {}) = true ∧
    ([(0x06, 0x04, 14), (0x04, 0x05, 8), (0x0A, 0x06, 24), (0x0A, 0x07, 12), (0x0A, 0x08, 0), (0x0C, 0x0B, 0), (0x0D, 0x11, 96), (0x0B, 0x12, 0)].all fun e =>
      readyFor (mbS .held (BitVec.ofNat 8 e.1)) (BitVec.ofNat 8 e.2.1) e.2.2 {} && heldFor (mbS .held (BitVec.ofNat 8 e.1)) (BitVec.ofNat 8 e.1)) = true ∧
    (mbOpen (mbS .boot) = false ∧ mbBusy { svc with mgmt := { running := some {} } } 1 = true ∧ (cfgIntact cfgBlock && !cfgPartBad .pv128 cfgBlock && !cfgInvalid .pv128 cfgBlock && genAbove svc cfgBlock) = true ∧
      cfgIntact (zeros 256) = false ∧ drained (mbS .quiescing) = true ∧ (∀ b ∈ (mbS .quiescing).jn.blocks, b.state = .closed) ∧
      cwPresent (keyOf svc 0) = false ∧ cwGen (keyOf svc 0) < (1#32).toNat ∧ cfgDebugPermit svc = false ∧ reachesWindow svc = true) ∧
    (let v : PartEnt := { state := .prepared, src := 1, xseq := 9, unknown := true }
     let s := { svc with jn := { stopped := false }, fab := { parts := [(postKey 1 0 9, v)] } }
     (s.fab.parts.find? fun e => e.2.src == 1 && e.2.xseq == 9 && decide (e.2.state = .prepared) && e.2.unknown) = some (postKey 1 0 9, v) ∧ canAppend s [partDecisionRec v true] = true ∧
      canAppend s [partDecisionRec v false] = true) := by
  refine ⟨by decide +kernel, by decide +kernel, by decide +kernel, by decide +kernel⟩

theorem witness_register_writes :
    mbOpen svc = true ∧ (1#64).getLsbD 0 = true ∧ fnExists svc.part 0 = true ∧ trayExists { svc with host := { fns := [(0, { valid := true, ntrays := 2 })] } } 0 1 = true ∧ trayExists svc 0 2047 = false ∧
    svc.fab.enable = false ∧ (0xFFFF#64).extractLsb' 8 8 ≠ 0 ∧ 60 ≤ ((60#64).extractLsb' 0 8).toNat ∧ ((115#64).extractLsb' 0 8).toNat ≤ 115 ∧ 115 < ((116#64).extractLsb' 0 8).toNat ∧
    fnExists .pv32 8192 = false ∧ twf svc.mgmt.req = true ∧ byteAt [0x12] 0 = 0x12 := by decide +kernel

/-- Two accounts and a posting of 100 between them. -/
theorem witness_accepted_postings :
    twf books.accounts = true ∧ (∀ e ∈ books.accounts, inconsistency e.2 e.1 = none ∧ e.2.lastSeq < 1) ∧ postingRule [legTo 1 (-100), legTo 2 100] = none ∧
    ∃ l', evalLegs books (numberLegs 0 [legTo 1 (-100), legTo 2 100]) = .inl l' := by
  refine ⟨by decide +kernel, by decide +kernel, by decide +kernel, ?_⟩
  have h : (evalLegs books (numberLegs 0 [legTo 1 (-100), legTo 2 100])).isLeft = true := by decide +kernel
  cases h1 : evalLegs books (numberLegs 0 [legTo 1 (-100), legTo 2 100]) with
  | inl l' => exact ⟨l', rfl⟩
  | inr e => rw [h1] at h; exact Bool.noConfusion h

theorem witness_read_back : twf ({ g := [(1, 5), (31, 6)] } : Frame).g = true ∧ MemWf { svc with mem := { bytes := [(5, 1), (9, 2)] } } := by
  unfold MemWf; decide +kernel

/-- Tables 3.12, 5.21 and 13.3 at reset, Table 14.9's island 200, and R513's address and registers. -/
theorem test_registers_read :
    readMgmt State.reset 0x1000 = 1 ∧ readMgmt State.reset 0x8000 = 65536 ∧ readMgmt State.reset 0x6048 = 8128 ∧ readMgmt State.reset 0xD810 = 100 ∧
    (readMgmt State.reset (0xD000 + 8 * 200)).extractLsb' 40 16 = 0x0208#16 ∧ readSetup State.reset 0 0x20 = 4 ∧
    i3cAddress { State.reset with board := { addrSel := 3 } } = 0x4E ∧ i3cRead State.reset 0x48 0x1000 = some 1 ∧ i3cRead State.reset 0x48 0x6048 = none := by decide +kernel

end Sys2Proof.Tests
end

