-- ==== Sys2Proof/Tests/Books.lean ====
section
/-! SUPPORT. States that meet the hypotheses of the statements about the posting, account and journal commands, and small tests of the books. -/
namespace Sys2Proof.Tests
set_option Elab.async false
open Sys2Proof.Machine

def pair100 : Bytes := legBytes (legTo 1 (-100)) ++ legBytes (legTo 2 100)
def postC : Cmd := cmdOf 0x01 2 0 pair100
def holdLeg1 : Leg := { legTo 1 (-50) with lflags := 1, lparam := 7 }
def held1 : Ledger := { books with accounts := [(1, { acctOf 1 500 with holds := 50, avail := 450 }), (2, acctOf 2 0)],
                                   holds := [(holdKey 1 7, { account := 1, holdId := 7, currency := 840, placed := 50, remaining := 50, placeSeq := 1 })] }
/-- Account 2 holds what the reversal takes back. -/
def held2 : Ledger := { books with accounts := [(1, acctOf 1 500), (2, acctOf 2 100)] }
def captureC : Cmd := cmdOf 0x03 2 (2 ^ 64) (legBytes holdLeg1 ++ legBytes (legTo 2 50))
def reverseC : Cmd := cmdOf 0x05 2 3 pair100
def post2Pair (a b : Nat) : Bytes := le 8 a ++ le 8 b ++ le 2 840 ++ zeros 6 ++ pack 16 100 ++ zeros 8
def post2C : Cmd := { cmdOf 0x06 2 0 (post2Pair 1 2 ++ post2Pair 2 1) with ext := [] }

/-- A posting of local legs whose turn has come, a CAPTURE of a hold, a REVERSE and a POST2. -/
theorem witness_posting_commands :
    (Turn (turnS postC) 0 0 0x01 1 (tkt postC) (legAccts postC) (legAccts postC) ∧ LegsLocal (turnS postC) postC ∧ postingRule (effectiveLegs postC) = none ∧
      (evalLegs books (numberLegs 0 (effectiveLegs postC))).isLeft = true ∧
      canAppend (turnS postC) [okRec (tkt postC) (cP0 postC) (slotBytes postC (cNlegs postC))] = true) ∧
    (Turn (turnS captureC held1) 0 0 0x03 1 (tkt captureC) (legAccts captureC) (legAccts captureC) ∧ LegsLocal (turnS captureC held1) captureC ∧
      postingRule (effectiveLegs captureC) = none ∧ (effectiveLegs captureC).head? = some holdLeg1 ∧ captureRule held1 holdLeg1 = none ∧
      (evalLegs (moveCapture held1 holdLeg1 true 0) (numberLegs 1 (effectiveLegs captureC).tail)).isLeft = true ∧
      canAppend (turnS captureC held1) [okRec (tkt captureC) (cP0 captureC) (slotBytes captureC 2) 16] = true) ∧
    (Turn (turnS reverseC books {} { nextSeq := 9 }) 0 0 0x05 1 (tkt reverseC) (legAccts reverseC ++ [reverseKey 3]) (legAccts reverseC) ∧
      LegsLocal (turnS reverseC books {} { nextSeq := 9 }) reverseC ∧
      reverseRule (turnS reverseC books {} { nextSeq := 9 }) reverseC = none ∧ postingRule (effectiveLegs reverseC) = none ∧
      (evalLegs held2 (numberLegs 0 (effectiveLegs reverseC))).isLeft = true) ∧
    (Turn (turnS post2C) 0 0 0x06 1 (tkt post2C) (lockIds post2C) (lockIds post2C) ∧ AllLocal (turnS post2C) post2C ∧
      judgePair books (pairLegs post2C 0) = (stOk, none) ∧ judgePair ((pairLegs post2C 0).foldl moveLeg books) (pairLegs post2C 1) = (stOk, none) ∧
      canAppend (turnS post2C) [pairRec (tkt post2C) 0 stOk none, pairRec (tkt post2C) 1 stOk none] = true) :=
  ⟨⟨turn_of (by decide +kernel) (by decide +kernel), by unfold LegsLocal; decide +kernel, by decide +kernel, by decide +kernel, by decide +kernel⟩,
   ⟨turn_of (by decide +kernel) (by decide +kernel), by unfold LegsLocal; decide +kernel, by decide +kernel, by decide +kernel, by decide +kernel, by decide +kernel, by decide +kernel⟩,
   ⟨turn_of (by decide +kernel) (by decide +kernel), by unfold LegsLocal; decide +kernel, by decide +kernel, by decide +kernel, by decide +kernel⟩,
   ⟨turn_of (by decide +kernel) (by decide +kernel), by unfold AllLocal; decide +kernel, by decide +kernel, by decide +kernel, by decide +kernel⟩⟩

def holdC : Cmd := cmdOf 0x02 1 0 (legBytes { legTo 1 (-50) with lflags := 1, lparam := 9 })
def releaseC : Cmd := cmdOf 0x04 0 (1 + 7 * 2 ^ 64) []
def openC : Cmd := cmdOf 0x08 3 0 (legBytes (legTo 3 0) ++ pack 16 0 ++ pack 16 0)
def acctC (op id : Nat) : Cmd := cmdOf op 0 id []
def limitsC : Cmd := cmdOf 0x0C 2 (1 + (128 + 128 * 2 ^ 16 + 2 ^ 33) * 2 ^ 64) (zeros 32 ++ zeros 16 ++ pack 16 900)

/-- The account commands: each command's turn has come and its own checks pass. -/
theorem witness_account_commands :
    (Turn (turnS holdC held1) 0 0 0x02 1 (tkt holdC) (lockIds holdC) (lockIds holdC) ∧ AllLocal (turnS holdC held1) holdC ∧
      holdOf held1 1 9 = none ∧ (acct held1 1).map (fun a => availOk a 50 && dayOk a 5 50 && inRange (a.holds + 50)) = some true ∧
      held1.holds.length < holdCap (stacksUsed (turnS holdC held1)) ∧ canAppend (turnS holdC held1) [okRec (tkt holdC) 0 (cSlot holdC 0)] = true) ∧
    (Turn (turnS releaseC held1) 0 0 0x04 1 (tkt releaseC) (lockIds releaseC) (lockIds releaseC) ∧ AllLocal (turnS releaseC held1) releaseC ∧
      (acct held1 (cP0 releaseC)).isSome = true ∧ (holdOf held1 (cP0 releaseC) (wordAt releaseC.desc 24)).isSome = true ∧
      canAppend (turnS releaseC held1) [okRec (tkt releaseC) 1 (releaseBody releaseC 50)] = true) ∧
    (Turn (turnS openC) 0 0 0x08 1 (tkt openC) (lockIds openC) (lockIds openC) ∧ AllLocal (turnS openC) openC ∧ openRule (turnS openC) openC = none) ∧
    (∀ op ∈ [0x09, 0x0A, 0x0B], Turn (turnS (acctC op 2)) 0 0 op 1 (tkt (acctC op 2)) (lockIds (acctC op 2)) (lockIds (acctC op 2)) ∧
      AllLocal (turnS (acctC op 2)) (acctC op 2) ∧ acct books (cP0 (acctC op 2)) = some (acctOf 2 0) ∧
      canAppend (turnS (acctC op 2)) [okRec (tkt (acctC op 2)) (cP0 (acctC op 2)) []] = true) ∧
    (Turn (turnS limitsC) 0 0 0x0C 1 (tkt limitsC) (lockIds limitsC) (lockIds limitsC) ∧ AllLocal (turnS limitsC) limitsC ∧
      acct books (cP0 limitsC) = some (acctOf 1 500) ∧ limitsRule limitsC (acctOf 1 500) = none) := by
  refine ⟨⟨turn_of (by decide +kernel) (by decide +kernel), by unfold AllLocal; decide +kernel, by decide +kernel, by decide +kernel, by decide +kernel, by decide +kernel⟩,
    ⟨turn_of (by decide +kernel) (by decide +kernel), by unfold AllLocal; decide +kernel, by decide +kernel, by decide +kernel, by decide +kernel⟩,
    ⟨turn_of (by decide +kernel) (by decide +kernel), by unfold AllLocal; decide +kernel, by decide +kernel⟩, ?_,
    ⟨turn_of (by decide +kernel) (by decide +kernel), by unfold AllLocal; decide +kernel, by decide +kernel, by decide +kernel⟩⟩
  intro op h
  simp only [List.mem_cons, List.not_mem_nil, or_false] at h
  rcases h with rfl | rfl | rfl <;> exact ⟨turn_of (by decide +kernel) (by decide +kernel), by unfold AllLocal; decide +kernel, by decide +kernel, by decide +kernel⟩

def viewId : Nat := 0x7FFFFFFFF0000 + 840
def queryC (q : Nat) : Cmd := cmdOf 0x12 1 0x1000 (le 32 (q + 5 * 2 ^ 64))

/-- Reads of an account and of a suspense view, and the three queries. -/
theorem witness_reads_and_queries :
    (∀ op ∈ [0x10, 0x11], Turn (turnS (acctC op 1)) 0 0 op 1 (tkt (acctC op 1)) (lockIds (acctC op 1)) (lockIds (acctC op 1)) ∧
      AllLocal (turnS (acctC op 1)) (acctC op 1) ∧ acct books (cP0 (acctC op 1)) = some (acctOf 1 500) ∧ suspenseView (cP0 (acctC op 1)) = none) ∧
    (Turn (turnS (acctC 0x10 viewId)) 0 0 0x10 1 (tkt (acctC 0x10 viewId)) [] (lockIds (acctC 0x10 viewId)) ∧
      suspenseView (cP0 (acctC 0x10 viewId)) = some 840 ∧ canAppend (turnS (acctC 0x10 viewId)) [okRec (tkt (acctC 0x10 viewId)) 0 []] = true) ∧
    (∀ q ∈ [1, 2, 3], Turn (turnS (queryC q)) 0 0 0x12 1 (tkt (queryC q)) [] [] ∧ (byteAt (queryC q).desc 32).toNat = q ∧
      canAppend (turnS (queryC q)) [okRec (tkt (queryC q)) 0 (cSlot (queryC q) 0)] = true) := by
  refine ⟨?_, ⟨turn_of (by decide +kernel) (by decide +kernel), by decide +kernel, by decide +kernel⟩, ?_⟩
  · intro op h
    simp only [List.mem_cons, List.not_mem_nil, or_false] at h
    rcases h with rfl | rfl <;> exact ⟨turn_of (by decide +kernel) (by decide +kernel), by unfold AllLocal; decide +kernel, by decide +kernel, by decide +kernel⟩
  · intro q h
    simp only [List.mem_cons, List.not_mem_nil, or_false] at h
    rcases h with rfl | rfl | rfl <;> exact ⟨turn_of (by decide +kernel) (by decide +kernel), by decide +kernel, by decide +kernel⟩

def dayC (d : Nat) : Cmd := cmdOf 0x0D 0 d []

/-- DAYROLL at the next day, at the same day, and with its fence drained. -/
theorem witness_dayroll :
    (Turn (turnS (dayC 6)) 0 0 0x0D 1 (tkt (dayC 6)) [] [] ∧ (turnS (dayC 6)).eng.dayFence = none ∧ books.day.toNat < (wordAt (dayC 6).desc 16).toNat) ∧
    (Turn (turnS (dayC 5)) 0 0 0x0D 1 (tkt (dayC 5)) [] [] ∧ (wordAt (dayC 5).desc 16).toNat ≤ books.day.toNat ∧
      canAppend (turnS (dayC 5)) [{ okRec (tkt (dayC 5)) (cP0 (dayC 5)) [] with status := stSeqRule }] = true) ∧
    (let s := { turnS (dayC 6) with eng := { (turnS (dayC 6)).eng with dayFence := some (0, 0) } }
     cmdAt s 0 0 0x0D = some (1, tkt (dayC 6)) ∧ fenceDrained s 0 0 = true ∧ canAppend s [okRec (tkt (dayC 6)) (cP0 (dayC 6)) []] = true) :=
  ⟨⟨turn_of (by decide +kernel) (by decide +kernel), by decide +kernel, by decide +kernel⟩, ⟨turn_of (by decide +kernel) (by decide +kernel), by decide +kernel, by decide +kernel⟩, by decide +kernel, by decide +kernel, by decide +kernel⟩

def ckptC (pages : Nat) : Cmd := cmdOf 0x13 0 (0x1000 + pages * 2 ^ 64) []

/-- CHECKPOINT with no other one under way, with one, and its image with every account's lock free. -/
theorem witness_checkpoint :
    (Turn (turnS (ckptC 4096)) 0 0 0x13 1 (tkt (ckptC 4096)) [] [] ∧ imageLen (turnS (ckptC 4096)) {} ≤ 4096 * 4096 ∧
      canAppend (turnS (ckptC 4096)) [okRec (tkt (ckptC 4096)) 0 []] = true) ∧
    (Turn (turnS (ckptC 1) books {} { ckpt := some {} }) 0 0 0x13 1 (tkt (ckptC 1)) [] [] ∧ (turnS (ckptC 1) books {} { ckpt := some {} }).jn.ckpt = some {}) ∧
    (let q : Ckpt := { pages := 4096 }
     let s := turnS (ckptC 4096) books { phase := .image } { ckpt := some q }
     s.jn.ckpt = some q ∧ (ctxOf s 0 0).phase = .image ∧ copyFree s q = true ∧ imageLen s q ≤ q.pages * 4096) :=
  ⟨⟨turn_of (by decide +kernel) (by decide +kernel), by decide +kernel, by decide +kernel⟩, ⟨turn_of (by decide +kernel) (by decide +kernel), by decide +kernel⟩, by decide +kernel, by decide +kernel, by decide +kernel, by decide +kernel⟩

end Sys2Proof.Tests
end

