-- ==== Sys2Proof/Tests/Decimal.lean ====
section
/-! SUPPORT. States that meet the hypotheses of the statements about the decimal, long and string instructions. -/
namespace Sys2Proof.Tests
set_option Elab.async false
open Sys2Proof.Machine

/-- Majors 0x2B, 0x2D, 0x2E and 0x2F (Table 9.4). -/
def dmW (op dk base len off : Nat) : Word := BitVec.ofNat 32 (0x2B * 2 ^ 25 + op * 2 ^ 22 + dk * 2 ^ 19 + base * 2 ^ 14 + (len - 1) * 2 ^ 9 + off)
def dcW (op dk ra n ext : Nat) : Word := BitVec.ofNat 32 (0x2D * 2 ^ 25 + op * 2 ^ 21 + dk * 2 ^ 18 + ra * 2 ^ 13 + n * 4 + ext)
def dlW (op ra rb rc dk : Nat) : Word := BitVec.ofNat 32 (0x2E * 2 ^ 25 + op * 2 ^ 21 + ra * 2 ^ 16 + rb * 2 ^ 11 + rc * 2 ^ 6 + dk * 2 ^ 3)
def dsW (op rd ra rb ext : Nat) : Word := BitVec.ofNat 32 (0x2F * 2 ^ 25 + op * 2 ^ 21 + rd * 2 ^ 16 + ra * 2 ^ 11 + rb * 2 ^ 6 + ext)

def accWords : List (LOp × Word) :=
  [(.addp, daW 0 7 2 3 0), (.subp, daW 1 7 2 3 0), (.movp, daW 5 7 2 0 0), (.negp, daW 6 7 2 0 0), (.absp, daW 7 7 2 0 0), (.shrp, daW 9 7 2 0 (64 * 16 + 9)), (.shrp, daW 9 7 2 0 (63 * 16)),
   (.shrpr, daW 10 7 2 0 (4 * 64 + 5)), (.clrp, daW 8 7 0 0 0), (.tstp, daW 11 0 2 0 (5 * 64 + 32)), (.cvbd, dcW 2 7 4 0 0), (.cvdb, dcW 3 2 4 0 0)] ++
  ([0, 1, 2, 3, 4, 5].map fun r => (.cmpp, daW 4 0 2 3 (5 * 64 + r * 8)))

/-- d2 and d3 with given values, PSW with OV set or not. -/
def accX (a b : Int) (psw : Word := 3) : Frame := { psw := psw, d := [(2, { val := a }), (3, { val := b })] }

theorem witness_accumulators :
    (∀ v ∈ ([1, 10 ^ 63 - 1, 10 ^ 63] : List Int), ∀ e ∈ accWords, Ready (coreS [e.2, 0] (accX v 1)) 0 0 e.1 e.2) ∧
    (∀ e ∈ accWords, Ready (coreS [e.2, 0] (accX (10 ^ 63 - 1) (-1) 0x83)) 0 0 e.1 e.2) ∧
    (dAcc (accX 1 1) 2).val.natAbs < 10 ^ 63 ∧ ((1 : Int) + 1).natAbs < 10 ^ 63 ∧ 10 ^ 63 ≤ ((10 ^ 63 - 1 : Int) + 1).natAbs ∧ 10 ^ 63 ≤ ((10 ^ 63 - 1 : Int) - -1).natAbs ∧
    pOv (accX 1 1).psw = false ∧ pOv (accX 1 1 0x83).psw = true ∧ (shiftRound 1 (sextI 7 63) 0).natAbs < 10 ^ 64 ∧ (shiftRound 1 (sextI 7 64) 9).natAbs < 10 ^ 63 ∧
    10 ^ 63 ≤ (shiftRound 1 (sextI 7 63) 0).natAbs ∧ 2 ^ 63 ≤ ((10 : Int) ^ 63 - 1) ∧ -(2 : Int) ^ 63 ≤ (1 : Int) := by
  refine ⟨fun v h => ?_, ready_all (mk := fun ws => coreS ws (accX (10 ^ 63 - 1) (-1) 0x83)) (by decide +kernel), by decide +kernel⟩
  simp only [List.mem_cons, List.not_mem_nil, or_false] at h
  rcases h with rfl | rfl | rfl <;> exact ready_all (mk := fun ws => coreS ws (accX _ 1)) (by decide +kernel)

/-- Packed numbers at 0x1000, 0x1010 and 0x1020, the last in a wrong form; zoned ones at 0x1030. -/
def decMem : Mem := { bytes := putMem (putMem (putMem [] (paPantry) (pack 16 123)) (paPantry + 0x10) (pack 16 (-45))) (paPantry + 0x30) (zoned false true 5 678) }
def decS (w : Word) (m : Mem := decMem) : State := mapS [w] { g := [(1, 0x1000), (2, 0x1010), (3, 0x1020), (4, 0x1030)], d := [(0, { val := 99 })] } m

theorem witness_decimal_memory :
    (∀ e ∈ [(LOp.ldp, dmW 0 0 1 16 0), (.stp, dmW 1 0 1 32 511), (.addpMemory, dmW 2 0 1 16 0), (.subpMemory, dmW 3 0 1 1 16), (.ldp, dmW 0 0 3 16 0), (.cvzd, dcW 0 0 4 5 0), (.cvzd, dcW 0 0 3 63 0),
       (.cvdz, dcW 1 0 4 63 2), (.macp, BitVec.ofNat 32 (0x2C * 2 ^ 25 + 1 * 2 ^ 17 + 2 * 2 ^ 12 + 2048 + 1024)), (.macp, BitVec.ofNat 32 (0x2C * 2 ^ 25 + 1 * 2 ^ 17 + 2 * 2 ^ 12))], Ready (decS e.2) 0 0 e.1 e.2) ∧
    (let s := decS 0
     let a := taskActor s 0 0 false
     let same := fun (t : State) => decide (frameOf t 0 0 = frameOf s 0 0)
     okB (readVa s a wrap32 0x1000 16) (fun t b => same t && packOk b && unpack b == 123) = true ∧ okB (readVa s a wrap32 0x1020 16) (fun t b => same t && !packOk b) = true ∧
      okB (readVa s a wrap32 0x1030 5) (fun t b => same t && unzone false b == some 678) = true ∧ okB (readVa s a wrap32 0x1020 63) (fun t b => same t && (unzone false b).isNone) = true ∧
      okB (resolve a .write wrap32 33 s 0x1000 32) (fun s1 ps => same s1 && okB (readyWrite a s1 ps) fun s2 _ => okB (writePieces a s2 ps (pack 32 99)) fun s3 _ => same s3) = true ∧
      okB (resolve a .write wrap32 64 s 0x1030 63) (fun s1 ps => same s1 && okB (readyWrite a s1 ps) fun s2 _ => okB (writePieces a s2 ps (zoned false true 63 99)) fun s3 _ => same s3) = true ∧
      okB (resolve a .read wrap32 17 s 0x1000 16) (fun s1 ps => okB (resolve a .read wrap32 17 s1 0x1010 16) fun s2 qs => okB (readPieces a false s2 ps) fun s3 b =>
        okB (readPieces a false s3 qs) fun s4 d => same s4 && packOk b && packOk d && decide ((99 + unpack b * unpack d).natAbs < 10 ^ 63)) = true ∧ (dAcc (frameOf s 0 0) 0).val.natAbs < 10 ^ 63) := by
  refine ⟨ready_all (mk := fun ws => decS (ws.headD 0)) (lit := 0) (by decide +kernel), by decide +kernel⟩

def longWords : List (LOp × Word) :=
  [(.mulp, daW 2 7 2 3 0), (.divp, daW 3 7 2 3 (128 + 6 * 256)), (.divp, daW 3 7 2 3 0), (.mvs, dlW 0 1 2 3 0), (.mvsx, dlW 1 2 4 1 0), (.edit, dlW 2 1 2 4 7), (.editm, dlW 3 1 2 4 7)]

/-- A frame with an instruction in flight. -/
def flyS (w : Word) (x : Frame) (m : Mem := {}) : State := mapS [0] { x with lop := some (w, 0x40), lopPsw := 3 } m

theorem witness_long_operations :
    (∀ e ∈ longWords, Ready (coreS [e.2, 0]) 0 0 e.1 e.2) ∧
    (∀ b ∈ ([0, 3] : List Int),
      let s := flyS (daW 3 7 2 3 0) (accX 100 b)
      (frameOf s 0 0).lop = some (daW 3 7 2 3 0, 0x40) ∧ (frameOf s 0 0).state = .running ∧ decode (daW 3 7 2 3 0) = some .divp ∧ decode (daW 2 7 2 3 0) = some .mulp ∧ (100 * b).natAbs < 10 ^ 63 ∧
        (dAcc (frameOf s 0 0) 3).val = b ∧ pDz (frameOf s 0 0).lopPsw = false) ∧
    (let w := daW 3 7 2 3 0
     let s := mapS [0] {} {} [(7, { accX 100 0 with state := .ready, psw := 3, lop := some (w, 0x40), lopPsw := 0x100 })]
     (frameOf s 0 7).lop = some (w, 0x40) ∧ (dAcc (frameOf s 0 7) (daDb w)).val = 0 ∧ pDz (frameOf s 0 7).lopPsw = true ∧ (frameOf s 0 7).state = .ready ∧ (coreOf s 0).running ≠ some 7) ∧
    (let w := dlW 0 1 2 3 0
     let s := flyS w { g := [(1, 0x1008), (2, 0x1100), (3, 40)] }
     let a := lopActor (frameOf s 0 0) 0 0
     hasMemLop (frameOf s 0 0) = true ∧ (frameOf s 0 0).state ≠ .stopping ∧ (frameOf s 0 0).lopSb = 0 ∧ (match lopRun a w lopFuel s with | .fin _ => true | _ => false) = true ∧
      (match lopStep s a w with | .more _ _ => true | _ => false) = true ∧ decode w = some .mvs ∧
      okB (chunk s a 0x1100 8 0x1008 8 0) (fun t _ => decide (frameOf t 0 0 = frameOf s 0 0)) = true ∧ (match lopStep (flyS w {}) a w with | .fin _ => true | _ => false) = true) ∧
    (let w := dlW 1 2 4 1 0
     let s := flyS w { g := [(1, 0x40), (2, 0x1000), (3, 40), (4, 0x1100), (5, 5)] }
     decode w = some .mvsx ∧ okB (chunk s (lopActor (frameOf s 0 0) 0 0) 0x1100 5 0x1000 16 0x40) (fun t _ => decide (frameOf t 0 0 = frameOf s 0 0)) = true) ∧
    (let s := coreS [0] { lov := true, lopw := dlW 0 1 2 3 0 }
     (coreOf s 0).running = some 0 ∧ (frameOf s 0 0).lov = true ∧ decBusy s 0 = false ∧ decode (frameOf s 0 0).lopw = some .mvs ∧ isMemLongOp .mvs = true) := by
  refine ⟨ready_all (mk := coreS) (by decide +kernel), by decide +kernel, by decide +kernel, by decide +kernel, by decide +kernel, by decide +kernel⟩

theorem witness_edit_and_strings :
    (let w := dlW 2 1 2 4 7
     let x : Frame := { g := [(4, 3)], d := [(7, { val := 120 })] }
     (dAcc x (dlDk w)).val.natAbs / 10 ^ (pDrem 3 - 1) % 10 = 1 ∧ (dAcc x (dlDk w)).val.natAbs / 10 ^ (pDrem 1 - 1) % 10 = 0 ∧ pSig 3 = false ∧ pSig (3 ||| 0x10000) = true ∧ pReserved 3 = false ∧ pReserved 0x40 = true ∧
      pStarted 3 = false ∧ pStarted 0x20003 = true ∧ (120 : Int).natAbs < 10 ^ pDrem 3 ∧ 10 ^ pDrem 2 ≤ (120 : Int).natAbs ∧ gReg x (dlRb w + 1) = 0) ∧
    (∀ len ∈ [3, 16, 17],
      let w := dsW 1 9 2 5 0
      let s := mapS [w] { g := [(2, 0x1000), (3, BitVec.ofNat 32 len), (5, 0x41)] } (at1 0x1002 [0x41])
      let t := mapS [w] { g := [(2, 0x1000), (3, BitVec.ofNat 32 len), (5, 0x42)] } (at1 0x1002 [0x41])
      Ready s 0 0 .scn w ∧ Ready t 0 0 .scn w ∧
      okB (readVa s (taskActor s 0 0 false) wrap32 0x1000 (min 16 len)) (fun s1 b => decide (frameOf s1 0 0 = frameOf s 0 0) && b.findIdx? (fun y => y == 0x41) == some 2 && b.findIdx? (fun y => y == 0x42) == none) = true) ∧
    (∀ len ∈ [3, 16, 17],
      let w := dsW 0 9 2 4 8
      let s := mapS [w] { g := [(2, 0x1000), (3, BitVec.ofNat 32 len), (4, 0x1100), (5, BitVec.ofNat 32 len)] } (at1 0x1002 [0x41])
      let a := taskActor s 0 0 false
      Ready s 0 0 .cls w ∧ okB (resolve a .read wrap32 (min 16 len + 1) s 0x1000 (min 16 len)) (fun s1 ps => okB (resolve a .read wrap32 (min 16 len + 1) s1 0x1100 (min 16 len)) fun s2 qs =>
        okB (readPieces a false s2 ps) fun s3 p => okB (readPieces a false s3 qs) fun s4 q => decide (frameOf s4 0 0 = frameOf s 0 0) && p.take 2 == q.take 2 && (p[2]?).getD 0 != (q[2]?).getD 0) = true) ∧
    (∀ len ∈ [0, 1],
      let w := dsW 2 9 2 5 0
      let s := mapS [w] { g := [(2, 0x1000), (3, BitVec.ofNat 32 len), (5, 0x1100), (9, 3)] } (at1 0x1141 [2])
      let t := mapS [w] { g := [(2, 0x1000), (3, BitVec.ofNat 32 len), (5, 0x1100), (9, 3)] } { bytes := putMem (at1 0x1141 [2]).bytes paPantry [0x41] }
      Ready s 0 0 .sct w ∧ Ready t 0 0 .sct w ∧
      okB (readVa s (taskActor s 0 0 false) wrap32 0x1000 len) (fun s1 b => b == zeros len && okB (readVa s1 (taskActor s 0 0 false) wrap32 0x1100 1) fun s2 e => decide (frameOf s2 0 0 = frameOf s 0 0) && e == [0]) = true ∧
      okB (readVa t (taskActor t 0 0 false) wrap32 0x1000 len) (fun s1 b => b == [0x41].take len && okB (readVa s1 (taskActor t 0 0 false) wrap32 0x1141 1) fun s2 e => decide (frameOf s2 0 0 = frameOf t 0 0) && e == [2]) = true) := by
  refine ⟨by decide +kernel, fun len h => ?_, fun len h => ?_, fun len h => ?_⟩ <;> simp only [List.mem_cons, List.not_mem_nil, or_false] at h
  · rcases h with rfl | rfl | rfl <;> exact ⟨ready_of (by decide +kernel), ready_of (by decide +kernel), by decide +kernel⟩
  · rcases h with rfl | rfl | rfl <;> exact ⟨ready_of (by decide +kernel), by decide +kernel⟩
  · rcases h with rfl | rfl <;> exact ⟨ready_of (by decide +kernel), ready_of (by decide +kernel), by decide +kernel, by decide +kernel⟩

end Sys2Proof.Tests
end

