-- ==== Sys2Proof/Tests/Fabric.lean ====
section
/-! SUPPORT. States that meet the hypotheses of the statements about the fabric, the partner die and the timebase. -/
namespace Sys2Proof.Tests
set_option Elab.async false
open Sys2Proof.Machine

/-- A die in a shape of two devices, its fabric unit enabled, at 1 s. -/
def fabS (f : Fabric := {}) (s : State := svc) : State :=
  { s with tb := 1000000000, jn := { stopped := false }, eng := { enabled := 1 }, led := { accounts := [(1, { id := 1#64, currency := 840, flags := 1, ledger := 500, avail := 500 })] },
           fab := { f with enable := true, xm1 := 1 } }

/-- A message from endpoint 1. -/
def msgOf (typ : Byte) (arg : Dbl := 0) (body : Bytes := []) (xseq : Dbl := 9) : Msg :=
  { typ := typ, src := 1, mlen := BitVec.ofNat 16 (32 + body.length), xseq := xseq, arg := arg, body := body }

def arrB (s : State) (k : Nat) (m : Msg) (typ : Byte) : Bool := decide (m.typ = typ) && forUs s m && decide (msgFault s k m = none)

theorem arr_of {s : State} {k : Nat} {m : Msg} {typ : Byte} (h : arrB s k m typ = true) : Arrives s k m typ := by
  simp only [arrB, Bool.and_eq_true, decide_eq_true_eq] at h
  exact ⟨h.1.1, h.1.2, h.2⟩

/-- A flit: the control byte, the delimiters, LSEQ, ACK, CRED, what follows, and its check. -/
def flitOf (fc dl : Byte) (lseq ack cred : Nat) (rest : Bytes) : FlitIn :=
  let b := fit 60 ([fc, dl] ++ le 2 lseq ++ le 2 ack ++ le 2 cred ++ rest)
  { data := b ++ le 4 (crc32 b).toNat }

def flitB (s : State) (k : Nat) (w : FlitIn) : Bool :=
  decide (k ≤ 32) && (decide ((linkOf (countFec s k w) k).state = .up) || decide ((linkOf (countFec s k w) k).state = .exchange)) && (decide (32 ≤ k) || (linkOf (countFec s k w) k).locked) &&
  !flitDamaged w && !flitReserved w.data

theorem flit_of {s : State} {k : Nat} {w : FlitIn} (h : flitB s k w = true) : FlitArrives s k w := by
  simp only [flitB, Bool.and_eq_true, Bool.or_eq_true, decide_eq_true_eq, Bool.not_eq_true'] at h
  obtain ⟨⟨⟨⟨h1, h2⟩, h3⟩, h4⟩, h5⟩ := h
  exact ⟨h1, h2, fun hk => h3.resolve_left (Nat.not_le_of_lt hk), h4, h5⟩

/-- Each of the eleven types waits in the inbox as a message that is taken. -/
theorem witness_queued_messages :
    ([tyCommit, tyAbort, tyPrepared, tyRefused, tyDone, tyOutcome, tyE2eAck, tyNak, tyMirror, tyMirrorAck, tyHeartbeat].all fun t =>
      let s := fabS { inbox := [(0, msgOf 7), (3, msgOf t)] }
      decide (takeInbox (fun x => decide (x.typ = t) && forUs s x) s.fab.inbox = if t = 7 then none else some ((3, msgOf t), [(0, msgOf 7)]))) = true := by decide +kernel

/-- A POST of one leg to account 1 as a PREPARE carries it: opcode, N, NL, tenant, leg numbers, and its leg of 32 bytes. -/
def prepSlot : Bytes := fit 32 ([1, 1, 2] ++ zeros 5 ++ le 8 1)
def prepBody : Bytes := prepSlot ++ legBytes (legTo 1 100)
def waitPart : PartEnt := { src := 1, xseq := 9, slot := prepSlot, legs := [legBytes (legTo 1 100)] }

/-- A PREPARE that starts an entry, the same after its tombstone, an entry whose ticket comes, one whose 20 µs are over. -/
theorem witness_participant_prepares :
    (let m := msgOf tyPrepare 0 prepBody
     let s := fabS
     Arrives s 0 m tyPrepare ∧ badPrepareSlot s m = false ∧ tget s.fab.parts (postKey (srcOfMsg m) 0 9) = none ∧ tget s.fab.tombs (postKey (srcOfMsg m) 0 9) = none ∧
      Arrives (fabS { tombs := [(postKey 1 0 9, 5)] }) 0 m tyPrepare ∧ tget (fabS { tombs := [(postKey 1 0 9, 5)] }).fab.tombs (postKey (srcOfMsg m) 0 9) = some 5) ∧
    (let s := fabS { parts := [(7, waitPart)] }
     let ids := (partLegs waitPart).map fun g => g.2.account.toNat
     tget s.fab.parts 7 = some waitPart ∧ s.eng.dayFence = none ∧ grantsOpen s = true ∧ earlierWaits s waitPart = false ∧ spaceOk s (prepareResv waitPart) = true ∧
      ticketFree s 65535 = true ∧ tableFree s = true ∧ engineIn s 0 = true ∧ s.eng.resetting.contains 0 = false ∧ isPrioCtx 0 = preparePrio s waitPart ∧
      (ctxOf s 0 0).state = .free ∧ (∀ g ∈ partLegs waitPart, isLocal s g.2.account = true) ∧ (∀ key ∈ ids, tget s.locks key = none) ∧ fetchFault s 0 (sortUp ids) = none ∧
      judgePart s waitPart = (stOk, none) ∧ s.jn.stopped = false ∧ canAppend s [prepareRec waitPart stOk none] = true ∧ ids = [1]) ∧
    (waitPart.state = .waiting ∧ waitPart.ticket = none ∧ waitPart.waitFrom + 20000 ≤ fabS.tb) := by
  refine ⟨⟨arr_of (by decide +kernel), by decide +kernel, by decide +kernel, by decide +kernel, arr_of (by decide +kernel), by decide +kernel⟩, by decide +kernel, by decide +kernel⟩

def heldPart : PartEnt := { waitPart with state := .prepared }

/-- COMMIT, ABORT and OUTCOME for a held posting, an ABORT of none, the query period, a tombstone's end. -/
theorem witness_participants_decide :
    (let s := fabS { parts := [(postKey 1 0 9, heldPart)] }
     Arrives s 0 (msgOf tyCommit) tyCommit ∧ Arrives s 0 (msgOf tyAbort) tyAbort ∧ tget s.fab.parts (postKey 1 0 9) = some heldPart ∧ heldPart.state = .prepared ∧
      canAppend s [partDecisionRec heldPart true] = true ∧ canAppend s [partDecisionRec heldPart false] = true ∧
      Arrives s 0 (msgOf tyOutcome) tyOutcome ∧ Arrives s 0 (msgOf tyOutcome 1) tyOutcome ∧
      (s.fab.parts.find? fun e => decide (e.2.state = .prepared) && e.2.src % 1024 == 1 % 1024 && e.2.xseq == 9) = some (postKey 1 0 9, heldPart) ∧
      bits (0#64).toNat 7 0 = 0 ∧ bits (1#64).toNat 7 0 = 1) ∧
    (Arrives fabS 0 (msgOf tyAbort) tyAbort ∧ tget fabS.fab.parts (postKey 1 0 9) = none) ∧
    (isStandby fabS = false ∧ heldPart.preparedAt + 100000 ≤ fabS.tb ∧ heldPart.lastQuery + 100000 ≤ fabS.tb ∧ partnerLost fabS = false) ∧
    (tget (fabS { tombs := [(5, 1000000000)] }).fab.tombs 5 = some 1000000000 ∧ 1000000000 ≤ fabS.tb) := by
  refine ⟨⟨arr_of (by decide +kernel), arr_of (by decide +kernel), by decide +kernel, by decide +kernel, by decide +kernel, by decide +kernel, arr_of (by decide +kernel), arr_of (by decide +kernel),
    by decide +kernel, by decide +kernel, by decide +kernel⟩, ⟨arr_of (by decide +kernel), by decide +kernel⟩, by decide +kernel, by decide +kernel⟩

def coord1 (st : CoordState := .preparing) (p : XPart := { ep := 1 }) : Coord := { state := st, prepDurable := true, parts := [p] }

/-- The last PREPARED, a REFUSED, the last DONE, PREPARE_TIMEOUT, ACK_TIMEOUT, DECISION_RESEND and FX_FORGET for one entry. -/
theorem witness_coordinator_decides :
    (let s := fabS { coords := [(9, coord1)], e2e := [(1, { out := [{ eseq := 3, owner := .coord 9 }] })] }
     Arrives s 0 (msgOf tyPrepared) tyPrepared ∧ Arrives s 0 (msgOf tyRefused 0x0305) tyRefused ∧ tget s.fab.coords 9 = some coord1 ∧ coord1.prepFailed = false ∧ coord1.cause = 0 ∧
      (∀ p ∈ coord1.parts, p.refused = none) ∧ ((partsWith s coord1 1 fun p => { p with prepared := true }).all (·.prepared)) = true ∧
      canAppend s [decisionOf s 9 coord1 true stOk 0] = true ∧ canAppend s [decisionOf s 9 coord1 false stRemoteTimeout 0] = true ∧
      (∃ p ∈ coord1.parts, sameEndpoint s p.ep (srcOfMsg (msgOf tyRefused)) = true) ∧ isStandby s = false ∧ coord1.lastPrepare + 50000 ≤ s.tb ∧
      (coord1.parts.any fun p => !p.prepared) = true ∧ ((e2eOf s 1).out.find? fun (z : Sent) => z.eseq == 3) = some { eseq := 3, owner := .coord 9 } ∧ 0 + 20000 ≤ s.tb) ∧
    (let s := fabS { coords := [(9, coord1 .decided)] }
     Arrives s 0 (msgOf tyDone) tyDone ∧ tget s.fab.coords 9 = some (coord1 .decided) ∧ ((partsWith s (coord1 .decided) 1 fun p => { p with done := true }).all (·.done)) = true ∧
      ((coord1 .decided).parts.any fun p => p.ep == 1 && !p.done && decide (p.lastSend + 100000 ≤ s.tb)) = true) := by
  refine ⟨⟨arr_of (by decide +kernel), arr_of (by decide +kernel), by decide +kernel⟩, arr_of (by decide +kernel), by decide +kernel⟩

/-- QUERY, E2E_ACK, a NAK of a PREPARE, messages that pass through with three and with four hops, a message to abandon. -/
theorem witness_messages :
    (let y : Sent := { eseq := 3, owner := .coord 9 }
     let s := fabS { coords := [(9, coord1)], e2e := [(1, { out := [y] })] }
     let nak : Msg := msgOf tyNak (0x30003#64) (fit 32 ([1, 0] ++ le 2 1))
     Arrives s 0 (msgOf tyQuery) tyQuery ∧ Arrives s 0 (msgOf tyE2eAck 5 [0, 0]) tyE2eAck ∧ (e2eOf s 1).waiting = [] ∧
      Arrives s 0 nak tyNak ∧ byteAt nak.body 0 ≠ tyMirror ∧ ((e2eOf s (field nak.body 2 2 % 2048)).out.find? fun (x : Sent) => x.eseq == bits nak.arg.toNat 31 16) = some y ∧
      (∃ p ∈ coord1.parts, sameEndpoint s p.ep (field nak.body 2 2 % 2048) = true) ∧
      (e2eOf (freePlace s (field nak.body 2 2 % 2048) (bits nak.arg.toNat 31 16)) (field nak.body 2 2 % 2048)).lost = [] ∧ canAppend s [decisionOf s 9 coord1 false stRemoteRefused 0] = true ∧
      y.sentAt + 1000000 ≤ s.tb ∧
      (e2eOf (freePlace { s with fab := { s.fab with e2e := [(1, { out := [y], waiting := [(msgOf tyPrepare, .coord 9)] })] } } 1 3) 1).lost = [9]) ∧
    (let through : Byte → Msg := fun fl => { msgOf tyCommit with dst := 1, mflags := fl }
     let s := fabS { routes := [(0, 0x80), (1, 0x80)], links := [(0, { state := .up, enable := true })] }
     forUs s (through 6) = false ∧ msgFault s 0 (through 6) = none ∧ bits (through 6).mflags.toNat 3 1 < 4 ∧ (transmit s (through 6)).2 = true ∧
      (transmit { s with fab := { s.fab with links := [] } } (through 6)).2 = false ∧ forUs s (through 8) = false ∧ msgFault s 0 (through 8) = none ∧ 4 ≤ bits (through 8).mflags.toNat 3 1) := by
  refine ⟨⟨arr_of (by decide +kernel), arr_of (by decide +kernel), by decide +kernel, arr_of (by decide +kernel), by decide +kernel⟩, by decide +kernel⟩

/-- One die of a PV-128D: mirrored (`mode` 1) or split (2), in its role. -/
def dieS (mode : Byte) (d : Duplex) (g : Guard := {}) : State :=
  { fabS {} svc with part := .pv128d, store := { cfg := zeros 26 ++ [mode] }, guard := g, dup := d }

/-- A region that grants the partner path a write to the general area. -/
def partnerRegion : Guard :=
  { regions := [(0, BitVec.ofNat 64 (0x17FC000 * 4096)), (1, BitVec.ofNat 64 (0x17FC000 * 4096)), (2, BitVec.ofNat 64 (4 * 2 ^ 61 + 32 * 2 ^ 46 + 2 ^ 16)), (3, BitVec.ofNat 64 (2 ^ 62 + 2))] }

/-- The standby and the serving die of a mirrored pair, a split die with its partner's region, and each loss. -/
theorem witness_partner_die :
    (let s := dieS 1 { role := 2, alive := true }
     let r : Rec := { seq := 1, kind := 0x01 }
     Arrives s 32 (msgOf tyMirror 0 []) tyMirror ∧ isStandby s = true ∧ s.dup.stale = false ∧ r.seq = s.dup.standbyAcked + 1 ∧ Arrives s 32 (msgOf tyHeartbeat 4) tyHeartbeat ∧
      s.part = .pv128d ∧ s.dup.alive = true ∧ s.mgmt.state = .service ∧ s.dup.solo = false ∧ s.dup.lastFlit + 4000 ≤ s.tb) ∧
    (let s := dieS 2 { role := 0, alive := true } partnerRegion
     Arrives s 32 (msgOf tyMirror 0 []) tyMirror ∧ isStandby s = false ∧ split s = true ∧ (match mirrorPut s [1] with | .inl _ => true | .inr _ => false) = true) ∧
    (let s := { dieS 1 { role := 1, alive := true, lastMirror := some 0 } with jn := { nextSeq := 5 } }
     Arrives s 32 (msgOf tyMirrorAck 4) tyMirrorAck ∧ (msgOf tyMirrorAck 4).arg.toNat < s.jn.nextSeq ∧ s.dup.solo = false ∧ isStandby s = false ∧ s.dup.lastMirror = some 0 ∧ 0 + 4000 ≤ s.tb) ∧
    (let s := dieS 1 { role := 2, alive := true, stale := true }
     isStandby s = true ∧ s.dup.stale = true ∧ s.dup.alive = true) := by
  refine ⟨⟨arr_of (by decide +kernel), by decide +kernel, by decide +kernel, by decide +kernel, arr_of (by decide +kernel), by decide +kernel⟩,
    ⟨arr_of (by decide +kernel), by decide +kernel⟩, ⟨arr_of (by decide +kernel), by decide +kernel⟩, by decide +kernel⟩

def upLink : Link := { state := .up, locked := true, enable := true, rxExpect := 7 }
def dataFl (lseq : Nat) : FlitIn := flitOf 1 3 lseq 0 0 (zeros 52)
def identFl (epoch : Nat) : FlitIn := flitOf 2 0 0 0 0 ([3, 0] ++ le 2 1 ++ [4, 0] ++ zeros 2 ++ le 4 epoch ++ le 2 64 ++ zeros 2 ++ zeros 16)

/-- A message of one DATA_FLIT with the expected LSEQ, one out of sequence with and without a retry asked for, and each control flit. -/
theorem witness_links_carry_flits :
    (let s := fabS { links := [(0, upLink)] }
     FlitArrives s 0 (dataFl 7) ∧ flitType (dataFl 7).data = 1 ∧ field (dataFl 7).data 2 2 = (linkOf (flitTaken s 0 (dataFl 7)) 0).rxExpect ∧
      (linkOf (flitTaken s 0 (dataFl 7)) 0).state = .up ∧ 0 < poolDepth (flitTaken s 0 (dataFl 7)) 0 0 0 ∧ byteAt (dataFl 7).data 1 = 3 ∧
      tget (linkOf (flitTaken s 0 (dataFl 7)) 0).rxParts 0 = none ∧
      FlitArrives s 0 (dataFl 4095) ∧ field (dataFl 4095).data 2 2 ≠ (linkOf (flitTaken s 0 (dataFl 4095)) 0).rxExpect ∧ (linkOf s 0).reqSent = 0 ∧
      FlitArrives s 0 (flitOf 0 0 0 0x8003 0 []) ∧ flitType (flitOf 0 0 0 0x8003 0 []).data = 0 ∧ FlitArrives s 0 (flitOf 2 0 0 0 0 [2]) ∧
      isCtrl 2 (flitOf 2 0 0 0 0 [2]).data = true ∧ FlitArrives s 0 (flitOf 2 0 0 0 0 [1, 0, 3]) ∧ isCtrl 1 (flitOf 2 0 0 0 0 [1, 0, 3]).data = true) ∧
    ((linkOf (flitTaken (fabS { links := [(0, { upLink with reqSent := 1 })] }) 0 (dataFl 8)) 0).reqSent ≠ 0) ∧
    (let s := fabS { routes := [(1, 0x80)], links := [(0, { upLink with state := .exchange })] }
     FlitArrives s 0 (identFl 0) ∧ isCtrl 3 (identFl 0).data = true ∧ (linkOf (flitTaken s 0 (identFl 0)) 0).state = .exchange ∧
      identFault (flitTaken s 0 (identFl 0)) 0 (identFl 0).data = none ∧ FlitArrives s 0 (identFl 1) ∧ identFault (flitTaken s 0 (identFl 1)) 0 (identFl 1).data = some 0x04) := by
  refine ⟨⟨flit_of (by decide +kernel), by decide +kernel, by decide +kernel, by decide +kernel, by decide +kernel, by decide +kernel, by decide +kernel, flit_of (by decide +kernel),
    by decide +kernel, by decide +kernel, flit_of (by decide +kernel), by decide +kernel, flit_of (by decide +kernel), by decide +kernel, flit_of (by decide +kernel), by decide +kernel⟩,
    by decide +kernel, flit_of (by decide +kernel), by decide +kernel, by decide +kernel, by decide +kernel, flit_of (by decide +kernel), by decide +kernel⟩

/-- A link in each state of its bring-up, with the times its timers wait for. -/
theorem witness_links_come_up :
    let st : LinkState → Link → State := fun x l => fabS { links := [(31, { l with state := x })] }
    (linkOf (st .lock {}) 31).state = .lock ∧ (linkOf (st .lock {}) 31).locked = false ∧ (linkOf (st .lock {}) 31).goodWords = 0 ∧
    (linkOf (st .up { locked := true }) 31).locked = true ∧ (linkOf (st .up { locked := true }) 31).badWords = 0 ∧ (linkOf (st .lock {}) 31).since + 50000000 ≤ (st .lock {}).tb ∧ (linkOf (st .exchange {}) 31).state = .exchange ∧
    (linkOf (st .up {}) 31).state = .up ∧ (linkOf (st .training {}) 31).state = .training ∧ (st .training {}).board.fabOk = true ∧
    (linkOf (st .training {}) 31).since + 500000000 ≤ (st .training {}).tb ∧ (linkOf (st .training { retrainFrom := some 0 }) 31).retrainFrom = some 0 ∧
    (0 : Nat) + 10000000 ≤ (st .training {}).tb ∧ (linkOf (st .up { violStart := some 0 }) 31).violStart = some 0 ∧
    (linkOf (st .up { reqSent := 7 }) 31).reqSent = 7 ∧ (linkOf (st .up { reqSent := 8 }) 31).reqSent = 8 ∧ (linkOf (st .up {}) 31).reqAt + 2000 ≤ (st .up {}).tb ∧
    31 < nLinks (st .up {}).part ∧ (linkOf (st .up { enable := true }) 31).enable = true ∧ linksRun (st .up {}) = true ∧ (linkOf (st .down { enable := true }) 31).state = .down ∧
    (1#64).getLsbD 0 = true ∧ (linkOf (st .disabled {}) 31).state = .disabled := by decide +kernel

/-- FAB_CTL written for a shape that fits and one that does not, the unit stopped at rest and while an entry is open, and the timebase's flits and edges. -/
theorem witness_fabric_unit :
    (svc.fab.enable = false ∧ (1#64).getLsbD 0 = true ∧ fabRefused svc (fabFields svc.fab 1) = false ∧
      fabRefused svc (fabFields svc.fab (BitVec.ofNat 64 (15 * 2 ^ 24 + 7 * 2 ^ 21 + 7 * 2 ^ 18 + 2 ^ 11 + 2 ^ 12 * 8 + 1))) = false ∧
      fabRefused { svc with part := .pv32 } (fabFields svc.fab (BitVec.ofNat 64 (15 * 2 ^ 24 + 1))) = true) ∧
    (fabS.fab.enable = true ∧ (0#64).getLsbD 0 = false ∧ fabS.fab.coords = [] ∧ resolverHeld fabS = 0 ∧ resolverHeld (fabS { parts := [(1, heldPart)] }) ≠ 0) ∧
    (let s := fabS { links := [(0, upLink)], timeReq := some 5, syncEn := true }
     FlitArrives s 0 (flitOf 2 0 0 0 0 [4]) ∧ isCtrl 4 (flitOf 2 0 0 0 0 [4]).data = true ∧ FlitArrives s 0 (flitOf 2 0 0 0 0 [5]) ∧
      isCtrl 5 (flitOf 2 0 0 0 0 [5]).data = true ∧ s.fab.timeReq = some 5 ∧ s.fab.timeMaster = false ∧ s.fab.lastTimeReq + 125000 ≤ s.tb ∧ s.fab.syncEn = true ∧
      s.tb % 1000000 = 0 ∧ s.fab.lastSync ≠ s.tb ∧ ({ s with tb := 1500000 } : State).tb % 1000000 = 500000) := by
  refine ⟨by decide +kernel, by decide +kernel, flit_of (by decide +kernel), by decide +kernel, flit_of (by decide +kernel), by decide +kernel⟩

end Sys2Proof.Tests
end

