-- ==== Sys2Proof/Tests/Host.lean ====
section
/-! SUPPORT. States that meet the hypotheses of the statements about the host link: trays, doorbells, tickets, vectors, registers. -/
namespace Sys2Proof.Tests
set_option Elab.async false
open Sys2Proof.Machine

/-- Function 0 with four trays and doorbells; tray 0 is `x`. Both log sizes are 6, the quota is 8. -/
def hostS (x : Tray) (fn : Fn := {}) (tb : Nat := 10000000) : State :=
  { svc with tb := tb, eng := { enabled := 1 }, host := { fns := [(0, { fn with valid := true, ntrays := 4, dbEnable := true })], trays := [(0, x)] } }

def cfg6 : Dbl := BitVec.ofNat 64 (6 + 6 * 32 + 2 ^ 14 + 2 ^ 22 + 8 * 2 ^ 48)
def runTray : Tray := { enable := true, pushEn := true, msixEn := true, cfg := cfg6 }
def nopDesc (seq : Nat) : Bytes := le 1 0x41 ++ zeros 3 ++ le 4 seq ++ zeros 56
def pushAt (seq : Nat) (b : Bytes := nopDesc seq) : PushSlot := { half0 := some b, half1 := some (zeros 64) }

/-- A NOP pushed, the same NOP in the ring, and a push with an opcode that no host may send. -/
theorem witness_tray_take :
    (let s := hostS { runTray with slots := [(1, pushAt 1)] }
     hostRuns s = true ∧ trayRunning (trayOf s 0 0) = true ∧ (trayOf s 0 0).waiting = none ∧ eligiblePush (trayOf s 0 0) = some (1, pushAt 1) ∧ hasCredit (trayOf s 0 0) = true ∧
      (sieve s (trayCmd s 0 0 (nopDesc 1 ++ zeros 64) [] true) false).isRight = true ∧ taskQueueFull s (trayCmd s 0 0 (nopDesc 1 ++ zeros 64) [] true) = false) ∧
    (let b := nopDesc 1 ++ zeros 64
     let s := hostS { runTray with ring := [b] }
     eligiblePush (trayOf s 0 0) = none ∧ ringHead (trayOf s 0 0) = some (b, 1) ∧ seqOf b = (trayOf s 0 0).expect ∧ hasCredit (trayOf s 0 0) = true ∧
      s.host.extUsed + (1 - 1) ≤ 16384 ∧ (sieve s (trayCmd s 0 0 b [] false) false).isRight = true) ∧
    (let d := le 1 0x30 ++ zeros 3 ++ le 4 1 ++ zeros 56
     let s := hostS { runTray with slots := [(1, pushAt 1 d)] }
     eligiblePush (trayOf s 0 0) = some (1, pushAt 1 d) ∧ sieve s (trayCmd s 0 0 (d ++ zeros 64) [] true) false = .inl (0x21, 0)) := by decide +kernel

/-- A half pushed to its slot, a half that waits 8 µs, a ring read that completes or fails, a gap that has lasted SEQ_WAIT. -/
theorem witness_tray_arrivals :
    (let s := hostS runTray
     trayExists s 0 (128 / 4096) = true ∧ s.board.powerFail = false ∧ pushFault (trayOf s 0 0) (128 % 4096) (nopDesc 1) = none) ∧
    (let s := hostS { runTray with slots := [(1, { half0 := some (nopDesc 1), first := 0 })] }
     tget (trayOf s 0 0).slots 1 = some { half0 := some (nopDesc 1), first := 0 } ∧ halves { half0 := some (nopDesc 1) } = 1 ∧ 0 + 8000 ≤ s.tb) ∧
    (let x := trayOf (hostS { runTray with rdIssued := 1 }) 0 0
     (zeros 128).length % 128 = 0 ∧ 0 < (zeros 128).length / 128 ∧ (zeros 128).length / 128 ≤ (x.rdIssued - x.rdDone).toNat ∧ x.enable = true ∧ x.readErr = false ∧ x.flr = false ∧ x.rdIssued ≠ x.rdDone) ∧
    (let x := { runTray with slots := [(2, pushAt 2)] }
     gapSince x = some 0 ∧ 0 + seqWait x ≤ 10000000 ∧ hasCredit x = true ∧ x.flight = []) := by decide +kernel

/-- A page with a granule, an outstanding read, an entry that moves the tail, a follow-up poll and a tray that waits for extension slots. -/
theorem witness_doorbells :
    (let s := hostS runTray
     (0#64).toNat % 4 ≤ (fnOf s 0).dbPagesM1 ∧ (fnOf s 0).dbEnable = true ∧ (fnOf s 0).dbReads.contains 0 = false ∧ granules s 0 0 ≠ []) ∧
    (let s := hostS runTray { dbReads := [0], trayReads := [0] }
     (fnOf s 0).dbReads.contains 0 = true ∧ dbOutstanding (fnOf s 0) (.page 0) = true ∧ dbOutstanding (fnOf s 0) (.entry 0) = true ∧
      usedEntries s 0 (.page 0) [64, 0, 0, 0, 0, 0, 0, 0] = [{ t := 0, tail := 64, head := 0 }] ∧ ((64 : Word) - (trayOf s 0 0).crHead).toNat ≤ 2 ^ crLog2 (trayOf s 0 0) ∧
      ((64 : Word) - (trayOf s 0 0).crTail).toNat < 2 ^ 31 ∧ ((0 : Word) - (trayOf s 0 0).cqHead).toNat < 2 ^ 31 ∧ ((trayOf s 0 0).lastIssued - 0).toNat < 2 ^ 31) ∧
    (tget (fnOf (hostS runTray { dbFollow := [(0, 64)] }) 0).dbFollow 0 = some 64 ∧ 64 ≤ (hostS runTray).tb) ∧
    (let s := hostS { runTray with ring := [le 2 0 ++ [4] ++ zeros 125], crTail := 1 }
     waitExt (trayOf s 0 0) = true ∧ (fnOf s 0).trayReads.contains 0 = false ∧ tgetD (fnOf s 0).trayPolled 0 0 + 1000 ≤ s.tb) := by decide +kernel

def waitTray (code : Option Byte := none) : Tray :=
  { runTray with waiting := some { cmd := cmdOf 0x41 0 0 [], seq := 1, code := code, since := code.map fun _ => 0 }, flight := [{ seq := 1 }] }

/-- A waiting NOP and a waiting ladle-class command that are granted, a port posting that waits for its grant, a refusal, a dispatch and a return. -/
theorem witness_tickets :
    ([0x41, 0x20].all fun op =>
      let w : Waiting := { cmd := cmdOf op 0 0 [], seq := 1 }
      let s := hostS { runTray with waiting := some w, flight := [{ seq := 1 }] }
      let s := { s with tk := { quotas := [(0, 65536)] } }
      decide ((trayOf s 0 0).quar = false ∧ grantsOpen s = true ∧ ticketFree s 65535 = true ∧ grantCode s 0 0 w.cmd = none ∧ ladleOp (cOp w.cmd) = decide (op = 0x20))) = true ∧
    (let x : PortSlot := { cmd := cmdOf 0x41 0 0 [] }
     let s := { svc with cores := { cores := [(0, { slots := [(3, x)], frames := [(0, { wait := .grant 0 3 })] })] } }
     slotOf s 0 3 = some x ∧ x.state = .waiting ∧ x.frame = 0 ∧ s.tk.fxReserve < tkFree s ∧ spaceOk s (reservation x.cmd) = true ∧ (frameOf s 0 0).wait = .grant 0 3) ∧
    (let s := hostS (waitTray (some stQuota))
     (trayOf s 0 0).waiting.map (·.code) = some (some stQuota) ∧ (trayOf s 0 0).waiting.map (·.since) = some (some 0) ∧ waitLimit (trayOf s 0 0) ≤ 0 + (s.tb - 0) ∧
      (trayOf s 0 0).flight = [{ seq := 1 }] ∧ dueTickets s = []) ∧
    (let s := { hostS (waitTray (some stQuota)) with tk := { quotas := [(0, 65536)], held := [(1, { state := .issued })] } }
     (trayOf s 0 0).waiting.map (·.code) = some (some stQuota) ∧ (trayOf (returnDue s) 0 0).waiting.map (·.code) = some none) ∧
    (let s := { hostS { runTray with waiting := some { cmd := cmdOf 0x20 0 0 [], seq := 1 } } with eng := { dayFence := some (0, 0) }, tk := { quotas := [(0, 65536)] } }
     s.eng.dayFence ≠ none ∧ grantsOpen s = true ∧ ticketFree s 0 = true ∧ grantCode s 0 0 (cmdOf 0x20 0 0 []) = none) ∧
    (let t : Ticket := { cmd := cmdOf 0x41 0 0 [] }
     let s := { hostS runTray with tk := { held := [(1, t)] } }
     ticketOf s 1 = some t ∧ isPeer t.origin = false ∧ holdsBack s 1 = false ∧ hostRuns s = true ∧ isPrioCtx 247 = cPrio t.cmd ∧ chooseEngine s false = some 0 ∧
      (ctxOf s 0 247).state = .free) ∧
    ticketOf { svc with tk := { held := [(1, { state := .issued })] } } 1 = some { state := .issued } := by decide +kernel

/-- A port posting with a result, its frame alive, not waited for and waited for; a ladle-class command that LCOMPL has completed. -/
theorem witness_completions :
    (let t : Ticket := { state := .held, origin := .port 0 0 3, result := some {} }
     let s := fun (w : Wait) => { svc with tk := { held := [(1, t)] }, cores := { cores := [(0, { slots := [(3, { state := .posted })], frames := [(0, { wait := w })] })] } }
     ticketOf (s .idle) 1 = some t ∧ slotOf (s .idle) 0 3 = some { state := .posted } ∧ (frameOf (s .idle) 0 0).epoch = 0 ∧ (frameOf (s (.port 0 3)) 0 0).wait = .port 0 3) ∧
    (let t : Ticket := { state := .held, origin := .tray 0 0, cmd := cmdOf 0x20 0 0 [], result := some {} }
     let s := { hostS { runTray with flight := [{ seq := 1, ticket := some 1 }] } with tk := { held := [(1, t)] } }
     ticketOf s 1 = some t ∧ ladleOp (cOp t.cmd) = true ∧ childRuns s 1 = false ∧ t.intact = true ∧ (trayOf s 0 0).flight = [{ seq := 1, ticket := some 1 }]) := by decide +kernel

/-- The egg timer's time, each way a vector goes, a quarantine's fill, a window's end, a release by tray number. -/
theorem witness_vectors :
    (let x := { runTray with eggC := 1 }
     eTime x ≠ 0 ∧ 0 < x.eggC ∧ up64 (x.eggT0 + eTime x * 64) ≤ 10000000 ∧ x.msixEn = true ∧ (fnOf (hostS x { unmasked := [0] }) 0).unmasked.contains 0 = true ∧
      (fnOf (hostS x) 0).unmasked.contains 0 = false ∧ (fnOf (hostS x { fnMasked := true }) 0).fnMasked = true ∧ ({ x with msixEn := false } : Tray).msixEn = false) ∧
    (fnExists svc.part 0 = true ∧ (fnOf (hostS {} { pendingBits := [2047], unmasked := [2047] }) 0).pendingBits.contains 2047 = true ∧ svc.mgmt.state ≠ .held) ∧
    (let x := { runTray with quar := true, quarFill := true }
     x.flight = [] ∧ x.waiting = none ∧ hasCredit x = true ∧ trayHome (hostS x) (bits (0#64).toNat 14 0) = some (0, 0)) ∧
    ({ runTray with winStart := some 0 } : Tray).winStart = some 0 ∧ 0 + 1000000 ≤ (hostS {}).tb := by decide +kernel

/-- A tray that may be enabled, one whose enable is refused, a reset of one at rest, map entries at their limits, a function and a tenant to write. -/
theorem witness_tray_registers :
    (trayExists (hostS { cfg := cfg6 }) 0 0 = true ∧ enableRefused (hostS { cfg := cfg6 }) 0 0 { cfg := cfg6 } = false ∧ enableRefused (hostS {}) 0 0 {} = true ∧
      trayIdle (hostS { cfg := cfg6 }) 0 0 = true ∧ (trayOf (hostS runTray) 0 0).enable = true) ∧
    (let n := 2 ^ 63 + 2047 * 2 ^ 16 + (32768 - 2047)
     (fnOf { svc with host := {} } 0).valid = false ∧ (BitVec.ofNat 64 n).getLsbD 63 = true ∧ fnExists svc.part 0 = true ∧ absentKey svc 0 = false ∧ bits n 27 16 = 2047 ∧
      bits n 14 0 + 2047 ≤ nTrays svc.part ∧ mapOverlap { svc with host := {} } 0 (bits n 14 0) 2047 = false ∧ 2047 < bits (2 ^ 63 + 2048 * 2 ^ 16) 27 16) ∧
    ((fnOf svc 0).valid = true ∧ (0#64).getLsbD 63 = false) ∧
    ((fnOf { svc with host := { fns := [(0, { resetting := true })] } } 0).resetting = true ∧ ∀ e ∈ svc.tk.held, ∀ t, e.2.origin ≠ .tray 0 t) ∧
    (absentKey svc 8191 = false ∧ bits 65536 16 0 ≤ 65536 ∧ 65536 < bits 65537 16 0) := by
  refine ⟨by decide +kernel, by decide +kernel, by decide +kernel, ⟨by decide +kernel, fun e h => ?_⟩, by decide +kernel⟩
  exact absurd (show e ∈ ([] : List (Nat × Ticket)) from h) List.not_mem_nil

end Sys2Proof.Tests
end

