-- ==== Sys2Proof/Tests/Journal.lean ====
section
/-! SUPPORT. States that meet the hypotheses of the statements about keys, fences, the store's answers, blocks, the drain and the engines. -/
namespace Sys2Proof.Tests
set_option Elab.async false
open Sys2Proof.Machine

def keyC : Cmd := cmdOf 0x18 2 (5 + 3 * 2 ^ 32) (zeros 64)

/-- KEYUPDATE of a tenant with no key, and one whose slot is being written. -/
theorem witness_keyupdate :
    (Turn (turnS keyC) 0 0 0x18 1 (tkt keyC) [keyupdateKey 5] [] ∧ kTarget keyC = 5 ∧ (ctxOf (turnS keyC) 0 0).phase = .idle ∧
      (keyOf (turnS keyC) 5).unflipped = false ∧ (if cwPresent (keyOf (turnS keyC) 5) then cwGen (keyOf (turnS keyC) 5) else 0) < (kGen keyC).toNat ∧
      canAppend (turnS keyC) [{ okRec (tkt keyC) (cP0 keyC) [] with status := stKeyWrap }] = true) ∧
    (let s := turnS keyC books { phase := .keyWrite }
     cmdAt s 0 0 0x18 = some (1, tkt keyC) ∧ (ctxOf s 0 0).phase = .keyWrite ∧
      canAppend s [okRec (tkt keyC) (cP0 keyC) []] = true ∧ canAppend s [{ okRec (tkt keyC) (cP0 keyC) [] with status := stDeviceFault }] = true) :=
  ⟨⟨turn_of (by decide +kernel) (by decide +kernel), by decide +kernel, by decide +kernel, by decide +kernel, by decide +kernel, by decide +kernel⟩, cmdAt_turnS (by decide +kernel), by decide +kernel, by decide +kernel, by decide +kernel⟩

def fenceC : Cmd := cmdOf 0x40 0 0 []
def nopC : Cmd := cmdOf 0x41 0 0 []

/-- A FENCE with nothing before it, one that has waited, one with a command before it, and a NOP. -/
theorem witness_fence :
    (Turn (turnS fenceC) 0 0 0x40 1 (tkt fenceC) [] [] ∧ canAppend (turnS fenceC) [okRec (tkt fenceC) 0 []] = true ∧ fenceClear (turnS fenceC) (tkt fenceC) = true) ∧
    (Turn (turnS fenceC books { phase := .fence }) 0 0 0x40 1 (tkt fenceC) [] [] ∧ (ctxOf (turnS fenceC books { phase := .fence }) 0 0).phase = .fence) ∧
    (let s := { turnS fenceC with tk := { held := [(1, { tkt fenceC with order := 4 }), (2, { tkt nopC with order := 3 })] } }
     cmdAt s 0 0 0x40 = some (1, { tkt fenceC with order := 4 }) ∧ fenceClear s { tkt fenceC with order := 4 } = false ∧
      beforeOk s 1 (·.locked) = true ∧ beforeOk s 1 (·.numbered) = true) ∧
    (Turn (turnS nopC) 0 0 0x41 1 (tkt nopC) [] [] ∧ canAppend (turnS nopC) [okRec (tkt nopC) 0 []] = true) :=
  ⟨⟨turn_of (by decide +kernel) (by decide +kernel), by decide +kernel, by decide +kernel⟩, ⟨turn_of (by decide +kernel) (by decide +kernel), by decide +kernel⟩, by decide +kernel, turn_of (by decide +kernel) (by decide +kernel), by decide +kernel⟩

/-- KEY_RETIRE of the highest key of the part, with its commit word in each state; a locked and an unlocked region, first and last. -/
theorem witness_guard :
    absentKey svc 8191 = false ∧ (keyOf svc 8191).unflipped = false ∧
    cwPending (keyOf (setKey svc 5 { commit := 4 }) 5) = true ∧ cwOther (keyOf (setKey svc 5 { commit := 2 }) 5) = true ∧ cwPending (keyOf (setKey svc 5 { commit := 2 }) 5) = false ∧
    cwOther (keyOf svc 5) = false ∧
    (mpuReg { svc with guard := { regions := [(255, 0x8000000000000000)] } } 63 3).getLsbD 63 = true ∧ (mpuReg svc 0 3).getLsbD 63 = false ∧
    bits (0xC0000000#64).toNat 31 30 = 3 := by decide +kernel

def rec1 : Rec := { seq := 1, kind := 0x01, body := pair }
where pair : Bytes := legBytes (legTo 1 (-100)) ++ legBytes (legTo 2 100)

/-- A journal whose open block holds one record that is not yet durable, for which context 0 of engine 0 waits. -/
def waitS : State :=
  { turnS (cmdOf 0x01 2 0 rec1.pair) books { phase := .appended } with
      eng := { ctxs := [(0, { state := .waiting, phase := .appended, ticket := some 1, awaiting := [6], entry := { seq := 1, state := .appending, nrec := 1, ticket := 1 } })] },
      jn := { nextSeq := 2, nextBlock := 2, blocks := [{ no := 1, firstSeq := 1, recs := [rec1] }], waiters := [(1, .ctx 0 0 0)] } }

/-- The frontier passes the record; its write fails. -/
theorem witness_journal_answers :
    (durableOk waitS 1 = true ∧ newlyDurable waitS.jn 1 = [rec1] ∧ tget waitS.jn.waiters 1 = some (.ctx 0 0 0) ∧ ctxLive waitS 0 0 0 = true ∧
      (ctxOf waitS 0 0).ticket = some 1 ∧ (ticketOf waitS 1).isSome = true ∧ xdevPrepare rec1 = false ∧ rec1.kind ≠ 0x30 ∧ rec1.kind ≠ 0x13 ∧ rec1.kind ≠ 0x06) ∧
    (failedRecs waitS.jn 1 = [rec1] ∧ rec1.seq = 1 ∧ waitS.jn.durable < 1 ∧ waitS.jn.stopped = false ∧ waitS.mgmt.state ≠ .down) := by decide +kernel

def sealedS : State := { waitS with tb := 200000, store := { sealPriv := some 1 } }
def sealRec1 : Rec := { kind := 0xE0, tray := 0x8000, body := zeros 8 ++ le 8 1 ++ zeros 112 }
def closedBlk : Block := { no := 1, firstSeq := 1, lastSeq := 1, recs := [rec1], state := .closing, flags := 4 }

/-- A seal tick with a record in the open block; a block whose last record is durable; a seal request and a key. -/
theorem witness_blocks :
    (sealedS.tb % 100000 = 0 ∧ sealedS.tb ≠ sealedS.jn.lastTick ∧ isStandby sealedS = false ∧ (openBlock sealedS.jn).isSome = true ∧
      (tickBlock sealedS).map holdsCommand = some true ∧ canSeal sealedS = true ∧
      sealedS.jn.sealDone = [] ∧ sealedS.jn.sealFailAt ≠ some sealedS.tb ∧ sealedS.jn.filledAt = none) ∧
    (let s := { sealedS with jn := { sealedS.jn with sealDone := [sealRec1] } }
     s.jn.sealDone = [sealRec1] ∧ s.jn.unsealed = false ∧ canAppend s [sealRec1] = true ∧ (openBlock s.jn).isSome = true ∧ fits s.jn sealRec1 = true) ∧
    (let s := { sealedS with jn := { filledAt := some (sealedS.tb, 1), blocks := [{ no := 1, state := .closing, recs := [rec1] }, { no := 2 }] } }
     s.jn.filledAt = some (s.tb, 1) ∧ openBlock s.jn = some { no := 2 } ∧ (tickBlock s).map (·.no) = some 1) ∧
    (let s := { sealedS with jn := { nextSeq := 2, durable := 1, nextBlock := 2, blocks := [closedBlk] } }
     (s.jn.blocks.find? fun b => b.no == 1 && decide (b.state = .closing)) = some closedBlk ∧ s.jn.lastClosed = 0 ∧ canSeal s = true ∧
      closedBlk.flags.getLsbD 2 = true ∧ s.board.powerFail = false) ∧
    (let s := { sealedS with jn := { sealReqs := [{}] } }
     s.jn.sealReqs = [{}] ∧ s.store.sealPriv = some 1 ∧ s.store.sealUnits ≠ 0 ∧ s.jn.stopped = false ∧ s.jn.unsealed = false ∧ unitBusy s 0 = false) := by decide +kernel

def drainS : State :=
  { svc with tb := 5000, jn := { enable := true, slotsLog2 := 4, drained := 2, wm := 1, wmReads := 1, nextBlock := 5,
                                 blocks := [{ no := 2, state := .closed }, { no := 3, state := .closed }] } }

/-- A block to copy, an enable of the drain at both ends of LOG2, a poll, watermarks inside and outside their range, a JREDRAIN. -/
theorem witness_drain :
    ((drainS.jn.blocks.find? fun b => b.no == drainS.jn.drained + 1 && decide (b.state = .closed)) = some { no := 3, state := .closed } ∧ drainRuns drainS = true ∧
      drainS.jn.starting = false ∧ 3 ≤ drainS.jn.wm + 2 ^ 4 ∧ drainable drainS { no := 3, state := .closed } = true) ∧
    ([0x401#64, 0xD01#64].all fun v => v.getLsbD 0 && decide (4 ≤ bits v.toNat 12 8) && decide (bits v.toNat 12 8 ≤ 13) && isOperatorFn svc (bits v.toNat 31 16)) = true ∧
    (drainS.jn.wm < drainS.jn.drained ∧ drainS.jn.wmLastRead + 1000 ≤ drainS.tb ∧ drainS.jn.wmReads ≠ 0 ∧ drainS.jn.enable = true) ∧
    (drainS.jn.wm ≤ 2 ∧ 2 ≤ drainS.jn.drained ∧ ¬ 3 ≤ drainS.jn.drained) ∧
    ((drainS.jn.blocks.find? fun b => b.no == 2) = some { no := 2, state := .closed } ∧ drainS.jn.wm < 2) ∧
    ¬ (svc.jn.enable = true ∧ svc.jn.wm < 1 ∧ 1 ≤ svc.jn.drained) := by decide +kernel

/-- A context at a word of patch RAM. -/
def wordS (w : Dbl) : State :=
  { svc with eng := { enabled := 1, ctxs := [(0, { state := .ready, pc := 0x8000, ticket := some 1 })], patchRam := [(0, w)] } }

/-- A word whose guard fails, and one that moves the literal 5 into register 1. -/
theorem witness_engine_words :
    ([0x8000000000000000#64, 0x0000C50100000000#64].all fun w => decide
      (enginesRun (wordS w) 0 = true ∧ badCtx (wordS w) 0 = none ∧ (wordS w).hw.wordBad.contains 0x8000 = false ∧ (ctxOf (wordS w) 0 0).state = .ready ∧ (ctxOf (wordS w) 0 0).late = [] ∧ pickCtx (wordS w) 0 (isPrioCtx 0) = some 0 ∧
      pickCtx (wordS w) 0 true = none ∧ fetchWord (wordS w) 0x8000 = some w ∧ wordIllegal (moveWordOf w) = false)) = true ∧
    guardHolds { (ctxOf (wordS 0x8000000000000000) 0 0) with flags := 0 } 8 = false ∧
    (moveWordOf 0x0000C50100000000).guardSel = 0 ∧ (moveWordOf 0x0000C50100000000).seqOp = 0 ∧ (moveWordOf 0x0000C50100000000).srcA = 0xC0 + 5 ∧
    (moveWordOf 0x0000C50100000000).dstA = 1 ∧ (moveWordOf 0x0000C50100000000).srcB = 0 ∧ (moveWordOf 0x0000C50100000000).dstB = 0 := by decide +kernel

/-- A context that awaits an index walk, one that awaits a lock that has come, and a trace that may begin at each end of LOG2. -/
theorem witness_engine_results :
    (let s := { svc with led := { books with dir := [(0, { root := 1, height := 1 })], nodes := [(1, { entries := [(1, 40)] })] },
                         eng := { ctxs := [(0, { state := .waiting, awaiting := [3], pend := [(3, 0x31)], ports := [(0x30, 1)] })] } }
     (ctxOf s 0 0).state = .waiting ∧ (ctxOf s 0 0).awaiting = [3] ∧ tget (ctxOf s 0 0).pend 3 = some 0x31 ∧ indexWalk s.led (tgetD (ctxOf s 0 0).ports 0x30 0) = some 40) ∧
    (let s := { svc with locks := [(1, {})], eng := { ctxs := [(0, { state := .waiting, awaiting := [4] })] } }
     tget s.locks 1 = some {} ∧ (ctxOf s 0 0).epoch = 0 ∧ (ctxOf s 0 0).awaiting = [unitLK]) ∧
    svc.eng.traceEnable = false ∧
    ([0xC01#64, 0x1E01#64].all fun v => v.getLsbD 0 && decide (12 ≤ bits v.toNat 12 8) && decide (bits v.toNat 12 8 ≤ 30) && isOperatorFn svc (bits v.toNat 31 16)) = true := by decide +kernel

/-- A context that has waited 2 ms, one named by WE_RESET, an engine, and swept contexts with a taken and with a durable entry. -/
theorem witness_context_resets :
    (let s := { svc with tb := 2000000, eng := { enabled := 1, ctxs := [(0, { state := .waiting })] } }
     (recent s.tb 1000000 (tgetD s.eng.resetTimes 0 [])).length < 7 ∧ (ctxOf s 0 0).state = .waiting ∧ (ctxOf s 0 0).since + 2000000 ≤ s.tb ∧ engineIn s 0 = true) ∧
    (bits (0x0#64).toNat 5 0 = 0 ∧ bits (0x0#64).toNat 15 8 = 0 ∧ (0x0#64).getLsbD 16 = false ∧ (0x10000#64).getLsbD 16 = true ∧ bits (0x10000#64).toNat 5 0 = 0) ∧
    (sweepsOn svc 0 = false ∧ (ctxOf svc 0 0).state = .free ∧ (ctxOf svc 0 255).state = .free) ∧
    (∀ st ∈ [RecState.taken, RecState.durable],
      let s := { svc with eng := { ctxs := [(0, { state := .sweeping, entry := { state := st } })] } }
      (ctxOf s 0 0).state = .sweeping ∧ partOfCtx s 0 0 = none ∧ (ctxOf s 0 0).phase ≠ .image ∧ (ctxOf s 0 0).entry.state = st) := by decide +kernel

end Sys2Proof.Tests
end

