-- ==== Sys2Proof/WellFormed.lean ====
section
/-! DEFINITION. Which commands are well formed: every operand within the width that the spec gives the thing it names. A meaning does
not rely on it: an operand outside its width names nothing, and its command changes nothing that the thing would hold. -/
namespace Sys2Proof

/-- Engines 0 to 63 (Table 0.1). -/
def engineOk (e : Nat) : Bool := decide (e < 64)
/-- Contexts 0 to 255 of an engine (R152). -/
def ctxOk (c : Nat) : Bool := decide (c < 256)
/-- Ladle cores 0 to 127 (Table 0.1). -/
def coreOk (c : Nat) : Bool := decide (c < 128)
/-- Frames 0 to 63 of a core (R361). -/
def frameOk (f : Nat) : Bool := decide (f < 64)
/-- Functions 0 to 16,383 (R186). -/
def fnOk (f : Nat) : Bool := decide (f < 16384)
/-- Local trays 0 to 2,047 (R189). -/
def trayOk (t : Nat) : Bool := decide (t < 2048)
/-- Tickets 0 to 65,535 (R213). -/
def ticketOk (k : Nat) : Bool := decide (k < 65536)
/-- Endpoints: 11 bits (R436). -/
def epOk (e : Nat) : Bool := decide (e < 2048)
/-- Lines of the 46-bit physical address space (R397). -/
def lineOk (l : Nat) : Bool := decide (l < 2 ^ 39)
/-- A mailbox request's argument bytes (R484). -/
def mbOk (m : MbIn) : Bool := decide (m.args.length ≤ 248)
/-- A message in a body of at most 2,016 bytes (R439), on a link or the partner path. -/
def msgOk : MsgIn → Bool
  | .queued => true
  | .arrives k m => decide (k ≤ 32) && decide (m.body.length ≤ 2016)
/-- Four doorbell pages, 2,048 entries (R198). -/
def dbOk : DbSrc → Bool
  | .page p => decide (p < 4)
  | .entry t => trayOk t
/-- A register's address: within its BAR, or within the MSI-X table. -/
def regOk : RegAddr → Bool
  | .mgmt off => decide (off < 0xC0000)
  | .setup f off => fnOk f && decide (off < 0x40000)
  | .msixMask f n => fnOk f && decide (n < 2048)
  | .fnMask f => fnOk f
/-- A physical address and its run of bytes: 46 bits (R397). -/
def debugOk : DebugOp → Bool
  | .nothing => true
  | .read pa len => decide (0 < len) && decide (pa + len ≤ 2 ^ 46)
  | .write pa data => !data.isEmpty && decide (pa + data.length ≤ 2 ^ 46)

/-- The commands whose operands are in range. -/
def WellFormed : Instr → Bool
  | .post e c => engineOk e && ctxOk c
  | .post2 e c => engineOk e && ctxOk c
  | .hold e c => engineOk e && ctxOk c
  | .capture e c => engineOk e && ctxOk c
  | .release e c => engineOk e && ctxOk c
  | .reverse e c => engineOk e && ctxOk c
  | .openAcct e c => engineOk e && ctxOk c
  | .closeAcct e c => engineOk e && ctxOk c
  | .freeze e c => engineOk e && ctxOk c
  | .thaw e c => engineOk e && ctxOk c
  | .setlimits e c => engineOk e && ctxOk c
  | .dayroll e c => engineOk e && ctxOk c
  | .dayrollFenceDrained e c => engineOk e && ctxOk c
  | .readbal e c => engineOk e && ctxOk c
  | .readrec e c => engineOk e && ctxOk c
  | .jquerySeq e c => engineOk e && ctxOk c
  | .jqueryTray e c => engineOk e && ctxOk c
  | .jqueryJournal e c => engineOk e && ctxOk c
  | .checkpoint e c => engineOk e && ctxOk c
  | .checkpointImageWritten e c => engineOk e && ctxOk c
  | .keyupdate e c => engineOk e && ctxOk c
  | .keySlotWriteAck e c _ => engineOk e && ctxOk c
  | .fence e c => engineOk e && ctxOk c
  | .fenceRelease e c => engineOk e && ctxOk c
  | .nop e c => engineOk e && ctxOk c
  | .ladleClassCommand f t tk => fnOk f && trayOk t && ticketOk tk
  | .prepare m tk e c => (match m with | .fresh i => msgOk i | .goOn _ => true) && ticketOk tk && engineOk e && ctxOk c
  | .commit m => msgOk m
  | .abort m => msgOk m
  | .prepared m => msgOk m
  | .refused m => msgOk m
  | .done m => msgOk m
  | .query m => msgOk m
  | .outcome m => msgOk m
  | .e2eAck m => msgOk m
  | .nak m => msgOk m
  | .mirror m => msgOk m
  | .mirrorAck m => msgOk m
  | .heartbeat m => msgOk m
  | .cxResp m => msgOk m
  | .messageRoute m => msgOk m
  | .dataFlit k w => decide (k ≤ 32) && decide (w.place < 10) && w.data.length == 64
  | .idleFlit k w => decide (k ≤ 32) && decide (w.place < 10) && w.data.length == 64
  | .retryReq k w => decide (k ≤ 32) && decide (w.place < 10) && w.data.length == 64
  | .flitNak k w => decide (k ≤ 32) && decide (w.place < 10) && w.data.length == 64
  | .ident k w => decide (k ≤ 32) && decide (w.place < 10) && w.data.length == 64
  | .timeReq k w => decide (k ≤ 32) && decide (w.place < 10) && w.data.length == 64
  | .timeResp k w => decide (k ≤ 32) && decide (w.place < 10) && w.data.length == 64
  | .timeReqPeriod => true
  | .syncInEdge => true
  | .syncOutPulse => true
  | .receiverLock w => decide (w.link < 32)
  | .receiverLockLoss w => decide (w.link < 32)
  | .retryReqRepeat k => decide (k ≤ 32)
  | .retrainDeadline k => decide (k < 32)
  | .linkEnable k _ => decide (k < 32)
  | .linkRetrain k => decide (k < 32)
  | .trainingDone k => decide (k < 32)
  | .trainingTimeout k => decide (k < 32)
  | .lockTimeout k => decide (k < 32)
  | .linkViolationWindowEnd k => decide (k < 32)
  | .fabEnable _ => true
  | .fabDisable _ => true
  | .fxForget _ => true
  | .prepareTimeout _ => true
  | .ackTimeout ep eseq => epOk ep && decide (eseq < 65536)
  | .messageAbandon ep eseq => epOk ep && decide (eseq < 65536)
  | .decisionResend _ ep => epOk ep
  | .participantQueryPeriod _ => true
  | .tombstoneExpiry _ => true
  | .prepareTicketGrant _ tk e c => ticketOk tk && engineOk e && ctxOk c
  | .prepareTicketTimeout _ => true
  | .dieAliveFall => true
  | .partnerPathSilence => true
  | .mirrorAckTimeout => true
  | .trayCommandTake f t => fnOk f && trayOk t
  | .pushHalfWrite f off data => fnOk f && decide (off % 64 = 0) && decide (off < 0x800000) && data.length == 64
  | .pushHalfTimeout f t k => fnOk f && trayOk t && decide (k < 16)
  | .fnNudge f _ => fnOk f
  | .doorbellReadCompletion f src _ => fnOk f && dbOk src
  | .doorbellReadFail f src => fnOk f && dbOk src
  | .doorbellFollowupPoll f page => fnOk f && decide (page < 4)
  | .waitingTrayPoll f t => fnOk f && trayOk t
  | .ringReadCompletion f t data => fnOk f && trayOk t && decide (data.length % 128 = 0)
  | .ringReadFail f t => fnOk f && trayOk t
  | .seqWaitFill f t => fnOk f && trayOk t
  | .ticketGrant src tk => (match src with | .tray f t => fnOk f && trayOk t | .port c f n => coreOk c && frameOk f && decide (n < 32)) && ticketOk tk
  | .waitLimitExpiry f t => fnOk f && trayOk t
  | .dispatch tk c => ticketOk tk && ctxOk c
  | .ticketReturn tk => ticketOk tk
  | .eggTimerTime f t => fnOk f && trayOk t
  | .msixUnmask f entry => fnOk f && (match entry with | none => true | some n => decide (n < 2048))
  | .quarantineFill f t => fnOk f && trayOk t
  | .violationWindowEnd f t => fnOk f && trayOk t
  | .quarRelease _ => true
  | .trayEnable f t _ => fnOk f && trayOk t
  | .trayDisable f t _ => fnOk f && trayOk t
  | .trayReset f t _ => fnOk f && trayOk t
  | .functionBind f _ => fnOk f
  | .functionUnbind f _ => fnOk f
  | .functionLevelReset f => fnOk f
  | .vfEnableClear port => decide (port < 2)
  | .flrComplete f => fnOk f
  | .tkReserveWrite _ => true
  | .tenantQuotaWrite key _ => decide (key < 8192)
  | .registerWrite r _ => regOk r
  | .journalDurable _ => true
  | .journalWriteFail _ _ => true
  | .sealTick => true
  | .blockClose _ => true
  | .sealResult _ => true
  | .drainBlockCopy => true
  | .drainEnable _ => true
  | .watermarkPoll => true
  | .watermarkRead _ => true
  | .watermarkReadFail => true
  | .jredrain _ => true
  | .moveWordIssue e => engineOk e
  | .unitResultArrival e c unit _ => engineOk e && ctxOk c && decide (unit < 32)
  | .lockGrant _ => true
  | .contextWatchdog e c => engineOk e && ctxOk c
  | .weResetContext _ => true
  | .weResetEngine _ => true
  | .sweepEnd e c => engineOk e && ctxOk c
  | .traceEnable _ => true
  | .add c => coreOk c
  | .mul c => coreOk c
  | .muld c => coreOk c
  | .mulds c => coreOk c
  | .divu c => coreOk c
  | .divs c => coreOk c
  | .remu c => coreOk c
  | .rems c => coreOk c
  | .sel c => coreOk c
  | .longLiteralOp c => coreOk c
  | .shiftImmediate c => coreOk c
  | .lui c => coreOk c
  | .addi c => coreOk c
  | .compareImmediate c => coreOk c
  | .load c => coreOk c
  | .store c => coreOk c
  | .ldf c => coreOk c
  | .stf c => coreOk c
  | .cas c => coreOk c
  | .mtm c => coreOk c
  | .mfmb c => coreOk c
  | .mfml c => coreOk c
  | .bz c => coreOk c
  | .bnz c => coreOk c
  | .j c => coreOk c
  | .call c => coreOk c
  | .jr c => coreOk c
  | .callr c => coreOk c
  | .shortOperationWord c => coreOk c
  | .repi c => coreOk c
  | .repu c => coreOk c
  | .sync c => coreOk c
  | .syncTlb c => coreOk c
  | .dbar c => coreOk c
  | .yield c => coreOk c
  | .svc c => coreOk c
  | .brk c => coreOk c
  | .eret c => coreOk c
  | .eretDoubleFault c => coreOk c
  | .mfc c => coreOk c
  | .mtc c => coreOk c
  | .savl c => coreOk c
  | .savu c => coreOk c
  | .rstl c => coreOk c
  | .rstu c => coreOk c
  | .tlbiVa c => coreOk c
  | .tlbiAsid c => coreOk c
  | .tlbiAll c => coreOk c
  | .keyset c => coreOk c
  | .keyget c => coreOk c
  | .keyclr c => coreOk c
  | .ppost c => coreOk c
  | .ppostl c => coreOk c
  | .pwait c => coreOk c
  | .ptest c => coreOk c
  | .lqtake c => coreOk c
  | .lcompl c => coreOk c
  | .alock c => coreOk c
  | .aunlock c => coreOk c
  | .aunlockall c => coreOk c
  | .portPostingComplete tk => ticketOk tk
  | .ladleCommandCompletion tk => ticketOk tk
  | .cpsEcdsaP256Sign c => coreOk c
  | .cpsEcdsaP256Verify c => coreOk c
  | .cpsEcdhP256 c => coreOk c
  | .cpsEcdsaP384Verify c => coreOk c
  | .cpsEd25519Sign c => coreOk c
  | .cpsEd25519Verify c => coreOk c
  | .cpsAesCmacVerify c => coreOk c
  | .cpsSha256 c => coreOk c
  | .cpsSha384 c => coreOk c
  | .cpr c => coreOk c
  | .sealServiceResult _ unit => decide (unit < 8)
  | .cx c => coreOk c
  | .cxTimeout c f => coreOk c && frameOk f
  | .addp c => coreOk c
  | .subp c => coreOk c
  | .mulp c => coreOk c
  | .divp c => coreOk c
  | .cmpp c => coreOk c
  | .movp c => coreOk c
  | .negp c => coreOk c
  | .absp c => coreOk c
  | .clrp c => coreOk c
  | .shrp c => coreOk c
  | .shrpr c => coreOk c
  | .tstp c => coreOk c
  | .ldp c => coreOk c
  | .stp c => coreOk c
  | .addpMemory c => coreOk c
  | .subpMemory c => coreOk c
  | .macp c => coreOk c
  | .cvzd c => coreOk c
  | .cvdz c => coreOk c
  | .cvbd c => coreOk c
  | .cvdb c => coreOk c
  | .mvs c => coreOk c
  | .mvsx c => coreOk c
  | .edit c => coreOk c
  | .editm c => coreOk c
  | .cls c => coreOk c
  | .scn c => coreOk c
  | .sct c => coreOk c
  | .longOperationRetire c f => coreOk c && frameOk f
  | .longOperationResume c => coreOk c
  | .l1MissFill c f data _ => coreOk c && frameOk f && data.length == 128
  | .blockFetch c => coreOk c
  | .storeBufferDrain c => coreOk c
  | .storeErrorDelivery c => coreOk c
  | .coreStart c => coreOk c
  | .interruptDelivery c => coreOk c
  | .frameStart c f => coreOk c && frameOk f
  | .frameStop c f => coreOk c && frameOk f
  | .frameReset c f => coreOk c && frameOk f
  | .frameResetEnd c f => coreOk c && frameOk f
  | .eventSourceInput n => decide (n < 1024)
  | .coalesceTime n => decide (n < 1024)
  | .claim c f => coreOk c && frameOk f
  | .eoi c f => coreOk c && frameOk f
  | .ecSet _ => true
  | .tbCmpWrite k _ => decide (k < 16)
  | .tbCmpFire k => decide (k < 16)
  | .srcCfgWrite n _ => decide (n < 1024)
  | .gets c l => coreOk c && lineOk l
  | .getm c l => coreOk c && lineOk l
  | .upgrade c l => coreOk c && lineOk l
  | .putm c l => coreOk c && lineOk l
  | .tlbiReceipt _ unit => decide (unit ≤ 256)
  | .scrubPass slice _ => decide (slice < 32)
  | .mpuRegionWrite n reg _ => decide (n < 64) && decide (reg < 4)
  | .keyRetire _ => true
  | .coldReset _ => true
  | .mgmtWatchdog => true
  | .portReset p => decide (p < 2)
  | .powerResume => true
  | .holdupResample => true
  | .railWaitEnd => true
  | .pwrfailAssert => true
  | .pwrfailGlitch => true
  | .holdupOkFall => true
  | .temperatureUpdate _ _ => true
  | .railLow r => decide (r < 9)
  | .refclkLoss _ => true
  | .refclkReturn _ => true
  | .islandRateUpdate _ => true
  | .timebaseTick => true
  | .getInfo m => mbOk m
  | .writeConfig m => mbOk m
  | .readConfig m => mbOk m
  | .runUnqualified m => mbOk m
  | .ledgerNew m => mbOk m
  | .loadImage m => mbOk m
  | .loadBlocks m => mbOk m
  | .replayEnd m => mbOk m
  | .resolve m => mbOk m
  | .quiesce m => mbOk m
  | .quiesceDrained => true
  | .resume m => mbOk m
  | .resetCmd m => mbOk m
  | .imageWrite m => mbOk m
  | .svnCommit m => mbOk m
  | .opkeySet m => mbOk m
  | .sealKeygen m => mbOk m
  | .debugOpen m => mbOk m
  | .standbyJoin m => mbOk m
  | .mailboxOverrun => true
  | .idcode => true
  | .bypass _ => true
  | .samplePreload _ => true
  | .extest _ => true
  | .mailboxCommandEnd => true
  | .holdupOkRise => true
  | .floorUnitFailure _ => true
  | .dieEntersDown => true
  | .vddAonRemoval => true
  | .omesquePrivateInstruction op => debugOk op

end Sys2Proof
end

