-- ==== Sys2Proof/Tests/Slice0.lean ====
section
/-! SUPPORT. The smoke test of WellFormed, the queue, the spec's worked examples, and the witnesses of the statements about any command. -/
namespace Sys2Proof.Tests
set_option Elab.async false
open Sys2Proof.Machine

/-- A term that each check refuses, beside one at the limit that it takes. -/
theorem test_well_formed :
    ([Instr.post 64 0, .post 0 256, .add 128, .frameStart 0 64, .fnNudge 16384 0, .trayCommandTake 0 2048, .dispatch 65536 0, .decisionResend 0 2048, .gets 0 (2 ^ 39),
      .getInfo { args := List.replicate 249 0 }, .commit (.arrives 33 {}), .commit (.arrives 0 { body := List.replicate 2017 0 }), .doorbellReadFail 0 (.page 4), .doorbellReadFail 0 (.entry 2048),
      .registerWrite (.mgmt 0xC0000) 0, .registerWrite (.setup 0 0x40000) 0, .registerWrite (.msixMask 0 2048) 0, .registerWrite (.fnMask 16384) 0, .omesquePrivateInstruction (.read 0 0),
      .omesquePrivateInstruction (.write (2 ^ 46) [1]), .receiverLock { link := 32 }, .idleFlit 33 {}, .idleFlit 0 { place := 10, data := List.replicate 64 0 }, .idleFlit 0 { data := [0] }, .ackTimeout 0 65536,
      .pushHalfWrite 0 1 (List.replicate 64 0), .pushHalfWrite 0 0x800000 (List.replicate 64 0), .pushHalfWrite 0 0 [], .pushHalfTimeout 0 0 16, .doorbellFollowupPoll 0 4, .ringReadCompletion 0 0 [1],
      .ticketGrant (.port 0 0 32) 0, .msixUnmask 0 (some 2048), .vfEnableClear 2, .tenantQuotaWrite 8192 0, .unitResultArrival 0 0 32 0, .sealServiceResult 0 8, .l1MissFill 0 0 [] true,
      .eventSourceInput 1024, .tbCmpWrite 16 0, .tlbiReceipt (.nth 0) 257, .scrubPass 32 [], .mpuRegionWrite 64 0 0, .mpuRegionWrite 0 4 0, .portReset 2, .railLow 9].all fun i => !WellFormed i) = true ∧
    ([Instr.post 63 255, .add 127, .frameStart 127 63, .fnNudge 16383 0, .trayCommandTake 0 2047, .dispatch 65535 0, .gets 0 (2 ^ 39 - 1), .commit (.arrives 32 { body := List.replicate 2016 0 }),
      .idleFlit 32 { place := 9, data := List.replicate 64 0 }, .registerWrite (.setup 0 0x3FFF8) 0, .omesquePrivateInstruction (.write (2 ^ 46 - 1) [1]), .eventSourceInput 1023,
      .mpuRegionWrite 63 3 0, .railLow 8].all WellFormed) = true := by decide +kernel

/-- The block idles on an empty queue and takes the front of a queue. -/
theorem test_step_idle : step svc = .next svc := rfl
theorem test_step_front : step { svc with pending := [.timebaseTick, .idcode] } = exec .timebaseTick { svc with pending := [.idcode] } := rfl

/-- A state with a canonical memory from which a step answers a next state. -/
theorem witness_memory_canonical : MemWf { svc with mem := { bytes := [(5, 1), (9, 2)] }, pending := [.timebaseTick] } ∧
    ∃ s', step { svc with mem := { bytes := [(5, 1), (9, 2)] }, pending := [.timebaseTick] } = .next s' := by
  refine ⟨by unfold MemWf; decide +kernel, _, rfl⟩

/-- Each command on one tray answers a next state. -/
theorem witness_tray_commands : ∀ i ∈ [Instr.trayCommandTake 0 0, .pushHalfTimeout 0 0 15, .ringReadCompletion 0 0 (zeros 128), .ringReadFail 0 0, .seqWaitFill 0 0, .waitLimitExpiry 0 0, .eggTimerTime 0 0,
    .quarantineFill 0 0, .violationWindowEnd 0 0, .pushHalfWrite 0 4095 (nopDesc 1)], ∃ s', exec i (hostS runTray) = .next s' := by
  intro i h
  simp only [List.mem_cons, List.not_mem_nil, or_false] at h
  rcases h with rfl | rfl | rfl | rfl | rfl | rfl | rfl | rfl | rfl | rfl <;> exact ⟨_, rfl⟩

/-! The spec's worked examples. -/

/-- 01, Worked example: encoding an amount. -/
theorem test_amount : pack 16 (-123456) = zeros 12 ++ [0x01, 0x23, 0x45, 0x6D] ∧ unpack (zeros 12 ++ [0x01, 0x23, 0x45, 0x6D]) = -123456 := by decide +kernel

def exA : Account :=
  { id := 0x0A98000000011171, currency := 0x0BD2, flags := 0x0089, version := 41, ledger := 25000, holds := 6000, avail := 19000, odLimit := 10000, dayLimit := 30000, dayTotal := 12000, dayNumber := 19850 }
def exB : Account := { id := 0x0A98000000011172, currency := 0x0BD2, flags := 1, ledger := 401025, avail := 401025 }
def exBooks : Ledger := { accounts := [(0x0A98000000011171, exA), (0x0A98000000011172, exB)], day := 19851 }
def exLegs (v : Int) : List (Nat × Leg) :=
  numberLegs 0 [{ account := 0x0A98000000011171, currency := 0x0BD2, amount := -v }, { account := 0x0A98000000011172, currency := 0x0BD2, amount := v }]

/-- 01, Worked example: a posting that uses the overdraft and the day limit, and the debit that follows it. -/
theorem test_overdraft :
    let b := postEffect exBooks 0x471C29D05 (exLegs 27500)
    (evalLegs exBooks (exLegs 27500)).isLeft = true ∧
    acct b 0x0A98000000011171 = some { exA with ledger := -2500, avail := -8500, dayTotal := 27500, dayNumber := 19851, version := 42, lastSeq := 0x471C29D05 } ∧
    (acct b 0x0A98000000011172).map (fun x => (x.ledger, x.avail, x.lastSeq)) = some (428525, 428525, 0x471C29D05) ∧ evalLegs b (exLegs 3000) = .inr (0x10, 0) := by decide +kernel

/-- 03, Worked example: a record, and its replay. -/
theorem test_record :
    (recordBytes { seq := 0x110A2F03C7, kind := 1, tenant := 0x845, tray := 0x123, time := 0x4D3, traySeq := 0x4A10, ref := 0x25B110C40, body := zeros 64 }).take 32 =
      [0xC7, 0x03, 0x2F, 0x0A, 0x11, 0, 0, 0, 1, 3, 0, 0, 0, 0, 0x45, 0x08, 0x23, 0x01, 0xD3, 0x04, 0x10, 0x4A, 0, 0, 0x40, 0x0C, 0x11, 0x5B, 2, 0, 0, 0] := by decide +kernel

/-- 08 and 09, the words of the worked examples. -/
theorem test_words :
    [(0xA8FF60A4, LOp.shortOperationWord), (0x02631400, .add), (0x427FFFFE, .bnz), (0x36566810, .store), (0x54800000, .clrp), (0x4C000003, .repu), (0x58109C00, .macp), (0x54900765, .shrp),
     (0x56429E00, .stp), (0x5C4C7410, .edit), (0x5C6C7410, .editm)].all (fun e => decode (BitVec.ofNat 32 e.1) == some e.2) = true ∧
    slotA 0xA8FF60A4 = 0x28FF ∧ slotB 0xA8FF60A4 = 0x60A4 ∧ decode 0 = none := by decide +kernel

/-- 08, the modulo store: the base after it. -/
theorem test_modulo : mAddress { g := [(12, 0x4003F8)], m := [(1, (0x400000, 0x400))] } 0x36566810 = (0x4003F8, some 0x400008) := by decide +kernel

/-- 09, Worked example: interest accrual, its rounding. -/
theorem test_accrual : shiftRound (1000000 * 1000000 + 1250000 * 1000000 + 980000 * 1200000) (sextI 7 0x76) 5 = 343 := by decide +kernel

def editPattern : Bytes := [0x04, 0x24, 0x20, 0x01, 0x2C, 0x01, 0x01, 0x02, 0x2E, 0x01, 0x01, 0x05, 0x2D]
/-- The EDIT in flight, its output at 0x1000 and its pattern at 0x1F00 of the mapped page. -/
def editS (w : Word) (v : Int) : State :=
  flyS w { g := [(12, 0x1000), (14, 0x1F00), (15, 13), (16, 0x2006)], d := [(2, { val := v })] } (at1 0x1F00 editPattern)
def editEnds (w : Word) (v : Int) (p : State → Bool) : Bool := match lopRun (lopActor (frameOf (editS w v) 0 0) 0 0) w lopFuel (editS w v) with | .fin s => p s | _ => false

/-- 09, Table 9.13 and the registers after EDIT of −123,456; EDITM's mark. -/
theorem test_edit :
    editEnds 0x5C4C7410 (-123456) (fun s => let x := frameOf s 0 0
      memBytes s paPantry 10 == [0x24, 0x31, 0x2C, 0x32, 0x33, 0x34, 0x2E, 0x35, 0x36, 0x2D] && gReg x 12 == 0x100A && gReg x 14 == 0x1F0D && gReg x 15 == 0 && gReg x 16 == 0x240B2000) = true ∧
    editEnds 0x5C4C7410 7 (fun s => memBytes s paPantry 10 == [0x20, 0x20, 0x20, 0x20, 0x24, 0x30, 0x2E, 0x30, 0x37, 0x20]) = true ∧
    editEnds 0x5C6C7410 (-123456) (fun s => gReg (frameOf s 0 0) 17 == 0x1001) = true := by decide +kernel

end Sys2Proof.Tests
end

section
/-! SUPPORT. The state after reset, and the timebase exchange (R13, R454). -/
namespace Sys2Proof.Machine

/-- Settles O3: the fields of `State.reset` are its structure defaults, and an unlisted tray, context or frame reads as the default one. -/
theorem resetLeavesSpecValues : Obligations.ResetLeavesSpecValues := by
  unfold Obligations.ResetLeavesSpecValues
  exact ⟨reset_memWf, rfl, rfl, rfl, rfl, rfl, rfl, rfl, rfl, rfl, rfl, fun _ _ => rfl, fun _ _ => rfl, fun _ _ => rfl, rfl⟩

/-- A SYNC_IN edge at a multiple of 1 ms corrects the timebase forward by nothing, which takes it modulo 2^64 (R13). -/
theorem syncInEdge_aligned {s : State} (hs : s.fab.syncEn = true) (ht : s.tb % 1000000 = 0) : exec .syncInEdge s = .next (correctTime s 0) := by
  simp [exec, execSyncInEdge, hs, ht]

@[simp] theorem correctTime_zero_tb (s : State) : (correctTime s 0).tb = s.tb % 2 ^ 64 := rfl

/-- A state whose timebase stands at a multiple of 1 ms above 2^64, the values that R13's 64-bit counter has. -/
def tbAbove64 : State := { tb := 2 ^ 64 * 1000000, fab := { syncEn := true } }

/-- Refutes O32, its fourth conjunct: at a SYNC_IN edge whose timebase is less than 500,000 above a multiple of 1 ms, the statement leaves the timebase as it is,
but at a multiple of 1 ms the correction is 0, which `correctTime` takes as a forward step, modulo 2^64. In `tbAbove64` the step moves the timebase to 0. -/
theorem not_fabricUnitAndTimebase : ¬ Obligations.FabricUnitAndTimebase := by
  unfold Obligations.FabricUnitAndTimebase
  rintro ⟨-, -, -, hsync, -⟩
  obtain ⟨s', hx, -, -, hback, -⟩ := hsync tbAbove64 rfl
  have hs' : s' = correctTime tbAbove64 0 := by
    rw [syncInEdge_aligned rfl (by decide)] at hx
    exact (Host.Outcome.next.inj hx).symm
  have htb : s'.tb = tbAbove64.tb := (hback (by decide)).1
  rw [hs', correctTime_zero_tb] at htb
  exact absurd htb (by decide)

end Sys2Proof.Machine
end

section
/-! SUPPORT. Writes of registers by their addresses (R16, R17, R532): what each address of a BAR reaches, and what the register takes. -/
namespace Sys2Proof.Machine

variable (s : State) (v : Dbl)

/-! Fields of a register's value. -/

/-- Clearing the low bits of an address is masking them. -/
theorem lowZero_eq_and (k : Nat) : lowZero v k = v &&& (BitVec.allOnes 64 <<< k) :=
  BitVec.shiftLeft_ushiftRight

theorem lowZero_three : lowZero v 3 = v &&& 0xFFFFFFFFFFFFFFF8#64 := lowZero_eq_and v 3
theorem lowZero_page : lowZero v 12 = v &&& 0xFFFFFFFFFFFFF000#64 := lowZero_eq_and v 12
theorem lowZero_slot : lowZero v 16 = v &&& 0xFFFFFFFFFFFF0000#64 := lowZero_eq_and v 16

/-- Byte `i` of a number's little-endian bytes. -/
theorem byteAt_le (n x i : Nat) (h : i < n) : byteAt (le n x) i = BitVec.ofNat 8 (x >>> (8 * i)) := by
  induction n generalizing x i with
  | zero => omega
  | succ n ih =>
    cases i with
    | zero => exact BitVec.eq_of_toNat_eq (by simp [byteAt, le])
    | succ i =>
      have hs : byteAt (le (n + 1) x) (i + 1) = byteAt (le n (x / 256)) i := rfl
      rw [hs, ih (x / 256) i (by omega), show 8 * (i + 1) = 8 + 8 * i by omega, Nat.shiftRight_add, Nat.shiftRight_eq_div_pow x 8]

theorem byteAt_le_toNat {i : Nat} (h : i < 8) : byteAt (le 8 v.toNat) i = v.extractLsb' (8 * i) 8 :=
  byteAt_le 8 v.toNat i h

/-- Reading a table after `n` entries in a row, from key `b`, are written. -/
theorem tgetD_writeRun {α : Type} [DecidableEq α] (d : α) (f : Nat → α) (b : Nat) (t : Tbl α) (ht : twf t = true) (n : Nat) :
    twf ((List.range n).foldl (fun t i => tset t (b + i) d (f i)) t) = true ∧
    ∀ k, tgetD ((List.range n).foldl (fun t i => tset t (b + i) d (f i)) t) k d = if b ≤ k ∧ k < b + n then f (k - b) else tgetD t k d := by
  induction n with
  | zero => exact ⟨ht, fun k => by simp [show ¬(b ≤ k ∧ k < b) by omega]⟩
  | succ n ih =>
    simp only [List.range_succ, List.foldl_append, List.foldl_cons, List.foldl_nil]
    refine ⟨twf_tset _ _ d _ ih.1, fun k => ?_⟩
    rw [tgetD_tset _ _ _ d _ ih.1, ih.2]
    by_cases hk : k = b + n
    · simp [hk]
    · by_cases h1 : b ≤ k ∧ k < b + n
      · rw [if_neg hk, if_pos h1, if_pos (by omega)]
      · rw [if_neg hk, if_neg h1, if_neg (by omega)]

/-! What a write reaches by its address (R16). -/

theorem exec_registerWrite_mgmt (off : Nat) : exec (.registerWrite (.mgmt off) v) s = .next (writeMgmt s off v) := rfl
theorem exec_registerWrite_setup (f off : Nat) : exec (.registerWrite (.setup f off) v) s = .next (writeSetup s f off v) := rfl
theorem exec_registerWrite_msixMask (f n : Nat) : exec (.registerWrite (.msixMask f n) v) s = .next (writeMask s f (some n) (v.getLsbD 0)) := rfl
theorem exec_registerWrite_fnMask (f : Nat) : exec (.registerWrite (.fnMask f) v) s = .next (writeMask s f none (v.getLsbD 0)) := rfl

variable {off : Nat}

theorem writeMgmt_misplaced (h : off < 0xA0000) (hm : off < 0x1000 ∨ off % 8 ≠ 0) : writeMgmt s off v = s := by
  rw [writeMgmt, if_pos h, if_pos hm]

/-- A place of the management BAR that is a register's passes the test of its address. -/
theorem placed_of_aligned (h1 : 0x1000 ≤ off) (h : off % 8 = 0 ∨ 0xA0000 ≤ off ∧ off % 2 = 0) :
    ¬(off < 0x1000 ∨ off % (if off < 0xA0000 then 8 else 2) ≠ 0) := by
  split <;> omega

theorem writeMgmt_gap (h1 : 0x2000 ≤ off) (h2 : off < 0x6000) : writeMgmt s off v = s := by
  by_cases hm : off % 8 = 0
  · rw [writeMgmt, if_neg (placed_of_aligned (by omega) (.inl hm))]
    iterate 11 rw [if_neg (by omega)]
  · exact writeMgmt_misplaced s v (by omega) (.inr hm)

theorem writeMgmt_beyond (h : 0xC0000 ≤ off) : writeMgmt s off v = s := by
  rw [writeMgmt]
  refine ite_eq_left_iff.mpr fun _ => ?_
  iterate 11 rw [if_neg (by omega)]

theorem writeMgmt_eq_writeMgmtReg (h1 : 0x1000 ≤ off) (h2 : off < 0x2000) (h3 : off % 8 = 0) : writeMgmt s off v = writeMgmtReg s off v := by
  rw [writeMgmt, if_neg (placed_of_aligned (by omega) (.inl h3)), if_pos (by omega)]

theorem writeMgmt_eq_writeJournalReg (h1 : 0x6000 ≤ off) (h2 : off < 0x7000) (h3 : off % 8 = 0) : writeMgmt s off v = writeJournalReg s off v := by
  rw [writeMgmt, if_neg (placed_of_aligned (by omega) (.inl h3))]
  iterate 1 rw [if_neg (by omega)]
  rw [if_pos ⟨h1, h2⟩]

theorem writeMgmt_eq_writeEngineReg (h1 : 0x7000 ≤ off) (h2 : off < 0x8000) (h3 : off % 8 = 0) : writeMgmt s off v = writeEngineReg s off v := by
  rw [writeMgmt, if_neg (placed_of_aligned (by omega) (.inl h3))]
  iterate 2 rw [if_neg (by omega)]
  rw [if_pos ⟨h1, h2⟩]

theorem writeMgmt_eq_writeHostReg (h1 : 0x8000 ≤ off) (h2 : off < 0x9000) (h3 : off % 8 = 0) : writeMgmt s off v = writeHostReg s off v := by
  rw [writeMgmt, if_neg (placed_of_aligned (by omega) (.inl h3))]
  iterate 3 rw [if_neg (by omega)]
  rw [if_pos ⟨h1, h2⟩]

theorem writeMgmt_eq_writeMemReg (h1 : 0xA000 ≤ off) (h2 : off < 0xB000) (h3 : off % 8 = 0) : writeMgmt s off v = writeMemReg s off v := by
  rw [writeMgmt, if_neg (placed_of_aligned (by omega) (.inl h3))]
  iterate 5 rw [if_neg (by omega)]
  rw [if_pos ⟨h1, h2⟩]

theorem writeMgmt_eq_writeFabReg (h1 : 0xB000 ≤ off) (h2 : off < 0xD000) (h3 : off % 8 = 0) : writeMgmt s off v = writeFabReg s off v := by
  rw [writeMgmt, if_neg (placed_of_aligned (by omega) (.inl h3))]
  iterate 6 rw [if_neg (by omega)]
  rw [if_pos ⟨h1, h2⟩]

theorem writeMgmt_eq_writeBoardReg (h1 : 0xD000 ≤ off) (h2 : off < 0xE000) (h3 : off % 8 = 0) : writeMgmt s off v = writeBoardReg s off v := by
  rw [writeMgmt, if_neg (placed_of_aligned (by omega) (.inl h3))]
  iterate 7 rw [if_neg (by omega)]
  rw [if_pos ⟨h1, h2⟩]

/-- PLACE entries stand at multiples of 8, SHARD entries at multiples of 2. -/
theorem writeMgmt_eq_writePlacement (h1 : 0x90000 ≤ off) (h2 : off < 0xC0000) (h : off % 8 = 0 ∨ 0xA0000 ≤ off ∧ off % 2 = 0) :
    writeMgmt s off v = writePlacement s off v := by
  rw [writeMgmt, if_neg (placed_of_aligned (by omega) h)]
  iterate 10 rw [if_neg (by omega)]
  rw [if_pos ⟨h1, h2⟩]

/-! The mailbox's registers (R484, R485, Table 13.12). -/

/-- MB_CTL without GO: the enable and the flags alone. -/
def mbCtlFlags (s : State) (v : Dbl) : State :=
  { s with mgmt := { s.mgmt with irqEn := v.getLsbD 3, overrun := s.mgmt.overrun && !v.getLsbD 2, done := s.mgmt.done && !v.getLsbD 1 } }

/-- The 256 bytes of MB_REQ. -/
def mbReqBytes (s : State) : Bytes := (List.range 256).map fun i => tgetD s.mgmt.req i 0

theorem writeMgmt_mbCtl : writeMgmt s 0x1008 v = if v.getLsbD 0 then mailboxGo (mbCtlFlags s v) else mbCtlFlags s v := by
  rw [writeMgmt_eq_writeMgmtReg s v (by decide) (by decide) (by decide)]; rfl

theorem mailboxGo_closed {s : State} (h : mbOpen s = false) : mailboxGo s = s := by
  simp [mailboxGo, h]

theorem mailboxGo_busy {s : State} (h : mbOpen s = true) (hb : (s.mgmt.running.isSome || s.mgmt.latched.isSome) = true) : mailboxGo s = mbOverrun s := by
  simp only [mailboxGo, h, hb, Bool.not_true, Bool.false_eq_true, if_false, if_true]

/-- GO of a CMD that some command has latches the request. -/
theorem mailboxGo_latches {s : State} (h : mbOpen s = true) (hb : (s.mgmt.running.isSome || s.mgmt.latched.isSome) = false)
    (h1 : 1 ≤ (byteAt (mbReqBytes s) 0).toNat) (h2 : (byteAt (mbReqBytes s) 0).toNat ≤ 0x12) :
    mailboxGo s = { s with mgmt := { s.mgmt with latched := some (mbReqBytes s) } } := by
  have hc : ¬((byteAt (mbReqBytes s) 0).toNat = 0 ∨ 0x12 < (byteAt (mbReqBytes s) 0).toNat) := by omega
  simp only [mailboxGo, h, hb, Bool.not_true, Bool.false_eq_true, if_false]
  exact if_neg hc

/-- GO of a CMD that no command has is answered BAD_CMD. -/
theorem mailboxGo_badCmd {s : State} (h : mbOpen s = true) (hb : (s.mgmt.running.isSome || s.mgmt.latched.isSome) = false)
    (hc : byteAt (mbReqBytes s) 0 = 0 ∨ 0x12 < (byteAt (mbReqBytes s) 0).toNat) :
    mailboxGo s = { s with mgmt := { s.mgmt with latched := some (mbReqBytes s), running := some { resp := respBytes (mbReqBytes s) { status := 1 } } } } := by
  have hc' : (byteAt (mbReqBytes s) 0).toNat = 0 ∨ 0x12 < (byteAt (mbReqBytes s) 0).toNat := hc.imp_left fun h0 => by rw [h0]; rfl
  have hr : s.mgmt.running = none := by simpa using (Bool.or_eq_false_iff.mp hb).1
  simp only [mailboxGo, h, hb, Bool.not_true, Bool.false_eq_true, if_false]
  refine (if_pos hc').trans ?_
  simp only [mbFinish, hr]
  rfl

/-- A write of MB_REQ writes eight bytes of the request and nothing else. -/
theorem writeMgmt_mbReq {n : Nat} (hn : n < 32) : writeMgmt s (0x1100 + 8 * n) v = { s with mgmt := { s.mgmt with
    req := (List.range 8).foldl (fun t i => tset t (8 * n + i) 0 (byteAt (le 8 v.toNat) i)) s.mgmt.req } } := by
  have ho : (0x1100 + 8 * n - 0x1100) / 8 * 8 = 8 * n := by omega
  rw [writeMgmt_eq_writeMgmtReg s v (by omega) (by omega) (by omega)]
  simp only [writeMgmtReg]
  rw [if_neg (by omega), if_pos (by omega), writeMbReq, ho]

/-- The bytes of MB_REQ after a write of eight of them. -/
theorem writeMgmt_mbReq_reads {n : Nat} (hn : n < 32) (hw : twf s.mgmt.req = true) (k : Nat) :
    tgetD (writeMgmt s (0x1100 + 8 * n) v).mgmt.req k 0 = if 8 * n ≤ k ∧ k < 8 * n + 8 then byteAt (le 8 v.toNat) (k - 8 * n) else tgetD s.mgmt.req k 0 := by
  rw [writeMgmt_mbReq s v hn]
  exact (tgetD_writeRun 0 (byteAt (le 8 v.toNat)) (8 * n) s.mgmt.req hw 8).2 k

/-! A register that an ENABLE bars. -/

theorem barred_of_enabled {α : Type} {b : Bool} {x y z : α} (e : x = if b then y else z) (h : b = true) : x = y := e.trans (if_pos h)
theorem taken_of_disabled {α : Type} {b : Bool} {x y z : α} (e : x = if b then y else z) (h : b = false) : x = z := e.trans (if_neg (ne_true_of_eq_false h))

/-! The logs' bases, the journal, the engines, memory and the board: a register takes what is written, but for what an ENABLE bars. -/

theorem writeMgmt_flogBase : writeMgmt s 0x1300 v =
    if s.mgmt.flogEnable then s else { s with mgmt := { s.mgmt with flogBase := v &&& 0xFFFFFFFFFFFFF000#64 } } := by
  rw [writeMgmt_eq_writeMgmtReg s v (by decide) (by decide) (by decide), ← lowZero_page]; rfl

theorem writeMgmt_vlogBase : writeMgmt s 0x8100 v =
    if s.host.vlogEnable then s else { s with host := { s.host with vlogBase := v &&& 0xFFFFFFFFFFFFF000#64 } } := by
  rw [writeMgmt_eq_writeHostReg s v (by decide) (by decide) (by decide), ← lowZero_page]; rfl

theorem writeMgmt_drainBase : writeMgmt s 0x6008 v =
    if s.jn.enable then s else { s with jn := { s.jn with drainBase := v &&& 0xFFFFFFFFFFFF0000#64 } } := by
  rw [writeMgmt_eq_writeJournalReg s v (by decide) (by decide) (by decide), ← lowZero_slot]; rfl

theorem writeMgmt_wmAddr : writeMgmt s 0x6010 v =
    if s.jn.enable then s else { s with jn := { s.jn with wmAddr := v &&& 0xFFFFFFFFFFFFFFF8#64 } } := by
  rw [writeMgmt_eq_writeJournalReg s v (by decide) (by decide) (by decide), ← lowZero_three]; rfl

theorem writeMgmt_traceBase : writeMgmt s 0x7208 v =
    if s.eng.traceEnable then s else { s with eng := { s.eng with traceBase := v &&& 0xFFFFFFFFFFFFF000#64 } } := by
  rw [writeMgmt_eq_writeEngineReg s v (by decide) (by decide) (by decide), ← lowZero_page]; rfl

theorem writeMgmt_scrub : writeMgmt s 0xA018 v =
    { s with mem := { s.mem with scrubHours := if (v.extractLsb' 8 8).toNat = 0 then s.mem.scrubHours else (v.extractLsb' 8 8).toNat, scrubEn := v.getLsbD 0 } } := by
  rw [writeMgmt_eq_writeMemReg s v (by decide) (by decide) (by decide)]; rfl

theorem writeMgmt_thermHi : writeMgmt s 0xD810 v =
    if 60 ≤ (v.extractLsb' 0 8).toNat ∧ (v.extractLsb' 0 8).toNat ≤ 115 then { s with board := { s.board with thermHi := (v.extractLsb' 0 8).toNat } } else s := by
  rw [writeMgmt_eq_writeBoardReg s v (by decide) (by decide) (by decide)]; rfl

/-! The fabric's registers (R465): what ENABLE bars. -/

theorem writeMgmt_fabId : writeMgmt s 0xB000 v = if s.fab.enable then s else { s with fab := { s.fab with device := (v.extractLsb' 0 10).toNat } } := by
  rw [writeMgmt_eq_writeFabReg s v (by decide) (by decide) (by decide)]; rfl

theorem writeMgmt_route {d : Nat} (hd : d < 32) : writeMgmt s (0xB100 + 8 * d) v =
    if s.fab.enable then s else { s with fab := { s.fab with routes := tset s.fab.routes d 0 (v.setWidth 16 &&& 0xBFBF#16) } } := by
  have hk : (0xB100 + 8 * d - 0xB100) / 8 = d := by omega
  rw [writeMgmt_eq_writeFabReg s v (by omega) (by omega) (by omega)]
  simp only [writeFabReg]
  iterate 4 rw [if_neg (by omega)]
  rw [if_pos (by omega), hk]

theorem writeMgmt_place {k : Nat} (hk : k < 8192) : writeMgmt s (0x90000 + 8 * k) v =
    if s.fab.enable then s else if absentKey s k then s else { s with fab := { s.fab with place := tput s.fab.place k (v &&& 0x83FFFFFF000007FF#64) } } := by
  have hi : (0x90000 + 8 * k - 0x90000) / 8 = k := by omega
  rw [writeMgmt_eq_writePlacement s v (by omega) (by omega) (by omega)]
  simp only [writePlacement]
  rw [if_pos (show 0x90000 + 8 * k < 0xA0000 by omega), hi]

theorem writeMgmt_shard {k : Nat} (hk : k < 65536) : writeMgmt s (0xA0000 + 2 * k) v =
    if s.fab.enable then s else { s with fab := { s.fab with shard := tset s.fab.shard k 0 (v.setWidth 16 &&& 0x07FF#16) } } := by
  have hi : (0xA0000 + 2 * k - 0xA0000) / 2 = k := by omega
  rw [writeMgmt_eq_writePlacement s v (by omega) (by omega) (by omega)]
  simp only [writePlacement]
  rw [if_neg (show ¬ 0xA0000 + 2 * k < 0xA0000 by omega), hi]

/-- Every tenant key of a part has its place in the 8,192 PLACE entries (Table 12.5). -/
theorem maxTenant_lt (p : Part) : maxTenant p < 8192 := by cases p <;> decide

/-! The setup BAR (Tables 5.8, 5.12). -/

theorem writeSetup_absent {f : Nat} (h : fnExists s.part f = false ∨ off % 8 ≠ 0) : writeSetup s f off v = s := by
  rw [writeSetup, if_pos (h.imp_left fun h => by rw [h]; rfl)]

theorem writeSetup_dbBase {f : Nat} (h : fnExists s.part f = true) : writeSetup s f 0x08 v =
    if (fnOf s f).dbEnable then s else setFn s f { fnOf s f with dbBase := v &&& 0xFFFFFFFFFFFFF000#64 } := by
  simp only [writeSetup, h, ← lowZero_page]; rfl

theorem writeSetup_fnStatus {f : Nat} (h : fnExists s.part f = true) : writeSetup s f 0x20 v =
    setFn s f { fnOf s f with dbViol := (fnOf s f).dbViol && !v.getLsbD 1, dbErr := (fnOf s f).dbErr && !v.getLsbD 0 } := by
  simp only [writeSetup, h]; rfl

/-- The registers of local tray `t`. -/
theorem writeSetup_tray {f t r : Nat} (h : fnExists s.part f = true) (ht : t < 2048) (hr : r < 8) :
    writeSetup s f (0x20000 + 64 * t + 8 * r) v = writeTrayReg s f t (8 * r) v := by
  have h1 : (0x20000 + 64 * t + 8 * r - 0x20000) / 64 = t := by omega
  have h2 : (0x20000 + 64 * t + 8 * r) % 64 = 8 * r := by omega
  simp only [writeSetup, h]
  rw [if_neg (by simp; omega)]
  iterate 4 rw [if_neg (by omega)]
  rw [if_pos (by omega), h1, h2]

theorem writeTrayReg_absent {f t : Nat} (r : Nat) (h : trayExists s f t = false) : writeTrayReg s f t r v = s := by
  simp only [writeTrayReg, h]; rfl

theorem writeSetup_trayCrBase {f t : Nat} (hf : fnExists s.part f = true) (ht : t < 2048) (h : trayExists s f t = true) : writeSetup s f (0x20000 + 64 * t + 0x08) v =
    if (trayOf s f t).enable then s else setTray s f t { trayOf s f t with crBase := v &&& 0xFFFFFFFFFFFFF000#64 } := by
  rw [writeSetup_tray s v (r := 1) hf ht (by decide)]
  simp only [writeTrayReg, h, ← lowZero_page]; rfl

theorem writeSetup_trayCqBase {f t : Nat} (hf : fnExists s.part f = true) (ht : t < 2048) (h : trayExists s f t = true) : writeSetup s f (0x20000 + 64 * t + 0x10) v =
    if (trayOf s f t).enable then s else setTray s f t { trayOf s f t with cqBase := v &&& 0xFFFFFFFFFFFFF000#64 } := by
  rw [writeSetup_tray s v (r := 2) hf ht (by decide)]
  simp only [writeTrayReg, h, ← lowZero_page]; rfl

theorem writeSetup_trayCfg {f t : Nat} (hf : fnExists s.part f = true) (ht : t < 2048) (h : trayExists s f t = true) : writeSetup s f (0x20000 + 64 * t + 0x18) v =
    if (trayOf s f t).enable then s else setTray s f t { trayOf s f t with cfg := v &&& 0xFFFF0FFFFFFFFFFF#64 } := by
  rw [writeSetup_tray s v (r := 3) hf ht (by decide)]
  simp only [writeTrayReg, h]; rfl

theorem writeSetup_trayStatus {f t : Nat} (hf : fnExists s.part f = true) (ht : t < 2048) (h : trayExists s f t = true) : writeSetup s f (0x20000 + 64 * t + 0x20) v =
    setTray s f t { trayOf s f t with cfgErr := (trayOf s f t).cfgErr && !v.getLsbD 8 } := by
  rw [writeSetup_tray s v (r := 4) hf ht (by decide)]
  simp only [writeTrayReg, h]; rfl

/-! Mask bits (R221). -/

theorem writeMask_function {f : Nat} (h : fnExists s.part f = true) (m : Bool) : writeMask s f none m =
    if m then setFn s f { fnOf s f with fnMasked := true } else sendPending (setFn s f { fnOf s f with fnMasked := false }) f := by
  simp only [writeMask, h]; rfl

theorem writeMask_entry {f n : Nat} (h : fnExists s.part f = true) (hn : n < 2048) (m : Bool) : writeMask s f (some n) m =
    if m then setFn s f { fnOf s f with unmasked := (fnOf s f).unmasked.filter (· != n) }
    else sendPending (setFn s f { fnOf s f with unmasked := insertUp n (fnOf s f).unmasked }) f := by
  simp only [writeMask, h, if_neg (Nat.not_le.mpr hn)]; rfl

/-! Reads (R16): a place that holds no register, and a register that is only written, read as zero. -/

theorem readMgmt_misplaced (h : off < 0x1000 ∨ off % 8 ≠ 0) : readMgmt s off = 0 := by
  rw [readMgmt, if_pos h]

theorem readMgmt_beyond (h : 0xC0000 ≤ off) : readMgmt s off = 0 := by
  rw [readMgmt]
  refine ite_eq_left_iff.mpr fun _ => ?_
  iterate 12 rw [if_neg (by omega)]

/-- KEY_RETIRE reads as zero, whether a write of it is pending or not. -/
theorem mpuRead_keyRetire : mpuRead s 0x9A00 = 0 := by
  unfold mpuRead; split <;> rfl

theorem readMgmt_writeOnly (h : off ∈ [0x6050, 0x7008, 0x8200, 0x9A00, 0xB020]) : readMgmt s off = 0 := by
  simp only [List.mem_cons, List.not_mem_nil, or_false] at h
  rcases h with rfl | rfl | rfl | rfl | rfl
  · rfl
  · rfl
  · rfl
  · exact mpuRead_keyRetire s
  · rfl

theorem readSetup_trayAbsent {f t r : Nat} (ht : t < 2048) (hr : r < 8) (h : trayExists s f t = false) : readSetup s f (0x20000 + 64 * t + 8 * r) = 0 := by
  have h1 : (0x20000 + 64 * t + 8 * r - 0x20000) / 64 = t := by omega
  simp only [readSetup]
  refine ite_eq_left_iff.mpr fun _ => ?_
  iterate 6 rw [if_neg (by omega)]
  rw [if_pos (by omega), h1]
  simp only [readTrayReg, h]; rfl

theorem readSetup_nudge (f : Nat) : readSetup s f 0x18 = 0 := by
  simp only [readSetup]
  exact ite_eq_left_iff.mpr fun _ => rfl

theorem writeMgmt_mbCtl_flags {s : State} {v : Dbl} (h : v.getLsbD 0 = false ∨ mbOpen s = false) : writeMgmt s 0x1008 v = mbCtlFlags s v := by
  rw [writeMgmt_mbCtl]
  refine ite_eq_right_iff.mpr fun hgo => mailboxGo_closed ?_
  exact h.resolve_left (by simp [hgo])

/-- What a write of MB_CTL with GO leaves is what GO makes of the flags as written. -/
theorem writeMgmt_mbCtl_go {s : State} {v : Dbl} (h : v.getLsbD 0 = true) : writeMgmt s 0x1008 v = mailboxGo (mbCtlFlags s v) :=
  (writeMgmt_mbCtl s v).trans (if_pos h)

/-- Settles O58, address by address. -/
theorem registerWrites : Obligations.RegisterWrites := by
  unfold Obligations.RegisterWrites
  intro s v
  simp only [exec_registerWrite_mgmt, exec_registerWrite_setup, exec_registerWrite_msixMask, exec_registerWrite_fnMask, Host.Outcome.next.injEq, exists_eq_left']
  refine ⟨fun r => ⟨_, rfl⟩, fun off => writeMgmt_misplaced s v, fun off => writeMgmt_gap s v, fun off => writeMgmt_beyond s v, fun f off => writeSetup_absent s v,
    -- the mailbox
    ⟨writeMgmt_mbCtl_flags, fun hv ho hb => (writeMgmt_mbCtl_go hv).trans (mailboxGo_busy ho hb),
      fun hv ho hb h1 h2 => (writeMgmt_mbCtl_go hv).trans (mailboxGo_latches ho hb h1 h2), fun hv ho hb hc => (writeMgmt_mbCtl_go hv).trans (mailboxGo_badCmd ho hb hc)⟩,
    ?mbReq,
    -- the fault log and the violation log
    taken_of_disabled (writeMgmt_flogBase s v), barred_of_enabled (writeMgmt_flogBase s v),
    taken_of_disabled (writeMgmt_vlogBase s v), barred_of_enabled (writeMgmt_vlogBase s v), rfl,
    -- the journal and the engines
    fun h => ⟨taken_of_disabled (writeMgmt_drainBase s v) h, taken_of_disabled (writeMgmt_wmAddr s v) h⟩,
    fun h => ⟨barred_of_enabled (writeMgmt_drainBase s v) h, barred_of_enabled (writeMgmt_wmAddr s v) h⟩, rfl,
    taken_of_disabled (writeMgmt_traceBase s v), barred_of_enabled (writeMgmt_traceBase s v), rfl,
    -- memory
    rfl, ?scrub,
    -- the fabric
    fun h => ⟨barred_of_enabled (writeMgmt_fabId s v) h, fun d hd => barred_of_enabled (writeMgmt_route s v hd) h, fun k hk => barred_of_enabled (writeMgmt_place s v hk) h,
      fun k hk => barred_of_enabled (writeMgmt_shard s v hk) h⟩,
    fun h => ⟨taken_of_disabled (writeMgmt_fabId s v) h, fun d hd => taken_of_disabled (writeMgmt_route s v hd) h, ?place,
      fun k hk => taken_of_disabled (writeMgmt_shard s v hk) h⟩, rfl,
    -- the board
    rfl, fun h1 h2 => (writeMgmt_thermHi s v).trans (if_pos ⟨h1, h2⟩), fun h => (writeMgmt_thermHi s v).trans (if_neg (by omega)), rfl, rfl,
    -- functions and trays, and what reads return
    ?setup, ?misplacedReads, fun off => readMgmt_writeOnly s, fun _ _ => rfl, ?drainBaseRead, fun f t r _ ht hr h => readSetup_trayAbsent s ht hr h, readSetup_nudge s⟩
  case mbReq =>
    intro n hn
    refine ⟨by rw [writeMgmt_mbReq s v hn], by rw [writeMgmt_mbReq s v hn], by rw [writeMgmt_mbReq s v hn], fun hw i => ⟨fun hi => ?_, fun hi => ?_⟩⟩
    · rw [writeMgmt_mbReq_reads s v hn hw, if_pos (by omega), Nat.add_sub_cancel_left, byteAt_le_toNat v hi]
    · rw [writeMgmt_mbReq_reads s v hn hw, if_neg (by omega)]
  case scrub =>
    intro h
    have h0 : (v.extractLsb' 8 8).toNat ≠ 0 := fun he => h (BitVec.eq_of_toNat_eq he)
    rw [writeMgmt_scrub, if_neg h0]
  case place =>
    intro k hk
    have ha : ¬ absentKey s k = true := by simp [absentKey, hk]
    rw [writeMgmt_place s v (Nat.lt_of_le_of_lt hk (maxTenant_lt s.part)), if_neg (ne_true_of_eq_false h), if_neg ha]
  case setup =>
    intro f hf
    refine ⟨barred_of_enabled (writeSetup_dbBase s v hf), taken_of_disabled (writeSetup_dbBase s v hf), writeSetup_fnStatus s v hf,
      fun t ht h r hr => (writeSetup_tray s v hf ht hr).trans (writeTrayReg_absent s v _ h), fun t ht h => ?_,
      fun h => ⟨barred_of_enabled (writeMask_function s hf _) h, fun n hn => barred_of_enabled (writeMask_entry s hf hn _) h⟩,
      fun h => ⟨taken_of_disabled (writeMask_function s hf _) h, fun n hn => taken_of_disabled (writeMask_entry s hf hn _) h⟩⟩
    exact ⟨fun h1 => ⟨barred_of_enabled (writeSetup_trayCrBase s v hf ht h) h1, barred_of_enabled (writeSetup_trayCqBase s v hf ht h) h1, barred_of_enabled (writeSetup_trayCfg s v hf ht h) h1⟩,
      fun h1 => ⟨taken_of_disabled (writeSetup_trayCrBase s v hf ht h) h1, taken_of_disabled (writeSetup_trayCqBase s v hf ht h) h1, taken_of_disabled (writeSetup_trayCfg s v hf ht h) h1⟩,
      writeSetup_trayStatus s v hf ht h⟩
  case misplacedReads =>
    intro off h
    rcases h with h | h | h
    · exact readMgmt_misplaced s (.inl h)
    · exact readMgmt_misplaced s (.inr h)
    · exact readMgmt_beyond s h
  case drainBaseRead =>
    intro h
    rw [writeMgmt_drainBase, if_neg (ne_true_of_eq_false h)]
    rfl

end Sys2Proof.Machine
end

section
/-! SUPPORT. What the host link, the links and the cores' resets leave as it was: two views of a state that blank out the parts those operations write, so that one equation
for each operation says its frame. -/
namespace Sys2Proof.Machine

/-- A state without the host link, event sources, cores, memory, storage keys, links and what went out. -/
def steady (s : State) : State := { s with guard := {}, host := {}, ev := {}, cores := {}, mem := {}, fab := {}, out := [], fresh := 0 }

/-- As `steady`, and without the tickets. -/
def settled (s : State) : State := { steady s with tk := {} }

section
variable {s s' : State} (h : steady s' = steady s)
include h

theorem settled_of_steady : settled s' = settled s := congrArg (fun t : State => { t with tk := {} }) h
theorem tk_of_steady : s'.tk = s.tk := by injection h
theorem locks_of_steady : s'.locks = s.locks := by injection h
end

section
variable {s s' : State} (h : settled s' = settled s)
include h

theorem pending_of_settled : s'.pending = s.pending := by injection h
theorem tb_of_settled : s'.tb = s.tb := by injection h
theorem led_of_settled : s'.led = s.led := by injection h
theorem jn_of_settled : s'.jn = s.jn := by injection h
theorem mgmt_of_settled : s'.mgmt = s.mgmt := by injection h
theorem store_of_settled : s'.store = s.store := by injection h
theorem board_of_settled : s'.board = s.board := by injection h
end

variable (s : State)

/-! Single writes. -/

@[simp] theorem steady_takeFree (w : Nat) : steady (takeFree w s).2 = steady s := rfl
@[simp] theorem steady_setFn (f : Nat) (x : Fn) : steady (setFn s f x) = steady s := rfl
@[simp] theorem steady_setTray (f t : Nat) (x : Tray) : steady (setTray s f t x) = steady s := rfl
@[simp] theorem steady_setCore (c : Nat) (x : Core) : steady (setCore s c x) = steady s := rfl
@[simp] theorem steady_setFrame (c f : Nat) (x : Frame) : steady (setFrame s c f x) = steady s := rfl
@[simp] theorem steady_spend (c o n : Nat) : steady (spend s c o n) = steady s := by simp [spend, countStep]
@[simp] theorem steady_setSlotOf (c n : Nat) (x : PortSlot) : steady (setSlotOf s c n x) = steady s := rfl
@[simp] theorem steady_dropL1 (c l : Nat) : steady (dropL1 s c l) = steady s := rfl
@[simp] theorem steady_setDir (l : Nat) (d : DirLine) : steady (setDir s l d) = steady s := rfl
@[simp] theorem steady_dropDir (l : Nat) : steady (dropDir s l) = steady s := rfl
@[simp] theorem steady_invalidateLine (l : Nat) : steady (invalidateLine s l) = steady s := rfl
@[simp] theorem steady_setMemBytes (a : Nat) (b : Bytes) : steady (setMemBytes s a b) = steady s := rfl
@[simp] theorem steady_setLink (k : Nat) (x : Link) : steady (setLink s k x) = steady s := rfl

@[simp] theorem steady_pulseSrc (n : Nat) : steady (pulseSrc s n) = steady s := by unfold pulseSrc; split <;> rfl
@[simp] theorem steady_msixOut (f n : Nat) : steady (msixOut s f n) = steady s := by unfold msixOut; split <;> rfl
@[simp] theorem steady_ringOut (f : Nat) (a : Dbl) (b : Bytes) : steady (ringOut s f a b) = steady s := by unfold ringOut; split <;> rfl
@[simp] theorem steady_changeLink (k : Nat) (x : Link) : steady (changeLink s k x) = steady s := by unfold changeLink; split <;> simp

/-! The host link: waits, pending messages, vectors. -/

@[simp] theorem steady_retestAll : steady (retestAll s) = steady s := by unfold retestAll; split <;> rfl

@[simp] theorem steady_sendPending (f : Nat) : steady (sendPending s f) = steady s :=
  List.foldlRecOn (motive := fun t => steady t = steady s) _ _ rfl fun t ht n _ => (steady_msixOut t f n).trans ht

@[simp] theorem steady_resumeWaits : steady (resumeWaits s) = steady s := by
  have h : steady (s.host.fns.foldl (fun st e => sendPending st e.1) s) = steady s :=
    List.foldlRecOn (motive := fun t => steady t = steady s) _ _ rfl fun t ht e _ => (steady_sendPending t e.1).trans ht
  exact (steady_retestAll _).trans h

@[simp] theorem steady_mailboxVector : steady (mailboxVector s) = steady s := by
  unfold mailboxVector raiseEntry; dsimp only; repeat' split
  all_goals simp

/-! Links: each change of one pulses its source. -/

@[simp] theorem steady_retrainLink (k : Nat) : steady (retrainLink s k) = steady s := steady_changeLink s k _
@[simp] theorem steady_trainLink (k : Nat) : steady (trainLink s k) = steady s := steady_changeLink s k _

@[simp] theorem steady_loseRef (k : Nat) : steady (loseRef s k) = steady s := by
  unfold loseRef; dsimp only; split <;> simp

@[simp] theorem steady_linksOff : steady (linksOff s) = steady s := by
  refine List.foldlRecOn (motive := fun t => steady t = steady s) _ _ rfl fun t ht k _ => ?_
  dsimp only; split
  · exact ht
  · exact (steady_changeLink t k _).trans ht

@[simp] theorem steady_startLinks : steady (startLinks s) = steady s := by
  refine List.foldlRecOn (motive := fun t => steady t = steady s) _ _ rfl fun t ht k _ => ?_
  split
  · exact (steady_trainLink t k).trans ht
  · exact ht

/-! Cores: starting, and the reset of a frame and of a core. -/

@[simp] theorem steady_startAllCores : steady (startAllCores s) = steady s := by
  unfold startAllCores; split
  · rfl
  · refine List.foldlRecOn (motive := fun t => steady t = steady s) _ _ rfl fun t ht c _ => ?_
    split
    · exact (steady_setCore t c _).trans ht
    · exact ht

@[simp] theorem steady_grantBits (a : Nat) (w : Bool) : steady (grantBits s a w) = steady s := by unfold grantBits; split <;> rfl
@[simp] theorem steady_masterWrite (a : Nat) (b : Bytes) : steady (masterWrite s a b) = steady s := by simp [masterWrite]

@[simp] theorem steady_writeAddrs (l : List Nat) (b : Bytes) : steady (writeAddrs s l b) = steady s :=
  List.foldlRecOn (motive := fun t => steady t = steady s) _ _ rfl fun t ht e _ => (steady_masterWrite t e.1 [e.2]).trans ht

@[simp] theorem steady_evict (c l : Nat) : steady (evict s c l) = steady s := by
  unfold evict; dsimp only; repeat' split
  all_goals simp

@[simp] theorem steady_pickAfter (c f : Nat) : steady (pickAfter s c f) = steady s := by unfold pickAfter; split <;> simp [runFrame]
@[simp] theorem steady_makeReady (c f : Nat) : steady (makeReady s c f) = steady s := by unfold makeReady; dsimp only; split <;> simp
@[simp] theorem steady_endWait (c f : Nat) (w : Wait) : steady (endWait s c f w) = steady s := by unfold endWait; dsimp only; split <;> simp

@[simp] theorem steady_seatPosting (c n : Nat) (p : PortSlot) : steady (seatPosting s c n p) = steady s := by
  unfold seatPosting; dsimp only; split <;> simp

@[simp] theorem steady_seatedFrame (c n : Nat) (p : PortSlot) : steady (seatedFrame s c n p) = steady s := by
  unfold seatedFrame; split
  · dsimp only; split <;> simp
  · rfl

@[simp] theorem steady_seatWaiters (c : Nat) (l : List PortSlot) : steady (seatWaiters c l s) = steady s := by
  induction l generalizing s with
  | nil => rfl
  | cons p r ih =>
    unfold seatWaiters; split
    · rfl
    · rw [ih]; simp

@[simp] theorem steady_dropClaims (c : Nat) (p : StackEntry → Bool) : steady (dropClaims s c p) = steady s :=
  List.foldlRecOn (motive := fun t => steady t = steady s) _ _ rfl fun _ ht _ _ => ht

variable {s}

/-- No lock is held and no ticket is out, as a reset of the die leaves them. -/
def Unclaimed (s : State) : Prop := s.locks = [] ∧ s.tk.held = []

theorem unclaimed_of_steady {s' : State} (hs : steady s' = steady s) (h : Unclaimed s) : Unclaimed s' :=
  ⟨(locks_of_steady hs).trans h.1, (congrArg Tickets.held (tk_of_steady hs)).trans h.2⟩

/-- Where nothing is claimed a frame's reset withdraws no request and abandons no command. -/
theorem steady_frameReset (h : Unclaimed s) (c f : Nat) : steady (frameReset s c f) = steady s := by
  obtain ⟨hl, ht⟩ := h
  have hw : ∀ o ep, withdraw s o ep = s := fun o ep => by
    unfold withdraw; rw [hl]; exact (congrArg (fun l => ({ s with locks := l } : State)) hl.symm).trans rfl
  have ha : ∀ ks : List Nat, ks.foldl abandonCmd s = s := fun ks =>
    List.foldlRecOn (motive := fun t => t = s) ks _ rfl fun t he k _ => by rw [he, abandonCmd, ticketOf, ht]; rfl
  unfold frameReset
  extract_lets x s1 s2 s3 k s4 s5 s6
  have h1 : s1 = s := hw _ _
  have h2 : s2 = s := by rw [← ha (x.cmds.map (·.1)), ← h1]
  have h6 : steady s6 = steady s := by
    rw [← h2]
    simp [s6, s5, s4, s3]
  split
  · simp [h6]
  · exact h6

theorem Unclaimed.setCore (h : Unclaimed s) (c : Nat) (x : Core) : Unclaimed (setCore s c x) := h

theorem steady_coreClear (h : Unclaimed s) (c : Nat) : steady (coreClear s c) = steady s := by
  have he : ∀ (ls : List Nat) (t : State), steady (ls.foldl (fun st l => evict st c l) t) = steady t := fun ls t =>
    List.foldlRecOn (motive := fun u => steady u = steady t) ls _ rfl fun u hu l _ => (steady_evict u c l).trans hu
  unfold coreClear
  extract_lets x s0 s1 s2 s3 y
  have h1 : steady s1 = steady s := List.foldlRecOn (motive := fun t => steady t = steady s) _ _ (steady_setCore s c _) fun t ht f _ =>
    (steady_frameReset ((unclaimed_of_steady ht h).setCore c _) c f).trans ((steady_setCore t c _).trans ht)
  have h3 : steady s3 = steady s := (he _ s2).trans ((steady_dropClaims s1 c _).trans h1)
  exact (steady_setCore s3 c _).trans h3

theorem steady_holdAllCores (h : Unclaimed s) : steady (holdAllCores s) = steady s :=
  List.foldlRecOn (motive := fun t => steady t = steady s) _ _ rfl fun _ ht c _ => (steady_coreClear (unclaimed_of_steady ht h) c).trans ht

/-! Device-fault records (R501, R502): the logs and source 0x151 alone. -/

variable (s)

/-- The state with one more record counted, and the persistent log and the last records as given. -/
def withRecord (s : State) (stored last : Tbl Bytes) : State :=
  { s with mgmt := { s.mgmt with flogStore := stored, flogLast := last }, store := { s.store with flogCount := s.store.flogCount + 1 } }

theorem steady_withRecord {s s' : State} (h : steady s' = steady s) (stored last : Tbl Bytes) : steady (withRecord s' stored last) = steady (withRecord s stored last) :=
  congrArg (withRecord · stored last) h

/-- A record raises the count of the persistent log, and fills its place there and among the last records. -/
theorem steady_logFault (k c : Byte) (u d a b : Nat) : ∃ stored last, steady (logFault s k c u d a b) = steady (withRecord s stored last) := by
  unfold logFault; dsimp only
  split
  · exact ⟨_, _, rfl⟩
  · simp only [steady_pulseSrc, apply_ite steady, steady_ringOut, ite_self]
    exact ⟨_, _, rfl⟩

theorem logFault_mgmt (k c : Byte) (u d a b : Nat) : ∃ stored last, (logFault s k c u d a b).mgmt = { s.mgmt with flogStore := stored, flogLast := last } := by
  obtain ⟨stored, last, h⟩ := steady_logFault s k c u d a b
  exact ⟨stored, last, mgmt_of_settled (settled_of_steady h)⟩

theorem logFault_store (k c : Byte) (u d a b : Nat) : (logFault s k c u d a b).store = { s.store with flogCount := s.store.flogCount + 1 } := by
  obtain ⟨stored, last, h⟩ := steady_logFault s k c u d a b
  exact store_of_settled (settled_of_steady h)

/-- A pulse's effect on the sources depends on them and on the timebase alone. -/
theorem pulseSrc_ev_congr {s s' : State} (he : s'.ev = s.ev) (ht : s'.tb = s.tb) (n : Nat) : (pulseSrc s' n).ev = (pulseSrc s n).ev := by
  unfold pulseSrc; split
  · exact he
  · simp [setSrc, srcOf, he, ht]

/-- Outside the power-fail sequence a record pulses source 0x151. -/
theorem logFault_ev (k c : Byte) (u d a b : Nat) (h : s.board.powerFail = false) : (logFault s k c u d a b).ev = (pulseSrc s 0x151).ev := by
  unfold logFault; dsimp only
  rw [if_neg (ne_true_of_eq_false h)]
  refine pulseSrc_ev_congr ?_ ?_ _
  · simp only [apply_ite State.ev, ringOut_ev, ite_self]
  · simp only [apply_ite State.tb, ringOut_tb, ite_self]

theorem srcOf_pulseSrc {n : Nat} (m : Nat) (hw : twf s.ev.srcs = true) (hn : srcReserved n = false) :
    srcOf (pulseSrc s n) m = if m = n then srcEvent s.tb (srcOf s n) else srcOf s m := by
  rw [pulseSrc, if_neg (ne_true_of_eq_false hn), srcOf_setSrc s n m _ hw]

theorem twf_pulseSrc (n : Nat) (hw : twf s.ev.srcs = true) : twf (pulseSrc s n).ev.srcs = true := by
  unfold pulseSrc; split
  · exact hw
  · exact twf_tset _ _ _ _ hw

/-! Entering HELD (R467, R468). -/

/-- The state HELD with a reason. -/
def withHeld (s : State) (reason : Byte) : State := { s with mgmt := { s.mgmt with state := .held, reason := reason } }

/-- A die with nothing claimed that enters HELD: its state, its reason and the record of it. -/
theorem steady_enterHeld {s : State} (h : Unclaimed s) (reason : Byte) : ∃ stored last, steady (enterHeld s reason) = steady (withRecord (withHeld s reason) stored last) := by
  have h1 : steady (linksOff (withHeld s reason)) = steady (withHeld s reason) := steady_linksOff _
  have h2 : steady (holdAllCores (linksOff (withHeld s reason))) = steady (withHeld s reason) := (steady_holdAllCores (unclaimed_of_steady h1 h)).trans h1
  obtain ⟨stored, last, hl⟩ := steady_logFault (mailboxVector (holdAllCores (linksOff (withHeld s reason)))) 0x0D reason 0
    (if reason = 0x07 then s.store.floorMissing.toNat % 2 ^ 32 else 0) 0 0
  exact ⟨stored, last, hl.trans (steady_withRecord ((steady_mailboxVector _).trans h2) stored last)⟩

/-! The boot order (R472, R517). -/

section
variable {f : State → State × Option Byte} {r : List (State → State × Option Byte)} {n : Nat} {s : State}

theorem railsWait_eq_true_iff : railsWait s n = true ↔ n = 3 ∧ s.board.railOk ≠ 511 := by simp [railsWait]

theorem runSteps_waits (h : railsWait s n = true) : runSteps (f :: r) n s = { s with board := { s.board with railWait := true } } := by
  rw [runSteps, if_pos h]

theorem runSteps_passes {s1 : State} (h : ¬ railsWait s n = true) (hf : f s = (s1, none)) :
    runSteps (f :: r) n s = runSteps r (n + 1) { s1 with mgmt := { s1.mgmt with step := n } } := by
  rw [runSteps, if_neg h, hf]

theorem runSteps_fails {s1 : State} {reason : Byte} (h : ¬ railsWait s n = true) (hf : f s = (s1, some reason)) :
    runSteps (f :: r) n s = enterHeld s1 reason := by
  rw [runSteps, if_neg h, hf]
end

/-! Resets of the die (R470). -/

/-- The state with a debug nonce drawn, as step 1 begins. -/
def withNonce (s : State) : State := { s with store := { s.store with debugNonce := Config.draw 64 s.fresh }, fresh := s.fresh + 1 }

theorem bootRom_fails {s : State} (h : s.hw.rom = false) : bootRom s = (withNonce s, some 0x0F) := by
  simp [bootRom, takeDraw, withNonce, h]

/-- Where the ROM's self-test fails the boot order ends at its first step: the die is HELD with reason 0x0F. -/
theorem bootFrom_romFails {s : State} (h : s.hw.rom = false) :
    bootFrom s 1 = enterHeld (withNonce { s with mgmt := { s.mgmt with state := if s.mgmt.state = .held then .boot else s.mgmt.state, reason := 0 } }) 0x0F :=
  runSteps_fails (by simp [railsWait]) (bootRom_fails h)

/-- What step 1 leaves where it fails, but for what the links, the cores' resets and the host link change. -/
def romHeld (s : State) (nonce : Dbl) (stored last : Tbl Bytes) : State :=
  withRecord (withHeld { s with store := { s.store with debugNonce := nonce } } 0x0F) stored last

theorem steady_bootFrom_romFails {s : State} (hu : Unclaimed s) (h : s.hw.rom = false) : ∃ nonce stored last, steady (bootFrom s 1) = steady (romHeld s nonce stored last) := by
  rw [bootFrom_romFails h]
  obtain ⟨stored, last, he⟩ := steady_enterHeld (s := withNonce { s with mgmt := { s.mgmt with state := if s.mgmt.state = .held then .boot else s.mgmt.state, reason := 0 } }) hu 0x0F
  exact ⟨Config.draw 64 s.fresh, stored, last, he⟩

/-- The state that a reset of a kind hands to the boot order. -/
def resetBegun (s : State) (kind : Byte) : State :=
  { resetState s (kind == 1) with mgmt := { (resetState s (kind == 1)).mgmt with resetKind := if kind ≠ 1 ∧ s.part = .pv128d then 6 else kind } }

theorem dieReset_eq_bootFrom (kind : Byte) : dieReset s kind = bootFrom (resetBegun s kind) 1 := rfl

theorem unclaimed_resetBegun (kind : Byte) : Unclaimed (resetBegun s kind) := ⟨rfl, rfl⟩

theorem steady_dieReset_romFails {s : State} (kind : Byte) (h : s.hw.rom = false) :
    ∃ nonce stored last, steady (dieReset s kind) = steady (romHeld (resetBegun s kind) nonce stored last) := by
  rw [dieReset_eq_bootFrom]
  exact steady_bootFrom_romFails (unclaimed_resetBegun s kind) h

/-- A reset of the die whose ROM self-test fails: HELD with reason 0x0F, the journal ring and the boot count kept, the timebase and the counts kept unless it is cold. -/
theorem dieReset_romFails {s : State} (kind : Byte) (h : s.hw.rom = false) : let s' := dieReset s kind
    s'.mgmt.state = .held ∧ s'.mgmt.reason = 0x0F ∧ s'.mgmt.resetKind = (if kind ≠ 1 ∧ s.part = .pv128d then 6 else kind) ∧
    s'.jn.blocks = s.jn.blocks ∧ s'.jn.durable = s.jn.durable ∧ s'.jn.nextSeq = s.jn.durable + 1 ∧ s'.led = {} ∧ s'.locks = [] ∧ s'.tk.held = [] ∧
    s'.tb = (if kind = 1 then 0 else s.tb) ∧ s'.store.bootCount = s.store.bootCount ∧ s'.pending = s.pending ∧
    s'.mgmt.rstWatchdog = (if kind = 1 then 0 else s.mgmt.rstWatchdog) ∧ s'.mgmt.rstResume = (if kind = 1 then 0 else s.mgmt.rstResume) := by
  obtain ⟨nonce, stored, last, he⟩ := steady_dieReset_romFails kind h
  have hf := settled_of_steady he
  have keep (n : Nat) : (if (kind == 1) = true then 0 else n) = if kind = 1 then 0 else n := by simp only [beq_iff_eq]
  dsimp only
  rw [mgmt_of_settled hf, jn_of_settled hf, led_of_settled hf, locks_of_steady he, tk_of_steady he, tb_of_settled hf, store_of_settled hf, pending_of_settled hf]
  exact ⟨rfl, rfl, rfl, rfl, rfl, rfl, rfl, rfl, rfl, keep _, rfl, rfl, keep _, keep _⟩

/-! The steps of the boot order that the configuration, the ledger and the journal decide (R477, R478, R489). -/

theorem bootConfig_none {s : State} (h : cfgSelect s = none) : (bootConfig s).2 = some 0x01 := by
  rw [bootConfig, h]

theorem bootConfig_partBad {s : State} {b : Bool} {c : Bytes} (h : cfgSelect s = some (b, c)) (hp : cfgPartBad s.part c = true) : (bootConfig s).2 = some 0x03 := by
  simp only [bootConfig, h, hp, if_true]

theorem bootConfig_invalid {s : State} {b : Bool} {c : Bytes} (h : cfgSelect s = some (b, c)) (hp : cfgPartBad s.part c = false) (hi : cfgInvalid s.part c = true) :
    (bootConfig s).2 = some 0x02 := by
  simp only [bootConfig, h, hp, hi, Bool.false_eq_true, if_false, if_true]

theorem bootConfig_valid {s : State} {b : Bool} {c : Bytes} (h : cfgSelect s = some (b, c)) (hp : cfgPartBad s.part c = false) (hi : cfgInvalid s.part c = false) :
    (bootConfig s).2 = none ∧ (bootConfig s).1.store.cfg = c := by
  simp only [bootConfig, h, hp, hi, Bool.false_eq_true, if_false, and_self]

theorem bootLedger_noMagic {s : State} (h : s.store.magic = false) : (bootLedger s).2 = some 0x04 := by
  simp [bootLedger, h]

theorem bootLedger_otherLedger {s : State} (h : s.store.magic = true) (hl : s.store.ledgerId ≠ dblAt s.store.cfg 16) : (bootLedger s).2 = some 0x05 := by
  simp [bootLedger, h, hl]

theorem bootLedger_own {s : State} (h : s.store.magic = true) (hl : s.store.ledgerId = dblAt s.store.cfg 16) (hr : s.dup.role ≠ 2) :
    (bootLedger s).2 = none ∧ (bootLedger s).1.store.bootCount = s.store.bootCount + 1 := by
  simp [bootLedger, h, hl, hr, scanJournal]

theorem bootRestart_reason : (bootRestart s).2 = if s.jn.blocks.isEmpty then none else some 0x0A := rfl

theorem bootService_state : (bootService s).1.mgmt.state = .service :=
  congrArg Mgmt.state (mgmt_of_settled (settled_of_steady ((steady_resumeWaits _).trans ((steady_startLinks _).trans ((steady_startAllCores _).trans (steady_pulseSrc _ 0x150))))))

/-! Power (R143, R496 to R499). -/

theorem beginPowerFail_already {s : State} (h : s.board.powerFail = true ∨ s.mgmt.state = .down) : beginPowerFail s = s := if_pos h

theorem beginPowerFail_begins {s : State} (h : s.board.powerFail = false) (hd : s.mgmt.state ≠ .down) : beginPowerFail s =
    { pauseWaits s with board := { s.board with powerFail := true }, mgmt := { s.mgmt with state := .quiescing }, jn := { s.jn with blocks := closingBlocks s.jn.blocks } } :=
  if_neg (by simp [h, hd])

theorem beginPowerFail_board : (beginPowerFail s).board = { s.board with powerFail := s.board.powerFail || decide (s.mgmt.state ≠ .down) } := by
  by_cases h : s.board.powerFail = true ∨ s.mgmt.state = .down
  · rw [beginPowerFail_already h, (show (s.board.powerFail || decide (s.mgmt.state ≠ .down)) = s.board.powerFail by rcases h with h | h <;> simp [h])]
  · obtain ⟨hp, hd⟩ := not_or.mp h
    rw [beginPowerFail_begins (Bool.eq_false_iff.mpr hp) hd, decide_eq_true hd, Bool.or_true]

theorem exec_railLow {s : State} {r : Nat} (hr : r < 9) (h : s.board.powerFail = false) (hm : s.mgmt.state = .service ∨ s.mgmt.state = .held) :
    exec (.railLow r) s = .next (beginPowerFail { s with board := { s.board with
      railLow := s.board.railLow ||| BitVec.ofNat 9 (2 ^ r), railOk := s.board.railOk &&& ~~~BitVec.ofNat 9 (2 ^ r) } }) := by
  have hc : ¬(9 ≤ r ∨ s.board.powerFail ∨ ¬(s.mgmt.state = .service ∨ s.mgmt.state = .quiescing ∨ s.mgmt.state = .held)) := by
    rcases hm with hm | hm <;> simp [hm, h, hr]
  exact congrArg Host.Outcome.next (if_neg hc)

/-- The bit of a rail below range. -/
theorem getLsbD_rail {r : Nat} (hr : r < 9) : (BitVec.ofNat 9 (2 ^ r)).getLsbD r = true := by
  rw [BitVec.getLsbD_ofNat, Nat.testBit_two_pow_self, decide_eq_true hr, Bool.true_and]

theorem exec_dieEntersDown {s : State} (h : s.board.powerFail = true) : exec .dieEntersDown s =
    let s1 := logFault { s with store := { s.store with pfSeq := s.store.pfSeq + 1 } } 0x0C 1 0 0 0 0
    .next { s1 with mgmt := { s1.mgmt with state := .down }, board := { s1.board with powerFail := false } } := by
  refine congrArg Host.Outcome.next (if_neg ?_)
  simp [h]

theorem exec_holdupOkFall {s : State} (hm : s.mgmt.state = .service) (hp : s.board.powerFail = false) (hh : s.board.holdupOk = true) :
    exec .holdupOkFall s = .next (pulseSrc (logFault { s with board := { s.board with holdupOk := false } } 0x0C 2 0 0 0 0) 0x154) := by
  have hc : s.mgmt.state = .service ∧ ¬ s.board.powerFail = true ∧ s.board.holdupOk = true := ⟨hm, ne_true_of_eq_false hp, hh⟩
  exact congrArg Host.Outcome.next (if_pos hc)

/-- A record of the die in service and outside the power-fail sequence leaves every source but 0x151. -/
theorem srcOf_logFault {s : State} (k c : Byte) (u d a b m : Nat) (h : s.board.powerFail = false) (hw : twf s.ev.srcs = true) (hm : m ≠ 0x151) :
    srcOf (logFault s k c u d a b) m = srcOf s m ∧ twf (logFault s k c u d a b).ev.srcs = true := by
  rw [srcOf, logFault_ev s k c u d a b h]
  exact ⟨(srcOf_pulseSrc s m hw rfl).trans (if_neg hm), twf_pulseSrc s _ hw⟩

/-! Temperatures (R520, R527 to R530). -/

/-- The readings of an update taken, before a thermal trip. -/
def withReadings (s : State) (islands piles : List (Nat × Nat)) : State :=
  let tj := (islands.filter fun e => decide (e.1 < 256) && decide (e.2 < 256)).foldl (fun (t : Tbl Nat) e => tset t e.1 0 e.2) s.board.islandTj
  let hbm := maxVal (piles.filter fun e => decide (e.2 < 256))
  let hot := decide (s.board.thermHi + 64 ≤ maxVal tj)
  { s with board := { s.board with islandTj := tj, dieTj := maxVal tj, hbmTj := hbm, hot := hot, wasHot := s.board.wasHot || hot, hbmHot := decide (149 ≤ hbm), hbmOver := decide (159 < hbm) } }

theorem exec_temperatureUpdate (islands piles : List (Nat × Nat)) : exec (.temperatureUpdate islands piles) s =
    let s1 := withReadings s islands piles
    .next (if 184 ≤ s1.board.dieTj ∨ 169 ≤ s1.board.hbmTj then tripNow s1 else s1) := rfl

/-- A trip is latched, and the power-fail sequence runs unless the die is DOWN. -/
theorem tripNow_board : (tripNow s).board = { s.board with thermtrip := true, powerFail := s.board.powerFail || decide (s.mgmt.state ≠ .down) } :=
  beginPowerFail_board _

/-! Islands (R11, Table 14.11). -/

/-- The low 17 bits of an island's register where only OUT is set. -/
theorem reg_outBits (v : Nat) : (reg (v * 2 ^ 32 + 2 ^ 16)).extractLsb' 0 17 = 0x10000#17 := by
  apply BitVec.eq_of_toNat_eq
  rw [BitVec.extractLsb'_toNat, reg, BitVec.toNat_ofNat, BitVec.toNat_ofNat, Nat.shiftRight_zero]
  omega

theorem readIsland_eq {s : State} {k : Nat} (h : islandOut s k = true) : readIsland s k =
    reg (((islandUnit k).1 * 2 ^ 16 + (islandUnit k).2 * 2 ^ 8 + tgetD s.board.islandTj k 0) * 2 ^ 32 + 2 ^ 16) := by
  simp only [readIsland, islandRate, h, if_true]
  refine congrArg reg ?_
  rw [show bitAt true 16 = 2 ^ 16 from rfl]
  omega

theorem readIsland_out {s : State} {k : Nat} (h : islandOut s k = true) : (readIsland s k).extractLsb' 0 17 = 0x10000#17 := by
  rw [readIsland_eq h, reg_outBits]

theorem islandOut_ladle {s : State} {k : Nat} (h : ladleRuns s = false) (hk : k < 128) : islandOut s k = true := by
  simp [islandOut, islandUnit, hk, h]

/-! Resets of a function (R229). -/

@[simp] theorem settled_issueTicket (k : Nat) : settled (issueTicket s k) = settled s := by unfold issueTicket; split <;> rfl

@[simp] theorem settled_disableTray (f t : Nat) : settled (disableTray s f t) = settled s := by
  unfold disableTray; dsimp only
  refine List.foldlRecOn (motive := fun u => settled u = settled s) _ _ ?_ fun u hu k _ => (settled_issueTicket u k).trans hu
  split <;> rfl

@[simp] theorem settled_flrIdle (f t : Nat) : settled (flrIdle s f t) = settled s := by unfold flrIdle; split <;> rfl

@[simp] theorem settled_flrTray (f t : Nat) : settled (flrTray s f t) = settled s := by
  rw [flrTray, settled_flrIdle, settled_of_steady (steady_setTray ..), settled_disableTray]

@[simp] theorem settled_resetFn (f : Nat) : settled (resetFn s f) = settled s :=
  List.foldlRecOn (motive := fun u => settled u = settled s) _ _ rfl fun u hu t _ => (settled_flrTray u f t).trans hu

@[simp] theorem issueTicket_fns (k : Nat) : (issueTicket s k).host.fns = s.host.fns := by unfold issueTicket; split <;> rfl

@[simp] theorem disableTray_fns (f t : Nat) : (disableTray s f t).host.fns = s.host.fns := by
  unfold disableTray; dsimp only
  refine List.foldlRecOn (motive := fun u => u.host.fns = s.host.fns) _ _ ?_ fun u hu k _ => (issueTicket_fns u k).trans hu
  split <;> rfl

@[simp] theorem flrTray_fns (f t : Nat) : (flrTray s f t).host.fns = s.host.fns := by
  refine Eq.trans ?_ (disableTray_fns s f t)
  dsimp only [flrTray]
  unfold flrIdle; split <;> rfl

/-- What a reset leaves of a function: its map entry and the count of its violation log. -/
def Fn.afterReset (x : Fn) : Fn := { valid := x.valid, tenant := x.tenant, ntrays := x.ntrays, firstTray := x.firstTray, vlogCount := x.vlogCount, resetting := true }

theorem Fn.afterReset_ne (x : Fn) : x.afterReset ≠ {} := fun h => absurd (congrArg Fn.resetting h) Bool.true_eq_false.mp

/-- A function reset changes that function alone. -/
theorem fnOf_resetFn (f g : Nat) : fnOf (resetFn s f) g = if g = f then (fnOf s f).afterReset else fnOf s g := by
  have hs : ((listedTrays s f).foldl (fun st t => flrTray st f t) s).host.fns = s.host.fns :=
    List.foldlRecOn (motive := fun u => u.host.fns = s.host.fns) _ _ rfl fun u hu t _ => (flrTray_fns u f t).trans hu
  have hr : (resetFn s f).host.fns = tset s.host.fns f {} (fnOf s f).afterReset := by
    simp only [resetFn, setFn, fnOf, hs, Fn.afterReset]
  rw [fnOf, hr]
  split
  · subst_vars; exact tgetD_tset_same _ _ (Fn.afterReset_ne _)
  · rw [tset, if_neg (Fn.afterReset_ne _), tgetD, tget_tput_other _ _ ‹_›, fnOf, tgetD]

/-- A function is in reset and reads no doorbells. -/
def FnInReset (s : State) (f : Nat) : Prop := (fnOf s f).dbEnable = false ∧ (fnOf s f).resetting = true

theorem fnInReset_resetFn {s : State} {f : Nat} (g : Nat) (h : FnInReset s f ∨ f = g) : FnInReset (resetFn s g) f := by
  unfold FnInReset
  rw [fnOf_resetFn]
  split
  · exact ⟨rfl, rfl⟩
  · exact h.resolve_right ‹_›

theorem fnInReset_foldl_resetFn {f : Nat} (l : List Nat) {s : State} (h : FnInReset s f ∨ f ∈ l) : FnInReset (l.foldl resetFn s) f := by
  induction l generalizing s with
  | nil => exact h.resolve_right (by simp)
  | cons g l ih =>
    refine ih ?_
    rcases h with h | h
    · exact .inl (fnInReset_resetFn g (.inl h))
    · rcases List.mem_cons.mp h with h | h
      · exact .inl (fnInReset_resetFn g (.inr h))
      · exact .inr h

theorem mem_keys_of_tget {α : Type} {t : Tbl α} {k : Nat} (h : (tget t k).isSome = true) : k ∈ t.map (·.1) := by
  induction t with
  | nil => cases h
  | cons e r ih =>
    obtain ⟨k', v⟩ := e
    rw [tget_cons] at h
    split at h
    · subst_vars; simp
    · exact List.mem_cons_of_mem _ (ih h)

/-! The test port (R505). -/

theorem length_le (n v : Nat) : (le n v).length = n := by
  induction n generalizing v with
  | zero => rfl
  | succ n ih => rw [le, List.length_cons, ih]

/-! What the instructions of the board leave, clause by clause. -/

theorem exec_powerResume {s : State} (hd : s.mgmt.state = .down) (ht : s.board.thermtrip = false) : exec .powerResume s =
    .next (dieReset { s with board := { s.board with pwrfail := false, railOk := 511 }, mgmt := { s.mgmt with rstResume := sat 65535 (s.mgmt.rstResume + 1) } } 4) :=
  congrArg Host.Outcome.next (if_neg (by simp [hd, ht]))

theorem exec_holdupResample_held {s : State} (hm : s.mgmt.state = .held) (hr : s.mgmt.reason = 0x08) (hb : s.board.holdupOk = true) :
    exec .holdupResample s = .next (bootFrom s 6) :=
  congrArg Host.Outcome.next (if_pos ⟨hm, hr, hb⟩)

theorem exec_holdupResample_other {s : State} (h : s.mgmt.state ≠ .held ∨ s.mgmt.reason ≠ 0x08 ∨ s.board.holdupOk = false) : exec .holdupResample s = .next s := by
  refine congrArg Host.Outcome.next (if_neg fun hc => ?_)
  obtain ⟨hm, hr, hb⟩ := hc
  rcases h with h | h | h
  · exact h hm
  · exact h hr
  · exact Bool.false_ne_true (h.symm.trans hb)

/-- The power-fail sequence begins where the die is not DOWN: its state and the open block. -/
theorem exec_pwrfailAssert {s : State} (h : s.board.powerFail = false) (hd : s.mgmt.state ≠ .down) : ∃ s', exec .pwrfailAssert s = .next s' ∧
    s'.board = { s.board with pwrfail := true, powerFail := true } ∧ s'.mgmt = { s.mgmt with state := .quiescing } ∧
    s'.jn.blocks = s.jn.blocks.map (fun b => if b.state = .opened then { b with state := .closing } else b) ∧ s'.led = s.led ∧ s'.tk = s.tk :=
  ⟨_, congrArg Host.Outcome.next (beginPowerFail_begins (s := { s with board := { s.board with pwrfail := true } }) h hd), rfl, rfl, rfl, rfl, rfl⟩

theorem exec_railLow_begins {s : State} {r : Nat} (hr : r < 9) (h : s.board.powerFail = false) (hm : s.mgmt.state = .service ∨ s.mgmt.state = .held) :
    ∃ s', exec (.railLow r) s = .next s' ∧ s'.board.powerFail = true ∧ s'.mgmt.state = .quiescing ∧ s'.board.railLow.getLsbD r = true ∧ s'.board.railOk.getLsbD r = false := by
  have hd : s.mgmt.state ≠ .down := by rcases hm with hm | hm <;> simp [hm]
  refine ⟨_, (exec_railLow hr h hm).trans (congrArg Host.Outcome.next (beginPowerFail_begins h hd)), rfl, rfl, ?_, ?_⟩
  · rw [BitVec.getLsbD_or, getLsbD_rail hr, Bool.or_true]
  · rw [BitVec.getLsbD_and, BitVec.getLsbD_not, getLsbD_rail hr, Bool.not_true, Bool.and_false, Bool.and_false]

theorem exec_pwrfailGlitch {s : State} (h : s.mgmt.pfGlitch < 2 ^ 32 - 1) : exec .pwrfailGlitch s = .next { s with mgmt := { s.mgmt with pfGlitch := s.mgmt.pfGlitch + 1 } } := by
  have hs : sat (2 ^ 32 - 1) (s.mgmt.pfGlitch + 1) = s.mgmt.pfGlitch + 1 := Nat.min_eq_right h
  exact congrArg (fun n => Host.Outcome.next { s with mgmt := { s.mgmt with pfGlitch := n } }) hs

theorem exec_dieEntersDown_leaves {s : State} (h : s.board.powerFail = true) : ∃ s', exec .dieEntersDown s = .next s' ∧ s'.mgmt.state = .down ∧ s'.board.powerFail = false ∧
    s'.store.pfSeq = s.store.pfSeq + 1 ∧ s'.store.flogCount = s.store.flogCount + 1 ∧ s'.jn = s.jn :=
  ⟨_, exec_dieEntersDown h, rfl, rfl, congrArg Store.pfSeq (logFault_store ..), congrArg Store.flogCount (logFault_store ..), logFault_jn ..⟩

/-- HOLDUP_OK falls in service: a record, and source 0x154. -/
theorem exec_holdupOkFall_leaves {s : State} (hm : s.mgmt.state = .service) (hp : s.board.powerFail = false) (hh : s.board.holdupOk = true) :
    ∃ s', exec .holdupOkFall s = .next s' ∧ s'.board = { s.board with holdupOk := false } ∧ s'.store.flogCount = s.store.flogCount + 1 ∧ s'.mgmt.state = .service ∧ s'.led = s.led ∧
      (twf s.ev.srcs = true → srcOf s' 0x154 = srcEvent s.tb (srcOf s 0x154)) := by
  refine ⟨_, exec_holdupOkFall hm hp hh, ?_, ?_, ?_, ?_, fun hw => ?_⟩
  · rw [pulseSrc_board, logFault_board]
  · rw [pulseSrc_store, logFault_store]
  · obtain ⟨_, _, hl⟩ := logFault_mgmt { s with board := { s.board with holdupOk := false } } 0x0C 2 0 0 0 0
    rw [pulseSrc_mgmt, hl, hm]
  · rw [pulseSrc_led, logFault_led]
  · obtain ⟨hsrc, hwf⟩ := srcOf_logFault (s := { s with board := { s.board with holdupOk := false } }) 0x0C 2 0 0 0 0 0x154 hp hw (by decide)
    rw [srcOf_pulseSrc _ 0x154 hwf rfl, if_pos rfl, hsrc, logFault_tb]
    rfl

/-- A temperature update: the readings' flags, and the trip where a reading calls for one. -/
theorem exec_temperatureUpdate_leaves (islands piles : List (Nat × Nat)) : ∃ s', exec (.temperatureUpdate islands piles) s = .next s' ∧
    s'.board.dieTj = maxVal s'.board.islandTj ∧ s'.board.hbmTj = maxVal (piles.filter fun e => decide (e.2 < 256)) ∧
    (s'.board.hot = true ↔ s.board.thermHi + 64 ≤ s'.board.dieTj) ∧ (s'.board.hbmHot = true ↔ 149 ≤ s'.board.hbmTj) ∧ (s'.board.hbmOver = true ↔ 159 < s'.board.hbmTj) ∧
    ((184 ≤ s'.board.dieTj ∨ 169 ≤ s'.board.hbmTj) → s'.board.thermtrip = true ∧ (s.mgmt.state ≠ .down → s'.board.powerFail = true)) ∧
    (s'.board.dieTj < 184 → s'.board.hbmTj < 169 → s'.board.thermtrip = s.board.thermtrip ∧ s'.mgmt = s.mgmt) := by
  rw [exec_temperatureUpdate]
  refine ⟨_, rfl, ?_⟩
  by_cases h : 184 ≤ (withReadings s islands piles).board.dieTj ∨ 169 ≤ (withReadings s islands piles).board.hbmTj
  · rw [if_pos h, tripNow_board]
    refine ⟨rfl, rfl, decide_eq_true_iff, decide_eq_true_iff, decide_eq_true_iff, fun _ => ⟨rfl, fun hd => ?_⟩, fun hd hb => absurd h (not_or.mpr ⟨Nat.not_le.mpr hd, Nat.not_le.mpr hb⟩)⟩
    exact Bool.or_eq_true_iff.mpr (.inr (decide_eq_true hd))
  · rw [if_neg h]
    exact ⟨rfl, rfl, decide_eq_true_iff, decide_eq_true_iff, decide_eq_true_iff, fun hc => absurd hc h, fun _ _ => ⟨rfl, rfl⟩⟩

theorem exec_refclkLoss_fab : ∃ s', exec (.refclkLoss .fab) s = .next s' ∧ s'.board = { s.board with fabOk := false } := by
  have hs : steady ((List.range 32).foldl loseRef { s with board := { s.board with fabOk := false } }) = steady { s with board := { s.board with fabOk := false } } :=
    List.foldlRecOn (motive := fun u => steady u = steady { s with board := { s.board with fabOk := false } }) _ _ rfl fun u hu k _ => (steady_loseRef u k).trans hu
  exact ⟨_, rfl, board_of_settled (settled_of_steady hs)⟩

theorem exec_islandRateUpdate_new {s : State} {k : Nat} (n : Nat) (hk : k < 256) (h : s.tb / 10000 ≠ s.board.rateWindow) : exec (.islandRateUpdate [(k, n)]) s =
    .next { s with board := { s.board with rateWindow := s.tb / 10000, rates := tset s.board.rates k 0 (n / 10 % 65536) } } := by
  have hf : [(k, n)].filter (fun e => decide (e.1 < 256)) = [(k, n)] := by simp [hk]
  refine congrArg Host.Outcome.next ((if_neg h).trans ?_)
  rw [hf]; rfl

theorem exec_floorUnitFailure_service {s : State} (u : FloorUnit) (h : s.mgmt.state = .service) :
    ∃ s', exec (.floorUnitFailure u) s = .next s' ∧ s'.mgmt.state = .quiescing ∧ s'.mgmt.quiesceFor = 0x07 := by
  refine ⟨_, congrArg Host.Outcome.next (if_pos h), ?_, ?_⟩ <;> rw [beginQuiesce, pulseSrc_mgmt] <;> rfl

/-! PERST of a port (R470, R471). -/

/-- The functions of a port. -/
def portFns (s : State) (p : Nat) : List Nat := (s.host.fns.map (·.1)).filter fun f => f / 8192 == p

/-- The drain stops where it used the port. -/
def stopDrain (s : State) (p : Nat) : State := if s.jn.port = decide (p = 1) then { s with jn := { s.jn with enable := false, wmReads := 0 } } else s

theorem stopDrain_jn (p : Nat) : (stopDrain s p).jn = if s.jn.port = decide (p = 1) then { s.jn with enable := false, wmReads := 0 } else s.jn := apply_ite State.jn ..

@[simp] theorem stopDrain_mgmt (p : Nat) : (stopDrain s p).mgmt = s.mgmt := (apply_ite State.mgmt ..).trans (ite_self _)
@[simp] theorem stopDrain_led (p : Nat) : (stopDrain s p).led = s.led := (apply_ite State.led ..).trans (ite_self _)
@[simp] theorem stopDrain_host (p : Nat) : (stopDrain s p).host = s.host := (apply_ite State.host ..).trans (ite_self _)

theorem settled_foldl_resetFn (l : List Nat) : settled (l.foldl resetFn s) = settled s :=
  List.foldlRecOn (motive := fun u => settled u = settled s) _ _ rfl fun u hu f _ => (settled_resetFn u f).trans hu

theorem exec_portReset {s : State} {p : Nat} (hp : p < 2) (hq : p = 0 ∨ s.part ≠ .pv32) : exec (.portReset p) s =
    let s2 := stopDrain ((portFns s p).foldl resetFn s) p
    .next { s2 with mgmt := { s2.mgmt with running := if p = 0 then s2.mgmt.running.map fun (r : Running) => { r with silent := true } else s2.mgmt.running,
                                           rstPort := sat 65535 (s2.mgmt.rstPort + 1) } } := by
  have hc : ¬(2 ≤ p ∨ (p = 1 ∧ s.part = .pv32)) := by
    rintro (h | ⟨h, hpart⟩)
    · omega
    · rcases hq with hq | hq
      · omega
      · exact hq hpart
  exact congrArg Host.Outcome.next (if_neg hc)

/-- PERST resets every function of the port and stops the drain of that port; the books and the ring stay. -/
theorem exec_portReset_leaves {s : State} {p : Nat} (hp : p < 2) (hq : p = 0 ∨ s.part ≠ .pv32) : ∃ s', exec (.portReset p) s = .next s' ∧
    s'.mgmt.rstPort = min 65535 (s.mgmt.rstPort + 1) ∧ s'.led = s.led ∧ s'.jn.blocks = s.jn.blocks ∧ (s.jn.port = decide (p = 1) → s'.jn.enable = false) ∧
    (∀ f, f / 8192 = p → (tget s.host.fns f).isSome = true → (fnOf s' f).dbEnable = false ∧ (fnOf s' f).resetting = true) := by
  have hs := settled_foldl_resetFn s (portFns s p)
  refine ⟨_, exec_portReset hp hq, ?_, ?_, ?_, fun hport => ?_, fun f hf hk => ?_⟩
  · simp only [stopDrain_mgmt, mgmt_of_settled hs, sat]
  · simp only [stopDrain_led, led_of_settled hs]
  · simp only [stopDrain_jn, jn_of_settled hs, apply_ite Journal.blocks, ite_self]
  · simp only [stopDrain_jn, jn_of_settled hs, if_pos hport]
  · have hmem : f ∈ portFns s p := List.mem_filter.mpr ⟨mem_keys_of_tget hk, beq_iff_eq.mpr hf⟩
    simp only [fnOf, stopDrain_host]
    exact fnInReset_foldl_resetFn (portFns s p) (.inr hmem)

theorem exec_extest_boundary {s : State} (b : Bytes) (h : s.mgmt.state = .boot ∨ s.mgmt.state = .held) : exec (.extest b) s = .next (captureBoundary s b 0) :=
  congrArg Host.Outcome.next (if_pos h)

theorem exec_extest_service {s : State} (b : Bytes) (h : s.mgmt.state = .service) : exec (.extest b) s = exec (.bypass b) s :=
  congrArg Host.Outcome.next (if_neg (by simp [h]))

/-- Settles O56, clause by clause: the resets through `dieReset_romFails`, which rests on what the links, the cores' resets and the host link leave (`steady`). -/
theorem boardAndResets : Obligations.BoardAndResets := by
  refine ⟨?resets, ?steps, ?boot, ?power, ?sensors, ?testPort⟩
  case resets =>
    rintro s i kind hw (⟨rfl, rfl, h⟩ | ⟨rfl, rfl, h⟩ | ⟨rfl, rfl, h, hd, ht⟩)
    · exact ⟨_, rfl, dieReset_romFails 1 h⟩
    · exact ⟨_, rfl, dieReset_romFails 3 h⟩
    · exact ⟨_, exec_powerResume hd ht, dieReset_romFails 4 h⟩
  case steps =>
    refine fun f r n s => ⟨fun hn hr => runSteps_waits (railsWait_eq_true_iff.mpr ⟨hn, hr⟩), fun h => ?_⟩
    have hc : ¬ railsWait s n = true := fun hc => (railsWait_eq_true_iff.mp hc).elim fun hn hr => h.elim (· hn) hr
    exact ⟨fun _ => runSteps_passes hc, fun _ _ => runSteps_fails hc⟩
  case boot =>
    refine fun s => ⟨bootConfig_none, fun _ _ => bootConfig_partBad, fun _ _ => bootConfig_invalid, fun _ _ => bootConfig_valid, bootLedger_noMagic, bootLedger_otherLedger, bootLedger_own,
      fun h => ?_, fun h => ?_, rfl, bootService_state s⟩
    · rw [bootRestart_reason, if_neg (by simpa using h)]
    · rw [bootRestart_reason, h]; rfl
  case power =>
    exact fun s => ⟨exec_holdupResample_held, exec_holdupResample_other, fun h => congrArg Host.Outcome.next (if_pos h), fun h => congrArg Host.Outcome.next (if_neg (by simp [h])),
      exec_pwrfailAssert, fun _ => exec_railLow_begins, exec_pwrfailGlitch, exec_dieEntersDown_leaves, ⟨_, rfl, rfl, rfl, rfl, rfl, rfl, rfl⟩, exec_holdupOkFall_leaves, rfl⟩
  case sensors =>
    exact fun s isl st p => ⟨exec_temperatureUpdate_leaves s isl st, ⟨rfl, rfl, exec_refclkLoss_fab s, rfl⟩, fun _ n hk => exec_islandRateUpdate_new n hk,
      fun _ h => congrArg Host.Outcome.next (if_pos h), fun _ _ => ⟨readIsland_out, islandOut_ladle⟩, fun h => congrArg Host.Outcome.next (if_neg (by omega)),
      fun h => congrArg Host.Outcome.next (if_pos h), fun u => exec_floorUnitFailure_service u, exec_portReset_leaves⟩
  case testPort =>
    exact fun s b => ⟨rfl, rfl, ⟨_, rfl, length_le _ _⟩, fun h => ⟨_, exec_extest_boundary b h⟩, exec_extest_service b⟩

end Sys2Proof.Machine
end

section
/-! SUPPORT. The bytes that a record was read back with (log entry 83), where a posting meets them. -/
namespace Sys2Proof.Machine

/-- The record that `staleBooks` holds for account 2, once a posting numbered 1 has credited it with 5. -/
def creditedRecord : Account := { id := 2, flags := 1, ledger := 5, avail := 5, version := 1, lastSeq := 1 }

/-- The bytes of `creditedRecord`, but for a reserved byte that is not zero. -/
def staleBytes : Bytes := (fieldBytes creditedRecord).take 124 ++ [1, 0, 0, 0]

/-- Two accounts that satisfy R40. Account 2 is empty and keeps beside it bytes that it does not have now, those of `creditedRecord`. -/
def staleBooks : Ledger :=
  { accounts := [(1, { id := 1, flags := 1, ledger := 5, avail := 5 }), (2, { id := 2, flags := 1, raw := some staleBytes })] }

/-- Five units from account 1 to account 2. -/
def transferLegs : List Leg := [{ account := 1, amount := -5 }, { account := 2, amount := 5 }]

theorem staleBooks_sound : ∀ e ∈ staleBooks.accounts, inconsistency e.2 e.1 = none ∧ e.2.lastSeq < 1 := by decide +kernel

theorem transferLegs_balanced : postingRule transferLegs = none := by decide +kernel

theorem evalLegs_staleBooks : (evalLegs staleBooks (numberLegs 0 transferLegs)).isLeft = true := by decide +kernel

/-- The credit makes the record of account 2 equal to the one that the kept bytes give, so that they count as its bytes again. -/
theorem mem_postEffect_staleBooks :
    (2, { creditedRecord with raw := some staleBytes }) ∈ (postEffect staleBooks 1 (numberLegs 0 transferLegs)).accounts := by decide +kernel

theorem inconsistency_staleBytes : inconsistency { creditedRecord with raw := some staleBytes } 2 = some 7 := by decide +kernel

/-- Refutes O59, its conjunct that every account still satisfies R40: bytes kept from an earlier reading count as a record's own whenever its fields agree with them
(`rawBytes`), and a posting changes the fields and keeps the bytes. In `staleBooks` the posting makes account 2 agree with bytes whose reserved field is not zero. -/
theorem not_acceptedPostingsKeepTheBooks : ¬ Obligations.AcceptedPostingsKeepTheBooks := by
  unfold Obligations.AcceptedPostingsKeepTheBooks
  intro h
  obtain ⟨l', hl'⟩ := Sum.isLeft_iff.mp evalLegs_staleBooks
  obtain ⟨-, hsound, -⟩ := h staleBooks l' transferLegs 1 rfl staleBooks_sound transferLegs_balanced hl'
  have hnone := hsound _ mem_postEffect_staleBooks
  rw [inconsistency_staleBytes] at hnone
  cases hnone

end Sys2Proof.Machine
end

section
/-! SUPPORT. Contexts (R167, R174) written and read back, whatever the table of contexts holds. -/
namespace Sys2Proof.Machine

/-! A key written over. -/

section
variable {α : Type} (t : Tbl α) (k : Nat) (v w : α)

theorem tput_tput_same : tput (tput t k v) k w = tput t k w := by
  induction t with
  | nil => simp [tput]
  | cons e r ih =>
    obtain ⟨k', v'⟩ := e
    rcases Nat.lt_trichotomy k k' with h | h | h
    · simp [tput, h]
    · simp [tput, h]
    · simp [tput, show ¬ k < k' by omega, show k ≠ k' by omega, ih]

theorem tdel_tput_same : tdel (tput t k v) k = tdel t k := by
  induction t with
  | nil => simp [tput, tdel]
  | cons e r ih =>
    obtain ⟨k', v'⟩ := e
    rcases Nat.lt_trichotomy k k' with h | h | h
    · simp [tput, tdel, h, show k ≠ k' by omega]
    · simp [tput, tdel, h]
    · simp [tput, tdel, show ¬ k < k' by omega, show k ≠ k' by omega, ih]

variable {t k v}

theorem mem_of_tget (h : tget t k = some v) : (k, v) ∈ t := by
  induction t with
  | nil => cases h
  | cons e r ih =>
    obtain ⟨k', v'⟩ := e
    rw [tget_cons] at h
    split at h
    · cases h; subst_vars; exact List.mem_cons_self ..
    · exact List.mem_cons_of_mem _ (ih h)

/-- A test of some entry does not see a write of an entry that passes it just when the one in its place does. -/
theorem any_tput {w : α} (p : Nat × α → Bool) (h : tget t k = some v) (hp : p (k, w) = p (k, v)) : (tput t k w).any p = t.any p := by
  induction t with
  | nil => cases h
  | cons e r ih =>
    obtain ⟨k', v'⟩ := e
    rcases Nat.lt_trichotomy k k' with hk | hk | hk
    · have hmem : p (k, v) = true → ((k', v') :: r).any p = true := fun hv => List.any_eq_true.mpr ⟨_, mem_of_tget h, hv⟩
      simp only [tput, hk, if_true, List.any_cons (a := (k, w)), hp]
      cases hv : p (k, v) with
      | false => rfl
      | true => rw [hmem hv]; rfl
    · subst hk
      have he : v' = v := by simpa [tget_cons] using h
      simp [tput, hp, he]
    · rw [tget_cons, if_neg (by omega)] at h
      simp only [tput, show ¬ k < k' by omega, show k ≠ k' by omega, if_false, List.any_cons, ih h]

end

/-- A write of a value that an unlisted key does not read as is forgotten once the key is written again. -/
theorem tset_tset_same {α : Type} [DecidableEq α] (t : Tbl α) (k : Nat) {d v : α} (w : α) (h : v ≠ d) : tset (tset t k d v) k d w = tset t k d w := by
  simp only [tset, if_neg h, tput_tput_same, tdel_tput_same]

theorem tgetD_tset_other {α : Type} [DecidableEq α] (t : Tbl α) {k m : Nat} {d v : α} (h : v ≠ d) (hm : m ≠ k) : tgetD (tset t k d v) m d = tgetD t m d := by
  rw [tset, if_neg h, tgetD, tget_tput_other _ _ hm, tgetD]

/-! Contexts. -/

theorem ctx_ne_of_state {x : Ctx} (h : x.state ≠ .free) : x ≠ {} := fun he => h (congrArg Ctx.state he)
theorem ctx_ne_of_phase {x : Ctx} (h : x.phase ≠ .idle) : x ≠ {} := fun he => h (congrArg Ctx.phase he)
theorem ctx_ne_of_ticket {x : Ctx} {k : Nat} (h : x.ticket = some k) : x ≠ {} := fun he => by cases h.symm.trans (congrArg Ctx.ticket he)

theorem ctxOf_congr {s1 s2 : State} (h : s1.eng.ctxs = s2.eng.ctxs) (e c : Nat) : ctxOf s1 e c = ctxOf s2 e c := by
  rw [ctxOf, h, ctxOf]

variable (s : State) (e c : Nat)

theorem ctxOf_setCtx_same {x : Ctx} (h : x ≠ {}) : ctxOf (setCtx s e c x) e c = x := tgetD_tset_same s.eng.ctxs (ctxKey e c) h

theorem ctxOf_setCtx_other {e' c' : Nat} {x : Ctx} (h : x ≠ {}) (hk : ctxKey e' c' ≠ ctxKey e c) : ctxOf (setCtx s e c x) e' c' = ctxOf s e' c' :=
  tgetD_tset_other s.eng.ctxs h hk

theorem setCtx_setCtx {x : Ctx} (y : Ctx) (h : x ≠ {}) : setCtx (setCtx s e c x) e c y = setCtx s e c y := by
  simp only [setCtx, tset_tset_same _ _ y h]

/-- A context that is not as an unlisted one stands in the table. -/
theorem tget_ctxs_of_ne (h : ctxOf s e c ≠ {}) : tget s.eng.ctxs (ctxKey e c) = some (ctxOf s e c) := by
  unfold ctxOf tgetD at h ⊢
  cases hg : tget s.eng.ctxs (ctxKey e c) with
  | none => rw [hg] at h; exact absurd rfl h
  | some x => rfl

@[simp] theorem trace_ctxs (typ word data : Nat) (g : Bool) : (trace s e c typ word data g).eng.ctxs = s.eng.ctxs := by
  unfold trace; dsimp only; repeat' split
  all_goals rfl

@[simp] theorem trace_lastEngine (typ word data : Nat) (g : Bool) : (trace s e c typ word data g).eng.lastEngine = s.eng.lastEngine := by
  unfold trace; dsimp only; repeat' split
  all_goals rfl

@[simp] theorem ctxOf_trace (typ word data : Nat) (g : Bool) (e' c' : Nat) : ctxOf (trace s e c typ word data g) e' c' = ctxOf s e' c' :=
  ctxOf_congr (trace_ctxs ..) e' c'

/-- While the trace is off an event leaves nothing. -/
theorem trace_off (typ word data : Nat) (g : Bool) (h : s.eng.traceEnable = false) : trace s e c typ word data g = s := by
  simp [trace, traceWanted, h]

end Sys2Proof.Machine
end

section
/-! SUPPORT. Messages sent (R432, R437, R441, R458) change the fabric unit, the partner's registers and what goes out, nothing else. -/
namespace Sys2Proof.Machine

theorem FabricOnly.refl (s : State) : FabricOnly s s := rfl

theorem FabricOnly.trans {s s1 s2 : State} (h1 : FabricOnly s s1) (h2 : FabricOnly s1 s2) : FabricOnly s s2 := by
  unfold FabricOnly at *
  rw [h2, h1]

theorem fabricOnly_foldl {α : Type} (f : State → α → State) (h : ∀ s a, FabricOnly s (f s a)) (l : List α) (s : State) : FabricOnly s (l.foldl f s) :=
  List.foldlRecOn (motive := FabricOnly s) l f (.refl s) fun t ht a _ => ht.trans (h t a)

variable (s : State)

theorem fabricOnly_setLink (k : Nat) (x : Link) : FabricOnly s (setLink s k x) := rfl
theorem fabricOnly_setE2e (ep : Nat) (x : E2e) : FabricOnly s (setE2e s ep x) := rfl
theorem fabricOnly_sendData (k : Nat) (d : Bytes) : FabricOnly s (sendData s k d) := rfl

theorem fabricOnly_pump (n k : Nat) : FabricOnly s (pump n s k) := by
  induction n generalizing s with
  | zero => exact .refl s
  | succ n ih =>
    unfold pump; dsimp only
    split
    · exact .refl s
    · split
      · exact ((fabricOnly_setLink ..).trans (fabricOnly_sendData ..)).trans (ih _)
      · exact .refl s

theorem fabricOnly_putOnLink (k cls : Nat) (m : Msg) : FabricOnly s (putOnLink s k cls m) :=
  (fabricOnly_setLink ..).trans (fabricOnly_pump ..)

theorem fabricOnly_mirrorOut (rs : List Rec) : FabricOnly s (mirrorOut s rs) := by
  unfold mirrorOut; split
  · exact .refl s
  · have hm : FabricOnly s { s with dup := { s.dup with lastMirror := some (s.dup.lastMirror.getD s.tb) } } := rfl
    exact hm.trans (fabricOnly_foldl _ (fun _ _ => fabricOnly_putOnLink ..) _ _)

theorem fabricOnly_transmit (m : Msg) (inner : Bool) : FabricOnly s (transmit s m inner).1 := by
  unfold transmit; dsimp only
  split
  · split
    · exact fabricOnly_putOnLink ..
    · exact .refl s
  · split
    · exact .refl s
    · split
      · exact .refl s
      · exact fabricOnly_putOnLink ..

theorem fabricOnly_sendSeq (m : Msg) (o : MsgOwner) : FabricOnly s (sendSeq s m o).1 := by
  unfold sendSeq; dsimp only
  split
  · exact fabricOnly_setE2e ..
  · split
    · exact (fabricOnly_transmit ..).trans (fabricOnly_setE2e ..)
    · exact fabricOnly_transmit ..

variable {s}

/-- An append (R110): the records are placed, and what the mirror sends is the fabric's. -/
theorem fabricOnly_appendRecs (rs : List Rec) (w : Waiter) : FabricOnly (placeRecs s rs w) (appendRecs s rs w) := by
  unfold appendRecs; dsimp only
  split
  · exact fabricOnly_mirrorOut ..
  · exact .refl _

theorem FabricOnly.jn {s' : State} (h : FabricOnly s s') : s'.jn = s.jn := by rw [h]
theorem FabricOnly.eng {s' : State} (h : FabricOnly s s') : s'.eng = s.eng := by rw [h]
theorem FabricOnly.locks {s' : State} (h : FabricOnly s s') : s'.locks = s.locks := by rw [h]
theorem FabricOnly.sameRest {s' : State} (h : FabricOnly s s') : SameRest s s' := by
  rw [h]; exact ⟨rfl, rfl, rfl, rfl, rfl, rfl, rfl, rfl, rfl, rfl, rfl, rfl, rfl, rfl⟩

end Sys2Proof.Machine
end

section
/-! SUPPORT. The append of a command's records (R77 step 6, R110): what it leaves. -/
namespace Sys2Proof.Machine

/-! What lies outside the journal, the ticket unit, the locks, the engines and the fabric's sending side. -/

theorem SameRest.refl (s : State) : SameRest s s := ⟨rfl, rfl, rfl, rfl, rfl, rfl, rfl, rfl, rfl, rfl, rfl, rfl, rfl, rfl⟩

theorem SameRest.trans {s s1 s2 : State} (h1 : SameRest s s1) (h2 : SameRest s1 s2) : SameRest s s2 := by
  obtain ⟨a1, a2, a3, a4, a5, a6, a7, a8, a9, a10, a11, a12, a13, a14⟩ := h1
  obtain ⟨b1, b2, b3, b4, b5, b6, b7, b8, b9, b10, b11, b12, b13, b14⟩ := h2
  exact ⟨b1.trans a1, b2.trans a2, b3.trans a3, b4.trans a4, b5.trans a5, b6.trans a6, b7.trans a7, b8.trans a8, b9.trans a9, b10.trans a10, b11.trans a11, b12.trans a12, b13.trans a13,
    b14.trans a14⟩

variable (s : State)

theorem sameRest_trace (e c typ word data : Nat) (g : Bool) : SameRest s (trace s e c typ word data g) := by simp [SameRest]
theorem sameRest_waitOn (e c u : Nat) : SameRest s (waitOn s e c u) := sameRest_trace ..
theorem sameRest_placeRecs (rs : List Rec) (w : Waiter) : SameRest s (placeRecs s rs w) := by simp [SameRest]

/-! A wait on a unit (R164). -/

@[simp] theorem waitOn_jn (e c u : Nat) : (waitOn s e c u).jn = s.jn := by simp [waitOn]
@[simp] theorem waitOn_locks (e c u : Nat) : (waitOn s e c u).locks = s.locks := by simp [waitOn]
@[simp] theorem waitOn_fab (e c u : Nat) : (waitOn s e c u).fab = s.fab := by simp [waitOn]
@[simp] theorem waitOn_dup (e c u : Nat) : (waitOn s e c u).dup = s.dup := by simp [waitOn]

theorem ctxOf_waitOn_same (e c u : Nat) :
    ctxOf (waitOn s e c u) e c = { ctxOf s e c with state := .waiting, awaiting := insertUp u (ctxOf s e c).awaiting, since := s.tb } := by
  rw [waitOn, ctxOf_trace]
  exact ctxOf_setCtx_same s e c (ctx_ne_of_state CtxState.noConfusion)

theorem ctxOf_waitOn_other (e c u : Nat) {e' c' : Nat} (h : ctxKey e' c' ≠ ctxKey e c) : ctxOf (waitOn s e c u) e' c' = ctxOf s e' c' := by
  rw [waitOn, ctxOf_trace]
  exact ctxOf_setCtx_other s e c (ctx_ne_of_state CtxState.noConfusion) h

theorem waitOn_out (e c u : Nat) (h : s.eng.traceEnable = false) : (waitOn s e c u).out = s.out := by
  rw [waitOn, trace_off]
  · rfl
  · exact h

/-! Where a record is placed depends on the journal but for its waiters and reservations, and on what a block header shows. -/

/-- What the place of a record depends on. -/
def placing (s : State) : State := { jn := { s.jn with waiters := [], committed := 0 }, tb := s.tb, part := s.part, mgmt := s.mgmt, fab := s.fab, store := s.store }

theorem placing_placeRec (r : Rec) (w : Waiter) : placing (placeRec s r w) = placing (placeRec (placing s) r .nobody) := by
  have ho : openBlock (placing s).jn = openBlock s.jn := rfl
  unfold placeRec; dsimp only
  rw [ho]
  cases openBlock s.jn with
  | none => rfl
  | some b => dsimp only; split <;> rfl

variable {s}

theorem placing_placeRecs {s' : State} (h : placing s' = placing s) (rs : List Rec) (w w' : Waiter) : placing (placeRecs s' rs w') = placing (placeRecs s rs w) := by
  induction rs generalizing s s' with
  | nil => exact h
  | cons r rs ih => exact ih (by rw [placing_placeRec, h, ← placing_placeRec])

theorem placeRecs_blocks {s' : State} (h : placing s' = placing s) (rs : List Rec) (w w' : Waiter) : (placeRecs s' rs w').jn.blocks = (placeRecs s rs w).jn.blocks := by
  have hb : (placing (placeRecs s' rs w')).jn.blocks = (placing (placeRecs s rs w)).jn.blocks := by rw [placing_placeRecs h rs w w']
  exact hb

/-! The reservation given back (R128). -/

theorem unreserve_tk_jn (s : State) (k : Nat) : ∃ n held, unreserve s k = { s with tk := { s.tk with held := held }, jn := { s.jn with committed := n } } := by
  unfold unreserve; split
  · exact ⟨_, _, rfl⟩
  · exact ⟨_, _, rfl⟩

/-! A verdict's append. -/

/-- What a context keeps while the journal takes its command's records. -/
def appendingCtx (s : State) (e c k : Nat) (v : Verdict) : Ctx :=
  { ctxOf s e c with
    phase := .appended, queued := false, compl := { status := v.status, info := v.info, seq := s.jn.nextSeq, respAddr := v.respAddr, resp := v.resp }, acctRef := v.acct,
    firstSeq := s.jn.nextSeq, entry := { seq := s.jn.nextSeq, state := .appending, nrec := v.recs.length, ticket := k } }

/-- The state that hands a verdict's records to the journal: the reservation is given back, the ticket counts as numbered, the context waits. -/
def handingOver (s : State) (e c k : Nat) (v : Verdict) : State :=
  let s1 := unreserve s k
  let s2 := match ticketOf s1 k with | none => s1 | some t => setTicket s1 k { t with numbered := true, locked := true }
  setCtx s2 e c (appendingCtx s e c k v)

theorem appendVerdict_eq {e c k : Nat} {v : Verdict} (hs : s.jn.stopped = false) (hc : canAppend s v.recs = true) :
    appendVerdict s e c k v = waitOn (trace (appendRecs (handingOver s e c k v) v.recs (.ctx e c (ctxOf s e c).epoch)) e c trAppend
      ((v.recs.map recLen).foldl (· + ·) 0) s.jn.nextSeq) e c unitJA := by
  simp only [appendVerdict, appendFor, hs, hc, Bool.not_true, Bool.false_eq_true, if_false, if_true]
  rfl

/-- The hand-over changes the reservation, the ticket and the context, nothing else. -/
theorem handingOver_eq (s : State) (e c k : Nat) (v : Verdict) : ∃ n held, handingOver s e c k v =
    setCtx { s with tk := { s.tk with held := held }, jn := { s.jn with committed := n } } e c (appendingCtx s e c k v) := by
  obtain ⟨n, held, hu⟩ := unreserve_tk_jn s k
  unfold handingOver
  rw [hu]; dsimp only
  split
  · exact ⟨_, _, rfl⟩
  · exact ⟨_, _, rfl⟩

/-- Where the journal takes the records of a verdict, they are appended as one request (R77 step 6, R110). -/
theorem appends_appendVerdict {e c k : Nat} {v : Verdict} (hs : s.jn.stopped = false) (hc : canAppend s v.recs = true) :
    Appends s (appendVerdict s e c k v) e c k [] v := by
  rw [appendVerdict_eq hs hc]
  obtain ⟨n, held, hh⟩ := handingOver_eq s e c k v
  have hx : appendingCtx s e c k v ≠ {} := ctx_ne_of_phase Phase.noConfusion
  have hrest : SameRest s (handingOver s e c k v) := by rw [hh]; exact .refl s
  have hplace : placing (handingOver s e c k v) = placing s := by rw [hh]; rfl
  have hnext : (handingOver s e c k v).jn.nextSeq = s.jn.nextSeq := by rw [hh]; rfl
  have hdur : (handingOver s e c k v).jn.durable = s.jn.durable := by rw [hh]; rfl
  have hsame : ctxOf (handingOver s e c k v) e c = appendingCtx s e c k v := by rw [hh]; exact ctxOf_setCtx_same _ e c hx
  have hother : ∀ e' c', ctxKey e' c' ≠ ctxKey e c → ctxOf (handingOver s e c k v) e' c' = ctxOf s e' c' := fun e' c' hk => by
    rw [hh]; exact ctxOf_setCtx_other _ e c hx hk
  have hfab : (handingOver s e c k v).fab = s.fab ∧ (handingOver s e c k v).dup = s.dup ∧ (handingOver s e c k v).out = s.out := by rw [hh]; exact ⟨rfl, rfl, rfl⟩
  have htrace : (handingOver s e c k v).eng.traceEnable = s.eng.traceEnable := by rw [hh]; rfl
  have hmir : mirrors (handingOver s e c k v) = mirrors s := by rw [hh]; rfl
  generalize handingOver s e c k v = s1 at *
  have ha := fabricOnly_appendRecs (s := s1) v.recs (.ctx e c (ctxOf s e c).epoch)
  have hctx : ∀ e' c', ctxOf (appendRecs s1 v.recs (.ctx e c (ctxOf s e c).epoch)) e' c' = ctxOf s1 e' c' := fun e' c' =>
    ctxOf_congr (by rw [ha.eng, placeRecs_eng]) e' c'
  have hlocal : mirrors s = false → appendRecs s1 v.recs (.ctx e c (ctxOf s e c).epoch) = placeRecs s1 v.recs (.ctx e c (ctxOf s e c).epoch) := fun hm =>
    appendRecs_local s1 _ _ (hmir.trans hm)
  exact {
    rest := (((hrest.trans (sameRest_placeRecs ..)).trans ha.sameRest).trans (sameRest_trace ..)).trans (sameRest_waitOn ..)
    numbers := by rw [waitOn_jn, trace_jn, ha.jn, placeRecs_nextSeq, hnext]
    placed := by rw [waitOn_jn, trace_jn, ha.jn]; exact placeRecs_blocks hplace _ _ _
    durable := by rw [waitOn_jn, trace_jn, ha.jn, placeRecs_durable, hdur]
    state := by rw [ctxOf_waitOn_same, ctxOf_trace, hctx, hsame]; exact ⟨rfl, rfl⟩
    result := by rw [ctxOf_waitOn_same, ctxOf_trace, hctx, hsame]; rfl
    account := by rw [ctxOf_waitOn_same, ctxOf_trace, hctx, hsame]; rfl
    entry := by rw [ctxOf_waitOn_same, ctxOf_trace, hctx, hsame]; rfl
    locked := fun key hk => by cases hk
    others := fun e' c' hk => by rw [ctxOf_waitOn_other _ _ _ _ hk, ctxOf_trace, hctx, hother e' c' hk]
    fabric := fun hm => by rw [hlocal hm]; simp [hfab]
    output := fun hm ht => by
      have h0 : (placeRecs s1 v.recs (.ctx e c (ctxOf s e c).epoch)).eng.traceEnable = false := by rw [placeRecs_eng, htrace, ht]
      rw [hlocal hm, trace_off _ _ _ _ _ _ _ h0, waitOn_out _ _ _ _ h0, placeRecs_out, hfab.2.2] }

end Sys2Proof.Machine
end

section
/-! SUPPORT. A command whose turn has come (R77 steps 1 to 3): its locks are taken, its records fetched, and its checks begin. -/
namespace Sys2Proof.Machine

theorem mem_insertUp {x y : Nat} {l : List Nat} : x ∈ insertUp y l ↔ x = y ∨ x ∈ l := by
  induction l with
  | nil => simp [insertUp]
  | cons z r ih =>
    unfold insertUp
    rcases Nat.lt_trichotomy y z with h | h | h
    · simp [h]
    · subst h; simp
    · simp only [show ¬ y < z by omega, show y ≠ z by omega, if_false, List.mem_cons, ih]
      exact or_left_comm

theorem mem_sortUp {x : Nat} {l : List Nat} : x ∈ sortUp l ↔ x ∈ l := by
  induction l with
  | nil => rfl
  | cons y r ih => exact mem_insertUp.trans ((or_congr_right ih).trans List.mem_cons.symm)

/-! The order of a tray's commands (R217). -/

/-- Whether the commands before a ticket's pass a test depends on the trays and on the tickets alone. -/
theorem beforeOk_congr {s1 s2 : State} (hh : s1.host = s2.host) (ht : s1.tk.held = s2.tk.held) (k : Nat) (p : Ticket → Bool) : beforeOk s1 k p = beforeOk s2 k p := by
  have hk : ∀ j, ticketOf s1 j = ticketOf s2 j := fun j => by rw [ticketOf, ht, ticketOf]
  have htray : ∀ f t, trayOf s1 f t = trayOf s2 f t := fun f t => by rw [trayOf, hh, trayOf]
  simp only [beforeOk, hk, htray]

/-- That a command has its locks changes no test of the numbers before it. -/
theorem beforeOk_numbered_locked {s s1 : State} {k : Nat} {t : Ticket} (hk : ticketOf s k = some t) (hh : s1.host = s.host)
    (ht : s1.tk.held = tput s.tk.held k { t with locked := true }) : beforeOk s1 k (·.numbered) = beforeOk s k (·.numbered) := by
  have hk1 : ∀ j, ticketOf s1 j = if j = k then some { t with locked := true } else ticketOf s j := fun j => by rw [ticketOf, ht, tget_tput, ticketOf]
  have htray : ∀ f n, trayOf s1 f n = trayOf s f n := fun f n => by rw [trayOf, hh, trayOf]
  have hj : ∀ j, (match ticketOf s1 j with | none => true | some y => y.numbered || ladleOp (cOp y.cmd)) =
      (match ticketOf s j with | none => true | some y => y.numbered || ladleOp (cOp y.cmd)) := fun j => by
    by_cases hjk : j = k
    · rw [hk1, if_pos hjk, hjk, hk]
    · rw [hk1, if_neg hjk]
  have hself : ticketOf s1 k = some { t with locked := true } := by rw [hk1, if_pos rfl]
  unfold beforeOk
  rw [hself, hk]; dsimp only
  cases originTray t.origin with
  | none => rfl
  | some ft =>
    dsimp only
    rw [htray]
    refine congrArg (List.all _) (funext fun fl => congrArg (fl.done.isSome || ·) ?_)
    cases fl.ticket with
    | none => rfl
    | some j => exact hj j

/-! The request for the locks: it changes the locks, and the trace while that is on. -/

section
variable (s : State) (o : Owner) (ep : Half) (p : Bool)

@[simp] theorem traceLock_ctxs (typ : Nat) (key : Nat) : (traceLock s typ o ep key).eng.ctxs = s.eng.ctxs := by
  unfold traceLock; split <;> simp

theorem traceLock_off (typ : Nat) (key : Nat) (h : s.eng.traceEnable = false) : traceLock s typ o ep key = s := by
  unfold traceLock; split
  · exact trace_off s _ _ _ _ _ _ h
  · rfl

@[simp] theorem requestLock_ctxs (key : Nat) : (requestLock s o ep p key).eng.ctxs = s.eng.ctxs := by
  unfold requestLock; repeat' split
  all_goals simp

theorem requestLock_silent (key : Nat) (h : s.eng.traceEnable = false) : ∃ l, requestLock s o ep p key = { s with locks := l } := by
  have hoff : ∀ l typ, traceLock { s with locks := l } typ o ep key = { s with locks := l } := fun l typ => traceLock_off _ o ep typ key h
  unfold requestLock
  split
  · exact ⟨_, by rw [hoff, hoff]⟩
  · split
    · exact ⟨_, rfl⟩
    · exact ⟨_, by rw [hoff]⟩

variable (lent : Option Nat) (keys : List Nat)

@[simp] theorem acquireAll_ctxs : (acquireAll s o ep p lent keys).1.eng.ctxs = s.eng.ctxs := by
  induction keys generalizing s with
  | nil => rfl
  | cons k r ih => unfold acquireAll; dsimp only; repeat' split
                   all_goals simp [ih]

theorem acquireAll_silent (h : s.eng.traceEnable = false) : ∃ l, (acquireAll s o ep p lent keys).1 = { s with locks := l } := by
  induction keys generalizing s with
  | nil => exact ⟨_, rfl⟩
  | cons k r ih =>
    obtain ⟨l, hl⟩ := requestLock_silent s o ep p k h
    unfold acquireAll; dsimp only
    rw [hl]
    split
    · exact ih s h
    · split
      · obtain ⟨l', hl'⟩ := ih { s with locks := l } h
        exact ⟨l', hl'⟩
      · exact ⟨l, rfl⟩
end

/-! Taking up a command (R174). -/

section
variable {s : State} {e c k op : Nat} {t : Ticket}

theorem cmdAt_some (h : cmdAt s e c op = some (k, t)) : (ctxOf s e c).state = .ready ∧ (ctxOf s e c).ticket = some k ∧ ticketOf s k = some t ∧ cOp t.cmd = op := by
  unfold cmdAt at h; dsimp only at h
  split at h
  · split at h
    · split at h
      · cases h; exact ⟨‹_›, ‹_›, ‹_›, ‹_›⟩
      · cases h
    · cases h
  · cases h

/-- A command taken up changes the recovery entry of its context, nothing else. -/
theorem takeCmd_eq (s : State) (e c k : Nat) : takeCmd s e c k = s ∨ ∃ y, takeCmd s e c k = setCtx s e c { ctxOf s e c with entry := y } := by
  unfold takeCmd; dsimp only
  split
  · exact .inr ⟨_, rfl⟩
  · exact .inl rfl

theorem ctxOf_takeCmd (hr : (ctxOf s e c).state = .ready) : ∃ y, ctxOf (takeCmd s e c k) e c = { ctxOf s e c with entry := y } := by
  have hx : ∀ y, { ctxOf s e c with entry := y } ≠ ({} : Ctx) := fun y => ctx_ne_of_state (by simp [hr])
  rcases takeCmd_eq s e c k with h | ⟨y, h⟩
  · exact ⟨_, by rw [h]⟩
  · exact ⟨y, by rw [h, ctxOf_setCtx_same s e c (hx y)]⟩

theorem ctxOf_takeCmd_other (hr : (ctxOf s e c).state = .ready) {e' c' : Nat} (hk : ctxKey e' c' ≠ ctxKey e c) : ctxOf (takeCmd s e c k) e' c' = ctxOf s e' c' := by
  rcases takeCmd_eq s e c k with h | ⟨y, h⟩
  · rw [h]
  · rw [h, ctxOf_setCtx_other s e c (ctx_ne_of_state (by simp [hr])) hk]

/-- No command taken up changes whether a priority append is queued. -/
theorem prioQueued_takeCmd (hr : (ctxOf s e c).state = .ready) : prioQueued (takeCmd s e c k) = prioQueued s := by
  have hx : ∀ y, { ctxOf s e c with entry := y } ≠ ({} : Ctx) := fun y => ctx_ne_of_state (by simp [hr])
  rcases takeCmd_eq s e c k with h | ⟨y, h⟩
  · rw [h]
  · have hl : tget s.eng.ctxs (ctxKey e c) = some (ctxOf s e c) := tget_ctxs_of_ne s e c (ctx_ne_of_state (by simp [hr]))
    rw [h, prioQueued, setCtx, tset, if_neg (hx y)]
    exact any_tput _ hl rfl

end

/-! The turn. -/

section
variable {s st : State} {e c k : Nat} {t : Ticket} {keys : List Nat}

/-- Whether the controller takes an append depends on the journal, on the die's state and on the priority appends queued. -/
theorem canAppend_congr (hb : st.board = s.board) (hm : st.mgmt = s.mgmt) (hj : st.jn = s.jn) (hp : st.part = s.part) (hq : prioQueued st = prioQueued s) (rs : List Rec) :
    canAppend st rs = canAppend s rs := by
  unfold canAppend appendsOpen freeSlots
  rw [hb, hm, hj, hp, hq]

/-- `st` is `s` once the command of a context holds the locks `keys` and its records are read: the checks begin. -/
structure Begun (s st : State) (e c : Nat) (keys : List Nat) : Prop where
  rest : SameRest s st
  jn : st.jn = s.jn
  fabric : st.fab = s.fab ∧ st.dup = s.dup
  quiet : s.eng.traceEnable = false → st.out = s.out ∧ st.eng.traceEnable = false
  ctx : ∃ y, ctxOf st e c = { ctxOf s e c with entry := y }
  others : ∀ e' c', ctxKey e' c' ≠ ctxKey e c → ctxOf st e' c' = ctxOf s e' c'
  locked : ∀ key ∈ keys, (tget st.locks key).map (·.owner) = some (ctxOwner e c)
  appends : ∀ rs, canAppend st rs = canAppend s rs

/-- The request for the locks of a context's command, once it is taken up. -/
def lockRequest (s : State) (e c k : Nat) (t : Ticket) (keys : List Nat) : State × Bool :=
  acquireAll (takeCmd s e c k) (ctxOwner e c) (ctxOf (takeCmd s e c k) e c).epoch (cPrio t.cmd) (if t.cmd.inner then some (lendMark k) else none) (sortUp keys)

/-- The state in which the checks of a command whose turn has come begin. -/
def begunState (s : State) (e c k : Nat) (t : Ticket) (keys accts : List Nat) : State :=
  fetchTouch (setTicket (lockRequest s e c k t keys).1 k { t with locked := true }) e (sortUp accts)

/-- Taking up a command changes the contexts alone. -/
theorem takeCmd_ctxs (s : State) (e c k : Nat) : ∃ x, takeCmd s e c k = { s with eng := { s.eng with ctxs := x } } := by
  unfold takeCmd; dsimp only
  split
  · exact ⟨_, rfl⟩
  · exact ⟨_, rfl⟩

variable {op : Nat} {accts : List Nat} (h : Turn s e c op k t keys accts)
include h

theorem begun_begunState : Begun s (begunState s e c k t keys accts) e c keys := by
  obtain ⟨hr, -, -, -⟩ := cmdAt_some h.cmd
  obtain ⟨xs, hx⟩ := takeCmd_ctxs s e c k
  obtain ⟨tlb, hb⟩ : ∃ tlb, begunState s e c k t keys accts = { setTicket (lockRequest s e c k t keys).1 k { t with locked := true } with
    eng := { (lockRequest s e c k t keys).1.eng with tlb := tlb } } := fetchTouch_rest ..
  have hctx : ∀ e' c', ctxOf (begunState s e c k t keys accts) e' c' = ctxOf (takeCmd s e c k) e' c' := fun e' c' => ctxOf_congr (by rw [hb]; exact acquireAll_ctxs ..) e' c'
  have hfree : ∀ key ∈ sortUp keys, tget (takeCmd s e c k).locks key = none := fun key hk => by rw [hx]; exact h.free key (mem_sortUp.mp hk)
  have hheld : ∀ key ∈ sortUp keys, ∃ b, tget (lockRequest s e c k t keys).1.locks key = some { owner := ctxOwner e c, epoch := (ctxOf (takeCmd s e c k) e c).epoch, spill := b } :=
    (acquireAll_free _ _ _ _ _ _ fun key hk => .inl (hfree key hk)).2.1
  have hrest : SameRest s (begunState s e c k t keys accts) := by rw [hb]; simp [SameRest, lockRequest, hx]
  have hjn : (begunState s e c k t keys accts).jn = s.jn := by rw [hb]; simp [lockRequest, hx]
  obtain ⟨-, -, -, -, -, -, hmgmt, -, -, hboard, -, -, hpart, -⟩ := id hrest
  exact {
    rest := hrest
    jn := hjn
    fabric := by rw [hb]; simp [lockRequest, hx]
    quiet := fun hq => by
      have hq' : (takeCmd s e c k).eng.traceEnable = false := by rw [hx]; exact hq
      obtain ⟨l, hl⟩ : ∃ l, (lockRequest s e c k t keys).1 = { takeCmd s e c k with locks := l } := acquireAll_silent _ _ _ _ _ _ hq'
      rw [hb, hl, hx]; exact ⟨rfl, hq⟩
    ctx := by rw [hctx]; exact ctxOf_takeCmd hr
    others := fun e' c' hk => by rw [hctx]; exact ctxOf_takeCmd_other hr hk
    locked := fun key hk => by
      obtain ⟨b, hl⟩ := hheld key (mem_sortUp.mpr hk)
      rw [hb]; exact congrArg _ hl
    appends := canAppend_congr hboard hmgmt hjn hpart (by rw [← prioQueued_takeCmd (k := k) hr, prioQueued, prioQueued, hb]; simp [lockRequest]) }

/-- A command whose turn has come goes on to its checks. -/
theorem withLocks_turn (shown : Option Dbl) (go : State → State) (bad : State → Byte → Option Dbl → State) :
    withLocks (takeCmd s e c k) e c k keys accts shown go bad = go (begunState s e c k t keys accts) := by
  obtain ⟨hr, -, ht, -⟩ := cmdAt_some h.cmd
  obtain ⟨xs, hx⟩ := takeCmd_ctxs s e c k
  have ht' : ticketOf (takeCmd s e c k) k = some t := by rw [hx]; exact ht
  refine withLocks_free ht' ?_ ?_ ?_ ?_
  · rw [← h.first]; exact beforeOk_congr (by rw [hx]) (by rw [hx]) k _
  · intro key hk; rw [hx]; exact h.free key (mem_sortUp.mp hk)
  · intro s1 hh hl
    rw [← h.next]
    exact beforeOk_numbered_locked ht (by rw [hh, hx]) (by rw [hl, hx])
  · rw [← h.sound]
    exact fetchFault_congr (by rw [hx]) (by rw [hx]) (by rw [hx]) (by rw [hx]) (by rw [hx]) e _

end

section
variable {s st : State} {e c k : Nat} {keys : List Nat} {v : Verdict}

theorem appendVerdict_locks (hs : s.jn.stopped = false) (hc : canAppend s v.recs = true) : (appendVerdict s e c k v).locks = s.locks := by
  obtain ⟨n, held, hh⟩ := handingOver_eq s e c k v
  rw [appendVerdict_eq hs hc, waitOn_locks, trace_locks, (fabricOnly_appendRecs ..).locks, placeRecs_locks, hh]
  rfl

/-- The verdict of a command whose checks have begun is appended, its locks held. -/
theorem Begun.appends_appendVerdict (h : Begun s st e c keys) (hs : s.jn.stopped = false) (hc : canAppend s v.recs = true) :
    Appends s (appendVerdict st e c k v) e c k keys v := by
  have hs' : st.jn.stopped = false := by rw [h.jn]; exact hs
  have hc' : canAppend st v.recs = true := by rw [h.appends]; exact hc
  have ha := Machine.appends_appendVerdict (e := e) (c := c) (k := k) hs' hc'
  obtain ⟨-, -, -, -, -, -, hmgmt, hstore, -, -, -, htb, hpart, -⟩ := h.rest
  have hplace : placing st = placing s := by simp only [placing, h.jn, h.fabric.1, hmgmt, hstore, htb, hpart]
  have hmir : mirrors s = false → mirrors st = false := fun hm => by
    rw [← hm]; simp only [mirrors, mirrored, split, cfgDuplex, h.fabric.2, hstore]
  exact {
    rest := h.rest.trans ha.rest
    numbers := by rw [ha.numbers, h.jn]
    placed := by rw [ha.placed, placeRecs_blocks hplace]
    durable := by rw [ha.durable, h.jn]
    state := ha.state
    result := by rw [ha.result, h.jn]
    account := ha.account
    entry := by rw [ha.entry, h.jn]
    locked := fun key hk => by rw [appendVerdict_locks hs' hc']; exact h.locked key hk
    others := fun e' c' hk => by rw [ha.others e' c' hk, h.others e' c' hk]
    fabric := fun hm => by rw [(ha.fabric (hmir hm)).1, (ha.fabric (hmir hm)).2]; exact h.fabric
    output := fun hm hq => by rw [ha.output (hmir hm) (h.quiet hq).2, (h.quiet hq).1] }

end
end Sys2Proof.Machine
end

section
/-! SUPPORT. DAYROLL (R48, R98). -/
namespace Sys2Proof.Machine

variable {s : State} {e c k : Nat} {t : Ticket}

/-- The verdict of a command that names no account: one record with the code, and INFO 0 whatever the code. -/
theorem bareRec_eq (t : Ticket) (st : Byte) (ref : Dbl) : bareRec t st ref = { status := st, recs := [{ okRec t ref [] with status := st }] } := by
  have hi : (if legCode st then infoOf none else 0) = 0 := ite_self _
  simp only [bareRec, oneRec, hi]
  rfl

theorem bareRec_stOk (t : Ticket) (ref : Dbl) : bareRec t stOk ref = { status := stOk, recs := [okRec t ref []] } := bareRec_eq t stOk ref

/-- While no fence is in force a DAYROLL whose turn has come judges its argument: it is refused, or it takes the fence. -/
theorem exec_dayroll (h : Turn s e c 0x0D k t [] []) (hf : s.eng.dayFence = none) : exec (.dayroll e c) s = .next (
    let st := begunState s e c k t [] []
    if dayBad st t.cmd then appendVerdict st e c k (bareRec t stSeqRule (cP0 t.cmd))
    else setCtx { st with eng := { st.eng with dayFence := some (e, c) } } e c { ctxOf st e c with phase := .dayroll }) := by
  obtain ⟨xs, hx⟩ := takeCmd_ctxs s e c k
  have hf' : (takeCmd s e c k).eng.dayFence = none := by rw [hx]; exact hf
  have he : exec (.dayroll e c) s = execDayroll e c s := rfl
  simp only [he, execDayroll, h.cmd, hf']
  rw [withLocks_turn h]

theorem dayBad_begunState (h : Turn s e c 0x0D k t [] []) : dayBad (begunState s e c k t [] []) t.cmd = dayBad s t.cmd := by
  rw [dayBad, (begun_begunState h).rest.1, dayBad]

/-- Where no key is asked for and no record fetched, the context and the ticket alone change. -/
theorem begunState_nil (s : State) (e c k : Nat) (t : Ticket) :
    (begunState s e c k t [] []).locks = s.locks ∧ (begunState s e c k t [] []).out = s.out := by
  obtain ⟨xs, hx⟩ := takeCmd_ctxs s e c k
  have hl : begunState s e c k t [] [] = setTicket (takeCmd s e c k) k { t with locked := true } := rfl
  rw [hl, setTicket_locks, setTicket_out, hx]
  exact ⟨rfl, rfl⟩

/-- A DAYROLL to a later day takes the fence and appends nothing. -/
theorem exec_dayroll_fence (h : Turn s e c 0x0D k t [] []) (hf : s.eng.dayFence = none) (hd : s.led.day.toNat < (wordAt t.cmd.desc 16).toNat) :
    ∃ s', exec (.dayroll e c) s = .next s' ∧ s'.eng.dayFence = some (e, c) ∧ (ctxOf s' e c).phase = .dayroll ∧ SameRest s s' ∧ s'.jn = s.jn ∧ s'.out = s.out ∧ s'.locks = s.locks := by
  have hgood : ¬ dayBad (begunState s e c k t [] []) t.cmd = true := by rw [dayBad_begunState h, dayBad, decide_eq_true_iff]; omega
  have hb := begun_begunState h
  obtain ⟨hlocks, hout⟩ := begunState_nil s e c k t
  refine ⟨_, (exec_dayroll h hf).trans (congrArg Host.Outcome.next (if_neg hgood)), rfl, ?_, hb.rest, hb.jn, hout, hlocks⟩
  exact congrArg Ctx.phase (ctxOf_setCtx_same _ e c (ctx_ne_of_phase Phase.noConfusion))

/-- A DAYROLL to a day that is not later is refused. -/
theorem exec_dayroll_refused (h : Turn s e c 0x0D k t [] []) (hf : s.eng.dayFence = none) (hd : (wordAt t.cmd.desc 16).toNat ≤ s.led.day.toNat)
    (hc : canAppend s [{ okRec t (cP0 t.cmd) [] with status := stSeqRule }] = true) :
    Refuses (.dayroll e c) s e c k [] stSeqRule 0 { okRec t (cP0 t.cmd) [] with status := stSeqRule } none := by
  have hbad : dayBad (begunState s e c k t [] []) t.cmd = true := by rw [dayBad_begunState h, dayBad, decide_eq_true_iff]; exact hd
  refine ⟨_, (exec_dayroll h hf).trans (congrArg Host.Outcome.next (if_pos hbad)), ?_⟩
  rw [bareRec_eq]
  exact (begun_begunState h).appends_appendVerdict h.runs hc

/-- Settles O7. The first two parts are the two outcomes of a DAYROLL's checks; in the third the fence has drained and the record is appended. -/
theorem dayrollTakesItsFence : Obligations.DayrollTakesItsFence := by
  refine ⟨fun _ _ _ _ _ => exec_dayroll_fence, fun _ _ _ _ _ => exec_dayroll_refused, ?_⟩
  intro s e c k t r hcmd hfence hdrained hrun hc
  have he : exec (.dayrollFenceDrained e c) s = .next (appendVerdict s e c k (bareRec t stOk (cP0 t.cmd))) := by
    have hx : exec (.dayrollFenceDrained e c) s = execDayrollFenceDrained e c s := rfl
    simp only [hx, execDayrollFenceDrained, hcmd, hfence, hdrained, and_self, if_true]
  refine ⟨_, he, ?_⟩
  rw [bareRec_stOk]
  exact appends_appendVerdict hrun hc

end Sys2Proof.Machine
end

section
/-! SUPPORT. Completions handed to a tray (R194, R217, R220): what they change, and what they leave as it was. -/
namespace Sys2Proof.Machine

/-- As `steady`, but for which tickets are held and how they stand. -/
def ordered (s : State) : State := { steady s with tk := { s.tk with held := [] } }

section
variable {s s' : State}

theorem ordered_of_steady (h : steady s' = steady s) : ordered s' = ordered s := by
  have ht := tk_of_steady h
  simp only [ordered, h, ht]

theorem settled_of_ordered (h : ordered s' = ordered s) : settled s' = settled s := congrArg (fun t : State => { t with tk := {} }) h
theorem nextOrder_of_ordered (h : ordered s' = ordered s) : s'.tk.nextOrder = s.tk.nextOrder := by
  have ht : (ordered s').tk.nextOrder = (ordered s).tk.nextOrder := by rw [h]
  exact ht
end

/-! Trays written and read back, whatever the table of trays holds. -/

section
variable (s : State) (f t : Nat)

theorem tray_ne_of_enable {x : Tray} (h : x.enable = true) : x ≠ {} := fun he => by cases h.symm.trans (congrArg Tray.enable he)

theorem trayOf_setTray_same {x : Tray} (h : x ≠ {}) : trayOf (setTray s f t x) f t = x := tgetD_tset_same s.host.trays (trayKey f t) h

theorem trayOf_congr {s' : State} (h : s'.host.trays = s.host.trays) : trayOf s' f t = trayOf s f t := by rw [trayOf, h, trayOf]

/-! The egg timer and the vector (R220, R221). -/

@[simp] theorem steady_raiseEntry (n : Nat) : steady (raiseEntry s f n) = steady s := by
  unfold raiseEntry; dsimp only; split <;> simp

@[simp] theorem steady_raiseVector : steady (raiseVector s f t) = steady s := by
  unfold raiseVector; dsimp only; split <;> simp

@[simp] theorem steady_eggCount : steady (eggCount s f t) = steady s := by
  unfold eggCount; dsimp only; split <;> simp

@[simp] theorem steady_dmaOut (a : Dbl) (b : Bytes) : steady (dmaOut s f a b) = steady s := rfl

/-- A raised entry goes out or waits with its Pending Bit: the trays stay, and what has gone out. -/
theorem raiseEntry_leaves (n : Nat) : (raiseEntry s f n).host.trays = s.host.trays ∧ (raiseEntry s f n).host.extUsed = s.host.extUsed ∧ s.out ⊆ (raiseEntry s f n).out := by
  unfold raiseEntry msixOut; dsimp only
  split
  · exact ⟨rfl, rfl, List.Subset.refl _⟩
  · split
    · exact ⟨rfl, rfl, List.Subset.refl _⟩
    · exact ⟨rfl, rfl, List.subset_append_left ..⟩

/-- An enabled tray with its egg timer written. -/
theorem trayOf_setEgg (h : (trayOf s f t).enable = true) (n t0 : Nat) :
    (trayOf (setTray s f t { trayOf s f t with eggC := n, eggT0 := t0 }) f t).waiting = (trayOf s f t).waiting ∧
    (trayOf (setTray s f t { trayOf s f t with eggC := n, eggT0 := t0 }) f t).enable = true := by
  have hx : { trayOf s f t with eggC := n, eggT0 := t0 } ≠ ({} : Tray) := tray_ne_of_enable h
  rw [trayOf_setTray_same s f t hx]
  exact ⟨rfl, h⟩

/-- The vector of an enabled tray raised: the tray stays but for its egg timer. -/
theorem raiseVector_leaves (h : (trayOf s f t).enable = true) :
    (trayOf (raiseVector s f t) f t).waiting = (trayOf s f t).waiting ∧ (raiseVector s f t).host.extUsed = s.host.extUsed ∧ s.out ⊆ (raiseVector s f t).out := by
  obtain ⟨hwait, -⟩ := trayOf_setEgg s f t h 0 0
  unfold raiseVector; dsimp only
  split
  · exact ⟨hwait, rfl, List.Subset.refl _⟩
  · obtain ⟨htrays, hext, hout⟩ := raiseEntry_leaves (setTray s f t { trayOf s f t with eggC := 0, eggT0 := 0 }) f t
    exact ⟨by rw [trayOf_congr _ f t htrays]; exact hwait, hext, hout⟩

/-- A completion counted leaves an enabled tray but for its egg timer. -/
theorem eggCount_leaves (h : (trayOf s f t).enable = true) :
    (trayOf (eggCount s f t) f t).waiting = (trayOf s f t).waiting ∧ (eggCount s f t).host.extUsed = s.host.extUsed ∧ s.out ⊆ (eggCount s f t).out := by
  obtain ⟨hwait, hen⟩ := trayOf_setEgg s f t h ((trayOf s f t).eggC + 1) (if (trayOf s f t).eggC = 0 then s.tb else (trayOf s f t).eggT0)
  unfold eggCount; dsimp only
  split
  · obtain ⟨hwait', hext, hout⟩ := raiseVector_leaves _ f t hen
    exact ⟨hwait'.trans hwait, hext, hout⟩
  · exact ⟨hwait, rfl, List.Subset.refl _⟩

/-! A completion written, and the completions that are ready. -/

@[simp] theorem steady_writeCompl (q : Word) (r : Compl) : steady (writeCompl s f t q r) = steady s := by
  unfold writeCompl; dsimp only; split <;> simp

@[simp] theorem ordered_issueTicket (k : Nat) : ordered (issueTicket s k) = ordered s := by unfold issueTicket; split <;> rfl

theorem ordered_flushFlights (n : Nat) : ordered (flushFlights n s f t) = ordered s := by
  induction n generalizing s with
  | zero => rfl
  | succ n ih =>
    have hw : ∀ x q r, ordered (writeCompl (setTray s f t x) f t q r) = ordered s := fun x q r => ordered_of_steady (steady_writeCompl ..)
    unfold flushFlights; dsimp only
    split
    · rfl
    · split
      · rfl
      · split
        · rfl
        · rw [ih]
          split
          · rw [ordered_issueTicket]
            split
            · exact hw ..
            · rfl
          · split
            · exact hw ..
            · rfl

@[simp] theorem ordered_flushTray : ordered (flushTray s f t) = ordered s := ordered_flushFlights ..

end

/-- The one completion of an enabled tray's order, ready and without a ticket, is written. -/
theorem flushTray_single {s : State} {f t : Nat} {fl : Flight} {r : Compl} (hf : (trayOf s f t).flight = [fl]) (hd : fl.done = some r) (ht : fl.ticket = none)
    (he : (trayOf s f t).enable = true) (hp : s.board.powerFail = false) :
    flushTray s f t = writeCompl (setTray s f t { trayOf s f t with flight := [] }) f t fl.seq r := by
  simp [flushTray, flushFlights, hf, hd, ht, he, hp]

/-- A completion without a response written to an enabled tray: its entry goes out; the commands that wait and the descriptors in the store stay. -/
theorem writeCompl_leaves {s : State} {f t : Nat} (q : Word) {r : Compl} (he : (trayOf s f t).enable = true) (hr : r.resp = []) :
    (trayOf (writeCompl s f t q r) f t).waiting = (trayOf s f t).waiting ∧ (writeCompl s f t q r).host.extUsed = s.host.extUsed ∧
    .dma f ((trayOf s f t).cqBase + BitVec.ofNat 64 (32 * (q.toNat % 2 ^ cqLog2 (trayOf s f t)))) (complBytes r q) ∈ (writeCompl s f t q r).out := by
  have hw : writeCompl s f t q r = eggCount (setTray (dmaOut s f ((trayOf s f t).cqBase + BitVec.ofNat 64 (32 * (q.toNat % 2 ^ cqLog2 (trayOf s f t)))) (complBytes r q)) f t
      { trayOf s f t with lastIssued := q }) f t := by
    simp only [writeCompl, hr, List.isEmpty_nil, if_true]
    rfl
  have hx := trayOf_setTray_same (dmaOut s f ((trayOf s f t).cqBase + BitVec.ofNat 64 (32 * (q.toNat % 2 ^ cqLog2 (trayOf s f t)))) (complBytes r q)) f t
    (x := { trayOf s f t with lastIssued := q }) (tray_ne_of_enable he)
  obtain ⟨hwait, hext, hout⟩ := eggCount_leaves _ f t (by rw [hx]; exact he)
  rw [hw]
  exact ⟨by rw [hwait, hx], hext, hout (by simp)⟩

end Sys2Proof.Machine
end

section
/-! SUPPORT. A frame whose wait ends (R363, R367): what it waited for, and its core's port slots. -/
namespace Sys2Proof.Machine

variable {s : State} {c f : Nat}

theorem frame_ne_of_state {x : Frame} (h : x.state ≠ .off) : x ≠ {} := fun he => h (congrArg Frame.state he)
theorem frame_ne_of_wait {x : Frame} (h : x.wait ≠ .idle) : x ≠ {} := fun he => h (congrArg Frame.wait he)

/-- A core's port slots and the wait of a frame are the same in two states. -/
def SameWait (c f : Nat) (s s' : State) : Prop := (frameOf s' c f).wait = (frameOf s c f).wait ∧ (coreOf s' c).slots = (coreOf s c).slots

theorem SameWait.trans {s1 s2 : State} (h1 : SameWait c f s s1) (h2 : SameWait c f s1 s2) : SameWait c f s s2 := ⟨h2.1.trans h1.1, h2.2.trans h1.2⟩

/-- A frame's state changes, to one that is not OFF. -/
theorem sameWait_setState (g : Nat) {st : FrameState} (h : st ≠ .off) : SameWait c f s (setFrame s c g { frameOf s c g with state := st }) := by
  have hx : { frameOf s c g with state := st } ≠ ({} : Frame) := frame_ne_of_state h
  refine ⟨?_, by rw [coreOf_setFrame_same s c g hx]⟩
  by_cases hg : f = g
  · subst hg; rw [frameOf_setFrame_same s c f hx]
  · rw [frameOf_setFrame_other s c hx hg]

/-- A core runs a frame. -/
theorem sameWait_setRunning (g : Nat) : SameWait c f s (setCore s c { coreOf s c with running := some g }) := by
  have hx : { coreOf s c with running := some g } ≠ ({} : Core) := fun he => by cases congrArg Core.running he
  unfold SameWait frameOf
  rw [coreOf_setCore_same s c hx]
  exact ⟨rfl, rfl⟩

theorem sameWait_pickAfter (g : Nat) : SameWait c f s (pickAfter s c g) := by
  unfold pickAfter; split
  · exact ⟨rfl, rfl⟩
  · exact (sameWait_setState _ FrameState.noConfusion).trans (sameWait_setRunning _)

theorem sameWait_makeReady (g : Nat) : SameWait c f s (makeReady s c g) := by
  have h1 : SameWait c f s (setFrame s c g { frameOf s c g with state := .ready }) := sameWait_setState g FrameState.noConfusion
  unfold makeReady; dsimp only
  split
  · exact h1
  · exact h1.trans (sameWait_pickAfter _)

/-- The frame's wait becomes what ends it, and its core's port slots stay. -/
theorem endWait_leaves {w : Wait} (hw : w ≠ .idle) : (frameOf (endWait s c f w) c f).wait = w ∧ (coreOf (endWait s c f w) c).slots = (coreOf s c).slots := by
  have hx : { frameOf s c f with wait := w } ≠ ({} : Frame) := frame_ne_of_wait hw
  have h1 : (frameOf (setFrame s c f { frameOf s c f with wait := w }) c f).wait = w ∧
      (coreOf (setFrame s c f { frameOf s c f with wait := w }) c).slots = (coreOf s c).slots := by
    rw [frameOf_setFrame_same s c f hx, coreOf_setFrame_same s c f hx]; exact ⟨rfl, rfl⟩
  have hlater : ∀ s', SameWait c f (setFrame s c f { frameOf s c f with wait := w }) s' → (frameOf s' c f).wait = w ∧ (coreOf s' c).slots = (coreOf s c).slots :=
    fun s' h => ⟨h.1.trans h1.1, h.2.trans h1.2⟩
  unfold endWait; dsimp only
  split
  · exact hlater _ (sameWait_makeReady f)
  · refine hlater _ (sameWait_setState f ?_)
    split <;> exact FrameState.noConfusion
  · exact h1

/-- A port slot written: it reads back, and the core's frames stay. -/
theorem setSlotOf_leaves (n : Nat) (x : PortSlot) : slotOf (setSlotOf s c n x) c n = some x ∧ frameOf (setSlotOf s c n x) c f = frameOf s c f := by
  have hs : tget (tput (coreOf s c).slots n x) n = some x := tget_tput_same ..
  have hk : { coreOf s c with slots := tput (coreOf s c).slots n x } ≠ ({} : Core) := fun he => by
    have hslots : tput (coreOf s c).slots n x = [] := congrArg Core.slots he
    rw [hslots] at hs; cases hs
  have hx : coreOf (setSlotOf s c n x) c = { coreOf s c with slots := tput (coreOf s c).slots n x } := coreOf_setCore_same s c hk
  unfold slotOf frameOf
  rw [hx]
  exact ⟨hs, rfl⟩

end Sys2Proof.Machine
end

section
/-! SUPPORT. Tickets: grants, refusals, dispatch and returns (R48, R105, R107, R167, R213 to R215, R317). -/
namespace Sys2Proof.Machine

/-! A grant to a tray's waiting command. -/

section
variable {s : State} {f t tk : Nat} {w : Waiting}

/-- The ticket that a tray's waiting command is given. -/
def grantedTicket (s : State) (f t : Nat) (w : Waiting) : Ticket := { origin := .tray f t, cmd := w.cmd, order := s.tk.nextOrder, reserved := reservation w.cmd }

/-- The tray once its waiting command has its ticket. -/
def grantedTray (x : Tray) (w : Waiting) (tk : Nat) : Tray :=
  { x with waiting := none, flight := x.flight.map fun (y : Flight) => if y.seq = w.seq ∧ y.ticket.isNone ∧ y.done.isNone then { y with ticket := some tk } else y }

/-- A waiting command whose tests pass has its ticket. -/
def grantedState (s : State) (f t tk : Nat) (w : Waiting) : State :=
  setTray (newTicket s tk (.tray f t) w.cmd (reservation w.cmd)) f t (grantedTray (trayOf s f t) w tk)

/-- What lets a tray's waiting command have a ticket: the tray takes part, grants run, the ticket is free and the tests pass. -/
structure Grantable (s : State) (f t tk : Nat) (w : Waiting) : Prop where
  waiting : (trayOf s f t).waiting = some w
  quar : (trayOf s f t).quar = false
  runs : grantsOpen s = true
  free : ticketFree s tk = true
  tests : grantCode s f t w.cmd = none

theorem grantTray_grants (h : Grantable s f t tk w) : grantTray s f t tk = grantedState s f t tk w := by
  have hc : ¬ ((trayOf s f t).quar || !grantsOpen s || !ticketFree s tk) = true := by simp [h.quar, h.runs, h.free]
  unfold grantTray; dsimp only
  rw [h.waiting]; dsimp only
  rw [if_neg hc, h.tests]
  rfl

theorem ticketOf_grantedState : ticketOf (grantedState s f t tk w) tk = some (grantedTicket s f t w) := tget_tput_same ..

theorem exec_ticketGrant (h : Grantable s f t tk w) : exec (.ticketGrant (.tray f t) tk) s = .next (enqueueLadle (grantedState s f t tk w) tk) :=
  congrArg (fun g => Host.Outcome.next (enqueueLadle g tk)) (grantTray_grants h)

theorem exec_ladleClassCommand (h : Grantable s f t tk w) (hl : ladleOp (cOp w.cmd) = true) :
    exec (.ladleClassCommand f t tk) s = .next (enqueueLadle (grantedState s f t tk w) tk) := by
  have he : exec (.ladleClassCommand f t tk) s = execLadleClassCommand f t tk s := rfl
  simp only [he, execLadleClassCommand, h.waiting, hl, if_true, grantTray_grants h]

/-- A ticket that no task queue takes: its command is not of the ladle class, or a DAYROLL's fence is in force. -/
theorem enqueueLadle_stays (h : ladleOp (cOp w.cmd) = false ∨ s.eng.dayFence ≠ none) : enqueueLadle (grantedState s f t tk w) tk = grantedState s f t tk w := by
  have hn : ¬ ((grantedTicket s f t w).state = .transit ∧ ladleOp (cOp (grantedTicket s f t w).cmd) = true ∧ (grantedState s f t tk w).eng.dayFence.isNone = true) := by
    rintro ⟨-, hl, hd⟩
    rcases h with h | h
    · exact Bool.false_ne_true (h.symm.trans hl)
    · exact h (Option.isNone_iff_eq_none.mp hd)
  simp only [enqueueLadle, ticketOf_grantedState]
  rw [if_neg hn]

/-- A ladle-class command with its ticket enters its queue while no fence is in force. -/
theorem enqueueLadle_enters (h : ladleOp (cOp w.cmd) = true) (hd : s.eng.dayFence = none) :
    let s' := enqueueLadle (grantedState s f t tk w) tk
    ticketOf s' tk = some { grantedTicket s f t w with state := .held } ∧ s'.tk.nextOrder = s.tk.nextOrder + 1 ∧
    queueOf s' (cOp w.cmd % 16) = queueOf s (cOp w.cmd % 16) ++ [{ ticket := tk, granted := s.tb }] ∧ s'.led = s.led := by
  have hc : (grantedTicket s f t w).state = .transit ∧ ladleOp (cOp (grantedTicket s f t w).cmd) = true ∧ (grantedState s f t tk w).eng.dayFence.isNone = true :=
    ⟨rfl, h, Option.isNone_iff_eq_none.mpr hd⟩
  simp only [enqueueLadle, ticketOf_grantedState]
  rw [if_pos hc]
  refine ⟨tget_tput_same .., rfl, ?_, rfl⟩
  exact tgetD_tset_same s.cores.queues (cOp w.cmd % 16) (List.append_ne_nil_of_right_ne_nil _ (List.cons_ne_nil _ _))

end

/-! A grant to a port posting. -/

section
variable {s : State} {core frame n tk : Nat} {x : PortSlot} {w : Word}

/-- The state in which a port posting has its ticket, before its PPOST goes on. -/
def postedState (s : State) (core frame n tk : Nat) (x : PortSlot) : State :=
  setSlotOf (newTicket s tk (.port core frame n) x.cmd (reservation x.cmd)) core n { x with state := .posted, ticket := some tk }

theorem exec_ticketGrant_port (hx : slotOf s core n = some x) (hw : x.state = .waiting) (hf : x.frame = frame) (hg : grantsOpen s = true) (ht : ticketFree s tk = true)
    (hr : s.tk.fxReserve < tkFree s) (hs : spaceOk s (reservation x.cmd) = true) (hwait : (frameOf s core frame).wait = .grant w n) :
    exec (.ticketGrant (.port core frame n) tk) s = .next (endWait (postedState s core frame n tk x) core frame (.filled (le 4 x.handle.toNat) true)) := by
  have he : exec (.ticketGrant (.port core frame n) tk) s = .next (portGrant s core frame n tk) := rfl
  have hc : ¬ (x.state ≠ .waiting ∨ x.frame ≠ frame ∨ ¬ grantsOpen s = true ∨ ¬ ticketFree s tk = true ∨ tkFree s ≤ s.tk.fxReserve ∨ ¬ spaceOk s (reservation x.cmd) = true) := by
    simp [hw, hf, hg, ht, hr, hs]
  have hwait' : (frameOf (postedState s core frame n tk x) core frame).wait = .grant w n := by
    rw [postedState, (setSlotOf_leaves ..).2]; exact hwait
  rw [he, portGrant, hx]; dsimp only
  rw [postedState] at hwait'
  rw [if_neg hc, hwait']
  exact congrArg Host.Outcome.next (if_pos rfl)

/-- A port posting that is granted its ticket: its slot, its ticket and the frame that posted it. -/
theorem exec_ticketGrant_port_leaves (hx : slotOf s core n = some x) (hw : x.state = .waiting) (hf : x.frame = frame) (hg : grantsOpen s = true) (ht : ticketFree s tk = true)
    (hr : s.tk.fxReserve < tkFree s) (hs : spaceOk s (reservation x.cmd) = true) (hwait : (frameOf s core frame).wait = .grant w n) :
    ∃ s', exec (.ticketGrant (.port core frame n) tk) s = .next s' ∧ slotOf s' core n = some { x with state := .posted, ticket := some tk } ∧
      ticketOf s' tk = some { origin := .port core frame n, cmd := x.cmd, order := s.tk.nextOrder, reserved := reservation x.cmd } ∧
      (frameOf s' core frame).wait = .filled (le 4 x.handle.toNat) true ∧ s'.led = s.led := by
  have hsteady := steady_endWait (postedState s core frame n tk x) core frame (.filled (le 4 x.handle.toNat) true)
  obtain ⟨hwait', hslots⟩ := endWait_leaves (s := postedState s core frame n tk x) (c := core) (f := frame) (w := .filled (le 4 x.handle.toNat) true) Wait.noConfusion
  refine ⟨_, exec_ticketGrant_port hx hw hf hg ht hr hs hwait, ?_, ?_, hwait', (led_of_settled (settled_of_steady hsteady)).trans rfl⟩
  · rw [slotOf, hslots]; exact (setSlotOf_leaves (f := frame) ..).1
  · rw [ticketOf, tk_of_steady hsteady]; exact tget_tput_same ..

end

end Sys2Proof.Machine
end

section
/-! SUPPORT. Refusals at WAIT_LIMIT, dispatch and returns (R107, R167, R215). -/
namespace Sys2Proof.Machine

/-! WAIT_LIMIT (R215, R231). -/

section
variable {s : State} {f t since : Nat} {w : Waiting} {code : Byte}

theorem returnDue_none (h : dueTickets s = []) : returnDue s = s := by
  rw [returnDue, h]; rfl

/-- With no return due, a command that has waited long enough is refused. -/
theorem exec_waitLimitExpiry (hw : (trayOf s f t).waiting = some w) (hc : w.code = some code) (hs : w.since = some since) (hg : grantsOpen s = true)
    (hl : waitLimit (trayOf s f t) ≤ w.spent + (s.tb - since)) (hd : dueTickets s = []) : exec (.waitLimitExpiry f t) s = .next (refuseWaiting s f t w code) := by
  have he : exec (.waitLimitExpiry f t) s = execWaitLimitExpiry f t s := rfl
  simp only [he, execWaitLimitExpiry, returnDue_none hd, hw, hc, hs, hg, hl, and_self, if_true]

/-- Where the returns that are due let the tests pass, the command waits on for its grant. -/
theorem exec_waitLimitExpiry_returns {w1 : Waiting} (hw : (trayOf s f t).waiting = some w) (hc : w.code ≠ none) (hw1 : (trayOf (returnDue s) f t).waiting = some w1)
    (hc1 : w1.code = none) : exec (.waitLimitExpiry f t) s = .next (returnDue s) := by
  have he : exec (.waitLimitExpiry f t) s = execWaitLimitExpiry f t s := rfl
  have hany : (trayOf s f t).waiting.any (·.code.isSome) = true := by
    rw [hw]; exact Option.isSome_iff_ne_none.mpr hc
  simp only [he, execWaitLimitExpiry, hw1, hc1, hany, if_true]

theorem ordered_refuseWaiting (s : State) (f t : Nat) (w : Waiting) (code : Byte) : ordered (refuseWaiting s f t w code) = ordered s := ordered_flushTray ..

/-- The state of a refusal of the one command in its tray's order, before its completion is flushed. -/
def refusedState (s : State) (f t : Nat) (w : Waiting) (code : Byte) : State :=
  setTray (extFree s w.cmd) f t { trayOf s f t with waiting := none, flight := [{ seq := w.seq, done := some (plainCompl code (cHostTag w.cmd) w.cmd.pushed) }] }

theorem refuseWaiting_eq (hf : (trayOf s f t).flight = [{ seq := w.seq }]) : refuseWaiting s f t w code = flushTray (refusedState s f t w code) f t := by
  simp only [refuseWaiting, hf, List.map_cons, List.map_nil, Option.isNone_none, and_self, if_true]
  rfl

/-- The refusal of the one command in an enabled tray's order: its completion goes out, and its extension descriptors leave the store. -/
theorem refuseWaiting_sole (he : (trayOf s f t).enable = true) (hf : (trayOf s f t).flight = [{ seq := w.seq }]) (hg : grantsOpen s = true) :
    let s' := refuseWaiting s f t w code
    (trayOf s' f t).waiting = none ∧ s'.tk = s.tk ∧ s'.host.extUsed = s.host.extUsed - w.cmd.ext.length / 128 ∧
    .dma f ((trayOf s f t).cqBase + BitVec.ofNat 64 (32 * (w.seq.toNat % 2 ^ cqLog2 (trayOf s f t)))) (complBytes (plainCompl code (cHostTag w.cmd) w.cmd.pushed) w.seq) ∈ s'.out := by
  have hp : s.board.powerFail = false := by
    rw [grantsOpen, Bool.and_eq_true, Bool.not_eq_true'] at hg; exact hg.2
  have hx : trayOf (refusedState s f t w code) f t =
      { trayOf s f t with waiting := none, flight := [{ seq := w.seq, done := some (plainCompl code (cHostTag w.cmd) w.cmd.pushed) }] } :=
    trayOf_setTray_same _ f t (tray_ne_of_enable he)
  have hw := flushTray_single (s := refusedState s f t w code) (f := f) (t := t) (fl := { seq := w.seq, done := some (plainCompl code (cHostTag w.cmd) w.cmd.pushed) })
    (by rw [hx]) rfl rfl (by rw [hx]; exact he) hp
  rw [hx] at hw
  have hy := trayOf_setTray_same (refusedState s f t w code) f t
    (x := { trayOf s f t with waiting := none, flight := [] }) (tray_ne_of_enable he)
  obtain ⟨hwait, hext, hout⟩ := writeCompl_leaves (s := setTray (refusedState s f t w code) f t { trayOf s f t with waiting := none, flight := [] }) (f := f) (t := t) w.seq
    (r := plainCompl code (cHostTag w.cmd) w.cmd.pushed) (by rw [hy]; exact he) rfl
  rw [hy] at hwait hout
  dsimp only
  rw [refuseWaiting_eq hf, hw]
  exact ⟨hwait, tk_of_steady (steady_writeCompl ..), hext, hout⟩

end

/-! Dispatch (R167). -/

section
variable {s : State} {tk c e : Nat} {t : Ticket}

/-- Locks lent to a posting change the locks alone. -/
theorem lendLocks_eq (s : State) (tk : Nat) : ∃ l, lendLocks s tk = { s with locks := l } := by
  have hfold : ∀ (ids : List Nat) (x : PortSlot) (c : Nat), ∃ l, ids.foldl (fun st k => match tget st.locks k with
      | some l => if l.owner = frameOwner c x.frame ∧ l.epoch = x.epoch then { st with locks := tput st.locks k { l with lent := some (lendMark tk) } } else st
      | none => st) s = { s with locks := l } := fun ids x c =>
    List.foldlRecOn (motive := fun st => ∃ l, st = { s with locks := l }) ids _ ⟨_, rfl⟩ fun st ⟨l, hl⟩ k _ => by
      split
      · split
        · exact ⟨_, by rw [hl]⟩
        · exact ⟨l, hl⟩
      · exact ⟨l, hl⟩
  unfold lendLocks
  split
  · split
    · split
      · split
        · exact hfold ..
        · exact ⟨_, rfl⟩
      · exact ⟨_, rfl⟩
    · exact ⟨_, rfl⟩
  · exact ⟨_, rfl⟩

/-- The context that a ticket's command is dispatched to, at the epoch it had. -/
def dispatchedCtx (tk : Nat) (t : Ticket) (epoch : Half) : Ctx :=
  { epoch := epoch, state := .ready, ticket := some tk, ext := t.cmd.ext,
    store := ((List.range 128).zip (fit 128 t.cmd.desc)).foldl (fun (a : Tbl Byte) p => tset a (128 + p.1) 0 p.2) [],
    ports := tset (tset [] 0x7E 0 (BitVec.ofNat 64 (originBits t))) 0x7F 0 (BitVec.ofNat 64 tk), groups := tset [] 7 0 (originBits t) }

theorem dispatchTo_eq (ht : ticketOf s tk = some t) : dispatchTo s tk e c = trace (setTicket (setCtx s e c (dispatchedCtx tk t (ctxOf s e c).epoch)) tk
    { t with state := .held, engine := e }) e c trDispatch (cOp t.cmd) (t.cmd.trayNo.getD 0x8000 + 65536 * t.cmd.traySeq.toNat) := by
  rw [dispatchTo, ht]
  rfl

/-- What a dispatch asks: a ticket in transit of a command of the engines, no fence, and a FREE context of its class in the engine whose turn it is. -/
structure Dispatchable (s : State) (tk c e : Nat) (t : Ticket) : Prop where
  ticket : ticketOf s tk = some t
  transit : t.state = .transit
  own : isPeer t.origin = false
  engines : ladleOp (cOp t.cmd) = false
  turn : holdsBack s tk = false
  fence : s.eng.dayFence = none
  runs : hostRuns s = true
  inEngine : c < 256
  prio : isPrioCtx c = cPrio t.cmd
  engine : chooseEngine s (cPrio t.cmd) = some e
  free : (ctxOf s e c).state = .free

theorem exec_dispatch (h : Dispatchable s tk c e t) :
    exec (.dispatch tk c) s = .next (dispatchTo (lendLocks { s with eng := { s.eng with lastEngine := e } } tk) tk e c) := by
  have he : exec (.dispatch tk c) s = execDispatch tk c s := rfl
  have hc : ¬ (t.state ≠ .transit ∨ isPeer t.origin = true ∨ ladleOp (cOp t.cmd) = true ∨ holdsBack s tk = true ∨ s.eng.dayFence.isSome = true ∨ ¬ hostRuns s = true ∨ 256 ≤ c ∨
      isPrioCtx c ≠ cPrio t.cmd) := by
    have hin := h.inEngine
    simp [h.transit, h.own, h.engines, h.turn, h.fence, h.runs, h.prio, hin]
  rw [he, execDispatch, h.ticket]; dsimp only
  rw [if_neg hc, h.engine]; dsimp only
  rw [if_pos h.free]

theorem dispatchTo_leaves (ht : ticketOf s tk = some t) (e c : Nat) :
    ctxOf (dispatchTo s tk e c) e c = dispatchedCtx tk t (ctxOf s e c).epoch ∧ ticketOf (dispatchTo s tk e c) tk = some { t with state := .held, engine := e } ∧
    (dispatchTo s tk e c).eng.lastEngine = s.eng.lastEngine ∧ SameRest s (dispatchTo s tk e c) := by
  rw [dispatchTo_eq ht]
  refine ⟨?_, ?_, trace_lastEngine .., sameRest_trace ..⟩
  · rw [ctxOf_trace]
    exact ctxOf_setCtx_same _ e c (ctx_ne_of_state CtxState.noConfusion)
  · rw [ticketOf, trace_tk]
    exact tget_tput_same ..

/-- A dispatched command: its context, its ticket, the ports and the group that name them. -/
theorem exec_dispatch_leaves (h : Dispatchable s tk c e t) :
    ∃ s', exec (.dispatch tk c) s = .next s' ∧ ctxOf s' e c = dispatchedCtx tk t (ctxOf s e c).epoch ∧ ticketOf s' tk = some { t with state := .held, engine := e } ∧
      s'.eng.lastEngine = e ∧ SameRest s s' := by
  obtain ⟨l, hl⟩ := lendLocks_eq { s with eng := { s.eng with lastEngine := e } } tk
  have ht : ticketOf (lendLocks { s with eng := { s.eng with lastEngine := e } } tk) tk = some t := by rw [hl]; exact h.ticket
  obtain ⟨hctx, htick, hlast, hrest⟩ := dispatchTo_leaves ht e c
  rw [hl] at hctx hlast hrest
  exact ⟨_, exec_dispatch h, by rw [hl]; exact hctx, htick, by rw [hl]; exact hlast, by rw [hl]; exact hrest⟩

theorem dispatchedCtx_origin (tk : Nat) (t : Ticket) (epoch : Half) :
    tgetD (dispatchedCtx tk t epoch).ports 0x7E 0 = BitVec.ofNat 64 (originBits t) ∧ tgetD (dispatchedCtx tk t epoch).ports 0x7F 0 = BitVec.ofNat 64 tk ∧
    tgetD (dispatchedCtx tk t epoch).groups 7 0 = originBits t := by
  have hp : twf (tset ([] : Tbl Dbl) 0x7E 0 (BitVec.ofNat 64 (originBits t))) = true := twf_tset [] _ _ _ rfl
  refine ⟨?_, ?_, ?_⟩
  · rw [dispatchedCtx, tgetD_tset _ _ _ _ _ hp, if_neg (by decide), tgetD_tset _ _ _ _ _ rfl, if_pos rfl]
  · rw [dispatchedCtx, tgetD_tset _ _ _ _ _ hp, if_pos rfl]
  · rw [dispatchedCtx, tgetD_tset _ _ _ _ _ rfl, if_pos rfl]

end

/-! Returns (R107). -/

section
variable {s : State} {tk : Nat} {t : Ticket}

theorem steady_flrIdle (s : State) (f t : Nat) : steady (flrIdle s f t) = steady s := by unfold flrIdle; split <;> rfl

theorem steady_endTicket (s : State) (tk : Nat) : steady (endTicket s tk) = steady (dropTicket s tk) := by
  unfold endTicket; split
  · exact steady_flrIdle ..
  · rfl

theorem exec_ticketReturn (h : ticketOf s tk = some t) (hi : t.state = .issued) : exec (.ticketReturn tk) s = .next (retestAll (endTicket s tk)) := by
  have he : exec (.ticketReturn tk) s = execTicketReturn tk s := rfl
  simp only [he, execTicketReturn, h, hi, if_true]

theorem exec_ticketReturn_leaves (h : ticketOf s tk = some t) (hi : t.state = .issued) :
    ∃ s', exec (.ticketReturn tk) s = .next s' ∧ s'.tk = { s.tk with held := tdel s.tk.held tk } ∧ s'.led = s.led ∧ s'.jn = s.jn := by
  have hs : steady (retestAll (endTicket s tk)) = steady (dropTicket s tk) := (steady_retestAll _).trans (steady_endTicket s tk)
  exact ⟨_, exec_ticketReturn h hi, tk_of_steady hs, (congrArg State.led hs :), (congrArg State.jn hs :)⟩

end

/-- Settles O20: the grants by `grantedState` and `postedState`, the refusal by what its completion leaves of the tray, the dispatch by the context it writes. -/
theorem ticketsAreGrantedDispatchedReturned : Obligations.TicketsAreGrantedDispatchedReturned := by
  refine ⟨?tray, ?port, ?refused, ?returned, ?dispatched, ?ended⟩
  case tray =>
    intro s f t tk w x tick hw hq hg ht hc
    have h : Grantable s f t tk w := ⟨hw, hq, hg, ht, hc⟩
    refine ⟨fun hl => ?_, fun hl hd => ?_, fun hl hd => ?_⟩
    · exact ⟨grantedState s f t tk w, (exec_ticketGrant h).trans (by rw [enqueueLadle_stays (.inl hl)]), rfl, rfl, rfl, rfl, rfl, rfl, rfl⟩
    · rw [exec_ladleClassCommand h hl, exec_ticketGrant h, enqueueLadle_stays (.inr hd)]
      exact ⟨_, rfl, rfl, ticketOf_grantedState, rfl, rfl⟩
    · exact ⟨_, exec_ladleClassCommand h hl, exec_ticketGrant h, enqueueLadle_enters hl hd⟩
  case port =>
    exact fun s core frame n tk x w => exec_ticketGrant_port_leaves
  case refused =>
    intro s f t since w code x hw hc hs hg hl hd
    exact ⟨_, exec_waitLimitExpiry hw hc hs hg hl hd, nextOrder_of_ordered (ordered_refuseWaiting ..), fun he hf => refuseWaiting_sole he hf hg⟩
  case returned =>
    exact fun s f t w w1 => exec_waitLimitExpiry_returns
  case dispatched =>
    intro s tk c e t ht htr hown heng hturn hfence hruns hin hprio hchoose hfree
    obtain ⟨s', hx, hctx, htick, hlast, hrest⟩ := exec_dispatch_leaves ⟨ht, htr, hown, heng, hturn, hfence, hruns, hin, hprio, hchoose, hfree⟩
    obtain ⟨hport, hticket, hgroup⟩ := dispatchedCtx_origin tk t (ctxOf s e c).epoch
    refine ⟨s', hx, ?_⟩
    rw [hctx]
    exact ⟨rfl, rfl, rfl, rfl, rfl, htick, hport, hticket, hgroup, hlast, hrest⟩
  case ended =>
    exact fun s tk t => exec_ticketReturn_leaves

end Sys2Proof.Machine
end

section
/-! SUPPORT. What the end of a command (R77 step 7, R79, R112) leaves of the books, the journal and the contexts. -/
namespace Sys2Proof.Machine

/-- The books, the journal but for its reservations, its waiters and the checkpoint in hand, and the contexts. -/
def recorded (s : State) : State := { led := s.led, jn := { s.jn with committed := 0, waiters := [], ckpt := none }, eng := { ctxs := s.eng.ctxs } }

section
variable {s s' : State}

theorem recorded_congr (hl : s'.led = s.led) (hj : s'.jn = s.jn) (hc : s'.eng.ctxs = s.eng.ctxs) : recorded s' = recorded s := by
  rw [recorded, hl, hj, hc, recorded]

theorem recorded_of_settled (h : settled s' = settled s) : recorded s' = recorded s := (congrArg recorded h :)
theorem recorded_of_fabricOnly (h : FabricOnly s s') : recorded s' = recorded s := by rw [h]; rfl

theorem ctxOf_of_recorded (h : recorded s' = recorded s) (e c : Nat) : ctxOf s' e c = ctxOf s e c := (congrArg (ctxOf · e c) h :)

theorem recorded_setCtx (h : recorded s' = recorded s) (e c : Nat) (x : Ctx) : recorded (setCtx s' e c x) = setCtx (recorded s) e c x := congrArg (setCtx · e c x) h
end

variable (s : State) (e c k : Nat)

theorem recorded_trace (typ word data : Nat) (g : Bool) : recorded (trace s e c typ word data g) = recorded s :=
  recorded_congr (trace_led ..) (trace_jn ..) (trace_ctxs ..)

theorem recorded_logFault (kind code : Byte) (u d a b : Nat) : recorded (logFault s kind code u d a b) = recorded s := by
  obtain ⟨stored, last, h⟩ := steady_logFault s kind code u d a b
  exact recorded_of_settled (s := withRecord s stored last) (settled_of_steady h)

/-! Locks released. -/

theorem recorded_traceLock (typ : Nat) (o : Owner) (ep : Half) : recorded (traceLock s typ o ep k) = recorded s := by
  unfold traceLock; split
  · exact recorded_trace ..
  · rfl

theorem recorded_releaseLock (o : Owner) (ep : Half) : recorded (releaseLock s o ep k) = recorded s := by
  unfold releaseLock; dsimp only
  split
  · rfl
  · split
    · split <;> exact recorded_traceLock ..
    · rfl

theorem recorded_releaseOwner (o : Owner) (ep : Half) : recorded (releaseOwner s o ep) = recorded s :=
  List.foldlRecOn (motive := fun t => recorded t = recorded s) _ _ rfl fun t ht k _ => (recorded_releaseLock t k o ep).trans ht

theorem recorded_releaseDead (o : Owner) (cur : Half) : recorded (releaseDead s o cur) = recorded s :=
  List.foldlRecOn (motive := fun t => recorded t = recorded s) _ _ rfl fun t ht k _ => by
    split
    · exact (recorded_releaseLock ..).trans ht
    · exact ht

/-! The completion and the ticket. -/

theorem recorded_unreserve : recorded (unreserve s k) = recorded s := by
  obtain ⟨n, held, h⟩ := unreserve_tk_jn s k
  rw [h]; rfl

theorem recorded_complete (r : Compl) : recorded (complete s k r) = recorded s := by
  have ho : ∀ s', ordered s' = ordered s → recorded s' = recorded s := fun _ h => recorded_of_settled (settled_of_ordered h)
  unfold complete; dsimp only
  split
  · rfl
  · split
    · split
      · exact ho _ (ordered_flushTray ..)
      · exact ho _ (ordered_issueTicket ..)
    · rfl
    · exact ho _ (ordered_issueTicket ..)

theorem recorded_returnTicket (k : Option Nat) : recorded (returnTicket s k) = recorded s := by
  cases k with
  | none => rfl
  | some n => exact (recorded_of_settled (settled_of_steady (steady_retestAll _))).trans (recorded_unreserve s n)

/-! The context freed. -/

theorem recorded_enqueueLadle : recorded (enqueueLadle s k) = recorded s := by
  unfold enqueueLadle; split
  · split <;> rfl
  · rfl

theorem recorded_enqueueHeld : recorded (enqueueHeld s) = recorded s :=
  List.foldlRecOn (motive := fun t => recorded t = recorded s) _ _ rfl fun t ht k _ => (recorded_enqueueLadle t k).trans ht

theorem recorded_endFence : recorded (endFence s e c) = recorded s := by
  unfold endFence; split
  · exact (recorded_enqueueHeld _).trans rfl
  · rfl

variable {s}

theorem recorded_freeCtx {s' : State} (h : recorded s' = recorded s) : recorded (freeCtx s' e c) = setCtx (recorded s) e c { epoch := (ctxOf s e c).epoch } := by
  rw [freeCtx, recorded_endFence, ctxOf_of_recorded h]
  exact recorded_setCtx h e c _

variable (s)

/-- A command's end frees its context (R77 step 7). -/
theorem recorded_finishCtx : recorded (finishCtx s e c) = setCtx (recorded s) e c { epoch := (ctxOf s e c).epoch } := by
  have hr := recorded_releaseOwner s (ctxOwner e c) (ctxOf s e c).epoch
  unfold finishCtx; dsimp only
  split
  · exact recorded_freeCtx e c hr
  · exact recorded_freeCtx e c ((recorded_complete ..).trans ((recorded_unreserve ..).trans ((recorded_trace ..).trans hr)))

variable {s e c k}

/-- A command that keeps its ticket ends as well with its context written before. -/
theorem recorded_finishCtx_setCtx {x : Ctx} (ht : x.ticket = some k) (he : x.epoch = (ctxOf s e c).epoch) :
    recorded (finishCtx (setCtx s e c x) e c) = setCtx (recorded s) e c { epoch := (ctxOf s e c).epoch } := by
  have hx : x ≠ {} := ctx_ne_of_ticket ht
  rw [recorded_finishCtx, ctxOf_setCtx_same s e c hx, he]
  exact setCtx_setCtx (recorded s) e c _ hx

/-- A command that the journal fails frees its context (R112). -/
theorem recorded_failCtx (ht : (ctxOf s e c).ticket = some k) : recorded (failCtx s e c) = setCtx (recorded s) e c { epoch := (ctxOf s e c).epoch } :=
  recorded_finishCtx_setCtx (x := { ctxOf s e c with compl := _ }) ht rfl

/-! Keys (R259 to R261). -/

section
variable (s : State) (t : Nat)

theorem recorded_retireAfter (flipped : Bool) : recorded (retireAfter s t flipped) = recorded s := by
  unfold retireAfter; dsimp only
  split
  · rfl
  · split <;> rfl

theorem recorded_keyAbandon : recorded (keyAbandon s t) = recorded s := by
  unfold keyAbandon; dsimp only
  split
  · rfl
  · exact recorded_retireAfter ..

theorem recorded_keyFlip (cmd : Cmd) : recorded (keyFlip s cmd) = recorded s := by
  unfold keyFlip; dsimp only
  split
  · rfl
  · split
    · exact recorded_retireAfter ..
    · exact (recorded_retireAfter ..).trans (recorded_logFault ..)

end

end Sys2Proof.Machine
end

section
/-! SUPPORT. A record that becomes durable (R57, R111) and what the write of its number leaves. -/
namespace Sys2Proof.Machine

/-- The books, the frontier, a stop and the contexts: what appending leaves. -/
def lasting (s : State) : State :=
  { led := s.led, jn := { durable := s.jn.durable, stopped := s.jn.stopped, stopAt := s.jn.stopAt }, eng := { ctxs := s.eng.ctxs } }

theorem lasting_of_recorded {s s' : State} (h : recorded s' = recorded s) : lasting s' = lasting s := (congrArg lasting h :)

/-! Decisions that are due (R110, R534). -/

section
variable (s : State)

theorem lasting_placeRec (r : Rec) (w : Waiter) : lasting (placeRec s r w) = lasting s := by
  unfold placeRec; dsimp only
  cases openBlock s.jn with
  | none => rfl
  | some b => dsimp only; split <;> rfl

theorem lasting_placeRecs (rs : List Rec) (w : Waiter) : lasting (placeRecs s rs w) = lasting s :=
  List.foldlRecOn (motive := fun t => lasting t = lasting s) _ _ rfl fun t ht r _ => (lasting_placeRec t r w).trans ht

theorem lasting_appendRecs (rs : List Rec) (w : Waiter) : lasting (appendRecs s rs w) = lasting s :=
  (lasting_of_recorded (recorded_of_fabricOnly (fabricOnly_appendRecs rs w))).trans (lasting_placeRecs ..)

theorem lasting_unreserveOpt (k : Option Nat) : lasting (unreserveOpt s k) = lasting s := by
  cases k with
  | none => rfl
  | some n => exact lasting_of_recorded (recorded_unreserve s n)

theorem lasting_appendIf (s' : State) (h : lasting s' = lasting s) (rs : List Rec) (w : Waiter) : lasting (if canAppend s rs = true then appendRecs s' rs w else s) = lasting s := by
  split
  · exact (lasting_appendRecs ..).trans h
  · rfl

theorem lasting_setCoord (x : Nat) (v : Coord) : lasting (setCoord s x v) = lasting s := rfl

theorem lasting_coordAdvance (x : Nat) : lasting (coordAdvance s x) = lasting s := by
  unfold coordAdvance; dsimp only
  split
  · rfl
  · split
    · split
      · exact lasting_appendIf s _ (lasting_setCoord ..) _ _
      · rfl
    · exact lasting_appendIf s _ ((lasting_setCoord ..).trans (lasting_unreserveOpt ..)) _ _

theorem lasting_partAdvance (p : Nat) : lasting (partAdvance s p) = lasting s := by
  unfold partAdvance; dsimp only
  split
  · rfl
  · split
    · exact lasting_appendRecs ..
    · rfl

theorem lasting_advanceClass (prio : Bool) : lasting (advanceClass s prio) = lasting s := by
  have hc := List.foldlRecOn (motive := fun t => lasting t = lasting s) (s.fab.coords.filter fun e => e.2.rflags.getLsbD 0 == prio)
    (fun st e => coordAdvance st e.1) rfl fun t ht e _ => (lasting_coordAdvance t e.1).trans ht
  exact List.foldlRecOn (motive := fun t => lasting t = lasting s) _ _ hc fun t ht e _ => (lasting_partAdvance t e.1).trans ht

theorem lasting_advanceAll : lasting (advanceAll s) = lasting s := (lasting_advanceClass ..).trans (lasting_advanceClass ..)

theorem advanceAll_led : (advanceAll s).led = s.led := (congrArg State.led (lasting_advanceAll s) :)
theorem advanceAll_durable : (advanceAll s).jn.durable = s.jn.durable := (congrArg (fun x : State => x.jn.durable) (lasting_advanceAll s) :)
theorem advanceAll_ctxs : (advanceAll s).eng.ctxs = s.eng.ctxs := (congrArg (fun x : State => x.eng.ctxs) (lasting_advanceAll s) :)

/-! What comes before the apply. -/

theorem ckptVisit_eq : ∃ n q, ckptVisit s = { s with fresh := n, jn := { s.jn with ckpt := q } } := by
  unfold ckptVisit; split
  · exact ⟨_, _, rfl⟩
  · split <;> exact ⟨_, _, rfl⟩

theorem noteLast_eq (w : Waiter) (r : Rec) : ∃ h, noteLast s w r = { s with host := h } := by
  unfold noteLast; dsimp only
  repeat' split
  all_goals exact ⟨_, rfl⟩

end

/-- The state in which a record takes effect: the frontier has reached it and nothing waits for it any more. -/
def reached (s : State) (w : Waiter) (r : Rec) : State :=
  noteLast { ckptVisit s with jn := { (ckptVisit s).jn with durable := r.seq, waiters := tdel s.jn.waiters r.seq } } w r

variable {s : State} {e c k : Nat} {ep : Half} {r : Rec} {t : Ticket}

/-- What the books and a context's command see of a record's coming: the frontier alone. -/
theorem reached_leaves (s : State) (w : Waiter) (r : Rec) :
    recorded (reached s w r) = { recorded s with jn := { (recorded s).jn with durable := r.seq } } ∧ (reached s w r).fab = s.fab ∧ (reached s w r).store = s.store ∧
    (reached s w r).tk = s.tk := by
  obtain ⟨n, q, hv⟩ := ckptVisit_eq s
  unfold reached
  rw [hv]
  obtain ⟨h, hn⟩ := noteLast_eq { s with fresh := n, jn := { s.jn with ckpt := q, durable := r.seq, waiters := tdel s.jn.waiters r.seq } } w r
  dsimp only at hn ⊢
  rw [hn]
  exact ⟨rfl, rfl, rfl, rfl⟩

/-! The apply and the end of the command. -/

/-- The apply writes the books; it leaves the journal and the contexts. -/
theorem recorded_applyRec (s : State) (r : Rec) : recorded (applyRec s r) = { recorded s with led := recordEffect s.led r (prepFor s r) (cfgRevDays s) } := by
  have hn : recorded (noteDays s r) = recorded s := by
    unfold noteDays
    repeat' split
    all_goals rfl
  exact (congrArg (fun x : State => { x with led := recordEffect s.led r (prepFor s r) (cfgRevDays s) }) hn :)

theorem applyRec_tk (s : State) (r : Rec) : (applyRec s r).tk = s.tk := by
  have hn : (noteDays s r).tk = s.tk := by
    unfold noteDays
    repeat' split
    all_goals rfl
  exact hn

/-- A record that ends its command: no prepare, not the start of a checkpoint, not the first record of a POST2. -/
structure EndsCommand (r : Rec) : Prop where
  noPrepare : xdevPrepare r = false
  noPart : r.kind ≠ 0x30
  noCkpt : ¬ (r.kind = 0x13 ∧ r.status = 0)
  last : ¬ (r.kind = 0x06 ∧ ¬ r.rflags.getLsbD 5 = true)

theorem recorded_ctxDurable (hr : EndsCommand r) (hk : (ctxOf s e c).ticket = some k) (ht : ticketOf s k = some t) :
    recorded (ctxDurable s e c r) = setCtx (recorded s) e c { epoch := (ctxOf s e c).epoch } := by
  have hflip : recorded (if r.kind = 0x18 ∧ r.status = 0 then keyFlip s t.cmd else s) = recorded s := by
    split
    · exact recorded_keyFlip ..
    · rfl
  have hctx := ctxOf_of_recorded hflip e c
  simp only [ctxDurable, hk, ht, hr.noPrepare, hr.noPart, hr.noCkpt, hr.last, Bool.false_eq_true, if_false]
  rw [recorded_finishCtx_setCtx (k := k) rfl (by rw [hctx]), hflip, hctx]

/-- The state of a context's record once it has taken effect. -/
def applied (s : State) (e c : Nat) (ep : Half) (r : Rec) : State := applyRec (trace (reached s (.ctx e c ep) r) e c trDurable 0 r.seq) r

theorem prepFor_congr {s' : State} (h : s'.fab = s.fab) (r : Rec) : prepFor s' r = prepFor s r := by simp only [prepFor, h]

theorem applied_leaves (s : State) (e c : Nat) (ep : Half) (r : Rec) :
    recorded (applied s e c ep r) = { recorded s with led := recordEffect s.led r (prepFor s r) (cfgRevDays s), jn := { (recorded s).jn with durable := r.seq } } ∧
    (applied s e c ep r).tk = s.tk := by
  obtain ⟨hrec, hfab, hstore, htk⟩ := reached_leaves s (.ctx e c ep) r
  have hled : (reached s (.ctx e c ep) r).led = s.led := (congrArg State.led hrec :)
  constructor
  · rw [applied, recorded_applyRec, recorded_trace, hrec, trace_led, hled, prepFor_congr ((trace_fab ..).trans hfab), cfgRevDays, trace_store, hstore, cfgRevDays]
  · rw [applied, applyRec_tk, trace_tk, htk]

theorem recDurable_ctx (hw : tget s.jn.waiters r.seq = some (.ctx e c ep)) (hl : ctxLive s e c ep = true) :
    recDurable s r = ctxDurable (applied s e c ep r) e c r := by
  obtain ⟨hrec, -⟩ := reached_leaves s (.ctx e c ep) r
  have hctx : ctxOf (trace (reached s (.ctx e c ep) r) e c trDurable 0 r.seq) e c = ctxOf s e c := by
    rw [ctxOf_trace]; exact (congrArg (ctxOf · e c) hrec :)
  have hlive : ctxLive (trace (reached s (.ctx e c ep) r) e c trDurable 0 r.seq) e c ep = true := by rw [ctxLive, hctx]; exact hl
  rw [reached] at hlive
  simp only [recDurable, hw, Option.getD_some, hlive, if_true]
  rfl

/-- A record that ends the command of the context that waits for it: the frontier, the books, the context. -/
theorem recorded_recDurable (hw : tget s.jn.waiters r.seq = some (.ctx e c ep)) (hl : ctxLive s e c ep = true) (hr : EndsCommand r)
    (hk : (ctxOf s e c).ticket = some k) (ht : ticketOf s k = some t) :
    recorded (recDurable s r) = setCtx { recorded s with led := recordEffect s.led r (prepFor s r) (cfgRevDays s), jn := { (recorded s).jn with durable := r.seq } } e c
      { epoch := (ctxOf s e c).epoch } := by
  obtain ⟨hrec, htk⟩ := applied_leaves s e c ep r
  have hctx : ctxOf (applied s e c ep r) e c = ctxOf s e c := (congrArg (ctxOf · e c) hrec :)
  rw [recDurable_ctx hw hl, recorded_ctxDurable hr (by rw [hctx]; exact hk) (by rw [ticketOf, htk]; exact ht), hrec, hctx]

/-! The write of the number (R111). -/

/-- The state once the records up to the number written have taken effect, and the frontier is the number. -/
def frontierAt (s : State) (n : Nat) : State :=
  let s1 := (newlyDurable s.jn n).foldl recDurable { s with jn := { s.jn with blocks := frontierBlocks s.jn.blocks n } }
  { s1 with jn := { s1.jn with durable := n } }

theorem exec_journalDurable {n : Nat} (h : durableOk s n = true) : exec (.journalDurable n) s = .next (advanceAll (frontierAt s n)) := by
  have he : exec (.journalDurable n) s = execJournalDurable n s := rfl
  rw [he, execJournalDurable, if_pos h, frontierAt]

/-- The frontier is the number written. -/
theorem exec_journalDurable_frontier {n : Nat} (h : durableOk s n = true) : ∃ s', exec (.journalDurable n) s = .next s' ∧ s'.jn.durable = n :=
  ⟨_, exec_journalDurable h, advanceAll_durable _⟩

/-- One record more is durable, and it ends its command. -/
theorem exec_journalDurable_leaves {n : Nat} (h : durableOk s n = true) (hn : newlyDurable s.jn n = [r]) (hw : tget s.jn.waiters r.seq = some (.ctx e c ep))
    (hl : ctxLive s e c ep = true) (hr : EndsCommand r) (hk : (ctxOf s e c).ticket = some k) (ht : ticketOf s k = some t) :
    ∃ s', exec (.journalDurable n) s = .next s' ∧ s'.jn.durable = n ∧ s'.led = recordEffect s.led r (prepFor s r) (cfgRevDays s) ∧
      s'.eng.ctxs = tset s.eng.ctxs (ctxKey e c) {} { epoch := (ctxOf s e c).epoch } := by
  have hrec := recorded_recDurable (s := { s with jn := { s.jn with blocks := frontierBlocks s.jn.blocks n } }) hw hl hr hk ht
  have hled : (frontierAt s n).led = recordEffect s.led r (prepFor s r) (cfgRevDays s) := by rw [frontierAt, hn]; exact (congrArg State.led hrec :)
  have hctxs : (frontierAt s n).eng.ctxs = tset s.eng.ctxs (ctxKey e c) {} { epoch := (ctxOf s e c).epoch } := by
    rw [frontierAt, hn]; exact (congrArg (fun x : State => x.eng.ctxs) hrec :)
  exact ⟨_, exec_journalDurable h, advanceAll_durable _, (advanceAll_led _).trans hled, (advanceAll_ctxs _).trans hctxs⟩

end Sys2Proof.Machine
end

section
/-! SUPPORT. A record that is lost, and a failed write (R112, R447, R448, R534). -/
namespace Sys2Proof.Machine

/-! A VOID takes the record's place. -/

section
variable {s : State} {e c k seq : Nat} {ep : Half} {r : Rec}

theorem recorded_failCtx_of {s' : State} (h : recorded s' = recorded s) (hk : (ctxOf s e c).ticket = some k) :
    recorded (failCtx s' e c) = setCtx (recorded s) e c { epoch := (ctxOf s e c).epoch } := by
  have hctx := ctxOf_of_recorded h e c
  rw [recorded_failCtx (by rw [hctx]; exact hk), h, hctx]

/-- The loss of a record that is no prepare fails the command that waits for it (R112). -/
theorem recorded_ctxLost {stop : Bool} (hx : xdevPrepare r = false) (hp : r.kind ≠ 0x30) (hk : (ctxOf s e c).ticket = some k) :
    recorded (ctxLost s e c r stop) = setCtx (recorded s) e c { epoch := (ctxOf s e c).epoch } := by
  have hkey : ∀ o : Option Nat, recorded (match o with | some t => keyAbandon s t | none => s) = recorded s := fun o => by
    cases o with
    | none => rfl
    | some t => exact recorded_keyAbandon s t
  unfold ctxLost
  rw [if_neg hp, hx, if_neg Bool.false_ne_true]
  refine recorded_failCtx_of ?_ hk
  split <;> exact hkey _

theorem recorded_recLost (hw : tget s.jn.waiters r.seq = some (.ctx e c ep)) (hl : ctxLive s e c ep = true) (hx : xdevPrepare r = false) (hp : r.kind ≠ 0x30)
    (h6 : r.kind ≠ 0x06) (hk : (ctxOf s e c).ticket = some k) (stop : Bool) :
    recorded (recLost s r stop) = setCtx (recorded s) e c { epoch := (ctxOf s e c).epoch } := by
  have hlive : ctxLive { s with jn := { s.jn with waiters := tdel s.jn.waiters r.seq } } e c ep = true := hl
  have h : recLost s r stop = ctxLost { s with jn := { s.jn with waiters := tdel s.jn.waiters r.seq } } e c r stop := by
    simp only [recLost, hw, Option.getD_some, h6, false_and, if_false, hlive, if_true]
  rw [h]
  exact recorded_ctxLost (s := { s with jn := { s.jn with waiters := tdel s.jn.waiters r.seq } }) hx hp hk

/-- The state with a VOID over the one record whose write failed. -/
def withVoid (s : State) (r : Rec) : State :=
  { s with jn := { s.jn with blocks := voidBlocks s.jn.blocks [r], sealedSeq := if [r].any fun r => r.kind == 0xE0 then latestSeal (voidBlocks s.jn.blocks [r]) else s.jn.sealedSeq } }

/-- The VOID written, the fault logged and the VOID mirrored. -/
def voided (s : State) (r : Rec) (seq : Nat) : State := mirrorOut (logFault (withVoid s r) 0x08 1 0 0 seq 0) [voidOf r]

/-- What a failed write asks to have an effect: one record above the frontier, a controller that runs. -/
structure FailsWrite (s : State) (seq : Nat) (r : Rec) : Prop where
  only : failedRecs s.jn seq = [r]
  above : s.jn.durable < seq
  running : s.jn.stopped = false
  up : s.mgmt.state ≠ .down

theorem FailsWrite.acts (h : FailsWrite s seq r) : ¬ ([r].isEmpty = true ∨ seq ≤ s.jn.durable ∨ s.jn.stopped = true ∨ s.mgmt.state = .down) := by
  have ha := h.above
  simp [h.running, h.up]
  omega

theorem exec_journalWriteFail_void (h : FailsWrite s seq r) : exec (.journalWriteFail seq true) s = .next (recLost (voided s r seq) r false) := by
  have he : exec (.journalWriteFail seq true) s = execJournalWriteFail seq true s := rfl
  rw [he, execJournalWriteFail, h.only]; dsimp only
  rw [if_neg h.acts, if_pos rfl]
  rfl

theorem exec_journalWriteFail_stop (h : FailsWrite s seq r) : exec (.journalWriteFail seq false) s = .next (stopJournal s r.seq) := by
  have he : exec (.journalWriteFail seq false) s = execJournalWriteFail seq false s := rfl
  rw [he, execJournalWriteFail, h.only]; dsimp only
  rw [if_neg h.acts, if_neg Bool.false_ne_true]
  rfl

theorem FabricOnly.tk {s' : State} (h : FabricOnly s s') : s'.tk = s.tk := by rw [h]

theorem voided_leaves (s : State) (r : Rec) (seq : Nat) : (voided s r seq).jn = (withVoid s r).jn ∧ (voided s r seq).led = s.led ∧ (voided s r seq).eng = s.eng := by
  have hm : FabricOnly (logFault (withVoid s r) 0x08 1 0 0 seq 0) (voided s r seq) := fabricOnly_mirrorOut ..
  obtain ⟨stored, last, hl⟩ := steady_logFault (withVoid s r) 0x08 1 0 0 seq 0
  obtain ⟨hled, -⟩ := hm.sameRest
  exact ⟨hm.jn.trans (congrArg State.jn hl :), hled.trans (congrArg State.led hl :), hm.eng.trans (congrArg State.eng hl :)⟩

/-- A write that fails for a record whose VOID the store takes: the VOID stands in its place and its command has ended. -/
theorem exec_journalWriteFail_void_leaves (h : FailsWrite s seq r) (hw : tget s.jn.waiters r.seq = some (.ctx e c ep)) (hl : ctxLive s e c ep = true)
    (hk : (ctxOf s e c).ticket = some k) (hx : xdevPrepare r = false) (hp : r.kind ≠ 0x30) (h6 : r.kind ≠ 0x06) :
    ∃ s', exec (.journalWriteFail seq true) s = .next s' ∧ s'.jn.blocks = voidBlocks s.jn.blocks [r] ∧ s'.jn.durable = s.jn.durable ∧ s'.led = s.led ∧
      s'.eng.ctxs = tset s.eng.ctxs (ctxKey e c) {} { epoch := (ctxOf s e c).epoch } := by
  obtain ⟨hjn, hled, heng⟩ := voided_leaves s r seq
  have hctx : ctxOf (voided s r seq) e c = ctxOf s e c := ctxOf_congr (by rw [heng]) e c
  have hrec := recorded_recLost (s := voided s r seq) (by rw [hjn]; exact hw) (by rw [ctxLive, hctx]; exact hl) hx hp h6 (by rw [hctx]; exact hk) false
  rw [hctx] at hrec
  refine ⟨_, exec_journalWriteFail_void h, (congrArg (fun x : State => x.jn.blocks) hrec :).trans ?_, (congrArg (fun x : State => x.jn.durable) hrec :).trans ?_,
    (congrArg State.led hrec :).trans hled, (congrArg (fun x : State => x.eng.ctxs) hrec :).trans ?_⟩
  · exact (congrArg Journal.blocks hjn :)
  · exact (congrArg Journal.durable hjn :)
  · exact (congrArg (fun g : Engines => tset g.ctxs (ctxKey e c) {} { epoch := (ctxOf s e c).epoch }) heng :)

end

/-! The controller stops. -/

/-- The books and the stop: what the loss of every later record leaves. -/
def standing (s : State) : State := { led := s.led, jn := { stopped := s.jn.stopped, stopAt := s.jn.stopAt } }

section
variable {s s' : State}

theorem standing_of_lasting (h : lasting s' = lasting s) : standing s' = standing s := (congrArg standing h :)
theorem standing_of_recorded (h : recorded s' = recorded s) : standing s' = standing s := (congrArg standing h :)

variable (h : standing s' = standing s)
include h

theorem led_of_standing : s'.led = s.led := (congrArg State.led h :)
theorem stopped_of_standing : s'.jn.stopped = s.jn.stopped := (congrArg (fun x : State => x.jn.stopped) h :)
theorem stopAt_of_standing : s'.jn.stopAt = s.jn.stopAt := (congrArg (fun x : State => x.jn.stopAt) h :)
end

section
variable (s : State) (e c : Nat)

theorem standing_setCtx (x : Ctx) : standing (setCtx s e c x) = standing s := rfl

theorem standing_finishCtx : standing (finishCtx s e c) = standing s := (congrArg standing (recorded_finishCtx s e c) :)

theorem standing_failCtx : standing (failCtx s e c) = standing s := (standing_finishCtx ..).trans (standing_setCtx ..)

theorem standing_freeCtx : standing (freeCtx s e c) = standing s := (congrArg standing (recorded_freeCtx e c (rfl : recorded s = recorded s)) :)

theorem standing_coordAdvance (x : Nat) : standing (coordAdvance s x) = standing s := standing_of_lasting (lasting_coordAdvance s x)

theorem standing_partCtxEnd (v : PartEnt) : standing (partCtxEnd s v) = standing s := by
  unfold partCtxEnd; split
  · exact (standing_freeCtx ..).trans (standing_of_recorded (recorded_releaseOwner ..))
  · rfl

theorem standing_partRefused (p : Nat) (v : PartEnt) (code : Byte) (leg : Option Nat) : standing (partRefused s p v code leg) = standing s := by
  have hr : standing (tombstone (returnTicket (dropPart s p) v.ticket) p) = standing s := standing_of_recorded (recorded_returnTicket (dropPart s p) v.ticket)
  exact (standing_of_recorded (recorded_of_fabricOnly (fabricOnly_sendSeq ..))).trans hr

theorem standing_ctxLost (r : Rec) (stop : Bool) : standing (ctxLost s e c r stop) = standing s := by
  have hkey : ∀ o : Option Nat, standing (match o with | some t => keyAbandon s t | none => s) = standing s := fun o => by
    cases o with
    | none => rfl
    | some t => exact standing_of_recorded (recorded_keyAbandon s t)
  unfold ctxLost; dsimp only
  split
  · split
    · rfl
    · exact (standing_partRefused ..).trans (standing_partCtxEnd ..)
  · split
    · split
      · exact standing_failCtx ..
      · split
        · exact standing_failCtx ..
        · exact standing_coordAdvance ..
    · rw [standing_failCtx]
      split <;> exact hkey _

theorem standing_releaseDead (o : Owner) (cur : Half) : standing (releaseDead s o cur) = standing s := standing_of_recorded (recorded_releaseDead s o cur)

theorem standing_prepLost (x : Nat) : standing (prepLost s e c x) = standing s := by
  have hcompl : ∀ s1 k r, standing s1 = standing s → standing (complete (unreserve s1 k) k r) = standing s := fun _ _ _ h =>
    (standing_of_recorded ((recorded_complete ..).trans (recorded_unreserve ..))).trans h
  unfold prepLost; dsimp only
  split
  · rfl
  · refine (standing_coordAdvance ..).trans ?_
    split
    · exact standing_releaseDead ..
    · exact hcompl _ _ _ (standing_releaseDead ..)

/-- A reset participant's lost record is refused (R533): what `sweptPart` does with a record that is no acceptance. -/
theorem standing_sweptPart {r : Rec} (h : r.status ≠ 0) : standing (sweptPart s e c r) = standing s := by
  unfold sweptPart; dsimp only
  split
  · rfl
  · rw [if_neg h, standing_partRefused]
    exact (standing_releaseDead ..).trans (standing_setCtx ..)

end

/-! The cores held in reset (R468): requests are withdrawn and commands abandoned, the rest stays. -/

/-- As `settled`, and without the locks. -/
def lockless (s : State) : State := { settled s with locks := [] }

theorem lockless_of_steady {s s' : State} (h : steady s' = steady s) : lockless s' = lockless s := (congrArg lockless h :)

section
variable {s s' : State} (h : lockless s' = lockless s)
include h

theorem led_of_lockless : s'.led = s.led := by injection h
theorem jn_of_lockless : s'.jn = s.jn := by injection h
theorem mgmt_of_lockless : s'.mgmt = s.mgmt := by injection h
theorem lockless_withRecord (stored last : Tbl Bytes) : lockless (withRecord s' stored last) = lockless (withRecord s stored last) := (congrArg (withRecord · stored last) h :)
end

section
variable (s : State)

theorem lockless_abandonCmd (k : Nat) : lockless (abandonCmd s k) = lockless s := by unfold abandonCmd; split <;> rfl

theorem lockless_frameReset (c f : Nat) : lockless (frameReset s c f) = lockless s := by
  have ha : ∀ ks : List Nat, ∀ s1, lockless (ks.foldl abandonCmd s1) = lockless s1 := fun ks s1 =>
    List.foldlRecOn (motive := fun t => lockless t = lockless s1) ks _ rfl fun t ht k _ => (lockless_abandonCmd t k).trans ht
  unfold frameReset
  extract_lets x s1 s2 s3 k s4 s5 s6
  have h2 : lockless s2 = lockless s := (ha _ s1).trans rfl
  have h6 : lockless s6 = lockless s := (lockless_of_steady (by simp [s6, s5, s4, s3])).trans h2
  split
  · exact (lockless_of_steady (by simp)).trans h6
  · exact h6

theorem lockless_coreClear (c : Nat) : lockless (coreClear s c) = lockless s := by
  have he : ∀ (ls : List Nat) (t : State), lockless (ls.foldl (fun st l => evict st c l) t) = lockless t := fun ls t =>
    List.foldlRecOn (motive := fun u => lockless u = lockless t) ls _ rfl fun u hu l _ => (lockless_of_steady (steady_evict u c l)).trans hu
  unfold coreClear
  extract_lets x s0 s1 s2 s3 y
  have h1 : lockless s1 = lockless s := List.foldlRecOn (motive := fun t => lockless t = lockless s) _ _ (lockless_of_steady (steady_setCore s c _)) fun t ht f _ =>
    (lockless_frameReset _ c f).trans ((lockless_of_steady (steady_setCore t c _)).trans ht)
  have h3 : lockless s3 = lockless s := (he _ s2).trans ((lockless_of_steady (steady_dropClaims s1 c _)).trans h1)
  exact (lockless_of_steady (steady_setCore s3 c _)).trans h3

theorem lockless_holdAllCores : lockless (holdAllCores s) = lockless s :=
  List.foldlRecOn (motive := fun t => lockless t = lockless s) _ _ rfl fun t ht c _ => (lockless_coreClear t c).trans ht

/-- A die that enters HELD: its state, its reason and the record of it. -/
theorem lockless_enterHeld (reason : Byte) : ∃ stored last, lockless (enterHeld s reason) = lockless (withRecord (withHeld s reason) stored last) := by
  have h : lockless (mailboxVector (holdAllCores (linksOff (withHeld s reason)))) = lockless (withHeld s reason) :=
    (lockless_of_steady (steady_mailboxVector _)).trans ((lockless_holdAllCores _).trans (lockless_of_steady (steady_linksOff _)))
  obtain ⟨stored, last, hl⟩ := steady_logFault (mailboxVector (holdAllCores (linksOff (withHeld s reason)))) 0x0D reason 0
    (if reason = 0x07 then s.store.floorMissing.toNat % 2 ^ 32 else 0) 0 0
  exact ⟨stored, last, (lockless_of_steady hl).trans (lockless_withRecord h stored last)⟩

theorem enterHeld_leaves (reason : Byte) : (enterHeld s reason).jn = s.jn ∧ (enterHeld s reason).led = s.led ∧ (enterHeld s reason).mgmt.state = .held ∧
    (enterHeld s reason).mgmt.reason = reason := by
  obtain ⟨stored, last, h⟩ := lockless_enterHeld s reason
  have hm := mgmt_of_lockless h
  exact ⟨(jn_of_lockless h :), (led_of_lockless h :), congrArg Mgmt.state hm, congrArg Mgmt.reason hm⟩

theorem standing_enterHeld (reason : Byte) : standing (enterHeld s reason) = standing s := by
  obtain ⟨hjn, hled, -⟩ := enterHeld_leaves s reason
  rw [standing, hjn, hled, standing]

/-- A record lost while the controller stops leaves the books and the stop. -/
theorem standing_recLost (r : Rec) : standing (recLost s r true) = standing s := by
  unfold recLost; dsimp only
  cases (tget s.jn.waiters r.seq).getD .nobody with
  | ctx e c ep =>
    dsimp only
    split
    · rfl
    · split
      · exact standing_ctxLost ..
      · split
        · exact standing_prepLost ..
        · split
          · exact standing_sweptPart _ e c (by decide : stJournalFault ≠ 0)
          · rfl
  | micro e c ep => rfl
  | decision x => rfl
  | part p => rfl
  | ckpt e c ep =>
    dsimp only
    split
    · exact standing_failCtx ..
    · rfl
  | start => exact standing_enterHeld ..
  | nobody => rfl

/-- The state of a controller that stops at a number, once every record from there on is lost. -/
def lostFrom (s : State) (k : Nat) : State :=
  let s1 := pulseSrc (logFault { s with jn := { s.jn with stopped := true, stopAt := k } } 0x08 2 0 0 k 0) 0x142
  ((s1.jn.blocks.flatMap (·.recs)).filter fun r => decide (k ≤ r.seq)).foldl (fun st r => recLost st r true) s1

theorem stopJournal_eq (k : Nat) : stopJournal s k = enterHeld (lostFrom s k) 0x0E := by rw [stopJournal, lostFrom]

theorem standing_lostFrom (k : Nat) : standing (lostFrom s k) = standing { s with jn := { s.jn with stopped := true, stopAt := k } } := by
  have hfold : ∀ (rs : List Rec) s1, standing (rs.foldl (fun st r => recLost st r true) s1) = standing s1 := fun rs s1 =>
    List.foldlRecOn (motive := fun t => standing t = standing s1) rs _ rfl fun t ht r _ => (standing_recLost t r).trans ht
  have hfault : ∀ s1, standing (pulseSrc (logFault s1 0x08 2 0 0 k 0) 0x142) = standing s1 := fun s1 =>
    standing_of_recorded ((recorded_of_settled (settled_of_steady (steady_pulseSrc ..))).trans (recorded_logFault ..))
  rw [lostFrom, hfold, hfault]

theorem stopJournal_leaves (k : Nat) : (stopJournal s k).jn.stopped = true ∧ (stopJournal s k).jn.stopAt = k ∧ (stopJournal s k).led = s.led ∧
    (stopJournal s k).mgmt.state = .held ∧ (stopJournal s k).mgmt.reason = 0x0E := by
  have hs := standing_lostFrom s k
  obtain ⟨hjn, hled, hstate, hreason⟩ := enterHeld_leaves (lostFrom s k) 0x0E
  rw [stopJournal_eq, hjn, hled]
  exact ⟨stopped_of_standing hs, stopAt_of_standing hs, (led_of_standing hs :), hstate, hreason⟩

end

/-- Settles O12: the frontier and the end of the command by what the apply and the completion leave; the stop by what the loss of every later record leaves. -/
theorem journalAnswersTakeEffect : Obligations.JournalAnswersTakeEffect := by
  refine ⟨?frontier, ?durable, ?voided, ?stopped⟩
  case frontier => exact fun s n h => exec_journalDurable_frontier h
  case durable =>
    intro s n e c k ep r t h hn hw hl hk ht hx hp hc h6
    exact exec_journalDurable_leaves h hn hw hl ⟨hx, hp, fun hkind => hc hkind.1, fun hkind => hkind.2 (h6 hkind.1)⟩ hk ht
  case voided =>
    intro s seq e c k ep r t hf hseq hd hrun hup hw hl hk _ hx hp h6
    exact exec_journalWriteFail_void_leaves ⟨hf, hd, hrun, hup⟩ (by rw [hseq]; exact hw) hl hk hx hp h6
  case stopped =>
    intro s seq r hf hseq hd hrun hup
    have hx := exec_journalWriteFail_stop ⟨hf, hd, hrun, hup⟩
    rw [hseq] at hx
    exact ⟨_, hx, stopJournal_leaves s seq⟩

end Sys2Proof.Machine
end

section
/-! SUPPORT. What the retry of due decisions (R110, R534) leaves: every reading that appends and reservations leave. -/
namespace Sys2Proof.Machine

/-- A reading of the state that the placing of a record leaves, and that rests on what `recorded` keeps. -/
structure KeptByAppends {α : Type} (f : State → α) : Prop where
  recorded : ∀ {s s' : State}, recorded s' = recorded s → f s' = f s
  placed : ∀ (s : State) (r : Rec) (w : Waiter), f (placeRec s r w) = f s

section
variable {α : Type} {f : State → α} (h : KeptByAppends f) (s : State)
include h

theorem KeptByAppends.appendRecs (rs : List Rec) (w : Waiter) : f (appendRecs s rs w) = f s :=
  (h.recorded (recorded_of_fabricOnly (fabricOnly_appendRecs rs w))).trans
    (List.foldlRecOn (motive := fun t => f t = f s) _ _ rfl fun t ht r _ => (h.placed t r w).trans ht)

theorem KeptByAppends.appendIf {s' : State} (hs : f s' = f s) (rs : List Rec) (w : Waiter) :
    f (if canAppend s rs = true then Machine.appendRecs s' rs w else s) = f s := by
  split
  · exact (h.appendRecs ..).trans hs
  · rfl

theorem KeptByAppends.unreserveOpt (k : Option Nat) : f (unreserveOpt s k) = f s := by
  cases k with
  | none => rfl
  | some n => exact h.recorded (recorded_unreserve s n)

theorem KeptByAppends.coordAdvance (x : Nat) : f (coordAdvance s x) = f s := by
  have hset : ∀ (t : State) (v : Coord), f (setCoord t x v) = f t := fun _ _ => h.recorded rfl
  unfold Machine.coordAdvance; dsimp only
  split
  · rfl
  · split
    · split
      · exact h.appendIf s (hset ..) ..
      · rfl
    · exact h.appendIf s ((hset ..).trans (h.unreserveOpt ..)) ..

theorem KeptByAppends.partAdvance (p : Nat) : f (partAdvance s p) = f s := by
  unfold Machine.partAdvance; dsimp only
  split
  · rfl
  · split
    · exact (h.appendRecs ..).trans (h.recorded rfl)
    · rfl

theorem KeptByAppends.advanceClass (prio : Bool) : f (advanceClass s prio) = f s := by
  have hc := List.foldlRecOn (motive := fun t => f t = f s) (s.fab.coords.filter fun e => e.2.rflags.getLsbD 0 == prio)
    (fun st e => Machine.coordAdvance st e.1) rfl fun t ht e _ => (h.coordAdvance t e.1).trans ht
  exact List.foldlRecOn (motive := fun t => f t = f s) _ _ hc fun t ht e _ => (h.partAdvance t e.1).trans ht

theorem KeptByAppends.advanceAll : f (advanceAll s) = f s := (h.advanceClass ..).trans (h.advanceClass ..)

end

end Sys2Proof.Machine
end

section
/-! SUPPORT. Block closes, seal ticks and seal results (R122 to R126, R151). -/
namespace Sys2Proof.Machine

/-! A block written over the one with its number. -/

theorem putBlock_putBlock {b c : Block} (h : c.no = b.no) (bs : List Block) : putBlock (putBlock bs b) c = putBlock bs c := by
  unfold putBlock
  rw [List.map_map]
  refine List.map_congr_left fun x _ => ?_
  by_cases hx : x.no = b.no <;> simp [hx, h]

/-- The open block, written over, is still the first that is open. -/
theorem find?_opened_putBlock {bs : List Block} {b c : Block} (hb : (bs.find? fun x => decide (x.state = .opened)) = some b) (hn : c.no = b.no) (hc : c.state = .opened) :
    ((putBlock bs c).find? fun x => decide (x.state = .opened)) = some c := by
  induction bs with
  | nil => simp at hb
  | cons x xs ih =>
    by_cases hx : x.no = c.no
    · simp [putBlock, hx, hc]
    · have hxo : x.state ≠ .opened := by
        intro ho
        simp only [List.find?_cons, ho, decide_true, Option.some.injEq] at hb
        exact hx (by rw [hb, hn])
      have hxs : (xs.find? fun x => decide (x.state = .opened)) = some b := by simpa [hxo] using hb
      simpa [putBlock, hx, hxo] using ih hxs

/-- A record that fits goes to the end of the open block (R110). -/
theorem placeRec_fits {s : State} {r : Rec} {b : Block} (ho : openBlock s.jn = some b) (hf : fits s.jn r = true) :
    placeRec s r .nobody = { s with jn := { s.jn with blocks := putBlock s.jn.blocks { b with recs := b.recs ++ [stampRec s.tb b s.jn.nextSeq r] }, nextSeq := s.jn.nextSeq + 1 } } := by
  have hroom : blkUsed b + recBytes r ≤ 65536 := by simpa [fits, ho] using hf
  simp only [placeRec, ho, hroom, if_true]

theorem steady_waitPulse (s t : State) : steady (waitPulse s t) = steady t := by
  unfold waitPulse; split
  · exact steady_pulseSrc ..
  · rfl

theorem readWm_jn (s : State) : (readWm s).jn = { s.jn with wmReads := s.jn.wmReads + 1, wmLastRead := s.tb } := rfl

theorem waitPulse_jn (s t : State) : (waitPulse s t).jn = t.jn := jn_of_settled (settled_of_steady (steady_waitPulse s t))

/-! Seal ticks. -/

section
variable {s : State} {b : Block} {n : Nat}

/-- A block that filled at this very instant is the one that the tick closes (R151). -/
theorem tickBlock_filled (hf : s.jn.filledAt = some (s.tb, n)) (hb : (s.jn.blocks.find? fun b => b.no == n && decide (b.state = .closing)) = some b) :
    tickBlock s = some b := by
  simp only [tickBlock, hf, if_true, hb]

theorem tickBlock_open (hf : s.jn.filledAt = none) (hb : openBlock s.jn = some b) : tickBlock s = some b := by
  simp only [tickBlock, hf, hb]

/-- A seal tick falls due, on a die that writes its own journal. -/
structure TickDue (s : State) : Prop where
  time : s.tb % 100000 = 0
  once : s.tb ≠ s.jn.lastTick
  up : s.mgmt.state ≠ .down
  own : isStandby s = false

/-- The state at a tick, its time noted. -/
def atTick (s : State) : State := { s with jn := { s.jn with lastTick := s.tb } }

/-- Then the SEAL records that were ready are placed (R124). -/
def ticked (s : State) : State := placeSeals (atTick s)

/-- A block that a tick closes, marked for its seal. -/
def tickMarked (b : Block) : Block := { b with state := .closing, flags := b.flags ||| 4 }

/-- A tick that closes block `b` where a seal can be made: the blocks after it are sealed (R126). -/
def tickCloses (s : State) (b : Block) : State := { s with jn := { s.jn with unsealed := false, blocks := putBlock s.jn.blocks (tickMarked b) } }

theorem exec_sealTick_closes (h : TickDue s) (hb : tickBlock (ticked s) = some b) (hc : holdsCommand b = true) (hs : canSeal (ticked s) = true)
    (hf : (ticked s).jn.sealFailAt ≠ some (ticked s).tb) : exec .sealTick s = .next (tickCloses (ticked s) b) := by
  have he : exec .sealTick s = execSealTick s := rfl
  have hdue : ¬ (s.tb % 100000 ≠ 0 ∨ s.tb = s.jn.lastTick ∨ s.mgmt.state = .down ∨ isStandby s = true) := by
    simp [h.time, h.once, h.up, h.own]
  rw [he, execSealTick, if_neg hdue]; dsimp only
  rw [← atTick, ← ticked, hb]; dsimp only
  rw [if_neg (by simp [hc]), ← tickMarked, if_neg (by rw [Bool.not_eq_true', Bool.not_eq_false]; exact hs), if_neg hf, tickCloses]

theorem ticked_of_none (h : s.jn.sealDone = []) : ticked s = atTick s := by
  have hd : (atTick s).jn.sealDone = [] := h
  rw [ticked, placeSeals, hd]

/-- The one SEAL record that is ready leaves the engine. -/
def sealGiven (s : State) (r : Rec) : State := { atTick s with jn := { (atTick s).jn with sealDone := [], sealedSeq := field r.body 8 8 } }

/-- A block with a record at its end, numbered and stamped. -/
def withRec (s : State) (b : Block) (r : Rec) : Block := { b with recs := b.recs ++ [stampRec s.tb b s.jn.nextSeq r] }

/-- The state once it stands at the end of the open block (R124), before the mirror sends it. -/
def sealPlaced (s : State) (b : Block) (r : Rec) : State :=
  { sealGiven s r with jn := { (sealGiven s r).jn with blocks := putBlock s.jn.blocks (withRec s b r), nextSeq := s.jn.nextSeq + 1 } }

/-- What placing the one SEAL record that is ready asks: sealed blocks, a controller that takes it, room in the open block. -/
structure SealFits (s : State) (b : Block) (r : Rec) : Prop where
  ready : s.jn.sealDone = [r]
  sealed : s.jn.unsealed = false
  running : s.jn.stopped = false
  taken : canAppend s [r] = true
  opened : openBlock s.jn = some b
  room : fits s.jn r = true

theorem fabricOnly_ticked {r : Rec} (h : SealFits s b r) : FabricOnly (sealPlaced s b r) (ticked s) := by
  have hp : placeRec (sealGiven s r) r .nobody = sealPlaced s b r := placeRec_fits h.opened h.room
  have hd : (atTick s).jn.sealDone = [r] := h.ready
  have hc : canAppend (atTick s) [r] = true := h.taken
  have hn : ¬ ((atTick s).jn.unsealed = true ∨ (atTick s).jn.stopped = true) := by simp [atTick, h.sealed, h.running]
  have ht : ticked s = appendRecs (sealGiven s r) [r] .nobody := by
    rw [ticked, placeSeals, hd]; dsimp only
    rw [if_neg hn, if_pos hc]
    rfl
  rw [ht, ← hp]
  exact fabricOnly_appendRecs [r] .nobody

theorem holdsCommand_withRec (s : State) (r : Rec) (h : holdsCommand b = true) : holdsCommand (withRec s b r) = true := by
  rw [holdsCommand, withRec, List.any_append, Bool.or_eq_true]
  exact .inl h

/-- The tick of a SEAL record: it goes into the block that the tick closes (R124). -/
theorem exec_sealTick_sealed {r : Rec} (h : TickDue s) (hr : SealFits s b r) (hf : s.jn.filledAt = none) (hc : holdsCommand b = true) (hs : canSeal s = true)
    (hn : s.jn.sealFailAt ≠ some s.tb) :
    ∃ s', exec .sealTick s = .next s' ∧ s'.jn.sealDone = [] ∧ s'.jn.sealedSeq = field r.body 8 8 ∧ s'.jn.nextSeq = s.jn.nextSeq + 1 ∧ s'.led = s.led ∧
      s'.jn.blocks = putBlock s.jn.blocks (tickMarked (withRec s b r)) := by
  have ht : ticked s = { sealPlaced s b r with fab := (ticked s).fab, dup := (ticked s).dup, out := (ticked s).out } := fabricOnly_ticked hr
  have hstate : b.state = .opened := by simpa using List.find?_some hr.opened
  have hb : tickBlock (ticked s) = some (withRec s b r) := by
    refine tickBlock_open (by rw [ht]; exact hf) ?_
    rw [ht]
    exact find?_opened_putBlock hr.opened rfl hstate
  have hx := exec_sealTick_closes h hb (holdsCommand_withRec s r hc) (by rw [ht]; exact hs) (by rw [ht]; exact hn)
  rw [ht] at hx
  exact ⟨_, hx, rfl, rfl, rfl, rfl, putBlock_putBlock (b := withRec s b r) (c := tickMarked (withRec s b r)) rfl _⟩

end

/-! A block closes. -/

section
variable {s : State} {b : Block} {n : Nat}

/-- A block as it closes: its last record's number, the time, and PFAIL of a power-fail (Table 3.7). -/
def closedNow (s : State) (b : Block) : Block :=
  let last := ((b.recs.getLast?).map (·.seq)).getD 0
  { b with state := .closed, lastSeq := last, durableSeq := last, closeTime := s.tb, flags := if s.board.powerFail then b.flags ||| 8 else b.flags }

/-- The state once closed block `n` is in the chain (R123). -/
def linked (s : State) (n : Nat) (b : Block) : State :=
  { s with jn := { s.jn with blocks := linkNext (putBlock s.jn.blocks b) n (chainHash b), lastClosed := n, lastHash := chainHash b } }

/-- Then the sources have pulsed, and the watermark read that a close begins is out (R132). -/
def chained (s : State) (n : Nat) (b : Block) : State :=
  let s1 := waitPulse s (pulseSrc (linked s n b) 0x140)
  if drainRuns s1 then readWm s1 else s1

/-- The seal request of a closed block. -/
def sealReqOf (n : Nat) (b : Block) : SealReq := { block := n, seq := b.lastSeq, time := b.closeTime, device := b.device, boot := b.boot, head := chainHash b }

/-- A seal is asked for, or fails where none can be made (R124, R126). -/
def askSeal (s : State) (q : SealReq) : State := if canSeal s then { s with jn := { s.jn with sealReqs := s.jn.sealReqs ++ [q] } } else sealFail s

theorem exec_blockClose (hb : (s.jn.blocks.find? fun b => b.no == n && decide (b.state = .closing)) = some b) (hn : n = s.jn.lastClosed + 1)
    (hl : ((b.recs.getLast?).map (·.seq)).getD 0 ≤ s.jn.durable) (hu : s.mgmt.state ≠ .down) : exec (.blockClose n) s = .next (
      if (closedNow s b).flags.getLsbD 2 = true ∧ ¬ s.board.powerFail = true then askSeal (chained s n (closedNow s b)) (sealReqOf n (closedNow s b))
      else chained s n (closedNow s b)) := by
  have he : exec (.blockClose n) s = execBlockClose n s := rfl
  have hgo : ¬ (n ≠ s.jn.lastClosed + 1 ∨ s.jn.durable < ((b.recs.getLast?).map (·.seq)).getD 0 ∨ s.mgmt.state = .down) := by
    simp [hn, hu, Nat.not_lt.mpr hl]
  rw [he, execBlockClose, hb]; dsimp only
  rw [if_neg hgo]
  rfl

/-- A close changes the blocks and the end of the chain; the watermark read that it begins is counted. -/
theorem chained_leaves (s : State) (n : Nat) (b : Block) :
    (∃ reads time, (chained s n b).jn = { s.jn with blocks := linkNext (putBlock s.jn.blocks b) n (chainHash b), lastClosed := n, lastHash := chainHash b,
                                                    wmReads := reads, wmLastRead := time }) ∧
    (chained s n b).led = s.led ∧ (chained s n b).store = s.store := by
  have hs : settled (waitPulse s (pulseSrc (linked s n b) 0x140)) = settled (linked s n b) :=
    settled_of_steady ((steady_waitPulse ..).trans (steady_pulseSrc ..))
  unfold chained; dsimp only
  split
  · rw [readWm_jn, jn_of_settled hs]
    exact ⟨⟨_, _, rfl⟩, (led_of_settled hs :), (store_of_settled hs :)⟩
  · rw [jn_of_settled hs]
    exact ⟨⟨_, _, rfl⟩, (led_of_settled hs :), (store_of_settled hs :)⟩

theorem sealFail_leaves (s : State) : (sealFail s).jn = { s.jn with unsealed := true, sealFault := true, sealFailAt := some s.tb } ∧ (sealFail s).led = s.led := by
  unfold sealFail; dsimp only
  split
  · exact ⟨rfl, rfl⟩
  · exact ⟨pulseSrc_jn .., pulseSrc_led ..⟩

/-- A request for a seal leaves the blocks, the end of the chain, the next number and the books. -/
theorem askSeal_leaves (s : State) (q : SealReq) : (askSeal s q).jn.lastClosed = s.jn.lastClosed ∧ (askSeal s q).jn.lastHash = s.jn.lastHash ∧
    (askSeal s q).jn.blocks = s.jn.blocks ∧ (askSeal s q).jn.nextSeq = s.jn.nextSeq ∧ (askSeal s q).led = s.led := by
  unfold askSeal; split
  · exact ⟨rfl, rfl, rfl, rfl, rfl⟩
  · obtain ⟨hjn, hled⟩ := sealFail_leaves s
    rw [hjn]
    exact ⟨rfl, rfl, rfl, rfl, hled⟩

theorem askSeal_sealReqs {q : SealReq} (h : canSeal s = true) : (askSeal s q).jn.sealReqs = s.jn.sealReqs ++ [q] := by rw [askSeal, if_pos h]

/-- A block closes: the chain goes on from it, and a block that a tick closed asks for its seal. -/
theorem exec_blockClose_leaves (hb : (s.jn.blocks.find? fun b => b.no == n && decide (b.state = .closing)) = some b) (hn : n = s.jn.lastClosed + 1)
    (hl : ((b.recs.getLast?).map (·.seq)).getD 0 ≤ s.jn.durable) (hu : s.mgmt.state ≠ .down) :
    ∃ s', exec (.blockClose n) s = .next s' ∧ s'.jn.lastClosed = n ∧ s'.jn.lastHash = chainHash (closedNow s b) ∧
      s'.jn.blocks = linkNext (putBlock s.jn.blocks (closedNow s b)) n (chainHash (closedNow s b)) ∧ s'.jn.nextSeq = s.jn.nextSeq ∧ s'.led = s.led ∧
      (canSeal s = true → b.flags.getLsbD 2 = true → s.board.powerFail = false → s'.jn.sealReqs = s.jn.sealReqs ++ [sealReqOf n (closedNow s b)]) := by
  obtain ⟨⟨reads, time, hjn⟩, hled, hstore⟩ := chained_leaves s n (closedNow s b)
  refine ⟨_, exec_blockClose hb hn hl hu, ?_⟩
  split
  next =>
    obtain ⟨hlast, hhash, hblocks, hseq, hbooks⟩ := askSeal_leaves (chained s n (closedNow s b)) (sealReqOf n (closedNow s b))
    rw [hlast, hhash, hblocks, hseq, hbooks, hjn]
    refine ⟨rfl, rfl, rfl, rfl, hled, fun hs _ _ => ?_⟩
    rw [askSeal_sealReqs (by rw [canSeal, hstore]; exact hs), hjn]
  next hno =>
    rw [hjn]
    refine ⟨rfl, rfl, rfl, rfl, hled, fun _ hflag hp => absurd ⟨?_, by simp [hp]⟩ hno⟩
    simpa [closedNow, hp] using hflag

end

/-! Seal results. -/

section
variable {s : State} {q : SealReq} {rest : List SealReq} {priv : BitVec 256}

/-- The oldest seal request leaves the queue, and the units that are free begin ladle requests (R145). -/
def sealTaken (s : State) (rest : List SealReq) : State := startJobs { s with jn := { s.jn with sealReqs := rest } }

/-- Seal unit 0 is free for the oldest request, and a key and a unit are in service. -/
structure SealRuns (s : State) (q : SealReq) (rest : List SealReq) (priv : BitVec 256) : Prop where
  queue : s.jn.sealReqs = q :: rest
  key : s.store.sealPriv = some priv
  units : s.store.sealUnits ≠ 0
  free : unitBusy s 0 = false

theorem exec_sealResult_fails {ok : Bool} (h : SealRuns s q rest priv) (hf : ok = false ∨ 16 ≤ Config.nonceRedraws s.fresh) :
    exec (.sealResult ok) s = .next (sealLost (sealTaken s rest) q) := by
  have he : exec (.sealResult ok) s = execSealResult ok s := rfl
  have hc : ¬ ok = true ∨ 16 ≤ Config.nonceRedraws s.fresh ∨ s.store.sealUnits = 0 := hf.imp (by simp) .inl
  rw [he, execSealResult, h.queue]; dsimp only
  rw [h.free, if_neg Bool.false_ne_true, h.key]; dsimp only
  rw [if_pos hc, sealTaken]

theorem exec_sealResult_signs (h : SealRuns s q rest priv) (hn : Config.nonceRedraws s.fresh < 16) (hs : s.jn.stopped = false) (hu : s.jn.unsealed = false) :
    exec (.sealResult true) s = .next { sealTaken s rest with fresh := s.fresh + 1, jn :=
      { (sealTaken s rest).jn with sealDone := s.jn.sealDone ++ [sealRec s q priv (Config.nonceRedraws s.fresh)] } } := by
  have he : exec (.sealResult true) s = execSealResult true s := rfl
  have hc : ¬ (¬ true = true ∨ 16 ≤ Config.nonceRedraws s.fresh ∨ s.store.sealUnits = 0) := by
    rintro (hno | hmany | hnone)
    · exact hno rfl
    · exact absurd hn (Nat.not_lt.mpr hmany)
    · exact h.units hnone
  rw [he, execSealResult, h.queue]; dsimp only
  rw [h.free, if_neg Bool.false_ne_true, h.key]; dsimp only
  rw [if_neg hc, if_neg (by simp [hs, hu])]
  rfl

theorem sealLost_leaves (s : State) (q : SealReq) :
    (sealLost s q).jn = { s.jn with unsealed := true, sealFault := true, sealFailAt := some s.tb } ∧ (sealLost s q).led = s.led := by
  obtain ⟨hjn, hled⟩ := sealFail_leaves s
  exact ⟨(logFault_jn ..).trans hjn, (logFault_led ..).trans hled⟩

/-- A seal request's end, for either outcome: its record is ready for the next tick, or the blocks are UNSEALED (R124, R126). -/
theorem exec_sealResult_leaves (ok : Bool) (h : SealRuns s q rest priv) (hs : s.jn.stopped = false) (hu : s.jn.unsealed = false) :
    ∃ s', exec (.sealResult ok) s = .next s' ∧ s'.jn.sealReqs = rest ∧ s'.led = s.led ∧ s'.jn.blocks = s.jn.blocks ∧ s'.jn.nextSeq = s.jn.nextSeq ∧
      (ok = true ∧ Config.nonceRedraws s.fresh < 16 → s'.jn.sealDone = s.jn.sealDone ++ [sealRec s q priv (Config.nonceRedraws s.fresh)] ∧ s'.jn.unsealed = false) ∧
      (ok = false ∨ 16 ≤ Config.nonceRedraws s.fresh → s'.jn.unsealed = true ∧ s'.jn.sealFault = true ∧ s'.jn.sealDone = s.jn.sealDone) := by
  by_cases hf : ok = false ∨ 16 ≤ Config.nonceRedraws s.fresh
  · obtain ⟨hjn, hled⟩ := sealLost_leaves (sealTaken s rest) q
    refine ⟨_, exec_sealResult_fails h hf, ?_⟩
    rw [hjn]
    refine ⟨rfl, hled, rfl, rfl, fun hok => ?_, fun _ => ⟨rfl, rfl, rfl⟩⟩
    rcases hf with hno | hmany
    · simp [hno] at hok
    · exact absurd hok.2 (Nat.not_lt.mpr hmany)
  · obtain ⟨hok, hn⟩ := not_or.mp hf
    rw [Bool.not_eq_false] at hok
    subst hok
    exact ⟨_, exec_sealResult_signs h (Nat.not_le.mp hn) hs hu, rfl, rfl, rfl, rfl, fun _ => ⟨rfl, hu⟩, fun hc => absurd hc hf⟩

end

/-- Settles O13: a tick by the block that it closes once the seals are placed, a close by what the chain and the request leave, a seal by its two outcomes. -/
theorem blocksCloseAndAreSealed : Obligations.BlocksCloseAndAreSealed := by
  refine ⟨?tick, ?sealed, ?filled, ?opened, ?closed, ?result⟩
  case tick =>
    intro s b htime honce hup hown hdone hb hc hs hf
    have ht := ticked_of_none hdone
    have hx := exec_sealTick_closes ⟨htime, honce, hup, hown⟩ (by rw [ht]; exact hb) hc (by rw [ht]; exact hs) (by rw [ht]; exact hf)
    rw [ht] at hx
    exact hx
  case sealed =>
    intro s b r htime honce hup hown hdone hu hstop happ ho hfit hfill hc hs hf
    exact exec_sealTick_sealed ⟨htime, honce, hup, hown⟩ ⟨hdone, hu, hstop, happ, ho, hfit⟩ hfill hc hs hf
  case filled => exact fun s n b => tickBlock_filled
  case opened => exact fun s b => tickBlock_open
  case closed => exact fun s n b => exec_blockClose_leaves
  case result => exact fun s ok q rest priv hq hk hunits hstop hu hfree => exec_sealResult_leaves ok ⟨hq, hk, hunits, hfree⟩ hstop hu

end Sys2Proof.Machine
end

section
/-! SUPPORT. The drain ring and its watermark (R131 to R133). -/
namespace Sys2Proof.Machine

/-! WAITING's source (R387). -/

section
variable {s t : State}

theorem waitPulse_out (s t : State) : (waitPulse s t).out = t.out := by
  unfold waitPulse; split
  · exact pulseSrc_out ..
  · rfl

theorem waitPulse_begins (ht : drainWaits t = true) (hs : drainWaits s = false) : waitPulse s t = pulseSrc t 0x143 := by simp [waitPulse, ht, hs]

theorem waitPulse_none (ht : drainWaits t = false) : waitPulse s t = t := by simp [waitPulse, ht]

end

section
variable {s : State} {b : Block} {v : Dbl}

/-! The copy and JREDRAIN. -/

theorem exec_drainBlockCopy (hb : (s.jn.blocks.find? fun b => b.no == s.jn.drained + 1 && decide (b.state = .closed)) = some b) (hr : drainRuns s = true)
    (hs : s.jn.starting = false) (hw : b.no ≤ s.jn.wm + 2 ^ s.jn.slotsLog2) (hd : drainable s b = true) :
    exec .drainBlockCopy s = .next (waitPulse s (copyBlock { s with jn := { s.jn with drained := b.no } } b)) := by
  have he : exec .drainBlockCopy s = execDrainBlockCopy s := rfl
  simp only [he, execDrainBlockCopy, hb, hr, hs, hw, hd, Bool.false_eq_true, not_false_eq_true, and_self, if_true]

theorem exec_jredrain (hb : (s.jn.blocks.find? fun b => b.no == v.toNat) = some b) (he : s.jn.enable = true) (hr : drainRuns s = true) (hw : s.jn.wm < v.toNat)
    (hd : v.toNat ≤ s.jn.drained) : exec (.jredrain v) s = .next (copyBlock s b) := by
  have hx : exec (.jredrain v) s = execJredrain v s := rfl
  simp only [hx, execJredrain, writeJredrain, he, hw, hd, and_self, if_true, hb, hr]

theorem exec_jredrain_outside (h : ¬ (s.jn.enable = true ∧ s.jn.wm < v.toNat ∧ v.toNat ≤ s.jn.drained)) :
    exec (.jredrain v) s = .next { s with jn := { s.jn with wmErr := true } } := by
  have hx : exec (.jredrain v) s = execJredrain v s := rfl
  simp only [hx, execJredrain, writeJredrain, h, if_false]

/-! The drain enabled, the watermark read. -/

/-- A write of JCTL that sets ENABLE with values in range (Table 3.10). -/
structure EnablesDrain (s : State) (v : Dbl) : Prop where
  off : s.jn.enable = false
  on : v.getLsbD 0 = true
  least : 4 ≤ bits v.toNat 12 8
  most : bits v.toNat 12 8 ≤ 13
  operator : isOperatorFn s (bits v.toNat 31 16) = true
  up : s.mgmt.state ≠ .held

theorem exec_drainEnable (h : EnablesDrain s v) : exec (.drainEnable v) s = .next (readWm { s with jn :=
    { s.jn with drainFn := bits v.toNat 31 16, slotsLog2 := bits v.toNat 12 8, port := v.getLsbD 1, enable := true, starting := true } }) := by
  have he : exec (.drainEnable v) s = execDrainEnable v s := rfl
  have hgood : ¬ (bits v.toNat 12 8 < 4 ∨ 13 < bits v.toNat 12 8 ∨ ¬ isOperatorFn s (bits v.toNat 31 16) = true ∨ s.mgmt.state = .held) := by
    simp [Nat.not_lt.mpr h.least, Nat.not_lt.mpr h.most, h.operator, h.up]
  simp only [he, execDrainEnable, writeJctl, h.off, h.on, hgood, Bool.not_true, Bool.false_eq_true, if_false]

theorem exec_watermarkPoll (hr : drainRuns s = true) (hs : s.jn.starting = false) (hw : s.jn.wm < s.jn.drained) (ht : s.jn.wmLastRead + 1000 ≤ s.tb) :
    exec .watermarkPoll s = .next (readWm s) := by
  have he : exec .watermarkPoll s = execWatermarkPoll s := rfl
  simp only [he, execWatermarkPoll, hr, hs, hw, ht, Bool.false_eq_true, not_false_eq_true, and_self, if_true]

/-! A read returns. -/

/-- At its first read an enabled drain begins at the watermark in force (R132). -/
def drainStarts (s : State) : State := if s.jn.starting then { s with jn := { s.jn with drained := s.jn.wm, starting := false } } else s

/-- The state once a read of the watermark is counted off and its value judged: taken within W and the last block drained, else an error (R132). -/
def wmJudged (s : State) (v : Dbl) : State :=
  if s.jn.wm ≤ v.toNat ∧ v.toNat ≤ s.jn.drained then { s with jn := { s.jn with wmReads := s.jn.wmReads - 1, wm := v.toNat } }
  else { s with jn := { s.jn with wmReads := s.jn.wmReads - 1, wmErr := true } }

/-- The watermark, its error and the reads on their way. -/
def wmOf (s : State) : Nat × Bool × Nat := (s.jn.wm, s.jn.wmErr, s.jn.wmReads)

theorem keptByAppends_wmOf : KeptByAppends wmOf where
  recorded h := (congrArg wmOf h :)
  placed s r w := by
    unfold placeRec; dsimp only
    cases openBlock s.jn with
    | none => rfl
    | some b => dsimp only; split <;> rfl

theorem wmOf_congr {s s' : State} (h : s'.jn = s.jn) : wmOf s' = wmOf s := by rw [wmOf, h, wmOf]

theorem drainStarts_leaves (s : State) : wmOf (drainStarts s) = wmOf s ∧ (drainStarts s).led = s.led ∧ (drainStarts s).jn.drainFn = s.jn.drainFn ∧ (drainStarts s).out = s.out := by
  unfold drainStarts; split <;> exact ⟨rfl, rfl, rfl, rfl⟩

theorem exec_watermarkRead (hr : s.jn.wmReads ≠ 0) (he : s.jn.enable = true) :
    exec (.watermarkRead v) s = .next (advanceAll (retestAll (waitPulse s (drainStarts (wmJudged s v))))) := by
  have hx : exec (.watermarkRead v) s = execWatermarkRead v s := rfl
  have hc : ¬ (!s.jn.enable) = true := by simp [he]
  rw [hx, execWatermarkRead, if_neg hr]; dsimp only
  rw [if_neg hc]
  rfl

theorem exec_watermarkReadFail (hr : s.jn.wmReads ≠ 0) : exec .watermarkReadFail s = .next (
    emit (waitPulse s (drainStarts { s with jn := { s.jn with wmReads := s.jn.wmReads - 1, wmErr := true } }))
      (.aer (drainStarts { s with jn := { s.jn with wmReads := s.jn.wmReads - 1, wmErr := true } }).jn.drainFn)) := by
  have hx : exec .watermarkReadFail s = execWatermarkReadFail s := rfl
  simp only [hx, execWatermarkReadFail, hr, if_false]
  rfl

/-- What follows a watermark's judgement (the pulse, the tests of waiting commands, the decisions that are due) leaves the watermark and the books. -/
theorem watermarkRead_leaves (s t : State) : wmOf (advanceAll (retestAll (waitPulse s (drainStarts t)))) = wmOf t ∧
    (advanceAll (retestAll (waitPulse s (drainStarts t)))).led = t.led := by
  obtain ⟨hwm, hled, -⟩ := drainStarts_leaves t
  have hs : settled (retestAll (waitPulse s (drainStarts t))) = settled (drainStarts t) := settled_of_steady ((steady_retestAll _).trans (steady_waitPulse ..))
  rw [keptByAppends_wmOf.advanceAll, wmOf_congr (jn_of_settled hs), advanceAll_led, led_of_settled hs]
  exact ⟨hwm, hled⟩

theorem exec_watermarkRead_leaves (v : Dbl) (hr : s.jn.wmReads ≠ 0) (he : s.jn.enable = true) :
    ∃ s', exec (.watermarkRead v) s = .next s' ∧ s'.jn.wmReads = s.jn.wmReads - 1 ∧ s'.led = s.led ∧
      (s.jn.wm ≤ v.toNat ∧ v.toNat ≤ s.jn.drained → s'.jn.wm = v.toNat ∧ s'.jn.wmErr = s.jn.wmErr) ∧
      (¬ (s.jn.wm ≤ v.toNat ∧ v.toNat ≤ s.jn.drained) → s'.jn.wm = s.jn.wm ∧ s'.jn.wmErr = true) := by
  obtain ⟨hwm, hled⟩ := watermarkRead_leaves s (wmJudged s v)
  simp only [wmOf, Prod.mk.injEq] at hwm
  obtain ⟨hw, herr, hreads⟩ := hwm
  refine ⟨_, exec_watermarkRead hr he, ?_⟩
  rw [hw, herr, hreads, hled]
  by_cases hv : s.jn.wm ≤ v.toNat ∧ v.toNat ≤ s.jn.drained
  · rw [wmJudged, if_pos hv]
    exact ⟨rfl, rfl, fun _ => ⟨rfl, rfl⟩, fun hn => absurd hv hn⟩
  · rw [wmJudged, if_neg hv]
    exact ⟨rfl, rfl, fun hy => absurd hy hv, fun _ => ⟨rfl, rfl⟩⟩

/-- A failed read leaves the watermark in force (R132). -/
theorem exec_watermarkReadFail_leaves (hr : s.jn.wmReads ≠ 0) :
    ∃ s', exec .watermarkReadFail s = .next s' ∧ s'.jn.wm = s.jn.wm ∧ s'.jn.wmErr = true ∧ s'.jn.wmReads = s.jn.wmReads - 1 ∧ s'.out = s.out ++ [.aer s.jn.drainFn] := by
  obtain ⟨hwm, -, hfn, hout⟩ := drainStarts_leaves { s with jn := { s.jn with wmReads := s.jn.wmReads - 1, wmErr := true } }
  simp only [wmOf, Prod.mk.injEq] at hwm
  obtain ⟨hw, herr, hreads⟩ := hwm
  refine ⟨_, exec_watermarkReadFail hr, ?_⟩
  rw [emit_jn, emit_out, waitPulse_jn, waitPulse_out, hw, herr, hreads, hfn, hout]
  exact ⟨rfl, rfl, rfl, rfl⟩

end

/-- Settles O14, command by command; a watermark's value stands through the decisions that it lets the controller take. -/
theorem drainFollowsTheWatermark : Obligations.DrainFollowsTheWatermark := by
  refine ⟨?copy, ?pulse, ?enable, ?poll, ?read, ?readFail, ?redrain, ?outside⟩
  case copy => exact fun s b => exec_drainBlockCopy
  case pulse => exact fun s t => ⟨waitPulse_jn s t, waitPulse_out s t, waitPulse_begins, waitPulse_none⟩
  case enable =>
    intro s v hoff hon hleast hmost hop hup
    exact ⟨_, exec_drainEnable ⟨hoff, hon, hleast, hmost, hop, hup⟩, rfl, rfl, rfl, rfl, rfl⟩
  case poll => exact fun s => exec_watermarkPoll
  case read => exact fun s v => exec_watermarkRead_leaves v
  case readFail => exact fun s => exec_watermarkReadFail_leaves
  case redrain => exact fun s v b => exec_jredrain
  case outside => exact fun s v => exec_jredrain_outside

end Sys2Proof.Machine
end

section
/-! SUPPORT. What the whisk engines do with a word and with a unit's result (R155 to R158, R164, R165): the context they write, and that the rest stays. -/
namespace Sys2Proof.Machine

/-- Beside the books and what `SameRest` holds, the journal and the locks stand: a step of the engines alone. -/
def EngineOnly (s s' : State) : Prop := SameRest s s' ∧ s'.jn = s.jn ∧ s'.locks = s.locks

theorem EngineOnly.trans {s s1 s2 : State} (h1 : EngineOnly s s1) (h2 : EngineOnly s1 s2) : EngineOnly s s2 :=
  ⟨h1.1.trans h2.1, h2.2.1.trans h1.2.1, h2.2.2.trans h1.2.2⟩

theorem engineOnly_setCtx (s : State) (e c : Nat) (x : Ctx) : EngineOnly s (setCtx s e c x) := ⟨.refl s, rfl, rfl⟩

theorem engineOnly_trace (s : State) (e c typ word data : Nat) (g : Bool) : EngineOnly s (trace s e c typ word data g) :=
  ⟨sameRest_trace .., trace_jn .., trace_locks ..⟩

theorem engineOnly_traceLock (s : State) (typ : Nat) (o : Owner) (ep : Half) (key : Nat) : EngineOnly s (traceLock s typ o ep key) := by
  unfold traceLock; split
  · exact engineOnly_trace ..
  · exact ⟨.refl s, rfl, rfl⟩

theorem ctx_ne_of_ready {x : Ctx} (h : x.state = .ready) : x ≠ {} := ctx_ne_of_state (by rw [h]; exact CtxState.noConfusion)
theorem ctx_ne_of_waiting {x : Ctx} (h : x.state = .waiting) : x ≠ {} := ctx_ne_of_state (by rw [h]; exact CtxState.noConfusion)

/-! A result that its context awaits (R164, R165). -/

/-- A result writes ports, guard flags, condition groups and bytes of the store, nothing else of its context. -/
theorem arriveLate_eq (x : Ctx) (l : Late) : ∃ st po fl gr, arriveLate x l = { x with store := st, ports := po, flags := fl, groups := gr } := by
  have hports : ∃ po, l.ports.foldl (fun (y : Ctx) p => { y with ports := tset y.ports p.1 0 p.2 }) x = { x with ports := po } :=
    List.foldlRecOn (motive := fun y : Ctx => ∃ po, y = { x with ports := po }) _ _ ⟨x.ports, rfl⟩ fun y hy p _ => by
      obtain ⟨po, rfl⟩ := hy
      exact ⟨_, rfl⟩
  obtain ⟨po, hpo⟩ := hports
  unfold arriveLate; dsimp only
  rw [hpo]
  split
  · exact ⟨_, _, _, _, rfl⟩
  · exact ⟨_, _, _, _, rfl⟩

/-- A unit's result is written to a context and answers its wait for the unit. -/
def answered (s : State) (e c unit : Nat) (l : Late) : State :=
  let x := arriveLate (ctxOf s e c) l
  wake (setCtx s e c { x with pend := tdel x.pend unit }) e c unit

/-- What a context becomes by the one result that it awaits. -/
def resumed (x : Ctx) (unit : Nat) (l : Late) : Ctx := { arriveLate x l with pend := tdel x.pend unit, awaiting := [], state := .ready }

section
variable {s : State} {e c unit : Nat} {l : Late}

theorem setCtx_resultNow (hs : (ctxOf s e c).state = .waiting) (ports : List (Nat × Dbl)) (groups : List (Nat × Nat)) (flags : List (Nat × Bool)) :
    wake (setCtx (resultNow s e c ports groups flags) e c { ctxOf (resultNow s e c ports groups flags) e c with
      pend := tdel (ctxOf (resultNow s e c ports groups flags) e c).pend unit }) e c unit =
    answered s e c unit { ports := ports, groups := groups, flags := flags } := by
  have hx : arriveLate (ctxOf s e c) { ports := ports, groups := groups, flags := flags } ≠ {} := by
    obtain ⟨_, _, _, _, h⟩ := arriveLate_eq (ctxOf s e c) { ports := ports, groups := groups, flags := flags }
    exact ctx_ne_of_waiting (by rw [h]; exact hs)
  rw [resultNow, ctxOf_setCtx_same s e c hx, setCtx_setCtx s e c _ hx, answered]

/-- The wait for the last unit ends: the context is READY. -/
theorem wake_last (hs : (ctxOf s e c).state = .waiting) (ha : (ctxOf s e c).awaiting = [unit]) :
    ∃ data, wake s e c unit = trace (setCtx s e c { ctxOf s e c with awaiting := [], state := .ready }) e c trWake unit data := by
  refine ⟨(tgetD (ctxOf s e c).ports (statusPort unit) 0).toNat, ?_⟩
  have haw : (ctxOf s e c).awaiting.filter (· != unit) = [] := by simp [ha]
  simp only [wake, haw, hs, List.isEmpty_nil, and_self, if_true]

theorem answered_leaves (hs : (ctxOf s e c).state = .waiting) (ha : (ctxOf s e c).awaiting = [unit]) :
    ctxOf (answered s e c unit l) e c = resumed (ctxOf s e c) unit l ∧ EngineOnly s (answered s e c unit l) := by
  obtain ⟨st, po, fl, gr, hl⟩ := arriveLate_eq (ctxOf s e c) l
  have hx : { arriveLate (ctxOf s e c) l with pend := tdel (arriveLate (ctxOf s e c) l).pend unit } ≠ ({} : Ctx) :=
    ctx_ne_of_waiting (by rw [hl]; exact hs)
  have hctx := ctxOf_setCtx_same s e c hx
  obtain ⟨data, hw⟩ := wake_last (s := setCtx s e c { arriveLate (ctxOf s e c) l with pend := tdel (arriveLate (ctxOf s e c) l).pend unit })
    (unit := unit) (by rw [hctx, hl]; exact hs) (by rw [hctx, hl]; exact ha)
  rw [answered, hw, hctx]
  refine ⟨?_, ((engineOnly_setCtx ..).trans (engineOnly_setCtx ..)).trans (engineOnly_trace ..)⟩
  rw [ctxOf_trace, ctxOf_setCtx_same _ e c (ctx_ne_of_ready rfl), resumed, hl]

/-- An index walk that finds its account answers with the slot (R65, R164). -/
theorem exec_unitResultArrival_walk {slot : Nat} (v : Dbl) (hs : (ctxOf s e c).state = .waiting) (hp : tget (ctxOf s e c).pend 3 = some 0x31)
    (hw : indexWalk s.led (tgetD (ctxOf s e c).ports 0x30 0) = some slot) :
    exec (.unitResultArrival e c 3 v) s = .next (answered s e c 3 { ports := [(0x3E, BitVec.ofNat 64 slot), (0x3F, 0)], groups := [(8, 0)] }) := by
  have he : exec (.unitResultArrival e c 3 v) s = execUnitResultArrival e c 3 v s := rfl
  have hlive : ¬ ((ctxOf s e c).state = .free ∨ (ctxOf s e c).state = .sweeping) := by simp [hs]
  have hidx : unitResult s e c 3 0x31 v.toNat = some (resultNow s e c [(0x3E, BitVec.ofNat 64 slot), (0x3F, 0)] [(8, 0)] []) := by
    simp only [unitResult, idxResult, hw, if_true]; rfl
  simp only [he, execUnitResultArrival, hp, hlive, hidx, if_false]
  exact congrArg Host.Outcome.next (setCtx_resultNow hs ..)

/-- A lock that passes to a waiting context answers it, with a STATUS that the spec does not give (R169). -/
theorem exec_lockGrant_context {key : Dbl} {k : Lock} (hk : tget s.locks key.toNat = some k) (ho : k.owner.kind = 0) (hep : (ctxOf s k.owner.unit k.owner.slot).epoch = k.epoch)
    (hs : (ctxOf s k.owner.unit k.owner.slot).state = .waiting) (ha : (ctxOf s k.owner.unit k.owner.slot).awaiting = [unitLK]) :
    ∃ s1 status, EngineOnly s s1 ∧ ctxOf s1 k.owner.unit k.owner.slot = ctxOf s k.owner.unit k.owner.slot ∧
      exec (.lockGrant key) s = .next (answered s1 k.owner.unit k.owner.slot unitLK { ports := [(0x4F, status)] }) := by
  have he : exec (.lockGrant key) s = execLockGrant key s := rfl
  have hctx : ctxOf (takeFree 64 (traceLock s trLockGrant k.owner k.epoch key.toNat)).2 k.owner.unit k.owner.slot = ctxOf s k.owner.unit k.owner.slot :=
    ctxOf_congr (traceLock_ctxs ..) ..
  refine ⟨(takeFree 64 (traceLock s trLockGrant k.owner k.epoch key.toNat)).2, (takeFree 64 (traceLock s trLockGrant k.owner k.epoch key.toNat)).1, ?_, hctx, ?_⟩
  · exact (engineOnly_traceLock ..).trans ⟨.refl _, rfl, rfl⟩
  · have hc : (ctxOf s k.owner.unit k.owner.slot).epoch = k.epoch ∧ (ctxOf s k.owner.unit k.owner.slot).state = .waiting ∧
        (ctxOf s k.owner.unit k.owner.slot).awaiting.contains unitLK = true := ⟨hep, hs, by rw [ha]; rfl⟩
    rw [he, execLockGrant, hk]; dsimp only
    rw [if_pos ho, if_pos hc]
    exact congrArg Host.Outcome.next (setCtx_resultNow (hctx ▸ hs) ..)

end

/-! Issue (R155, R156, R166). -/

section
variable {s : State} {e c step : Nat} {raw : Dbl}

/-- A context with its G7 set for its class (R156). -/
def flagged (x : Ctx) (c : Nat) : Ctx := { x with flags := setFlagsG x.flags [(7, isPrioCtx c)] }

/-- What a legal word of a context asks, to be issued with no result due: the word stands at its address, and no error shows. -/
structure LegalWord (s : State) (e c : Nat) (raw : Dbl) : Prop where
  good : s.hw.wordBad.contains (ctxOf s e c).pc.toNat = false
  ready : (ctxOf s e c).state = .ready
  late : (ctxOf s e c).late = []
  fetched : fetchWord s (ctxOf s e c).pc = some raw
  legal : wordIllegal (moveWordOf raw) = false

/-- The engine's step counter and the last context of the class that issued, written for an issue (R166). -/
def issuing (s : State) (e c : Nat) : State :=
  { s with eng := { s.eng with steps := tput s.eng.steps e (tgetD s.eng.steps e 0 + 1),
                               lastPrio := if isPrioCtx c then tput s.eng.lastPrio e c else s.eng.lastPrio,
                               lastOrd := if isPrioCtx c then s.eng.lastOrd else tput s.eng.lastOrd e c } }

/-- A running engine in which no context's store shows an error picks a context, priority contexts first (R166, R173). -/
structure Picks (s : State) (e c : Nat) : Prop where
  runs : enginesRun s e = true
  noBad : badCtx s e = none
  turn : pickCtx s e (isPrioCtx c) = some c
  noPrio : isPrioCtx c = false → pickCtx s e true = none

theorem exec_moveWordIssue (h : Picks s e c) :
    exec (.moveWordIssue e) s = .next (issueWord (issuing s e c) e c (tgetD s.eng.steps e 0 + 1)) := by
  have he : exec (.moveWordIssue e) s = execMoveWordIssue e s := rfl
  have hturn := h.turn
  rw [he, execMoveWordIssue, h.runs, h.noBad, issuing]
  cases hc : isPrioCtx c with
  | true => rw [hc] at hturn; simp [hturn]
  | false => rw [hc] at hturn; simp [hturn, h.noPrio hc]

theorem engineOnly_issuing : EngineOnly s (issuing s e c) := ⟨.refl s, rfl, rfl⟩

theorem LegalWord.issuing (h : LegalWord s e c raw) : LegalWord (issuing s e c) e c raw := ⟨h.good, h.ready, h.late, h.fetched, h.legal⟩

theorem LegalWord.flagged_ne (h : LegalWord s e c raw) : flagged (ctxOf s e c) c ≠ {} := ctx_ne_of_ready h.ready

theorem arriveDue_none {x : Ctx} (h : x.late = []) : arriveDue x step = x := by
  rw [arriveDue, h]
  exact congrArg (fun l => { x with late := l }) h.symm

/-- A word whose guard fails only advances (R156, R157). -/
theorem issueWord_guardFails (h : LegalWord s e c raw) (hg : guardHolds (flagged (ctxOf s e c) c) (moveWordOf raw).guardSel = false) :
    issueWord s e c step = setCtx (trace (setCtx s e c (flagged (ctxOf s e c) c)) e c trIssue raw.toNat 0 false) e c
      { flagged (ctxOf s e c) c with pc := (ctxOf s e c).pc + 1 } := by
  rw [flagged] at hg
  simp only [issueWord, arriveDue_none h.late, h.good, h.fetched, h.legal, hg, Bool.false_eq_true, if_false, Bool.not_false, if_true]
  rfl

/-- A word whose guard holds and that reads no pending result makes its moves and goes on (R155, R157). -/
theorem issueWord_guardHolds (h : LegalWord s e c raw) (hg : guardHolds (flagged (ctxOf s e c) c) (moveWordOf raw).guardSel = true)
    (hw : [(moveWordOf raw).srcA, (moveWordOf raw).srcB].filterMap (pendingSource (flagged (ctxOf s e c) c)) = []) :
    ∃ data, issueWord s e c step = sequence (doMoves (trace (setCtx s e c (flagged (ctxOf s e c) c)) e c trIssue raw.toNat data true) e c step (moveWordOf raw)
      (portVal (flagged (ctxOf s e c) c) (moveWordOf raw).target (moveWordOf raw).srcA)
      (portVal (flagged (ctxOf s e c) c) (moveWordOf raw).target (moveWordOf raw).srcB)) e c (moveWordOf raw) := by
  rw [flagged] at hg hw
  simp only [issueWord, arriveDue_none h.late, h.good, h.fetched, h.legal, hg, hw, Bool.false_eq_true, if_false, Bool.not_true, List.eraseDups_nil, List.isEmpty_nil, if_true]
  exact ⟨_, rfl⟩

/-- A word with SEQ 0 goes on with the next one (R157). -/
theorem sequence_next {w : MoveWord} (h : w.seqOp = 0) : sequence s e c w = setCtx s e c { ctxOf s e c with pc := (ctxOf s e c).pc + 1 } := by
  simp only [sequence, h]

/-- A word that moves literal `k` into register `n` and does nothing else (R152, Table 4.1). -/
structure MovesLiteral (w : MoveWord) (n k : Nat) : Prop where
  always : w.guardSel = 0
  goesOn : w.seqOp = 0
  pos : 0 < n
  reg : n < 16
  dstA : w.dstA = n
  srcA : w.srcA = 0xC0 + k
  lit : k < 48
  srcB : w.srcB = 0
  dstB : w.dstB = 0

section
variable {w : MoveWord} {n k : Nat} (h : MovesLiteral w n k)
include h

theorem MovesLiteral.reads_nothing (x : Ctx) : [w.srcA, w.srcB].filterMap (pendingSource x) = [] := by
  have hk := h.lit
  have hres : portResult (0xC0 + k) = false := by simp [portResult]; omega
  simp [pendingSource, h.srcA, h.srcB, hres, show portResult 0 = false from rfl]

theorem MovesLiteral.value (x : Ctx) (target : Half) : portVal x target w.srcA = BitVec.ofNat 64 k := by
  have hk := h.lit
  rw [h.srcA, portVal, if_neg (by omega), if_neg (by omega), if_neg (by omega), if_pos (by omega), Nat.add_sub_cancel_left]

theorem MovesLiteral.doMoves (s : State) (e c step : Nat) (target : Half) (vb : Dbl) :
    doMoves s e c step w (portVal (ctxOf s e c) target w.srcA) vb = setCtx s e c (putBytes (ctxOf s e c) (8 * n) (le 8 k)) := by
  have hpos := h.pos
  have hreg := h.reg
  have hk := h.lit
  have hempty : emptyMove w.srcA w.dstA = false := by simp [emptyMove, h.srcA]
  have hemptyB : emptyMove w.srcB w.dstB = true := by simp [emptyMove, h.srcB, h.dstB]
  have htrig : portTrigger w.dstA = false := by simp [portTrigger, h.dstA]; omega
  have hval : (BitVec.ofNat 64 k).toNat = k := Nat.mod_eq_of_lt (by omega)
  simp only [Machine.doMoves, startMove, putMove, hempty, hemptyB, htrig, Bool.not_false, Bool.or_true, Bool.true_or, Bool.false_eq_true, if_true, if_false]
  rw [h.value, h.dstA, setPort, if_neg (by omega), if_pos hreg, hval]

end

theorem exec_moveWordIssue_guardFails (hp : Picks s e c) (hw : LegalWord s e c raw) (hg : guardHolds (flagged (ctxOf s e c) c) (moveWordOf raw).guardSel = false) :
    ∃ s', exec (.moveWordIssue e) s = .next s' ∧ ctxOf s' e c = { flagged (ctxOf s e c) c with pc := (ctxOf s e c).pc + 1 } ∧ EngineOnly s s' := by
  have hx : { flagged (ctxOf s e c) c with pc := (ctxOf s e c).pc + 1 } ≠ ({} : Ctx) := ctx_ne_of_ready hw.ready
  refine ⟨_, (exec_moveWordIssue hp).trans (congrArg Host.Outcome.next (issueWord_guardFails hw.issuing hg)), ctxOf_setCtx_same _ e c hx, ?_⟩
  exact (engineOnly_issuing.trans (engineOnly_setCtx ..)).trans ((engineOnly_trace ..).trans (engineOnly_setCtx ..))

theorem exec_moveWordIssue_literal {n k : Nat} (hp : Picks s e c) (hw : LegalWord s e c raw) (hm : MovesLiteral (moveWordOf raw) n k) :
    ∃ s', exec (.moveWordIssue e) s = .next s' ∧ ctxOf s' e c = { putBytes (flagged (ctxOf s e c) c) (8 * n) (le 8 k) with pc := (ctxOf s e c).pc + 1 } ∧ EngineOnly s s' := by
  have hg : guardHolds (flagged (ctxOf s e c) c) (moveWordOf raw).guardSel = true := by rw [hm.always]; rfl
  obtain ⟨data, hi⟩ := issueWord_guardHolds (step := tgetD s.eng.steps e 0 + 1) hw.issuing hg (hm.reads_nothing _)
  have hflag := ctxOf_setCtx_same (issuing s e c) e c hw.issuing.flagged_ne
  generalize hs0 : setCtx (issuing s e c) e c (flagged (ctxOf (issuing s e c) e c) c) = s0 at hi hflag
  have hmoved : putBytes (flagged (ctxOf s e c) c) (8 * n) (le 8 k) ≠ {} := ctx_ne_of_ready (x := putBytes ..) hw.ready
  have hnext : { putBytes (flagged (ctxOf s e c) c) (8 * n) (le 8 k) with pc := (ctxOf s e c).pc + 1 } ≠ ({} : Ctx) := ctx_ne_of_ready hw.ready
  have htr : ctxOf (trace s0 e c trIssue raw.toNat data true) e c = flagged (ctxOf s e c) c := (ctxOf_trace ..).trans hflag
  have hf : flagged (ctxOf (issuing s e c) e c) c = ctxOf (trace s0 e c trIssue raw.toNat data true) e c := htr.symm
  rw [hf, hm.doMoves, sequence_next hm.goesOn, htr, ctxOf_setCtx_same _ e c hmoved] at hi
  refine ⟨_, (exec_moveWordIssue hp).trans (congrArg Host.Outcome.next hi), ctxOf_setCtx_same _ e c hnext, ?_⟩
  have h0 : EngineOnly s s0 := hs0 ▸ engineOnly_issuing.trans (engineOnly_setCtx ..)
  exact (h0.trans (engineOnly_trace ..)).trans ((engineOnly_setCtx ..).trans (engineOnly_setCtx ..))

end

/-! Traces (R178). -/

theorem exec_traceEnable_starts {s : State} {v : Dbl} (hoff : s.eng.traceEnable = false) (hon : v.getLsbD 0 = true) (hleast : 12 ≤ bits v.toNat 12 8) (hmost : bits v.toNat 12 8 ≤ 30)
    (hop : isOperatorFn s (bits v.toNat 31 16) = true) : exec (.traceEnable v) s = .next { s with eng := { s.eng with
      traceFn := bits v.toNat 31 16, traceLog2 := bits v.toNat 12 8, traceOneshot := v.getLsbD 1, traceEnable := true, traceBytes := 0, traceLost := 0 } } := by
  have he : exec (.traceEnable v) s = .next (writeTraceCtl s v) := rfl
  simp only [he, writeTraceCtl, hoff, hon, hleast, hmost, hop, Bool.false_eq_true, and_self, if_false, if_true]

/-- Settles O15: the issues by the context that the word writes (`flagged`, `MovesLiteral`), the results by the wait that they answer (`answered_leaves`). -/
theorem enginesIssueAndReceive : Obligations.EnginesIssueAndReceive := by
  refine ⟨?issue, ?walk, ?lock, ?trace⟩
  case issue =>
    intro s e c raw x w hrun hbad hgood hready hlate hpick hprio hfetch hlegal fl
    have hp : Picks s e c := ⟨hrun, hbad, hpick, hprio⟩
    have hw : LegalWord s e c raw := ⟨hgood, hready, hlate, hfetch, hlegal⟩
    constructor
    · intro hg
      obtain ⟨s', he, hctx, hrest, hjn, hlocks⟩ := exec_moveWordIssue_guardFails hp hw hg
      exact ⟨s', he, hctx, hrest, hjn, hlocks⟩
    · intro n k hg hs hpos hreg hsrc hdst hlit hb hdb
      obtain ⟨s', he, hctx, hrest, hjn, hlocks⟩ := exec_moveWordIssue_literal hp hw ⟨hg, hs, hpos, hreg, hsrc, hdst, hlit, hb, hdb⟩
      exact ⟨s', he, hctx, hrest, hjn, hlocks⟩
  case walk =>
    intro s e c slot v x hs ha hp hw
    obtain ⟨hctx, hrest, hjn, hlocks⟩ := answered_leaves (l := { ports := [(0x3E, BitVec.ofNat 64 slot), (0x3F, 0)], groups := [(8, 0)] }) hs ha
    exact ⟨_, exec_unitResultArrival_walk v hs hp hw, hrest, hjn, hlocks, hctx⟩
  case lock =>
    intro s key l x hl ho hep hs ha
    obtain ⟨s1, status, h1, hx, he⟩ := exec_lockGrant_context hl ho hep hs ha
    obtain ⟨hctx, h2⟩ := answered_leaves (s := s1) (l := { ports := [(0x4F, status)] }) (by rw [hx]; exact hs) (by rw [hx]; exact ha)
    obtain ⟨hrest, hjn, hlocks⟩ := h1.trans h2
    exact ⟨_, status, he, hctx.trans (by rw [hx]; rfl), hrest, hjn, hlocks⟩
  case trace => exact fun s v => exec_traceEnable_starts

end Sys2Proof.Machine
end

section
/-! SUPPORT. Resets of contexts and engines, and the sweeps after them (R163, R168, R171, R173, R175, R176). -/
namespace Sys2Proof.Machine

/-! Tables: what a write of a key leaves of the others, whatever the table holds. -/

section
variable {α : Type} {t : Tbl α} {k m : Nat}

theorem tget_tdel_other (h : m ≠ k) : tget (tdel t k) m = tget t m := by
  induction t with
  | nil => rfl
  | cons e r ih =>
    obtain ⟨k', v'⟩ := e
    rcases Nat.lt_trichotomy k k' with hk | hk | hk
    · simp [tdel, hk, show k ≠ k' by omega]
    · subst hk; simp [tdel, tget_cons, h]
    · simp [tdel, show ¬ k < k' by omega, show k ≠ k' by omega, tget_cons, ih]

theorem mem_tdel {p : Nat × α} (h : p ∈ tdel t k) : p ∈ t := by
  induction t with
  | nil => cases h
  | cons e r ih =>
    obtain ⟨k', v'⟩ := e
    unfold tdel at h
    split at h
    · exact List.mem_cons_of_mem _ h
    · split at h
      · exact h
      · exact (List.mem_cons.mp h).elim (· ▸ List.mem_cons_self ..) fun h => List.mem_cons_of_mem _ (ih h)

theorem mem_tput {p : Nat × α} {v : α} (h : p ∈ tput t k v) : p = (k, v) ∨ p ∈ t := by
  induction t with
  | nil => exact .inl (List.mem_singleton.mp h)
  | cons e r ih =>
    obtain ⟨k', v'⟩ := e
    unfold tput at h
    split at h
    · exact List.mem_cons.mp h
    · split at h
      · exact (List.mem_cons.mp h).imp_right (List.mem_cons_of_mem _)
      · rcases List.mem_cons.mp h with h | h
        · exact .inr (h ▸ List.mem_cons_self ..)
        · exact (ih h).imp_right (List.mem_cons_of_mem _)

variable [DecidableEq α] {d v : α}

theorem tgetD_tset_ne (h : m ≠ k) : tgetD (tset t k d v) m d = tgetD t m d := by
  unfold tset; split
  · rw [tgetD, tget_tdel_other h, tgetD]
  · rw [tgetD, tget_tput_other _ _ h, tgetD]

theorem mem_tset {p : Nat × α} (h : p ∈ tset t k d v) : p = (k, v) ∨ p ∈ t := by
  unfold tset at h; split at h
  · exact .inr (mem_tdel h)
  · exact mem_tput h

end

/-! Decisions tried again leave the engines (R110, R534). -/

section
variable (s : State)

theorem appendRecs_eng (rs : List Rec) (w : Waiter) : (appendRecs s rs w).eng = s.eng := (fabricOnly_appendRecs rs w).eng.trans (placeRecs_eng ..)

theorem appendIf_eng {s' : State} (h : s'.eng = s.eng) (rs : List Rec) (w : Waiter) : (if canAppend s rs = true then appendRecs s' rs w else s).eng = s.eng := by
  split
  · exact (appendRecs_eng ..).trans h
  · rfl

theorem unreserve_eng (k : Nat) : (unreserve s k).eng = s.eng := by
  obtain ⟨n, held, h⟩ := unreserve_tk_jn s k
  rw [h]

theorem unreserveOpt_eng (k : Option Nat) : (unreserveOpt s k).eng = s.eng := by
  cases k with
  | none => rfl
  | some n => exact unreserve_eng s n

theorem coordAdvance_eng (x : Nat) : (coordAdvance s x).eng = s.eng := by
  unfold coordAdvance; dsimp only
  split
  · rfl
  · split
    · split
      · exact appendIf_eng s (s' := setCoord s x _) rfl ..
      · rfl
    · exact appendIf_eng s (s' := setCoord (unreserveOpt s _) x _) (unreserveOpt_eng ..) ..

theorem partAdvance_eng (p : Nat) : (partAdvance s p).eng = s.eng := by
  unfold partAdvance; dsimp only
  split
  · rfl
  · split
    · exact appendRecs_eng ..
    · rfl

theorem advanceClass_eng (prio : Bool) : (advanceClass s prio).eng = s.eng := by
  have hc := List.foldlRecOn (motive := fun t : State => t.eng = s.eng) (s.fab.coords.filter fun e => e.2.rflags.getLsbD 0 == prio)
    (fun st e => coordAdvance st e.1) rfl fun t ht e _ => (coordAdvance_eng t e.1).trans ht
  exact List.foldlRecOn (motive := fun t : State => t.eng = s.eng) _ _ hc fun t ht e _ => (partAdvance_eng t e.1).trans ht

theorem advanceAll_eng : (advanceAll s).eng = s.eng := (advanceClass_eng ..).trans (advanceClass_eng ..)

end

@[simp] theorem trace_resetting (s : State) (e c typ word data : Nat) (g : Bool) : (trace s e c typ word data g).eng.resetting = s.eng.resetting := by
  unfold trace; dsimp only; repeat' split
  all_goals rfl

@[simp] theorem trace_rollfwd (s : State) (e c typ word data : Nat) (g : Bool) : (trace s e c typ word data g).eng.rollfwd = s.eng.rollfwd := by
  unfold trace; dsimp only; repeat' split
  all_goals rfl

/-! A context stopped (R171, R175). -/

section
variable (s : State) (e c : Nat) (cause : Byte) (code : Nat)

/-- What a stop leaves of the context: the epoch is one more, and a context that is not FREE is swept. -/
structure Stopped (x y : Ctx) : Prop where
  epoch : y.epoch = x.epoch + 1
  free : x.state = .free → y.state = .free
  swept : x.state ≠ .free → y.state = .sweeping

/-- A prepared posting handed to the fabric resolver leaves its context swept at the same epoch (R533). -/
theorem handOver_leaves {x : Ctx} (hx : x.state = .sweeping) (n : Nat) : (handOver (setCtx s e c x) e c n).eng.resetting = s.eng.resetting ∧
    ∃ y, y.epoch = x.epoch ∧ y.state = .sweeping ∧ lasting (handOver (setCtx s e c x) e c n) = setCtx (lasting s) e c y := by
  have hne : x ≠ {} := ctx_ne_of_state (by rw [hx]; exact CtxState.noConfusion)
  unfold handOver; dsimp only
  split
  · exact ⟨rfl, x, rfl, hx, rfl⟩
  · rw [coordAdvance_eng, lasting_coordAdvance, ctxOf_setCtx_same s e c hne]
    exact ⟨rfl, { x with ticket := none, entry := {}, phase := .idle }, rfl, hx, setCtx_setCtx (lasting s) e c _ hne⟩

/-- A context stopped: the next epoch, swept, and nothing awaited. -/
def stoppedCtx (x : Ctx) : Ctx := { x with epoch := x.epoch + 1, state := .sweeping, awaiting := [], pend := [], late := [] }

theorem stopCtx_leaves : (stopCtx s e c cause code).eng.resetting = s.eng.resetting ∧
    ∃ y, Stopped (ctxOf s e c) y ∧ lasting (stopCtx s e c cause code) = setCtx (lasting s) e c y := by
  have htr := lasting_of_recorded (recorded_trace s e c trReset (cause.toNat + 256 * code) ((ctxOf s e c).epoch.toNat + 65536 * ((ctxOf s e c).epoch + 1).toNat) false)
  have hres := trace_resetting s e c trReset (cause.toNat + 256 * code) ((ctxOf s e c).epoch.toNat + 65536 * ((ctxOf s e c).epoch + 1).toNat) false
  unfold stopCtx; dsimp only
  generalize trace s e c trReset _ _ = s0 at htr hres ⊢
  rw [← hres, ← htr]
  by_cases hf : (ctxOf s e c).state = .free
  · rw [if_pos hf]
    exact ⟨rfl, { ctxOf s e c with epoch := (ctxOf s e c).epoch + 1 }, ⟨rfl, fun _ => hf, absurd hf⟩, rfl⟩
  · rw [if_neg hf]
    split
    · obtain ⟨hr, y, hep, hst, hl⟩ := handOver_leaves (withdraw s0 (ctxOwner e c) (ctxOf s e c).epoch) e c (x := stoppedCtx (ctxOf s e c)) rfl (ctxOf s e c).entry.seq
      exact ⟨hr, y, ⟨hep, fun h => absurd h hf, fun _ => hst⟩, hl⟩
    · exact ⟨rfl, stoppedCtx (ctxOf s e c), ⟨rfl, fun h => absurd h hf, fun _ => rfl⟩, rfl⟩

end

section
variable {s : State} {e c : Nat} {cause : Byte} {code : Nat}

theorem stopCtx_led : (stopCtx s e c cause code).led = s.led := by
  obtain ⟨-, y, -, hl⟩ := stopCtx_leaves s e c cause code
  exact (congrArg State.led hl :)

/-- A context that is not FREE is swept, at the next epoch (R175). -/
theorem ctxOf_stopCtx_same (h : (ctxOf s e c).state ≠ .free) :
    (ctxOf (stopCtx s e c cause code) e c).state = .sweeping ∧ (ctxOf (stopCtx s e c cause code) e c).epoch = (ctxOf s e c).epoch + 1 := by
  obtain ⟨-, y, hy, hl⟩ := stopCtx_leaves s e c cause code
  have hne : y ≠ {} := ctx_ne_of_state (by rw [hy.swept h]; exact CtxState.noConfusion)
  have hctx : ctxOf (stopCtx s e c cause code) e c = y := (congrArg (ctxOf · e c) hl :).trans (ctxOf_setCtx_same _ e c hne)
  rw [hctx]
  exact ⟨hy.swept h, hy.epoch⟩

theorem ctxKey_ne {c' : Nat} (h : c' ≠ c) : ctxKey e c' ≠ ctxKey e c := fun hk => h (Nat.add_left_cancel hk)

theorem ctxOf_stopCtx_other {c' : Nat} (h : c' ≠ c) : ctxOf (stopCtx s e c cause code) e c' = ctxOf s e c' := by
  obtain ⟨-, y, -, hl⟩ := stopCtx_leaves s e c cause code
  exact (congrArg (ctxOf · e c') hl :).trans (tgetD_tset_ne (ctxKey_ne h))

/-- A FREE context that is stopped begins no sweep. -/
theorem sweepsOn_stopCtx_free (hf : (ctxOf s e c).state = .free) {e' : Nat} (h : sweepsOn s e' = false) : sweepsOn (stopCtx s e c cause code) e' = false := by
  obtain ⟨-, y, hy, hl⟩ := stopCtx_leaves s e c cause code
  have hctxs : (stopCtx s e c cause code).eng.ctxs = tset s.eng.ctxs (ctxKey e c) {} y := (congrArg (fun x : State => x.eng.ctxs) hl :)
  rw [sweepsOn, List.any_eq_false] at h ⊢
  intro p hp
  rw [hctxs] at hp
  rcases mem_tset hp with rfl | hp
  · simp [hy.free hf]
  · exact h p hp

end

/-! Every context of an engine stopped (R173). -/

section
variable {s : State} {e : Nat} {cause : Byte}

/-- The contexts of a list stopped one after another. -/
def stopAll (s : State) (e : Nat) (cause : Byte) (l : List Nat) : State := l.foldl (fun st c => stopCtx st e c cause 0) s

theorem stopAll_leaves (l : List Nat) : (stopAll s e cause l).led = s.led ∧ (stopAll s e cause l).eng.resetting = s.eng.resetting :=
  List.foldlRecOn (motive := fun t : State => t.led = s.led ∧ t.eng.resetting = s.eng.resetting) _ _ ⟨rfl, rfl⟩ fun _ ⟨hl, hr⟩ _ _ =>
    ⟨stopCtx_led.trans hl, (stopCtx_leaves ..).1.trans hr⟩

theorem ctxOf_stopAll_notMem {l : List Nat} {c : Nat} (h : c ∉ l) : ctxOf (stopAll s e cause l) e c = ctxOf s e c :=
  List.foldlRecOn (motive := fun t => ctxOf t e c = ctxOf s e c) _ _ rfl fun _ ht _ hd => (ctxOf_stopCtx_other (ne_of_mem_of_not_mem hd h).symm).trans ht

theorem ctxOf_stopAll_mem {l : List Nat} {c : Nat} (hl : l.Nodup) (hc : c ∈ l) (h : (ctxOf s e c).state ≠ .free) :
    (ctxOf (stopAll s e cause l) e c).state = .sweeping ∧ (ctxOf (stopAll s e cause l) e c).epoch = (ctxOf s e c).epoch + 1 := by
  induction l generalizing s with
  | nil => cases hc
  | cons d l ih =>
    obtain ⟨hd, hl⟩ := List.nodup_cons.mp hl
    by_cases hcd : c = d
    · subst hcd
      have hlater : ctxOf (stopAll s e cause (c :: l)) e c = ctxOf (stopCtx s e c cause 0) e c := ctxOf_stopAll_notMem hd
      rw [hlater]
      exact ctxOf_stopCtx_same h
    · have hother : ctxOf (stopCtx s e d cause 0) e c = ctxOf s e c := ctxOf_stopCtx_other hcd
      have := ih (s := stopCtx s e d cause 0) hl ((List.mem_cons.mp hc).resolve_left hcd) (by rw [hother]; exact h)
      rwa [hother] at this

theorem sweepsOn_stopAll_free {l : List Nat} (hl : l.Nodup) (hf : ∀ c ∈ l, (ctxOf s e c).state = .free) (h : sweepsOn s e = false) :
    sweepsOn (stopAll s e cause l) e = false := by
  induction l generalizing s with
  | nil => exact h
  | cons d l ih =>
    obtain ⟨hd, hl⟩ := List.nodup_cons.mp hl
    refine ih (s := stopCtx s e d cause 0) hl (fun c hc => ?_) (sweepsOn_stopCtx_free (hf d (List.mem_cons_self ..)) h)
    rw [ctxOf_stopCtx_other (ne_of_mem_of_not_mem hc hd)]
    exact hf c (List.mem_cons_of_mem _ hc)

theorem sweepsOn_of_sweeping {c : Nat} (hc : c < 256) (h : (ctxOf s e c).state = .sweeping) : sweepsOn s e = true := by
  have hne : ctxOf s e c ≠ {} := ctx_ne_of_state (by rw [h]; exact CtxState.noConfusion)
  have hkey : ctxKey e c / 256 = e := by unfold ctxKey; omega
  exact List.any_eq_true.mpr ⟨_, mem_of_tget (tget_ctxs_of_ne s e c hne), by simp [hkey, h]⟩

/-- A reset of an engine: its contexts are stopped, and it takes no command while one of them is swept (R173). -/
theorem resetEngine_leaves (s : State) (e : Nat) (cause : Byte) : (resetEngine s e cause).eng.ctxs = (stopAll s e cause (List.range 256)).eng.ctxs ∧
    (resetEngine s e cause).eng.resetting = (if sweepsOn (stopAll s e cause (List.range 256)) e then insertUp e s.eng.resetting else s.eng.resetting) ∧
    (resetEngine s e cause).led = s.led := by
  obtain ⟨hl, hr⟩ := stopAll_leaves (s := s) (e := e) (cause := cause) (List.range 256)
  have hfold : (List.range 256).foldl (fun st c => stopCtx st e c cause 0) s = stopAll s e cause (List.range 256) := rfl
  rw [← hl, ← hr]
  unfold resetEngine; dsimp only
  rw [hfold]
  generalize stopAll s e cause (List.range 256) = s1
  split
  · simp only [logFault_eng, logFault_led, and_self]
  · simp only [logFault_eng, logFault_led, and_self]

/-- The seventh reset of a context within 1 ms or an earlier one resets that context alone (R173). -/
theorem lasting_resetCtx {c : Nat} (code : Nat) (h : (recent s.tb 1000000 (tgetD s.eng.resetTimes e [])).length < 7) :
    lasting (resetCtx s e c cause code) = lasting (stopCtx s e c cause code) := by
  have hfew : ¬ 8 ≤ (s.tb :: recent s.tb 1000000 (tgetD s.eng.resetTimes e [])).length := by rw [List.length_cons]; omega
  unfold resetCtx; dsimp only
  rw [if_neg hfew]
  exact lasting_of_recorded (recorded_logFault ..)

theorem resetCtx_leaves {c : Nat} (code : Nat) (h : (recent s.tb 1000000 (tgetD s.eng.resetTimes e [])).length < 7) (hx : (ctxOf s e c).state ≠ .free) :
    (ctxOf (resetCtx s e c cause code) e c).state = .sweeping ∧ (ctxOf (resetCtx s e c cause code) e c).epoch = (ctxOf s e c).epoch + 1 ∧
    (resetCtx s e c cause code).led = s.led := by
  have hl := lasting_resetCtx (cause := cause) (c := c) code h
  obtain ⟨hstate, hepoch⟩ := ctxOf_stopCtx_same (cause := cause) (code := code) hx
  have hctx : ctxOf (resetCtx s e c cause code) e c = ctxOf (stopCtx s e c cause code) e c := (congrArg (ctxOf · e c) hl :)
  rw [hctx]
  exact ⟨hstate, hepoch, (congrArg State.led hl :).trans stopCtx_led⟩

end

/-! The events that reset (R163, R168). -/

section
variable {s : State} {e c : Nat} {v : Dbl}

theorem exec_contextWatchdog_late (hw : (ctxOf s e c).state = .waiting) (ht : (ctxOf s e c).since + 2000000 ≤ s.tb) :
    exec (.contextWatchdog e c) s = .next (resetCtx s e c causeWatchdog 0) := congrArg Host.Outcome.next (if_pos ⟨hw, ht⟩)

theorem exec_weResetContext_one (he : bits v.toNat 5 0 = e) (hc : bits v.toNat 15 8 = c) (ha : v.getLsbD 16 = false) (hin : engineIn s e = true) :
    exec (.weResetContext v) s = .next (resetCtx s e c causeOperator 0) := by
  have hx : exec (.weResetContext v) s = .next (writeWeReset s v) := rfl
  simp only [hx, writeWeReset, he, hc, ha, hin, Bool.not_true, Bool.false_eq_true, if_false]

theorem exec_weResetEngine_all (he : bits v.toNat 5 0 = e) (ha : v.getLsbD 16 = true) (hin : engineIn s e = true) :
    exec (.weResetEngine v) s = .next (resetEngine s e causeOperator) := by
  have hx : exec (.weResetEngine v) s = .next (writeWeReset s v) := rfl
  simp only [hx, writeWeReset, he, ha, hin, Bool.not_true, Bool.false_eq_true, if_false, if_true]

end

/-! The sweep's end (R175, R176): what it leaves of the books, the journal and the contexts. -/

section
variable {s s' : State} {e c : Nat}

theorem recorded_sweptFree (h : recorded s' = recorded s) : recorded (sweptFree s' e c) = setCtx (recorded s) e c { epoch := (ctxOf s e c).epoch } := by
  have hf := recorded_freeCtx e c ((recorded_releaseDead s' (ctxOwner e c) (ctxOf s' e c).epoch).trans h)
  unfold sweptFree; dsimp only
  split
  · exact hf
  · exact hf

theorem recorded_led (s : State) : (recorded s).led = s.led := rfl
theorem recorded_ctxs (s : State) : (recorded s).eng.ctxs = s.eng.ctxs := rfl

theorem sweptFree_led (h : recorded s' = recorded s) : (sweptFree s' e c).led = s.led := by
  rw [← recorded_led, recorded_sweptFree h]; rfl

theorem sweptFree_ctxs (h : recorded s' = recorded s) : (sweptFree s' e c).eng.ctxs = tset s.eng.ctxs (ctxKey e c) {} { epoch := (ctxOf s e c).epoch } := by
  rw [← recorded_ctxs, recorded_sweptFree h]; rfl

theorem recorded_sweptCompl (s : State) (e c : Nat) (r : Compl) : recorded (sweptCompl s e c r) = recorded s := by
  unfold sweptCompl; dsimp only
  split
  · rfl
  · split
    · exact recorded_unreserve ..
    · exact (recorded_complete ..).trans (recorded_unreserve ..)

theorem recorded_sweptKey (s : State) (e c : Nat) : recorded (sweptKey s e c) = recorded s := by
  unfold sweptKey
  repeat' split
  · rfl
  · exact recorded_keyAbandon ..
  · rfl
  · rfl

/-- The state in which a sweep's end looks at the recovery entry: a checkpoint of the context that was not yet written is given up. -/
def sweepBegun (s : State) (e c : Nat) : State :=
  let s0 := trace s e c trSweep (recStateNum (ctxOf s e c).entry.state) (ctxOf s e c).entry.seq
  match s0.jn.ckpt with
  | some k => if k.e = e ∧ k.c = c ∧ ¬ k.written then { s0 with jn := { s0.jn with ckpt := none } } else s0
  | none => s0

/-- What the sweep's completion says of a command that was never appended (R175). -/
def resetCompl (s : State) (e c : Nat) : Compl :=
  { (ctxOf s e c).compl with status := stContextReset, info := if ctxOp (sweepBegun s e c) e c = some 0x06 then 0x6200 else 0, seq := 0 }

/-- A durable entry's records applied, and its key flipped where they say so (R175). -/
def redone (s : State) (e c : Nat) : State :=
  let x := ctxOf s e c
  let rs := entryRecs (sweepBegun s e c) x
  let s2 := rs.foldl applyRec (sweepBegun s e c)
  match x.ticket with
  | some k => match ticketOf s2 k with
    | some t => if cOp t.cmd = 0x18 ∧ (rs.head?.map fun (r : Rec) => r.status) = some 0 then keyFlip s2 t.cmd else s2
    | none => s2
  | none => s2

/-- A durable entry counted as rolled forward (Table 4.8). -/
def rolledForward (s : State) (e c : Nat) : State :=
  let s2 := (entryRecs (sweepBegun s e c) (ctxOf s e c)).foldl applyRec (sweepBegun s e c)
  let s3 := redone s e c
  trace { s3 with eng := { s3.eng with rollfwd := sat (2 ^ 32 - 1) (s3.eng.rollfwd + 1) } } e c trRollfwd (accountsWritten (sweepBegun s e c).led s2.led) (ctxOf s e c).entry.seq

/-- A swept context in whose stead no participant's posting stands. -/
structure SweepsOwn (s : State) (e c : Nat) : Prop where
  sweeping : (ctxOf s e c).state = .sweeping
  noPart : partOfCtx s e c = none

theorem SweepsOwn.noPart_trace (h : SweepsOwn s e c) (typ word data : Nat) : partOfCtx (trace s e c typ word data) e c = none := by
  rw [partOfCtx, trace_fab]; exact h.noPart

theorem exec_sweepEnd_taken (h : SweepsOwn s e c) (ht : (ctxOf s e c).entry.state = .taken) :
    exec (.sweepEnd e c) s = .next (advanceAll (sweptFree (sweptCompl (sweptKey (sweepBegun s e c) e c) e c (resetCompl s e c)) e c)) := by
  have he : exec (.sweepEnd e c) s = .next (advanceAll (sweepEnd s e c)) := rfl
  simp only [he, sweepEnd, h.sweeping, ht, ne_eq, not_true_eq_false, reduceCtorEq, false_and, or_self, if_false, h.noPart_trace]
  simp only [resetCompl, sweepBegun, ht] <;> rfl

theorem exec_sweepEnd_durable (h : SweepsOwn s e c) (ht : (ctxOf s e c).entry.state = .durable) :
    exec (.sweepEnd e c) s = .next (advanceAll (sweptFree (sweptCompl (rolledForward s e c) e c
      (recsCompl (entryRecs (sweepBegun s e c) (ctxOf s e c)) (ctxOf s e c))) e c)) := by
  have he : exec (.sweepEnd e c) s = .next (advanceAll (sweepEnd s e c)) := rfl
  simp only [he, sweepEnd, h.sweeping, ht, ne_eq, not_true_eq_false, reduceCtorEq, false_and, or_self, if_false, h.noPart_trace]
  simp only [rolledForward, redone, sweepBegun, ht] <;> rfl

theorem recorded_sweepBegun (s : State) (e c : Nat) : recorded (sweepBegun s e c) = recorded s := by
  have htr := recorded_trace s e c trSweep (recStateNum (ctxOf s e c).entry.state) (ctxOf s e c).entry.seq false
  unfold sweepBegun; dsimp only
  split
  · split
    · exact htr
    · exact htr
  · exact htr

theorem sweepBegun_leaves (s : State) (e c : Nat) : (sweepBegun s e c).fab = s.fab ∧ (sweepBegun s e c).store = s.store ∧ (sweepBegun s e c).eng.rollfwd = s.eng.rollfwd := by
  have htr : ∀ n m, (trace s e c trSweep n m).fab = s.fab ∧ (trace s e c trSweep n m).store = s.store ∧ (trace s e c trSweep n m).eng.rollfwd = s.eng.rollfwd :=
    fun _ _ => ⟨trace_fab .., trace_store .., trace_rollfwd ..⟩
  unfold sweepBegun; dsimp only
  split
  · split
    · exact htr ..
    · exact htr ..
  · exact htr ..

/-! The records of the entry applied (R57, R175). -/

/-- What the apply of a record reads and writes of the books. -/
def booked (s : State) : State := { led := s.led, fab := s.fab, store := s.store }

theorem booked_applyRec (s : State) (r : Rec) : booked (applyRec s r) = booked (applyRec (booked s) r) := by
  have hn : booked (noteDays s r) = booked (noteDays (booked s) r) := by
    unfold noteDays
    repeat' split
    all_goals rfl
  exact (congrArg (fun x : State => { x with led := recordEffect s.led r (prepFor s r) (cfgRevDays s) }) hn :)

theorem booked_foldl_applyRec (h : booked s' = booked s) (rs : List Rec) : booked (rs.foldl applyRec s') = booked (rs.foldl applyRec s) := by
  induction rs generalizing s s' with
  | nil => exact h
  | cons r rs ih => exact ih (by rw [booked_applyRec, h, ← booked_applyRec])

theorem applyRec_eng (s : State) (r : Rec) : (applyRec s r).eng = s.eng := by
  have hn : (noteDays s r).eng = s.eng := by
    unfold noteDays
    repeat' split
    all_goals rfl
  exact hn

theorem foldl_applyRec_eng (s : State) (rs : List Rec) : (rs.foldl applyRec s).eng = s.eng :=
  List.foldlRecOn (motive := fun t : State => t.eng = s.eng) _ _ rfl fun t ht r _ => (applyRec_eng t r).trans ht

theorem keyFlip_eng (s : State) (cmd : Cmd) : (keyFlip s cmd).eng = s.eng := by
  have hretire : ∀ (t : State) (n : Nat) (b : Bool), (retireAfter t n b).eng = t.eng := fun t n b => by
    unfold retireAfter; dsimp only
    split
    · rfl
    · split <;> rfl
  unfold keyFlip; dsimp only
  split
  · rfl
  · split
    · exact hretire ..
    · exact (hretire ..).trans (logFault_eng ..)

/-- A flip of the key leaves the books, the contexts and the count of entries rolled forward. -/
theorem redone_leaves (s : State) (e c : Nat) : (redone s e c).eng = (sweepBegun s e c).eng ∧
    (redone s e c).led = ((entryRecs s (ctxOf s e c)).foldl applyRec s).led := by
  have hb := recorded_sweepBegun s e c
  obtain ⟨hfab, hstore, -⟩ := sweepBegun_leaves s e c
  have hblocks : (sweepBegun s e c).jn.blocks = s.jn.blocks := (congrArg (fun x : State => x.jn.blocks) hb :)
  have hsame : (sweepBegun s e c).led = s.led := (congrArg State.led hb :)
  have hrs : entryRecs (sweepBegun s e c) (ctxOf s e c) = entryRecs s (ctxOf s e c) := by rw [entryRecs, hblocks, entryRecs]
  have hbook : booked (sweepBegun s e c) = booked s := by rw [booked, hfab, hstore, hsame, booked]
  have hled : ((entryRecs s (ctxOf s e c)).foldl applyRec (sweepBegun s e c)).led = ((entryRecs s (ctxOf s e c)).foldl applyRec s).led :=
    (congrArg State.led (booked_foldl_applyRec hbook _) :)
  have heng := foldl_applyRec_eng (sweepBegun s e c) (entryRecs s (ctxOf s e c))
  unfold redone; dsimp only
  rw [hrs]
  have hflip : ∀ cmd, (keyFlip ((entryRecs s (ctxOf s e c)).foldl applyRec (sweepBegun s e c)) cmd).eng = (sweepBegun s e c).eng ∧
      (keyFlip ((entryRecs s (ctxOf s e c)).foldl applyRec (sweepBegun s e c)) cmd).led = ((entryRecs s (ctxOf s e c)).foldl applyRec s).led := fun cmd =>
    ⟨(keyFlip_eng ..).trans heng, (congrArg State.led (recorded_keyFlip _ cmd) : _).trans hled⟩
  repeat' split
  · exact hflip _
  all_goals exact ⟨heng, hled⟩

/-! The count of entries rolled forward (Table 4.8) stands at a sweep's end. -/

theorem releaseLock_rollfwd (s : State) (o : Owner) (ep : Half) (k : Nat) : (releaseLock s o ep k).eng.rollfwd = s.eng.rollfwd := by
  have htr : (traceLock s trLockRel o ep k).eng.rollfwd = s.eng.rollfwd := by
    unfold traceLock; split
    · exact trace_rollfwd ..
    · rfl
  unfold releaseLock; dsimp only
  split
  · rfl
  · split
    · split <;> exact htr
    · rfl

theorem releaseDead_rollfwd (s : State) (o : Owner) (cur : Half) : (releaseDead s o cur).eng.rollfwd = s.eng.rollfwd :=
  List.foldlRecOn (motive := fun t : State => t.eng.rollfwd = s.eng.rollfwd) _ _ rfl fun t ht k _ => by
    split
    · exact (releaseLock_rollfwd ..).trans ht
    · exact ht

theorem enqueueHeld_eng (s : State) : (enqueueHeld s).eng = s.eng := by
  have hone : ∀ (t : State) (k : Nat), (enqueueLadle t k).eng = t.eng := fun t k => by
    unfold enqueueLadle; split
    · split <;> rfl
    · rfl
  exact List.foldlRecOn (motive := fun t : State => t.eng = s.eng) _ _ rfl fun t ht k _ => (hone t k).trans ht

theorem freeCtx_rollfwd (s : State) (e c : Nat) : (freeCtx s e c).eng.rollfwd = s.eng.rollfwd := by
  unfold freeCtx endFence; split
  · rw [enqueueHeld_eng]; rfl
  · rfl

theorem sweptFree_rollfwd (s : State) (e c : Nat) : (sweptFree s e c).eng.rollfwd = s.eng.rollfwd := by
  have hf := (freeCtx_rollfwd (releaseDead s (ctxOwner e c) (ctxOf s e c).epoch) e c).trans (releaseDead_rollfwd ..)
  unfold sweptFree; dsimp only
  split
  · exact hf
  · exact hf

theorem complete_eng (s : State) (k : Nat) (r : Compl) : (complete s k r).eng = s.eng := by
  have ho : ∀ t, ordered t = ordered s → t.eng = s.eng := fun _ h => (congrArg State.eng h :)
  unfold complete; dsimp only
  split
  · rfl
  · split
    · split
      · exact ho _ (ordered_flushTray ..)
      · exact ho _ (ordered_issueTicket ..)
    · rfl
    · exact ho _ (ordered_issueTicket ..)

theorem sweptCompl_eng (s : State) (e c : Nat) (r : Compl) : (sweptCompl s e c r).eng = s.eng := by
  unfold sweptCompl; dsimp only
  split
  · rfl
  · split
    · exact unreserve_eng ..
    · exact (complete_eng ..).trans (unreserve_eng ..)

/-! What the end of a sweep leaves, by the state of the entry. -/

/-- The sweep of a context whose command had appended nothing leaves the books and frees the context at its epoch (R175). -/
theorem exec_sweepEnd_taken_leaves (h : SweepsOwn s e c) (ht : (ctxOf s e c).entry.state = .taken) : ∃ s', exec (.sweepEnd e c) s = .next s' ∧ s'.led = s.led ∧
    s'.eng.ctxs = tset s.eng.ctxs (ctxKey e c) {} { epoch := (ctxOf s e c).epoch } := by
  have hr := ((recorded_sweptCompl _ e c (resetCompl s e c)).trans (recorded_sweptKey _ e c)).trans (recorded_sweepBegun s e c)
  exact ⟨_, exec_sweepEnd_taken h ht, (advanceAll_led _).trans (sweptFree_led hr), (advanceAll_ctxs _).trans (sweptFree_ctxs hr)⟩

/-- The sweep of a context with a durable entry applies its records and counts it (R175). -/
theorem exec_sweepEnd_durable_leaves (h : SweepsOwn s e c) (ht : (ctxOf s e c).entry.state = .durable) : ∃ s', exec (.sweepEnd e c) s = .next s' ∧
    s'.led = ((entryRecs s (ctxOf s e c)).foldl applyRec s).led ∧ s'.eng.ctxs = tset s.eng.ctxs (ctxKey e c) {} { epoch := (ctxOf s e c).epoch } ∧
    s'.eng.rollfwd = sat (2 ^ 32 - 1) (s.eng.rollfwd + 1) := by
  obtain ⟨heng, hled⟩ := redone_leaves s e c
  obtain ⟨-, -, hroll⟩ := sweepBegun_leaves s e c
  have hctxs : (rolledForward s e c).eng.ctxs = s.eng.ctxs := by
    rw [rolledForward, trace_ctxs, heng]
    exact (congrArg (fun x : State => x.eng.ctxs) (recorded_sweepBegun s e c) :)
  have hr := recorded_sweptCompl (rolledForward s e c) e c (recsCompl (entryRecs (sweepBegun s e c) (ctxOf s e c)) (ctxOf s e c))
  refine ⟨_, exec_sweepEnd_durable h ht, ?_, ?_, ?_⟩
  · rw [advanceAll_led, sweptFree_led hr, rolledForward, trace_led, ← hled]
  · rw [advanceAll_ctxs, sweptFree_ctxs hr, ctxOf_congr hctxs, hctxs]
  · rw [advanceAll_eng, sweptFree_rollfwd, sweptCompl_eng, rolledForward, trace_rollfwd, heng, hroll]

end

/-- Settles O16: the resets by what a stop writes of its context (`Stopped`), the sweeps by what they leave of the books and the contexts. -/
theorem contextResetsAreSwept : Obligations.ContextResetsAreSwept := by
  refine ⟨?one, ?engine, ?sweep⟩
  case one =>
    intro s e c x hfew hx
    exact ⟨fun hw ht => ⟨_, exec_contextWatchdog_late hw ht, resetCtx_leaves 0 hfew hx⟩, fun v he hc ha hin => ⟨_, exec_weResetContext_one he hc ha hin, resetCtx_leaves 0 hfew hx⟩⟩
  case engine =>
    intro s e v he ha hin
    obtain ⟨hctxs, hres, hled⟩ := resetEngine_leaves s e causeOperator
    have hstop : ∀ c, c < 256 → (ctxOf s e c).state ≠ .free → (ctxOf (stopAll s e causeOperator (List.range 256)) e c).state = .sweeping ∧
        (ctxOf (stopAll s e causeOperator (List.range 256)) e c).epoch = (ctxOf s e c).epoch + 1 := fun c hc => ctxOf_stopAll_mem List.nodup_range (List.mem_range.mpr hc)
    refine ⟨_, exec_weResetEngine_all he ha hin, hled, ?_, fun hoff hfree => ?_, fun c hc hx => ?_⟩
    · rintro ⟨c, hc, hx⟩
      rw [hres, if_pos (sweepsOn_of_sweeping hc (hstop c hc hx).1)]
      exact mem_insertUp.mpr (.inl rfl)
    · have hnone := sweepsOn_stopAll_free (cause := causeOperator) List.nodup_range (fun c hc => hfree c (List.mem_range.mp hc)) hoff
      rw [hres, hnone, if_neg Bool.false_ne_true]
    · rw [ctxOf_congr hctxs]
      exact hstop c hc hx
  case sweep =>
    intro s e c x hx hp _
    exact ⟨exec_sweepEnd_taken_leaves ⟨hx, hp⟩, exec_sweepEnd_durable_leaves ⟨hx, hp⟩⟩

end Sys2Proof.Machine
end

section
/-! SUPPORT. What a command on one tray leaves: the other trays, and all of the state but the host link, the tickets and what goes out. -/
namespace Sys2Proof.Machine

/-- A tray without its push slots, its completions and their egg timer, its quarantine and its violation counts. -/
def Tray.base (x : Tray) : Tray :=
  { x with slots := [], flight := [], lastIssued := 0, eggC := 0, eggT0 := 0, quar := false, quarFill := false, discard := 0, winStart := none, window := 0, unlogged := 0, total := 0 }

/-! The frame of a command on one tray. -/

/-- A state without the host link and what went out. -/
def aside (s : State) : State := { s with host := {}, out := [] }

/-- As `aside`, and without the tickets that are held. -/
def apart (s : State) : State := { aside s with tk := { s.tk with held := [] } }

/-- A state differs from another in one tray alone, and where a view of the state does not look. -/
structure WithinTray (view : State → State) (f t : Nat) (s s' : State) : Prop where
  rest : view s' = view s
  others : ∀ f' t', trayKey f' t' ≠ trayKey f t → trayOf s' f' t' = trayOf s f' t'

section
variable {view : State → State} {f t : Nat} {s s1 s2 : State}

theorem WithinTray.refl (s : State) : WithinTray view f t s s := ⟨rfl, fun _ _ _ => rfl⟩

theorem WithinTray.trans (h1 : WithinTray view f t s s1) (h2 : WithinTray view f t s1 s2) : WithinTray view f t s s2 :=
  ⟨h2.rest.trans h1.rest, fun f' t' h => (h2.others f' t' h).trans (h1.others f' t' h)⟩

theorem WithinTray.apart (h : WithinTray aside f t s s1) : WithinTray apart f t s s1 :=
  ⟨(congrArg (fun u : State => { u with tk := { u.tk with held := [] } }) h.rest :), h.others⟩

theorem WithinTray.foldl {α : Type} {g : State → α → State} (h : ∀ s a, WithinTray view f t s (g s a)) (l : List α) (s : State) : WithinTray view f t s (l.foldl g s) :=
  List.foldlRecOn (motive := fun u => WithinTray view f t s u) l g (.refl s) fun u hu a _ => hu.trans (h u a)

theorem WithinTray.of_trays (hr : view s1 = view s) (ht : s1.host.trays = s.host.trays) : WithinTray view f t s s1 :=
  ⟨hr, fun f' t' _ => trayOf_congr s f' t' ht⟩

theorem tk_of_aside (h : aside s1 = aside s) : s1.tk = s.tk := by injection h
theorem jn_of_aside (h : aside s1 = aside s) : s1.jn = s.jn := by injection h
theorem jn_of_apart (h : apart s1 = apart s) : s1.jn = s.jn := by injection h
theorem nextOrder_of_apart (h : apart s1 = apart s) : s1.tk.nextOrder = s.tk.nextOrder := (congrArg (fun u : State => u.tk.nextOrder) h :)

end

section
variable (s : State) (f t : Nat)

theorem trayOf_setTray_other {f' t' : Nat} (x : Tray) (h : trayKey f' t' ≠ trayKey f t) : trayOf (setTray s f t x) f' t' = trayOf s f' t' :=
  tgetD_tset_ne h

theorem within_setTray (x : Tray) : WithinTray aside f t s (setTray s f t x) := ⟨rfl, fun _ _ => trayOf_setTray_other s f t x⟩
theorem within_setFn (g : Nat) (x : Fn) : WithinTray aside f t s (setFn s g x) := .of_trays rfl rfl
theorem within_emit (o : Out) : WithinTray aside f t s (emit s o) := .of_trays rfl rfl

theorem within_host (h : HostLink) (ht : h.trays = s.host.trays) : WithinTray aside f t s { s with host := h } := .of_trays rfl ht

theorem within_raiseEntry (g n : Nat) : WithinTray aside f t s (raiseEntry s g n) := by
  unfold raiseEntry msixOut; dsimp only
  split
  · exact within_setFn ..
  · split
    · exact .refl s
    · exact within_emit ..

theorem within_raiseVector : WithinTray aside f t s (raiseVector s f t) := by
  unfold raiseVector; dsimp only
  split
  · exact within_setTray ..
  · exact (within_setTray ..).trans (within_raiseEntry ..)

theorem within_eggCount : WithinTray aside f t s (eggCount s f t) := by
  unfold eggCount; dsimp only
  split
  · exact (within_setTray ..).trans (within_raiseVector ..)
  · exact within_setTray ..

theorem within_writeCompl (q : Word) (c : Compl) : WithinTray aside f t s (writeCompl s f t q c) := by
  have hresp : WithinTray aside f t s (if c.resp.isEmpty then s else dmaOut s f c.respAddr c.resp) := by
    split
    · exact .refl s
    · exact within_emit ..
  exact ((hresp.trans (within_emit ..)).trans (within_setTray ..)).trans (within_eggCount ..)

theorem within_issueTicket (k : Nat) : WithinTray apart f t s (issueTicket s k) := by
  unfold issueTicket
  split
  · exact .refl s
  · exact .of_trays rfl rfl

theorem within_flushFlights (n : Nat) : WithinTray apart f t s (flushFlights n s f t) := by
  induction n generalizing s with
  | zero => exact .refl s
  | succ n ih =>
    unfold flushFlights; dsimp only
    split
    · exact .refl s
    next fl rest _ =>
      split
      · exact .refl s
      next c _ =>
        split
        · exact .refl s
        · refine WithinTray.trans ?_ (ih _)
          have hset : WithinTray apart f t s (setTray s f t { trayOf s f t with flight := rest }) := (within_setTray ..).apart
          have hwrite : WithinTray apart f t s (if (trayOf s f t).enable then writeCompl (setTray s f t { trayOf s f t with flight := rest }) f t fl.seq c
              else setTray s f t { trayOf s f t with flight := rest }) := by
            split
            · exact hset.trans (within_writeCompl ..).apart
            · exact hset
          split
          · exact hwrite.trans (within_issueTicket ..)
          · exact hwrite

theorem within_flushTray : WithinTray apart f t s (flushTray s f t) := within_flushFlights ..

/-! Violations (R225 to R227). -/

theorem putViol_trays (g : Nat) (r : Bytes) : (putViol s g r).host.trays = s.host.trays := by
  unfold putViol; dsimp only
  split
  · simp [setFn]
  · rfl

theorem within_putViol (g : Nat) (r : Bytes) : WithinTray aside f t s (putViol s g r) := by
  refine .of_trays ?_ (putViol_trays s g r)
  unfold putViol ringOut; dsimp only
  repeat' split
  all_goals rfl

/-- What a violation writes: the tray's counts and its quarantine, and a record. -/
theorem violate_cases (kind code : Byte) (q : Word) (off : Nat) (b : Bytes) : ∃ x : Tray, x.base = (trayOf s f t).base ∧ x.flight = (trayOf s f t).flight ∧
    ((trayOf s f t).quar = true → x.quar = true ∧ x.quarFill = (trayOf s f t).quarFill) ∧
    (violate s f t kind code q off b = setTray s f t x ∨ ∃ r, violate s f t kind code q off b = putViol (setTray s f t x) f r) := by
  refine ⟨_, ?base, ?flight, ?quar, iteInduction (motive := fun u => u = _ ∨ ∃ r, u = putViol _ f r) (fun _ => .inr ⟨_, rfl⟩) fun _ => .inl rfl⟩
  case base => exact iteInduction (motive := fun x : Tray => x.base = _) (fun _ => rfl) fun _ => rfl
  case flight => exact iteInduction (motive := fun x : Tray => x.flight = _) (fun _ => rfl) fun _ => rfl
  case quar =>
    intro hq
    rw [if_neg (fun h => h.2 hq)]
    exact ⟨hq, rfl⟩

theorem within_violate (kind code : Byte) (q : Word) (off : Nat) (b : Bytes) : WithinTray aside f t s (violate s f t kind code q off b) := by
  obtain ⟨x, -, -, -, h | ⟨r, h⟩⟩ := violate_cases s f t kind code q off b
  · rw [h]; exact within_setTray ..
  · rw [h]; exact (within_setTray ..).trans (within_putViol ..)

theorem within_dropStale : WithinTray aside f t s (dropStale s f t) := by
  refine (within_setTray ..).trans (WithinTray.foldl (fun u e => ?_) _ _)
  split
  · exact within_violate ..
  · exact .refl u

theorem within_raiseExpect : WithinTray aside f t s (raiseExpect s f t) := (within_setTray ..).trans (within_dropStale ..)

theorem within_writeFill (st : Byte) : WithinTray apart f t s (writeFill s f t st) :=
  ((within_setTray ..).apart.trans (within_flushTray ..)).trans (within_raiseExpect ..).apart

/-- The state in which a command that has passed the sieve stands last in its tray's order and waits for its ticket (R215). -/
def waitQueued (s : State) (f t : Nat) (c : Cmd) (q : Word) : State :=
  setTray s f t { trayOf s f t with flight := (trayOf s f t).flight ++ [{ seq := q }], waiting := some { cmd := c, seq := q } }

/-- A command that has passed the sieve waits; EXPECT has risen, and its extension descriptors are in the store (R192, R208). -/
def passedCmd (s : State) (f t : Nat) (c : Cmd) (q : Word) (n : Nat) : State :=
  let s1 := raiseExpect (waitQueued s f t c q) f t
  { s1 with host := { s1.host with extUsed := s1.host.extUsed + n } }

/-- A command that the sieve refuses has its completion in the tray's order, and a violation (R211, R226). -/
def failedCmd (s : State) (f t : Nat) (c : Cmd) (code : Byte) (off : Nat) : State :=
  let x := trayOf s f t
  let fl : Flight := { seq := c.traySeq, done := some (plainCompl code (cHostTag c) c.pushed) }
  violate (flushTray (raiseExpect (setTray s f t { x with flight := x.flight ++ [fl] }) f t) f t) f t 0x01 code c.traySeq off c.desc

theorem acceptCmd_passes {s : State} {f t : Nat} {desc ext : Bytes} {pushed : Bool} {c' : Cmd}
    (h : sieve s (trayCmd s f t desc ext pushed) (taskQueueFull s (trayCmd s f t desc ext pushed)) = .inr c') :
    acceptCmd s f t desc ext pushed = passedCmd s f t c' (seqOf desc) (ext.length / 128) := by
  unfold acceptCmd; dsimp only
  rw [h]
  rfl

theorem acceptCmd_fails {s : State} {f t : Nat} {desc ext : Bytes} {pushed : Bool} {code : Byte} {off : Nat}
    (h : sieve s (trayCmd s f t desc ext pushed) (taskQueueFull s (trayCmd s f t desc ext pushed)) = .inl (code, off)) :
    acceptCmd s f t desc ext pushed = failedCmd s f t (trayCmd s f t desc ext pushed) code off := by
  unfold acceptCmd; dsimp only
  rw [h]
  rfl

theorem within_passedCmd (c : Cmd) (q : Word) (n : Nat) : WithinTray aside f t s (passedCmd s f t c q n) :=
  ((within_setTray ..).trans (within_raiseExpect ..)).trans (within_host (raiseExpect (waitQueued s f t c q) f t) f t _ rfl)

theorem within_failedCmd (c : Cmd) (code : Byte) (off : Nat) : WithinTray apart f t s (failedCmd s f t c code off) := by
  unfold failedCmd; dsimp only
  refine WithinTray.trans ?_ (within_violate ..).apart
  exact ((within_setTray ..).trans (within_raiseExpect ..)).apart.trans (within_flushTray ..)

theorem within_acceptCmd (desc ext : Bytes) (pushed : Bool) : WithinTray apart f t s (acceptCmd s f t desc ext pushed) := by
  cases h : sieve s (trayCmd s f t desc ext pushed) (taskQueueFull s (trayCmd s f t desc ext pushed)) with
  | inl r => rw [acceptCmd_fails h]; exact within_failedCmd ..
  | inr c => rw [acceptCmd_passes h]; exact (within_passedCmd ..).apart

theorem within_takeCommand : WithinTray apart f t s (takeCommand s f t) := by
  unfold takeCommand; dsimp only
  split
  · exact .refl s
  · split
    · split
      · exact (within_setTray ..).apart.trans (within_acceptCmd ..)
      · exact .refl s
    · split
      · exact .refl s
      · split
        · exact ((within_setTray ..).trans (within_violate ..)).apart
        · split
          · exact (within_setTray ..).apart.trans (within_acceptCmd ..)
          · exact .refl s

theorem within_extFree (c : Cmd) : WithinTray aside f t s (extFree s c) := .of_trays rfl rfl

theorem within_refuseWaiting (w : Waiting) (code : Byte) : WithinTray apart f t s (refuseWaiting s f t w code) :=
  ((within_extFree ..).trans (within_setTray ..)).apart.trans (within_flushTray ..)

theorem within_flrIdle : WithinTray aside f t s (flrIdle s f t) := by
  unfold flrIdle
  split
  · exact within_setTray ..
  · exact .refl s

theorem within_pushHalfWrite (off : Nat) (b : Bytes) {s' : State} (h : exec (.pushHalfWrite f off b) s = .next s') : WithinTray aside f (off / 4096) s s' := by
  obtain rfl := Host.Outcome.next.inj h
  dsimp only
  split
  · exact .refl s
  · split
    · exact within_setTray ..
    · split
      · exact (within_setTray ..).trans (within_violate ..)
      · exact within_setTray ..

end

/-! Each command on one tray, by what it writes. -/

section
variable {s s' : State} {f t : Nat}

theorem within_pushHalfTimeout {k : Nat} (h : exec (.pushHalfTimeout f t k) s = .next s') : WithinTray aside f t s s' := by
  obtain rfl := Host.Outcome.next.inj h
  dsimp only
  split
  · exact .refl s
  · split
    · exact (within_setTray ..).trans (within_violate ..)
    · exact .refl s

theorem within_ringReadCompletion {b : Bytes} (h : exec (.ringReadCompletion f t b) s = .next s') : WithinTray aside f t s s' := by
  obtain rfl := Host.Outcome.next.inj h
  dsimp only
  split
  · exact .refl s
  · exact (within_setTray ..).trans (within_flrIdle ..)

theorem within_ringReadFail (h : exec (.ringReadFail f t) s = .next s') : WithinTray aside f t s s' := by
  obtain rfl := Host.Outcome.next.inj h
  dsimp only
  split
  · exact .refl s
  · refine WithinTray.trans ?_ (within_flrIdle ..)
    have hnote : ∀ u r, WithinTray aside f t u (emit (putViol u f r) (.aer f)) := fun u r => (within_putViol ..).trans (within_emit ..)
    split
    · exact (within_setTray ..).trans (hnote ..)
    · exact ((within_setTray ..).trans (hnote ..)).trans (within_raiseVector ..)

theorem within_seqWaitFill (h : exec (.seqWaitFill f t) s = .next s') : WithinTray apart f t s s' := by
  obtain rfl := Host.Outcome.next.inj h
  dsimp only
  split
  · exact .refl s
  · split
    · exact (within_writeFill ..).trans (within_violate ..).apart
    · exact .refl s

/-- With no return due, the end of a WAIT_LIMIT refuses its tray's command or does nothing. -/
theorem within_waitLimitExpiry (hd : dueTickets s = []) (h : exec (.waitLimitExpiry f t) s = .next s') : WithinTray apart f t s s' := by
  obtain rfl := Host.Outcome.next.inj h
  dsimp only
  rw [returnDue_none hd]
  split
  · exact .refl s
  · split
    · split
      · exact within_refuseWaiting ..
      · exact .refl s
    · split <;> exact .refl s

theorem within_eggTimerTime (h : exec (.eggTimerTime f t) s = .next s') : WithinTray aside f t s s' := by
  obtain rfl := Host.Outcome.next.inj h
  dsimp only
  split
  · exact within_raiseVector ..
  · exact .refl s

theorem within_quarantineFill (h : exec (.quarantineFill f t) s = .next s') : WithinTray apart f t s s' := by
  obtain rfl := Host.Outcome.next.inj h
  dsimp only
  split
  · exact ((within_setTray ..).apart.trans (within_writeFill ..)).trans ((within_raiseVector ..).trans (within_putViol ..)).apart
  · exact .refl s

theorem within_violationWindowEnd (h : exec (.violationWindowEnd f t) s = .next s') : WithinTray aside f t s s' := by
  obtain rfl := Host.Outcome.next.inj h
  dsimp only
  split
  · exact .refl s
  · split
    · exact within_setTray ..
    · exact .refl s

end

/-- Settles O18: each command writes its own tray, tickets, registers of the host link and what goes out (`WithinTray`). -/
theorem trayCommandsTouchOneTray : Obligations.TrayCommandsTouchOneTray := by
  intro s s' f t i hi h
  have hw : WithinTray apart f t s s' := by
    rcases hi with rfl | ⟨k, rfl⟩ | ⟨d, rfl⟩ | rfl | rfl | ⟨rfl, hd⟩ | rfl | rfl | rfl | ⟨off, d, rfl, ho⟩
    · obtain rfl := Host.Outcome.next.inj h; exact within_takeCommand ..
    · exact (within_pushHalfTimeout h).apart
    · exact (within_ringReadCompletion h).apart
    · exact (within_ringReadFail h).apart
    · exact within_seqWaitFill h
    · exact within_waitLimitExpiry hd h
    · exact (within_eggTimerTime h).apart
    · exact within_quarantineFill h
    · exact (within_violationWindowEnd h).apart
    · have hpage : (4096 * t + off) / 4096 = t := by omega
      exact hpage ▸ (within_pushHalfWrite s f _ d h).apart
  refine ⟨hw.others, ?_⟩
  have hr := hw.rest
  exact ⟨(congrArg State.led hr :), (congrArg State.jn hr :), (congrArg State.cores hr :), (congrArg State.mem hr :), (congrArg State.fab hr :),
    (congrArg State.guard hr :), (congrArg State.eng hr :)⟩

end Sys2Proof.Machine
end

section
/-! SUPPORT. What the tray's own operations leave of it: what it takes stands while violations are noted and completions go out (R194, R206, R217, R220, R226). -/
namespace Sys2Proof.Machine

section
variable {x y : Tray}

/-- A tray that no write of its completions, quarantine or counts makes a default one. -/
def Tray.marked (x : Tray) : Prop := x.enable = true ∨ x.readErr = true

theorem Tray.marked.ne (h : x.marked) : x ≠ {} := by
  rintro rfl
  rcases h with h | h <;> cases h

theorem enable_of_base (h : y.base = x.base) : y.enable = x.enable := (congrArg Tray.enable h :)
theorem readErr_of_base (h : y.base = x.base) : y.readErr = x.readErr := (congrArg Tray.readErr h :)
theorem expect_of_base (h : y.base = x.base) : y.expect = x.expect := (congrArg Tray.expect h :)
theorem waiting_of_base (h : y.base = x.base) : y.waiting = x.waiting := (congrArg Tray.waiting h :)
theorem crHead_of_base (h : y.base = x.base) : y.crHead = x.crHead := (congrArg Tray.crHead h :)
theorem rdDone_of_base (h : y.base = x.base) : y.rdDone = x.rdDone := (congrArg Tray.rdDone h :)
theorem rdRuns_of_base (h : y.base = x.base) : y.rdRuns = x.rdRuns := (congrArg Tray.rdRuns h :)
theorem flr_of_base (h : y.base = x.base) : y.flr = x.flr := (congrArg Tray.flr h :)
theorem marked_of_base (h : y.base = x.base) (hx : x.marked) : y.marked := hx.imp (enable_of_base h).trans (readErr_of_base h).trans

theorem base_raised (h : y.base = x.base) : { y with expect := y.expect + 1 }.base = { x with expect := x.expect + 1 }.base :=
  (congrArg (fun z : Tray => { z with expect := z.expect + 1 }) h :)

end

/-- A tray stands but for its push slots, completions, egg timer, quarantine and counts; a quarantine in force stands too, and so does what has gone out. -/
structure Keeps (f t : Nat) (s s' : State) : Prop where
  base : (trayOf s' f t).base = (trayOf s f t).base
  quar : (trayOf s f t).quar = true → (trayOf s' f t).quar = true ∧ (trayOf s' f t).quarFill = (trayOf s f t).quarFill
  out : s.out ⊆ s'.out

/-- As `Keeps`, and the tray's order of completions stands. -/
structure Notes (f t : Nat) (s s' : State) : Prop extends Keeps f t s s' where
  flight : (trayOf s' f t).flight = (trayOf s f t).flight

section
variable {f t : Nat} {s s1 s2 : State}

theorem Keeps.refl (s : State) : Keeps f t s s := ⟨rfl, fun h => ⟨h, rfl⟩, List.Subset.refl _⟩

theorem Keeps.trans (h1 : Keeps f t s s1) (h2 : Keeps f t s1 s2) : Keeps f t s s2 :=
  ⟨h2.base.trans h1.base, fun h => ⟨(h2.quar (h1.quar h).1).1, (h2.quar (h1.quar h).1).2.trans (h1.quar h).2⟩, List.Subset.trans h1.out h2.out⟩

theorem Keeps.marked (h : Keeps f t s s1) (hm : (trayOf s f t).marked) : (trayOf s1 f t).marked := marked_of_base h.base hm

theorem Notes.refl (s : State) : Notes f t s s := ⟨.refl s, rfl⟩
theorem Notes.trans (h1 : Notes f t s s1) (h2 : Notes f t s1 s2) : Notes f t s s2 := ⟨h1.toKeeps.trans h2.toKeeps, h2.flight.trans h1.flight⟩

theorem Notes.of_trays (ht : s1.host.trays = s.host.trays) (ho : s.out ⊆ s1.out) : Notes f t s s1 := by
  have hx := trayOf_congr s f t ht
  exact ⟨⟨by rw [hx], fun h => by rw [hx]; exact ⟨h, rfl⟩, ho⟩, by rw [hx]⟩

theorem keeps_setTray {x : Tray} (hm : (trayOf s f t).marked) (hb : x.base = (trayOf s f t).base)
    (hq : (trayOf s f t).quar = true → x.quar = true ∧ x.quarFill = (trayOf s f t).quarFill) : Keeps f t s (setTray s f t x) := by
  have hx := trayOf_setTray_same s f t (marked_of_base hb hm).ne
  exact ⟨by rw [hx, hb], fun h => by rw [hx]; exact hq h, List.Subset.refl _⟩

theorem notes_setTray {x : Tray} (hm : (trayOf s f t).marked) (hb : x.base = (trayOf s f t).base) (hf : x.flight = (trayOf s f t).flight)
    (hq : (trayOf s f t).quar = true → x.quar = true ∧ x.quarFill = (trayOf s f t).quarFill) : Notes f t s (setTray s f t x) :=
  ⟨keeps_setTray hm hb hq, by rw [trayOf_setTray_same s f t (marked_of_base hb hm).ne, hf]⟩

end

section
variable {s : State} {f t : Nat}

/-! Violations and the pushes left behind (R206, R226). -/

theorem notes_putViol (g : Nat) (r : Bytes) : Notes f t s (putViol s g r) := by
  refine .of_trays (putViol_trays s g r) ?_
  unfold putViol ringOut; dsimp only
  split
  · split
    · exact List.Subset.refl _
    · exact List.subset_append_left ..
  · exact List.Subset.refl _

theorem notes_violate (hm : (trayOf s f t).marked) (kind code : Byte) (q : Word) (off : Nat) (b : Bytes) : Notes f t s (violate s f t kind code q off b) := by
  obtain ⟨x, hb, hf, hq, h | ⟨r, h⟩⟩ := violate_cases s f t kind code q off b
  · rw [h]; exact notes_setTray hm hb hf hq
  · rw [h]; exact (notes_setTray hm hb hf hq).trans (notes_putViol ..)

theorem notes_dropStale (hm : (trayOf s f t).marked) : Notes f t s (dropStale s f t) := by
  refine List.foldlRecOn (motive := fun u => Notes f t s u) _ _ (notes_setTray hm rfl rfl fun h => ⟨h, rfl⟩) fun u hu e _ => ?_
  split
  · exact hu.trans (notes_violate (hu.marked hm) ..)
  · exact hu

/-- EXPECT raised by 1 leaves the rest of the tray (R208). -/
theorem notes_raiseExpect (hm : (trayOf s f t).marked) : Notes f t (setTray s f t { trayOf s f t with expect := (trayOf s f t).expect + 1 }) (raiseExpect s f t) := by
  have hx := trayOf_setTray_same s f t (x := { trayOf s f t with expect := (trayOf s f t).expect + 1 }) (Tray.marked.ne hm)
  exact notes_dropStale (by rw [hx]; exact hm)

theorem raiseExpect_tray (hm : (trayOf s f t).marked) : (trayOf (raiseExpect s f t) f t).base = { trayOf s f t with expect := (trayOf s f t).expect + 1 }.base ∧
    (trayOf (raiseExpect s f t) f t).flight = (trayOf s f t).flight ∧ s.out ⊆ (raiseExpect s f t).out ∧
    ((trayOf s f t).quar = true → (trayOf (raiseExpect s f t) f t).quar = true ∧ (trayOf (raiseExpect s f t) f t).quarFill = (trayOf s f t).quarFill) := by
  obtain ⟨⟨hb, hq, ho⟩, hf⟩ := notes_raiseExpect hm
  rw [trayOf_setTray_same s f t (x := { trayOf s f t with expect := (trayOf s f t).expect + 1 }) (Tray.marked.ne hm)] at hb hq hf
  exact ⟨hb, hf, ho, hq⟩

/-! Completions and vectors (R194, R217, R220). -/

theorem keeps_raiseVector (hm : (trayOf s f t).marked) : Keeps f t s (raiseVector s f t) := by
  have hset : Keeps f t s (setTray s f t { trayOf s f t with eggC := 0, eggT0 := 0 }) := keeps_setTray hm rfl fun h => ⟨h, rfl⟩
  unfold raiseVector; dsimp only
  split
  · exact hset
  · obtain ⟨htrays, -, hout⟩ := raiseEntry_leaves (setTray s f t { trayOf s f t with eggC := 0, eggT0 := 0 }) f t
    exact hset.trans (Notes.of_trays htrays hout).toKeeps

theorem keeps_eggCount (hm : (trayOf s f t).marked) : Keeps f t s (eggCount s f t) := by
  have hset : Keeps f t s (setTray s f t { trayOf s f t with eggC := (trayOf s f t).eggC + 1, eggT0 := if (trayOf s f t).eggC = 0 then s.tb else (trayOf s f t).eggT0 }) :=
    keeps_setTray hm rfl fun h => ⟨h, rfl⟩
  unfold eggCount; dsimp only
  split
  · exact hset.trans (keeps_raiseVector (hset.marked hm))
  · exact hset

theorem keeps_emit (o : Out) : Keeps f t s (emit s o) := (Notes.of_trays (s := s) (s1 := emit s o) rfl (List.subset_append_left ..)).toKeeps

theorem keeps_writeCompl (hm : (trayOf s f t).marked) (q : Word) (c : Compl) : Keeps f t s (writeCompl s f t q c) := by
  have hresp : Keeps f t s (if c.resp.isEmpty then s else dmaOut s f c.respAddr c.resp) := by
    split
    · exact .refl s
    · exact keeps_emit ..
  have hentry := hresp.trans (keeps_emit (.dma f ((trayOf s f t).cqBase + BitVec.ofNat 64 (32 * (q.toNat % 2 ^ cqLog2 (trayOf s f t)))) (complBytes c q)))
  have hcount : ∀ u, Keeps f t s u → Keeps f t s (eggCount (setTray u f t { trayOf u f t with lastIssued := q }) f t) := fun u hu => by
    have hset := hu.trans (keeps_setTray (x := { trayOf u f t with lastIssued := q }) (hu.marked hm) rfl fun h => ⟨h, rfl⟩)
    exact hset.trans (keeps_eggCount (hset.marked hm))
  exact hcount _ hentry

theorem keeps_issueTicket (k : Nat) : Keeps f t s (issueTicket s k) := by
  have htrays : (issueTicket s k).host.trays = s.host.trays := by unfold issueTicket; split <;> rfl
  have hout : (issueTicket s k).out = s.out := by unfold issueTicket; split <;> rfl
  exact (Notes.of_trays htrays (hout ▸ List.Subset.refl _)).toKeeps

theorem keeps_flushFlights (n : Nat) (hm : (trayOf s f t).marked) : Keeps f t s (flushFlights n s f t) := by
  induction n generalizing s with
  | zero => exact .refl s
  | succ n ih =>
    unfold flushFlights; dsimp only
    split
    · exact .refl s
    next fl rest _ =>
      split
      · exact .refl s
      next c _ =>
        split
        · exact .refl s
        · have hset : Keeps f t s (setTray s f t { trayOf s f t with flight := rest }) := keeps_setTray hm rfl fun h => ⟨h, rfl⟩
          have hwrite : Keeps f t s (if (trayOf s f t).enable then writeCompl (setTray s f t { trayOf s f t with flight := rest }) f t fl.seq c
              else setTray s f t { trayOf s f t with flight := rest }) := by
            split
            · exact hset.trans (keeps_writeCompl (hset.marked hm) ..)
            · exact hset
          split
          · exact (hwrite.trans (keeps_issueTicket _)).trans (ih ((hwrite.trans (keeps_issueTicket _)).marked hm))
          · exact hwrite.trans (ih (hwrite.marked hm))

theorem keeps_flushTray (hm : (trayOf s f t).marked) : Keeps f t s (flushTray s f t) := keeps_flushFlights _ hm

/-! A fill (R210, R227). -/

/-- The state in which a fill stands last in the tray's order. -/
def fillQueued (s : State) (f t : Nat) (st : Byte) : State :=
  setTray s f t { trayOf s f t with flight := (trayOf s f t).flight ++ [{ seq := (trayOf s f t).expect, done := some { status := st, fill := true } }] }

theorem keeps_fillQueued (hm : (trayOf s f t).marked) (st : Byte) : Keeps f t s (flushTray (fillQueued s f t st) f t) := by
  have hset : Keeps f t s (fillQueued s f t st) := keeps_setTray hm rfl fun h => ⟨h, rfl⟩
  exact hset.trans (keeps_flushTray (hset.marked hm))

theorem writeFill_tray (hm : (trayOf s f t).marked) (st : Byte) :
    (trayOf (writeFill s f t st) f t).base = { trayOf s f t with expect := (trayOf s f t).expect + 1 }.base ∧
    ((trayOf s f t).quar = true → (trayOf (writeFill s f t st) f t).quar = true ∧ (trayOf (writeFill s f t st) f t).quarFill = (trayOf s f t).quarFill) := by
  have hk := keeps_fillQueued hm st
  obtain ⟨hb, -, -, hq⟩ := raiseExpect_tray (hk.marked hm)
  exact ⟨hb.trans (base_raised hk.base), fun h => ⟨(hq (hk.quar h).1).1, (hq (hk.quar h).1).2.trans (hk.quar h).2⟩⟩

/-- The fill of an enabled tray with no completion before it goes out at once, and no ticket moves. -/
theorem writeFill_sole (he : (trayOf s f t).enable = true) (hf : (trayOf s f t).flight = []) (hp : s.board.powerFail = false) (st : Byte) :
    (writeFill s f t st).tk = s.tk ∧
    .dma f ((trayOf s f t).cqBase + BitVec.ofNat 64 (32 * ((trayOf s f t).expect.toNat % 2 ^ cqLog2 (trayOf s f t))))
      (complBytes { status := st, fill := true } (trayOf s f t).expect) ∈ (writeFill s f t st).out := by
  have hx : trayOf (fillQueued s f t st) f t = { trayOf s f t with flight := [{ seq := (trayOf s f t).expect, done := some { status := st, fill := true } }] } := by
    rw [fillQueued, hf]; exact trayOf_setTray_same _ f t (tray_ne_of_enable he)
  have hsingle := flushTray_single (s := fillQueued s f t st) (f := f) (t := t) (by rw [hx]) rfl rfl (by rw [hx]; exact he) hp
  rw [hx] at hsingle
  have hy := trayOf_setTray_same (fillQueued s f t st) f t (x := { trayOf s f t with flight := [] }) (tray_ne_of_enable he)
  obtain ⟨-, -, hout⟩ := writeCompl_leaves (s := setTray (fillQueued s f t st) f t { trayOf s f t with flight := [] }) (f := f) (t := t) (trayOf s f t).expect
    (r := { status := st, fill := true }) (by rw [hy]; exact he) rfl
  rw [hy] at hout
  have hk := keeps_fillQueued (.inl he) st
  obtain ⟨-, -, ho, -⟩ := raiseExpect_tray (hk.marked (.inl he))
  refine ⟨?_, ho (hsingle ▸ hout)⟩
  have htk : (flushTray (fillQueued s f t st) f t).tk = s.tk := by rw [hsingle]; exact tk_of_steady (steady_writeCompl ..)
  exact (tk_of_aside (within_raiseExpect ..).rest).trans htk

end

end Sys2Proof.Machine
end

section
/-! SUPPORT. What a tray takes and what reaches it: pushes, ring slots, fills (R199, R206 to R211, R223). -/
namespace Sys2Proof.Machine

/-! The sieve does not see what a tray holds but for the commands that wait (R211, R317). -/

/-- An entry written at a key that a test passes over neither before nor after leaves what the test keeps. -/
theorem filter_tput {α : Type} {p : Nat × α → Bool} {t : Tbl α} {k : Nat} {v : α} (hv : p (k, v) = false) (ho : ∀ w, tget t k = some w → p (k, w) = false) :
    (tput t k v).filter p = t.filter p := by
  induction t with
  | nil => simp [tput, hv]
  | cons e r ih =>
    obtain ⟨k', v'⟩ := e
    unfold tput
    split
    · simp [hv]
    · split
      · subst_vars
        have hold := ho v' (by simp [tget_cons])
        simp [hv, hold]
      next hk =>
        have hr := ih fun w hw => ho w (by rw [tget_cons, if_neg hk, hw])
        simp [List.filter_cons, hr]

section
variable {s : State} {f t : Nat}

theorem taskQueueFull_setTray {x : Tray} (hx : x ≠ {}) (hw : x.waiting = none) (ho : (trayOf s f t).waiting = none) (c : Cmd) :
    taskQueueFull (setTray s f t x) c = taskQueueFull s c := by
  have hold : ∀ w, tget s.host.trays (trayKey f t) = some w → w.waiting = none := fun w h => by
    rw [trayOf, tgetD, h] at ho; exact ho
  have hwait := filter_tput (p := fun e : Nat × Tray => e.2.waiting.any fun w => decide (cOp w.cmd = cOp c)) (t := s.host.trays) (k := trayKey f t) (v := x)
    (by simp [hw]) fun w h => by simp [hold w h]
  simp only [taskQueueFull, setTray, tset, if_neg hx, hwait]

theorem sieve_setTray {x : Tray} (hx : x ≠ {}) (hw : x.waiting = none) (ho : (trayOf s f t).waiting = none) (desc ext : Bytes) (pushed : Bool) :
    sieve (setTray s f t x) (trayCmd (setTray s f t x) f t desc ext pushed) (taskQueueFull (setTray s f t x) (trayCmd (setTray s f t x) f t desc ext pushed)) =
      sieve s (trayCmd s f t desc ext pushed) (taskQueueFull s (trayCmd s f t desc ext pushed)) := by
  have hc : trayCmd (setTray s f t x) f t desc ext pushed = trayCmd s f t desc ext pushed := rfl
  rw [taskQueueFull_setTray hx hw ho, hc]
  rfl

/-! A command taken, by what the sieve answers. -/

/-- A command that passes waits at the end of its tray's order, and EXPECT rises. -/
theorem passedCmd_tray (hm : (trayOf s f t).marked) (c : Cmd) (q : Word) (n : Nat) :
    (trayOf (passedCmd s f t c q n) f t).base = { trayOf s f t with expect := (trayOf s f t).expect + 1, waiting := some { cmd := c, seq := q } }.base ∧
    (trayOf (passedCmd s f t c q n) f t).flight = (trayOf s f t).flight ++ [{ seq := q }] := by
  have hx : trayOf (waitQueued s f t c q) f t = { trayOf s f t with flight := (trayOf s f t).flight ++ [{ seq := q }], waiting := some { cmd := c, seq := q } } :=
    trayOf_setTray_same s f t (Tray.marked.ne hm)
  have htrays : (passedCmd s f t c q n).host.trays = (raiseExpect (waitQueued s f t c q) f t).host.trays := rfl
  obtain ⟨hb, hf, -, -⟩ := raiseExpect_tray (s := waitQueued s f t c q) (f := f) (t := t) (by rw [hx]; exact hm)
  rw [hx] at hb hf
  rw [trayOf_congr _ f t htrays]
  exact ⟨hb, hf⟩

/-- A command that the sieve refuses raises EXPECT and leaves no command waiting. -/
theorem failedCmd_tray (hm : (trayOf s f t).marked) (c : Cmd) (code : Byte) (off : Nat) :
    (trayOf (failedCmd s f t c code off) f t).base = { trayOf s f t with expect := (trayOf s f t).expect + 1 }.base := by
  have hset : Keeps f t s (setTray s f t { trayOf s f t with flight := (trayOf s f t).flight ++ [{ seq := c.traySeq, done := some (plainCompl code (cHostTag c) c.pushed) }] }) :=
    keeps_setTray hm rfl fun h => ⟨h, rfl⟩
  obtain ⟨hb, -, -, -⟩ := raiseExpect_tray (hset.marked hm)
  have hr := hb.trans (base_raised hset.base)
  have hflush := keeps_flushTray (marked_of_base hr hm)
  have hv := (notes_violate (hflush.marked (marked_of_base hr hm)) 0x01 code c.traySeq off c.desc).base
  exact (hv.trans hflush.base).trans hr

/-- What lets a tray take a command: it runs, none of its commands waits, and there is completion credit (R208, R209, R215). -/
structure Taking (s : State) (f t : Nat) : Prop where
  runs : hostRuns s = true
  running : trayRunning (trayOf s f t) = true
  idle : (trayOf s f t).waiting = none
  credit : hasCredit (trayOf s f t) = true

theorem enable_of_running {x : Tray} (h : trayRunning x = true) : x.enable = true := by
  simp only [trayRunning, Bool.and_eq_true] at h
  exact h.1.1

theorem Taking.enable (h : Taking s f t) : (trayOf s f t).enable = true := enable_of_running h.running

theorem Taking.passes (h : Taking s f t) : ¬ ((!hostRuns s || !trayRunning (trayOf s f t) || (trayOf s f t).waiting.isSome) = true) := by
  simp [h.runs, h.running, h.idle]

theorem exec_trayCommandTake_push {k : Nat} {p : PushSlot} (h : Taking s f t) (hp : eligiblePush (trayOf s f t) = some (k, p)) :
    exec (.trayCommandTake f t) s = .next (acceptCmd (setTray s f t { trayOf s f t with slots := tdel (trayOf s f t).slots k }) f t (p.half0.getD [] ++ p.half1.getD []) [] true) := by
  have he : exec (.trayCommandTake f t) s = .next (takeCommand s f t) := rfl
  simp only [he, takeCommand, if_neg h.passes, hp, h.credit, if_true]

theorem exec_trayCommandTake_ring {b : Bytes} {n : Nat} (h : Taking s f t) (hp : eligiblePush (trayOf s f t) = none) (hr : ringHead (trayOf s f t) = some (b, n))
    (hq : seqOf b = (trayOf s f t).expect) (hx : s.host.extUsed + (n - 1) ≤ 16384) :
    exec (.trayCommandTake f t) s = .next (acceptCmd (setTray s f t (consumeRing s.tb (trayOf s f t) n)) f t b (((trayOf s f t).ring.take n).drop 1).flatten false) := by
  have he : exec (.trayCommandTake f t) s = .next (takeCommand s f t) := rfl
  have hd : seqDist (trayOf s f t) (seqOf b) = 0 := by simp [seqDist, hq]
  have hnear : ¬ 15 < 0 := by omega
  simp only [he, takeCommand, if_neg h.passes, hp, hr, hd, if_neg hnear, h.credit, hx, and_self, if_true]

/-- A tray from which a command has been taken passes it through the sieve. -/
theorem acceptCmd_taken {x : Tray} (he : x.enable = true) (hw : x.waiting = none) (ho : (trayOf s f t).waiting = none) {desc ext : Bytes} {pushed : Bool} {c' : Cmd}
    (hs : sieve s (trayCmd s f t desc ext pushed) (taskQueueFull s (trayCmd s f t desc ext pushed)) = .inr c') :
    let s' := acceptCmd (setTray s f t x) f t desc ext pushed
    (trayOf s' f t).base = { x with expect := x.expect + 1, waiting := some { cmd := c', seq := seqOf desc } }.base ∧
    (trayOf s' f t).flight = x.flight ++ [{ seq := seqOf desc }] ∧ s'.tk = s.tk ∧ s'.jn = s.jn := by
  have hx := trayOf_setTray_same s f t (tray_ne_of_enable he)
  have hp := passedCmd_tray (s := setTray s f t x) (f := f) (t := t) (by rw [hx]; exact .inl he) c' (seqOf desc) (ext.length / 128)
  have hr := (within_passedCmd (setTray s f t x) f t c' (seqOf desc) (ext.length / 128)).rest
  dsimp only
  rw [acceptCmd_passes ((sieve_setTray (tray_ne_of_enable he) hw ho desc ext pushed).trans hs)]
  rw [hx] at hp
  exact ⟨hp.1, hp.2, tk_of_aside hr, jn_of_aside hr⟩

/-- A tray from which a command has been taken answers one that the sieve refuses. -/
theorem acceptCmd_refused {x : Tray} (he : x.enable = true) (hw : x.waiting = none) (ho : (trayOf s f t).waiting = none) {desc ext : Bytes} {pushed : Bool} {code : Byte} {off : Nat}
    (hs : sieve s (trayCmd s f t desc ext pushed) (taskQueueFull s (trayCmd s f t desc ext pushed)) = .inl (code, off)) :
    let s' := acceptCmd (setTray s f t x) f t desc ext pushed
    (trayOf s' f t).base = { x with expect := x.expect + 1 }.base ∧ s'.tk.nextOrder = s.tk.nextOrder ∧ s'.jn = s.jn := by
  have hx := trayOf_setTray_same s f t (tray_ne_of_enable he)
  have hp := failedCmd_tray (s := setTray s f t x) (f := f) (t := t) (by rw [hx]; exact .inl he) (trayCmd s f t desc ext pushed) code off
  have hr := (within_failedCmd (setTray s f t x) f t (trayCmd s f t desc ext pushed) code off).rest
  dsimp only
  rw [acceptCmd_fails ((sieve_setTray (tray_ne_of_enable he) hw ho desc ext pushed).trans hs)]
  rw [hx] at hp
  exact ⟨hp, nextOrder_of_apart hr, jn_of_apart hr⟩

/-! Pushes (R206). -/

theorem exec_pushHalfWrite {off : Nat} {data : Bytes} (hx : trayExists s f (off / 4096) = true) (he : (trayOf s f (off / 4096)).enable = true)
    (hp : s.board.powerFail = false) (hq : (trayOf s f (off / 4096)).quar = false) (hf : pushFault (trayOf s f (off / 4096)) (off % 4096) data = none) :
    let x := trayOf s f (off / 4096)
    let p := tgetD x.slots (off % 4096 / 128) { first := s.tb }
    let q := if off % 4096 % 128 = 0 then { p with half0 := some data } else { p with half1 := some data }
    exec (.pushHalfWrite f off data) s =
      .next (setTray s f (off / 4096) { x with slots := tput x.slots (off % 4096 / 128) (if halves q = 2 then { q with whole := s.tb } else q) }) := by
  have hx' : exec (.pushHalfWrite f off data) s = execPushHalfWrite f off data s := rfl
  simp [hx', execPushHalfWrite, hx, he, hp, hq, hf]

theorem exec_pushHalfTimeout {k : Nat} {p : PushSlot} (hp : tget (trayOf s f t).slots k = some p) (hh : halves p = 1) (ht : p.first + 8000 ≤ s.tb) :
    exec (.pushHalfTimeout f t k) s = .next (violate (setTray s f t { trayOf s f t with slots := tdel (trayOf s f t).slots k }) f t 0x02 0x06
      (match p.half0 with | some h => seqOf h | none => 0) 0 (p.half0.getD (p.half1.getD []))) := by
  have hx : exec (.pushHalfTimeout f t k) s = execPushHalfTimeout f t k s := rfl
  rw [hx, execPushHalfTimeout]; dsimp only
  rw [hp]
  exact congrArg Host.Outcome.next (if_pos ⟨hh, ht⟩)

/-! Ring slots (R199, R223). -/

theorem flrIdle_stays (h : (trayOf s f t).flr = false) : flrIdle s f t = s := by simp [flrIdle, h]

theorem flrIdle_out (s : State) (f t : Nat) : (flrIdle s f t).out = s.out := by unfold flrIdle; split <;> rfl

/-- A tray with the ring slots that a read brought. -/
def slotsArrived (tb : Nat) (x : Tray) (data : Bytes) : Tray :=
  let n := data.length / 128
  let y := { x with rdDone := x.rdDone + BitVec.ofNat 32 n, rdRuns := runsAfter n x.rdRuns, ring := if x.enable ∧ ¬ x.readErr then x.ring ++ pieces 128 n data else x.ring }
  { y with headSince := if (ringHead x).isNone ∧ (ringHead y).isSome then tb else y.headSince }

theorem exec_ringReadCompletion {data : Bytes} (hl : data.length % 128 = 0) (hn : data.length / 128 ≤ ((trayOf s f t).rdIssued - (trayOf s f t).rdDone).toNat) :
    exec (.ringReadCompletion f t data) s = .next (flrIdle (setTray s f t (slotsArrived s.tb (trayOf s f t) data)) f t) := by
  have hc : ¬(data.length % 128 ≠ 0 ∨ ((trayOf s f t).rdIssued - (trayOf s f t).rdDone).toNat < data.length / 128) := by omega
  exact congrArg Host.Outcome.next (if_neg hc)

theorem exec_ringReadCompletion_leaves {data : Bytes} (hl : data.length % 128 = 0) (hn : data.length / 128 ≤ ((trayOf s f t).rdIssued - (trayOf s f t).rdDone).toNat)
    (he : (trayOf s f t).enable = true) (hr : (trayOf s f t).readErr = false) (hflr : (trayOf s f t).flr = false) :
    ∃ s', exec (.ringReadCompletion f t data) s = .next s' ∧ (trayOf s' f t).ring = (trayOf s f t).ring ++ pieces 128 (data.length / 128) data ∧
      (trayOf s' f t).rdDone = (trayOf s f t).rdDone + BitVec.ofNat 32 (data.length / 128) ∧ (trayOf s' f t).expect = (trayOf s f t).expect := by
  have hset := trayOf_setTray_same s f t (x := slotsArrived s.tb (trayOf s f t) data) (tray_ne_of_enable he)
  refine ⟨_, exec_ringReadCompletion hl hn, ?_⟩
  rw [flrIdle_stays (by rw [hset]; exact hflr), hset]
  exact ⟨if_pos ⟨he, by simp [hr]⟩, rfl, rfl⟩

/-- The tray once the oldest of its reads that are outstanding has failed. -/
def readFailed (x : Tray) : Tray :=
  { x with readErr := true, rdDone := match x.rdRuns with | [] => x.rdIssued | r :: _ => x.rdDone + BitVec.ofNat 32 r, rdRuns := x.rdRuns.drop 1 }

/-- A read's failure noted and reported (R223). -/
def failNoted (s : State) (f t : Nat) : State := emit (trayNote (setTray s f t (readFailed (trayOf s f t))) f t 0x06 0x01 0 []) (.aer f)

theorem exec_ringReadFail (h : (trayOf s f t).rdIssued ≠ (trayOf s f t).rdDone) :
    exec (.ringReadFail f t) s = .next (flrIdle (if (trayOf s f t).readErr then failNoted s f t else raiseVector (failNoted s f t) f t) f t) :=
  congrArg Host.Outcome.next (if_neg h)

theorem exec_ringReadFail_leaves (h : (trayOf s f t).rdIssued ≠ (trayOf s f t).rdDone) :
    ∃ s', exec (.ringReadFail f t) s = .next s' ∧ .aer f ∈ s'.out ∧ ((trayOf s f t).flr = false → (trayOf s' f t).base = (readFailed (trayOf s f t)).base) := by
  have hset := trayOf_setTray_same s f t (x := readFailed (trayOf s f t)) (Tray.marked.ne (.inr rfl))
  have hm : (trayOf (setTray s f t (readFailed (trayOf s f t))) f t).marked := by rw [hset]; exact .inr rfl
  have hnote : Keeps f t (setTray s f t (readFailed (trayOf s f t))) (failNoted s f t) := (notes_putViol ..).toKeeps.trans (keeps_emit ..)
  have haer : .aer f ∈ (failNoted s f t).out := by simp [failNoted]
  have hraise : Keeps f t (failNoted s f t) (if (trayOf s f t).readErr then failNoted s f t else raiseVector (failNoted s f t) f t) := by
    split
    · exact .refl _
    · exact keeps_raiseVector (hnote.marked hm)
  have hbase := (hnote.trans hraise).base
  rw [hset] at hbase
  refine ⟨_, exec_ringReadFail h, ?_, fun hflr => ?_⟩
  · rw [flrIdle_out]; exact hraise.out haer
  · have hstays := (flr_of_base hbase).trans hflr
    rw [flrIdle_stays hstays]; exact hbase

/-! Fills (R210). -/

theorem powerFail_of_hostRuns (h : hostRuns s = true) : s.board.powerFail = false := by
  simp only [hostRuns, Bool.and_eq_true, Bool.not_eq_true'] at h
  exact h.2

theorem exec_seqWaitFill {g : Nat} (hg : gapSince (trayOf s f t) = some g) (hr : hostRuns s = true) (hx : trayRunning (trayOf s f t) = true)
    (hw : g + seqWait (trayOf s f t) ≤ s.tb) (hc : hasCredit (trayOf s f t) = true) :
    exec (.seqWaitFill f t) s = .next (violate (writeFill s f t 0x27) f t 0x04 0x27 (trayOf s f t).expect 0 []) := by
  have he : exec (.seqWaitFill f t) s = execSeqWaitFill f t s := rfl
  simp only [he, execSeqWaitFill, hg, hr, hx, hw, hc, and_self, if_true]

theorem exec_seqWaitFill_leaves {g : Nat} (hg : gapSince (trayOf s f t) = some g) (hr : hostRuns s = true) (hx : trayRunning (trayOf s f t) = true)
    (hw : g + seqWait (trayOf s f t) ≤ s.tb) (hc : hasCredit (trayOf s f t) = true) :
    ∃ s', exec (.seqWaitFill f t) s = .next s' ∧ (trayOf s' f t).expect = (trayOf s f t).expect + 1 ∧ s'.tk.nextOrder = s.tk.nextOrder ∧
      ((trayOf s f t).flight = [] → .dma f ((trayOf s f t).cqBase + BitVec.ofNat 64 (32 * ((trayOf s f t).expect.toNat % 2 ^ cqLog2 (trayOf s f t))))
        (complBytes { status := 0x27, fill := true } (trayOf s f t).expect) ∈ s'.out) := by
  have hm : (trayOf s f t).marked := .inl (enable_of_running hx)
  have hb := (writeFill_tray hm 0x27).1
  have hv := notes_violate (marked_of_base hb hm) 0x04 0x27 (trayOf s f t).expect 0 []
  have hexec := exec_seqWaitFill hg hr hx hw hc
  refine ⟨_, hexec, expect_of_base (hv.base.trans hb), nextOrder_of_apart (within_seqWaitFill hexec).rest, fun hf => ?_⟩
  exact hv.out (writeFill_sole (enable_of_running hx) hf (powerFail_of_hostRuns hr) 0x27).2

end

/-- Settles O17: the commands taken by what the sieve answers (`acceptCmd_taken`, `acceptCmd_refused`), the rest by what the tray keeps (`Keeps`). -/
theorem traysTakeCommandsInOrder : Obligations.TraysTakeCommandsInOrder := by
  refine ⟨?push, ?ring, ?refused, ?half, ?timeout, ?arrived, ?failed, ?fill⟩
  case push =>
    intro s f t k p c' x desc c hr hx hw hp hc hs
    have h : Taking s f t := ⟨hr, hx, hw, hc⟩
    obtain ⟨hb, hf, htk, hjn⟩ := acceptCmd_taken (x := { x with slots := tdel x.slots k }) h.enable hw hw hs
    exact ⟨_, exec_trayCommandTake_push h hp, expect_of_base hb, waiting_of_base hb, hf, htk, hjn⟩
  case ring =>
    intro s f t n b c' x ext c hr hx hw hp hring hq hc hext hs
    have h : Taking s f t := ⟨hr, hx, hw, hc⟩
    obtain ⟨hb, -, htk, hjn⟩ := acceptCmd_taken (x := consumeRing s.tb x n) h.enable hw hw hs
    exact ⟨_, exec_trayCommandTake_ring h hp hring hq hext, expect_of_base hb, crHead_of_base hb, waiting_of_base hb, htk, hjn⟩
  case refused =>
    intro s f t k p code off x c hr hx hw hp hc hs
    have h : Taking s f t := ⟨hr, hx, hw, hc⟩
    obtain ⟨hb, horder, hjn⟩ := acceptCmd_refused (x := { x with slots := tdel x.slots k }) h.enable hw hw hs
    exact ⟨_, exec_trayCommandTake_push h hp, expect_of_base hb, (waiting_of_base hb).trans hw, horder, hjn⟩
  case half => exact fun s f off data hx he hp hq hf => exec_pushHalfWrite hx he hp hq hf
  case timeout => exact fun s f t k p => exec_pushHalfTimeout
  case arrived => exact fun s f t data hl _ hn he hr hflr => exec_ringReadCompletion_leaves hl hn he hr hflr
  case failed =>
    intro s f t x h
    obtain ⟨s', hexec, haer, hleft⟩ := exec_ringReadFail_leaves h
    refine ⟨s', hexec, haer, fun hflr => ?_⟩
    have hb := hleft hflr
    have hdone : (trayOf s' f t).rdDone = (readFailed x).rdDone := rdDone_of_base hb
    refine ⟨readErr_of_base hb, rdRuns_of_base hb, fun hnone => ?_, fun r rs hruns => ?_⟩
    · rw [hdone, readFailed, hnone]
    · rw [hdone, readFailed, hruns]
  case fill => exact fun s f t g hg hr hx hw hc => exec_seqWaitFill_leaves hg hr hx hw hc

end Sys2Proof.Machine
end

section
/-! SUPPORT. Doorbells (R201, R202, R223): what a page's read asks for, and what arriving values and failed reads leave. -/
namespace Sys2Proof.Machine

section
variable {s : State} {f p : Nat}

/-! Reads asked for (R202). -/

theorem foldl_emit {α : Type} (g : α → Out) (l : List α) (s : State) : l.foldl (fun st a => emit st (g a)) s = { s with out := s.out ++ l.map g } := by
  induction l generalizing s with
  | nil => simp
  | cons a l ih => rw [List.foldl_cons, ih]; simp [emit]

/-- A page with an enabled tray is read granule by granule. -/
theorem readPage_eq (h : granules s f p ≠ []) : readPage s f p =
    { setFn s f { fnOf s f with dbReads := insertUp p (fnOf s f).dbReads } with
      out := s.out ++ (granules s f p).map fun g => Out.read f ((fnOf s f).dbBase + BitVec.ofNat 64 (p * 4096 + g * 64)) 64 } := by
  have hne : ¬ (granules s f p).isEmpty = true := by simp [h]
  unfold readPage; dsimp only
  rw [if_neg hne, foldl_emit]
  rfl

/-- What a nudge or a poll of a page does while reads are enabled and the die runs. -/
theorem askPage_runs (he : (fnOf s f).dbEnable = true) (hp : p ≤ (fnOf s f).dbPagesM1) (hr : hostRuns s = true) : askPage s f p =
    if (fnOf s f).dbReads.contains p then setFn s f { fnOf s f with dbRerun := insertUp p (fnOf s f).dbRerun } else readPage s f p := by
  have hc : ¬ ((!(fnOf s f).dbEnable || decide ((fnOf s f).dbPagesM1 < p)) = true) := by simp [he, hp]
  unfold askPage; dsimp only
  rw [if_neg hc]
  simp only [hr, Bool.not_true, Bool.or_false]

theorem exec_doorbellFollowupPoll {page due : Nat} (hd : tget (fnOf s f).dbFollow page = some due) (ht : due ≤ s.tb) (hr : hostRuns s = true) :
    exec (.doorbellFollowupPoll f page) s = .next (askPage (setFn s f { fnOf s f with dbFollow := tdel (fnOf s f).dbFollow page }) f page) := by
  have hx : exec (.doorbellFollowupPoll f page) s = execDoorbellFollowupPoll f page s := rfl
  rw [hx, execDoorbellFollowupPoll]; dsimp only
  rw [hd]
  exact congrArg Host.Outcome.next (if_pos ⟨ht, hr⟩)

theorem exec_waitingTrayPoll {t : Nat} (hx : trayExists s f t = true) (he : (trayOf s f t).enable = true) (hd : (fnOf s f).dbEnable = true) (hr : hostRuns s = true)
    (hw : waitCred s.tb (trayOf s f t) = true ∨ waitExt (trayOf s f t) = true) (hc : (fnOf s f).trayReads.contains t = false)
    (hp : tgetD (fnOf s f).trayPolled t 0 + (if (fnOf s f).dbPoll = 0 then 1000 else (fnOf s f).dbPoll * 64) ≤ s.tb) :
    exec (.waitingTrayPoll f t) s =
      .next (emit (setFn s f { fnOf s f with trayReads := insertUp t (fnOf s f).trayReads, trayPolled := tput (fnOf s f).trayPolled t s.tb })
        (.read f ((fnOf s f).dbBase + BitVec.ofNat 64 (t / 512 * 4096 + t % 512 * 8)) 8)) := by
  have hwait : (waitCred s.tb (trayOf s f t) || waitExt (trayOf s f t)) = true := Bool.or_eq_true_iff.mpr hw
  refine congrArg Host.Outcome.next (if_pos ?_)
  simp only [hx, he, hd, hr, hwait, hc, hp, decide_true, Bool.and_self, Bool.not_false]

/-! What a function's doorbell reads leave: the trays, what has gone out, and DB_ERR. -/

/-- The trays stay, what has gone out stays, and a DB_ERR that is set stays set. -/
structure DbReads (f : Nat) (s s' : State) : Prop where
  trays : s'.host.trays = s.host.trays
  out : s.out ⊆ s'.out
  dbErr : (fnOf s f).dbErr = true → (fnOf s' f).dbErr = true

theorem DbReads.refl (s : State) : DbReads f s s := ⟨rfl, List.Subset.refl _, id⟩

theorem DbReads.trans {s1 s2 : State} (h1 : DbReads f s s1) (h2 : DbReads f s1 s2) : DbReads f s s2 :=
  ⟨h2.trays.trans h1.trays, List.Subset.trans h1.out h2.out, fun h => h2.dbErr (h1.dbErr h)⟩

theorem DbReads.of_fns {s1 : State} (hf : s1.host.fns = s.host.fns) (ht : s1.host.trays = s.host.trays) (ho : s.out ⊆ s1.out) : DbReads f s s1 :=
  ⟨ht, ho, fun h => by rw [fnOf, hf]; exact h⟩

theorem fnOf_setFn_same (s : State) (f : Nat) {x : Fn} (h : x ≠ {}) : fnOf (setFn s f x) f = x := tgetD_tset_same s.host.fns f h

theorem fn_ne_of_dbErr {x : Fn} (h : x.dbErr = true) : x ≠ {} := fun he => by cases h.symm.trans (congrArg Fn.dbErr he)

theorem dbReads_setFn {x : Fn} (hx : x.dbErr = (fnOf s f).dbErr) : DbReads f s (setFn s f x) :=
  ⟨rfl, List.Subset.refl _, fun h => by rw [fnOf_setFn_same s f (fn_ne_of_dbErr (hx.trans h)), hx]; exact h⟩

theorem dbReads_putViol (s : State) (f : Nat) (r : Bytes) : DbReads f s (putViol s f r) := by
  have hset : DbReads f s (setFn s f { fnOf s f with vlog := tput (fnOf s f).vlog ((fnOf s f).vlogCount % 16) r, vlogCount := sat (2 ^ 64 - 1) ((fnOf s f).vlogCount + 1) }) :=
    dbReads_setFn rfl
  refine hset.trans (.of_fns ?_ (putViol_trays s f r) (notes_putViol (s := s) (f := f) (t := 0) f r).out)
  unfold putViol; dsimp only
  split
  · simp
  · rfl

theorem dbReads_readPage (s : State) (f p : Nat) : DbReads f s (readPage s f p) := by
  by_cases h : granules s f p = []
  · rw [readPage, h]; exact .refl s
  · have hset : DbReads f s (setFn s f { fnOf s f with dbReads := insertUp p (fnOf s f).dbReads }) := dbReads_setFn rfl
    rw [readPage_eq h]
    exact hset.trans (.of_fns rfl rfl (List.subset_append_left ..))

theorem dbReads_askPage (s : State) (f p : Nat) : DbReads f s (askPage s f p) := by
  unfold askPage; dsimp only
  split
  · exact .refl s
  · split
    · exact dbReads_setFn rfl
    · exact dbReads_readPage ..

theorem dbReads_endDbRead (s : State) (f : Nat) (src : DbSrc) (b : Bool) : DbReads f s (endDbRead s f src b) := by
  cases src with
  | entry t => exact dbReads_setFn rfl
  | page p =>
    unfold endDbRead; dsimp only
    split
    · exact (dbReads_setFn (by rfl)).trans (dbReads_askPage ..)
    · exact dbReads_setFn rfl

/-! The entries that arrive (R201). -/

theorem readRing_tray {t : Nat} (he : (trayOf s f t).enable = true) : ∃ issued runs, trayOf (readRing s f t) f t = { trayOf s f t with rdIssued := issued, rdRuns := runs } := by
  unfold readRing; dsimp only
  split
  · exact ⟨_, _, rfl⟩
  · have hset := fun runs => trayOf_setTray_same s f t (x := { trayOf s f t with rdIssued := (trayOf s f t).crTail, rdRuns := runs }) (tray_ne_of_enable he)
    split
    · exact ⟨_, _, hset _⟩
    · exact ⟨_, _, hset _⟩

/-- A value of CR_TAIL that keeps its bounds (R201). -/
theorem takeTail_tray {e : DbEntry} (he : (trayOf s f e.t).enable = true) (hn : (e.tail - (trayOf s f e.t).crTail).toNat < 2 ^ 31)
    (hs : (e.tail - (trayOf s f e.t).crHead).toNat ≤ 2 ^ crLog2 (trayOf s f e.t)) :
    ∃ issued runs, trayOf (takeTail s f e) f e.t = { trayOf s f e.t with crTail := e.tail, rdIssued := issued, rdRuns := runs } := by
  have hc : ¬(2 ^ 31 ≤ (e.tail - (trayOf s f e.t).crTail).toNat ∨ 2 ^ crLog2 (trayOf s f e.t) < (e.tail - (trayOf s f e.t).crHead).toNat) := by omega
  have hset := trayOf_setTray_same s f e.t (x := { trayOf s f e.t with crTail := e.tail }) (tray_ne_of_enable he)
  obtain ⟨issued, runs, h⟩ := readRing_tray (s := setTray s f e.t { trayOf s f e.t with crTail := e.tail }) (f := f) (t := e.t) (by rw [hset]; exact he)
  refine ⟨issued, runs, ?_⟩
  unfold takeTail; dsimp only
  rw [if_neg hc, h, hset]

/-- A value of CQ_HEAD that keeps its bounds (R201). -/
theorem takeHead_tray {e : DbEntry} (he : (trayOf s f e.t).enable = true) (hn : (e.head - (trayOf s f e.t).cqHead).toNat < 2 ^ 31)
    (hs : ((trayOf s f e.t).lastIssued - e.head).toNat < 2 ^ 31) : trayOf (takeHead s f e) f e.t = { trayOf s f e.t with cqHead := e.head } := by
  have hc : ¬(2 ^ 31 ≤ (e.head - (trayOf s f e.t).cqHead).toNat ∨ 2 ^ 31 ≤ ((trayOf s f e.t).lastIssued - e.head).toNat) := by omega
  unfold takeHead; dsimp only
  rw [if_neg hc]
  exact trayOf_setTray_same _ _ _ (tray_ne_of_enable he)

theorem enable_of_mem_usedEntries {src : DbSrc} {data : Bytes} {e : DbEntry} (h : e ∈ usedEntries s f src data) : (trayOf s f e.t).enable = true := by
  have hused := (List.mem_filter.mp h).2
  rw [Bool.and_eq_true] at hused
  exact hused.2

theorem exec_doorbellReadCompletion_one {src : DbSrc} {data : Bytes} {e : DbEntry} (ho : dbOutstanding (fnOf s f) src = true) (hu : usedEntries s f src data = [e]) :
    ∃ b, exec (.doorbellReadCompletion f src data) s = .next (endDbRead (takeHead (takeTail s f e) f e) f src b) := by
  have hx : exec (.doorbellReadCompletion f src data) s = execDoorbellReadCompletion f src data s := rfl
  rw [hx, execDoorbellReadCompletion, ho, hu]
  exact ⟨_, rfl⟩

/-! A read that fails (R223). -/

/-- A failed doorbell read noted and reported, before the read ends. -/
def dbFailNoted (s : State) (f : Nat) : State :=
  emit (putViol (setFn s f { fnOf s f with dbErr := true }) f (violRec s.tb 0x06 0x02 f 0x8000 (fnOf s f).tenant 0 0 [])) (.aer f)

theorem exec_doorbellReadFail {src : DbSrc} (h : dbOutstanding (fnOf s f) src = true) : exec (.doorbellReadFail f src) s = .next (endDbRead (dbFailNoted s f) f src false) := by
  have hx : exec (.doorbellReadFail f src) s = execDoorbellReadFail f src s := rfl
  rw [hx, execDoorbellReadFail, h]
  rfl

/-- A failed read sets DB_ERR and is reported; the trays stay (R223). -/
theorem exec_doorbellReadFail_leaves {src : DbSrc} (h : dbOutstanding (fnOf s f) src = true) :
    ∃ s', exec (.doorbellReadFail f src) s = .next s' ∧ (fnOf s' f).dbErr = true ∧ .aer f ∈ s'.out ∧ s'.host.trays = s.host.trays := by
  have hset : (fnOf (setFn s f { fnOf s f with dbErr := true }) f).dbErr = true := by rw [fnOf_setFn_same s f (fn_ne_of_dbErr rfl)]
  have hnote : DbReads f (setFn s f { fnOf s f with dbErr := true }) (dbFailNoted s f) := (dbReads_putViol ..).trans (.of_fns rfl rfl (List.subset_append_left ..))
  have hend := dbReads_endDbRead (dbFailNoted s f) f src false
  have haer : .aer f ∈ (dbFailNoted s f).out := by simp [dbFailNoted]
  exact ⟨_, exec_doorbellReadFail h, hend.dbErr (hnote.dbErr hset), hend.out haer, hend.trays.trans hnote.trays⟩

end

/-- Settles O19: the reads by the granules that they ask for, the entries by what each value writes of its tray, the failures by what the end of a read leaves. -/
theorem doorbellsAreReadAndTaken : Obligations.DoorbellsAreReadAndTaken := by
  refine ⟨?nudge, ?page, ?values, ?pageFail, ?entryFail, ?followup, ?waiting⟩
  case nudge =>
    intro s f v fn p wm he hp hr
    have hx : exec (.fnNudge f v) s = .next (wm (askPage s f p)) := rfl
    rw [hx, askPage_runs he hp hr]
    exact ⟨fun hc => by rw [hc]; rfl, fun hc => by rw [hc]; rfl⟩
  case page =>
    intro s f p h
    rw [readPage_eq h]
  case values =>
    intro s f src data e x ho hu htail hring hhead hlast
    have hen : x.enable = true := enable_of_mem_usedEntries (hu ▸ List.mem_singleton_self e)
    obtain ⟨issued, runs, ht⟩ := takeTail_tray hen htail hring
    have hh := takeHead_tray (s := takeTail s f e) (f := f) (e := e) (by rw [ht]; exact hen) (by rw [ht]; exact hhead) (by rw [ht]; exact hlast)
    obtain ⟨b, hexec⟩ := exec_doorbellReadCompletion_one ho hu
    refine ⟨_, hexec, ?_⟩
    rw [trayOf_congr _ f e.t (dbReads_endDbRead ..).trays, hh, ht]
    exact ⟨rfl, rfl⟩
  case pageFail => exact fun s f p h => exec_doorbellReadFail_leaves h
  case entryFail => exact fun s f t h => exec_doorbellReadFail_leaves h
  case followup => exact fun s f page due hd ht hr => exec_doorbellFollowupPoll hd ht hr
  case waiting => exact fun s f t hx he hd hr hw hc hp => exec_waitingTrayPoll hx he hd hr hw hc hp

end Sys2Proof.Machine
end

section
/-! SUPPORT. Egg timers, vectors, quarantine fills, violation windows and releases (R220, R221, R227, R228). -/
namespace Sys2Proof.Machine

section
variable {s : State} {f t n : Nat}

/-! Vectors (R220, R221). -/

theorem exec_eggTimerTime (he : eTime (trayOf s f t) ≠ 0) (hc : 0 < (trayOf s f t).eggC) (ht : up64 ((trayOf s f t).eggT0 + eTime (trayOf s f t) * 64) ≤ s.tb) :
    exec (.eggTimerTime f t) s = .next (raiseVector s f t) := congrArg Host.Outcome.next (if_pos ⟨he, hc, ht⟩)

theorem msixOut_sends (hh : s.mgmt.state ≠ .held) (n : Nat) : msixOut s f n = emit s (.msix f n) := if_neg fun h => hh h.1

/-- An entry that nothing stops is sent. -/
theorem raiseEntry_open (h : entryOpen s f n = true) (hh : s.mgmt.state ≠ .held) : raiseEntry s f n = emit s (.msix f n) := by
  unfold raiseEntry; dsimp only
  rw [h]
  exact msixOut_sends hh n

/-- An entry that is masked, or whose function is, waits with its Pending Bit. -/
theorem raiseEntry_masked (h : (fnOf s f).fnMasked = true ∨ (fnOf s f).unmasked.contains n = false) :
    raiseEntry s f n = setFn s f { fnOf s f with pendingBits := insertUp n (fnOf s f).pendingBits } := by
  have hc : entryOpen s f n = false := by
    rw [entryOpen]
    rcases h with h | h <;> simp only [h, Bool.not_true, Bool.false_and, Bool.and_false]
  unfold raiseEntry; dsimp only
  rw [hc]
  rfl

theorem entryOpen_unmasked (hm : (fnOf s f).fnMasked = false) (hu : (fnOf s f).unmasked.contains n = true) (hh : s.mgmt.state ≠ .held) : entryOpen s f n = true := by
  have hs : (s.mgmt.state != .held) = true := bne_iff_ne.mpr hh
  simp only [entryOpen, hm, hu, hs, Bool.not_false, Bool.true_or, Bool.and_self]

theorem raiseVector_disabled (h : (trayOf s f t).msixEn = false) : raiseVector s f t = setTray s f t { trayOf s f t with eggC := 0, eggT0 := 0 } := by
  simp [raiseVector, h]

theorem raiseVector_enabled (h : (trayOf s f t).msixEn = true) : raiseVector s f t = raiseEntry (setTray s f t { trayOf s f t with eggC := 0, eggT0 := 0 }) f t := by
  simp [raiseVector, h]

/-! Messages owed through Pending Bits (R221). -/

theorem foldl_msixOut (hh : s.mgmt.state ≠ .held) (l : List Nat) : l.foldl (fun st n => msixOut st f n) s = { s with out := s.out ++ l.map (Out.msix f) } := by
  rw [← foldl_emit]
  induction l generalizing s with
  | nil => rfl
  | cons n l ih => rw [List.foldl_cons, List.foldl_cons, msixOut_sends hh, ih (s := emit s (.msix f n)) hh]

/-- Every message that is owed and that nothing stops goes out, and its Pending Bit clears. -/
theorem sendPending_eq (hh : s.mgmt.state ≠ .held) : sendPending s f =
    { setFn s f { fnOf s f with pendingBits := (fnOf s f).pendingBits.filter fun n => !entryOpen s f n } with
      out := s.out ++ ((fnOf s f).pendingBits.filter (entryOpen s f)).map (Out.msix f) } := foldl_msixOut (by exact hh) _

theorem sendPending_sends (hh : s.mgmt.state ≠ .held) (hp : (fnOf s f).pendingBits.contains n = true) (ho : entryOpen s f n = true) :
    .msix f n ∈ (sendPending s f).out := by
  rw [sendPending_eq hh]
  exact List.mem_append_right _ (List.mem_map_of_mem (List.mem_filter.mpr ⟨List.contains_iff_mem.mp hp, ho⟩))

theorem fn_ne_of_unmasked {x : Fn} (h : x.unmasked ≠ []) : x ≠ {} := fun he => h (congrArg Fn.unmasked he)
theorem fn_ne_of_pendingBits {x : Fn} (h : x.pendingBits ≠ []) : x ≠ {} := fun he => h (congrArg Fn.pendingBits he)

/-- A function with an unmasked entry keeps it as its messages go out; what an open entry owed is owed no more. -/
theorem sendPending_fn (hh : s.mgmt.state ≠ .held) (hu : (fnOf s f).unmasked ≠ []) :
    fnOf (sendPending s f) f = { fnOf s f with pendingBits := (fnOf s f).pendingBits.filter fun n => !entryOpen s f n } := by
  rw [sendPending_eq hh]
  exact fnOf_setFn_same s f (fn_ne_of_unmasked hu)

theorem ne_nil_of_contains {l : List Nat} (h : l.contains n = true) : l ≠ [] := List.ne_nil_of_mem (List.contains_iff_mem.mp h)

/-- One entry unmasked. -/
def entryUnmasked (s : State) (f n : Nat) : State := setFn s f { fnOf s f with unmasked := insertUp n (fnOf s f).unmasked }

theorem exec_msixUnmask_entry (hf : fnExists s.part f = true) (hn : n < 2048) : exec (.msixUnmask f (some n)) s = .next (sendPending (entryUnmasked s f n) f) := by
  have hx : exec (.msixUnmask f (some n)) s = execMsixUnmask f (some n) s := rfl
  simp only [hx, execMsixUnmask, hf, hn, Bool.not_true, Bool.false_eq_true, if_false, if_true]
  rfl

theorem exec_msixUnmask_function (hf : fnExists s.part f = true) :
    exec (.msixUnmask f none) s = .next (sendPending (setFn s f { fnOf s f with fnMasked := false }) f) := by
  have hx : exec (.msixUnmask f none) s = execMsixUnmask f none s := rfl
  simp only [hx, execMsixUnmask, hf, Bool.not_true, Bool.false_eq_true, if_false]

theorem exec_msixUnmask_entry_leaves (hf : fnExists s.part f = true) (hn : n < 2048) (hh : s.mgmt.state ≠ .held) :
    ∃ s', exec (.msixUnmask f (some n)) s = .next s' ∧ (fnOf s' f).unmasked = insertUp n (fnOf s f).unmasked ∧ s'.host.trays = s.host.trays ∧
      ((fnOf s f).fnMasked = false → (fnOf s f).pendingBits.contains n = true → .msix f n ∈ s'.out ∧ (fnOf s' f).pendingBits.contains n = false) := by
  have hmem : (insertUp n (fnOf s f).unmasked).contains n = true := List.contains_iff_mem.mpr (mem_insertUp.mpr (.inl rfl))
  have hfn : fnOf (entryUnmasked s f n) f = { fnOf s f with unmasked := insertUp n (fnOf s f).unmasked } := fnOf_setFn_same s f (fn_ne_of_unmasked (ne_nil_of_contains hmem))
  have hsent := sendPending_fn (s := entryUnmasked s f n) (f := f) hh (by rw [hfn]; exact ne_nil_of_contains hmem)
  refine ⟨_, exec_msixUnmask_entry hf hn, ?_, ?_, fun hm hp => ?_⟩
  · rw [hsent, hfn]
  · rw [sendPending_eq (s := entryUnmasked s f n) hh]; rfl
  · have hopen : entryOpen (entryUnmasked s f n) f n = true := entryOpen_unmasked (by rw [hfn]; exact hm) (by rw [hfn]; exact hmem) hh
    refine ⟨sendPending_sends (s := entryUnmasked s f n) hh (by rw [hfn]; exact hp) hopen, ?_⟩
    rw [hsent, Bool.eq_false_iff]
    intro hleft
    have hclosed := (List.mem_filter.mp (List.contains_iff_mem.mp hleft)).2
    rw [hopen] at hclosed
    cases hclosed

theorem exec_msixUnmask_function_leaves (hf : fnExists s.part f = true) (hh : s.mgmt.state ≠ .held) :
    ∃ s', exec (.msixUnmask f none) s = .next s' ∧ s'.host.trays = s.host.trays ∧
      ∀ n, (fnOf s f).pendingBits.contains n = true → (fnOf s f).unmasked.contains n = true → .msix f n ∈ s'.out := by
  refine ⟨_, exec_msixUnmask_function hf, ?_, fun n hp hu => ?_⟩
  · rw [sendPending_eq (s := setFn s f { fnOf s f with fnMasked := false }) hh]; rfl
  · have hfn := fnOf_setFn_same s f (x := { fnOf s f with fnMasked := false }) (fn_ne_of_pendingBits (ne_nil_of_contains hp))
    exact sendPending_sends (s := setFn s f { fnOf s f with fnMasked := false }) hh (by rw [hfn]; exact hp)
      (entryOpen_unmasked (by rw [hfn]) (by rw [hfn]; exact hu) hh)

/-! Quarantine (R227, R228). -/

theorem notes_trayNote (kind code : Byte) (q : Word) (b : Bytes) : Notes f t s (trayNote s f t kind code q b) := notes_putViol ..

theorem trayNote_tk (s : State) (f t : Nat) (kind code : Byte) (q : Word) (b : Bytes) : (trayNote s f t kind code q b).tk = s.tk :=
  tk_of_aside (within_putViol s f t f _).rest

/-- What a quarantined tray's fill waits for. -/
structure FillsQuarantine (s : State) (f t : Nat) : Prop where
  runs : hostRuns s = true
  enable : (trayOf s f t).enable = true
  quar : (trayOf s f t).quar = true
  fill : (trayOf s f t).quarFill = true
  flight : (trayOf s f t).flight = []
  idle : (trayOf s f t).waiting = none
  credit : hasCredit (trayOf s f t) = true

/-- A quarantined tray whose fill is no more owed. -/
def fillPaid (s : State) (f t : Nat) : State := setTray s f t { trayOf s f t with quarFill := false }

theorem exec_quarantineFill (h : FillsQuarantine s f t) :
    exec (.quarantineFill f t) s = .next (trayNote (raiseVector (writeFill (fillPaid s f t) f t stQuarantine) f t) f t 0x07 0x42 (trayOf s f t).expect []) := by
  refine congrArg Host.Outcome.next (if_pos ?_)
  simp only [h.runs, h.enable, h.quar, h.fill, h.flight, h.idle, h.credit, List.isEmpty_nil, Option.isNone_none, Bool.and_self]

theorem exec_quarantineFill_leaves (h : FillsQuarantine s f t) :
    ∃ s', exec (.quarantineFill f t) s = .next s' ∧ (trayOf s' f t).quarFill = false ∧ (trayOf s' f t).expect = (trayOf s f t).expect + 1 ∧
      (trayOf s' f t).quar = true ∧ s'.tk = s.tk ∧
      .dma f ((trayOf s f t).cqBase + BitVec.ofNat 64 (32 * ((trayOf s f t).expect.toNat % 2 ^ cqLog2 (trayOf s f t))))
        (complBytes { status := stQuarantine, fill := true } (trayOf s f t).expect) ∈ s'.out := by
  have hx : trayOf (fillPaid s f t) f t = { trayOf s f t with quarFill := false } := trayOf_setTray_same s f t (tray_ne_of_enable h.enable)
  have hm : (trayOf (fillPaid s f t) f t).marked := by rw [hx]; exact .inl h.enable
  obtain ⟨hb, hq⟩ := writeFill_tray hm stQuarantine
  obtain ⟨htk, hout⟩ := writeFill_sole (s := fillPaid s f t) (by rw [hx]; exact h.enable) (by rw [hx]; exact h.flight) (powerFail_of_hostRuns h.runs) stQuarantine
  rw [hx] at hb hq hout
  obtain ⟨hquar, hfill⟩ := hq h.quar
  have hk := (keeps_raiseVector (marked_of_base hb (.inl h.enable))).trans (notes_trayNote 0x07 0x42 (trayOf s f t).expect []).toKeeps
  exact ⟨_, exec_quarantineFill h, (hk.quar hquar).2.trans hfill, expect_of_base (hk.base.trans hb), (hk.quar hquar).1,
    ((trayNote_tk ..).trans (tk_of_steady (steady_raiseVector ..))).trans htk, hk.out hout⟩

theorem exec_violationWindowEnd {w : Nat} (hw : (trayOf s f t).winStart = some w) (ht : w + 1000000 ≤ s.tb) :
    exec (.violationWindowEnd f t) s = .next (setTray s f t { trayOf s f t with winStart := none, window := 0, unlogged := 0 }) := by
  have hx : exec (.violationWindowEnd f t) s = execViolationWindowEnd f t s := rfl
  simp only [hx, execViolationWindowEnd, hw, ht, if_true]

theorem exec_quarRelease {v : Dbl} (hh : trayHome s (bits v.toNat 14 0) = some (f, t)) (hq : (trayOf s f t).quar = true) :
    exec (.quarRelease v) s = .next (trayNote (setTray s f t { trayOf s f t with quar := false, quarFill := false, winStart := none, window := 0, unlogged := 0 })
      f t 0x08 0x00 0 []) := by
  have hx : exec (.quarRelease v) s = .next (writeQuarRelease s v) := rfl
  simp only [hx, writeQuarRelease, hh, hq, if_true]

end

/-- Settles O22: the vectors by what stops an entry, the unmasking by the messages that are owed (`sendPending_eq`), the fill by what the tray keeps (`Keeps`). -/
theorem vectorsAndQuarantine : Obligations.VectorsAndQuarantine := by
  refine ⟨?egg, ?entry, ?function, ?fill, ?window, ?release⟩
  case egg =>
    intro s f t x fn s1 he hc ht
    rw [exec_eggTimerTime he hc ht]
    refine ⟨fun hm => congrArg Host.Outcome.next (raiseVector_disabled hm), fun hm hfn hu hh => ?_, fun hm hmasked => ?_⟩
    · rw [raiseVector_enabled hm]
      exact congrArg Host.Outcome.next (raiseEntry_open (s := s1) (entryOpen_unmasked (s := s1) hfn hu hh) hh)
    · rw [raiseVector_enabled hm]
      exact congrArg Host.Outcome.next (raiseEntry_masked (s := s1) hmasked)
  case entry => exact fun s f n hf hn hh => exec_msixUnmask_entry_leaves hf hn hh
  case function => exact fun s f hf hh => exec_msixUnmask_function_leaves hf hh
  case fill => exact fun s f t hr he hq hfill hf hw hc => exec_quarantineFill_leaves ⟨hr, he, hq, hfill, hf, hw, hc⟩
  case window => exact fun s f t w hw ht => exec_violationWindowEnd hw ht
  case release => exact fun s v f t hh hq => exec_quarRelease hh hq

end Sys2Proof.Machine
end

section
/-! SUPPORT. Tray and function registers, and the resets that they begin (R188, R196, R197, R229, R230). -/
namespace Sys2Proof.Machine

section
variable {s : State} {f t : Nat} {v : Dbl}

/-! TRAY_CTL (R196, R197). -/

/-- A tray with the two bits of TRAY_CTL that every write stores (Table 5.13). -/
def ctlBits (x : Tray) (v : Dbl) : Tray := { x with pushEn := v.getLsbD 1, msixEn := v.getLsbD 3 }

/-- The tray that a write of TRAY_CTL finds, reset first where the write asks and the tray is disabled and IDLE. -/
def ctlReset (s : State) (f t : Nat) (v : Dbl) : Tray := if v.getLsbD 2 ∧ trayIdle s f t then resetTray (trayOf s f t) else trayOf s f t

/-- A write of TRAY_CTL to a disabled tray. -/
theorem writeTrayCtl_disabled (hx : trayExists s f t = true) (he : (trayOf s f t).enable = false) : writeTrayCtl s f t v =
    if v.getLsbD 0 then
      if enableRefused s f t (ctlBits (ctlReset s f t v) v) then setTray s f t { ctlBits (ctlReset s f t v) v with cfgErr := true }
      else setTray s f t { ctlBits (ctlReset s f t v) v with enable := true }
    else setTray s f t (ctlBits (ctlReset s f t v) v) := by
  have hreset : (if v.getLsbD 2 = true ∧ ¬ (trayOf s f t).enable = true ∧ trayIdle s f t = true then resetTray (trayOf s f t) else trayOf s f t) = ctlReset s f t v := by
    simp [ctlReset, he]
  unfold writeTrayCtl; dsimp only
  rw [hreset, if_neg (by simp [hx])]
  by_cases hv : v.getLsbD 0 = true
  · rw [if_pos ⟨hv, by simp [he]⟩, if_pos hv]
    rfl
  · rw [if_neg (fun h => hv h.1), if_neg (by simp [he]), if_neg hv]
    rfl

/-- ENABLE written 0 to an enabled tray (R197). -/
theorem writeTrayCtl_disables (hx : trayExists s f t = true) (he : (trayOf s f t).enable = true) (hv : v.getLsbD 0 = false) :
    writeTrayCtl s f t v = disableTray (setTray s f t (ctlBits (trayOf s f t) v)) f t := by
  have hkept : (if v.getLsbD 2 = true ∧ ¬ (trayOf s f t).enable = true ∧ trayIdle s f t = true then resetTray (trayOf s f t) else trayOf s f t) = trayOf s f t :=
    if_neg fun h => h.2.1 he
  unfold writeTrayCtl; dsimp only
  rw [hkept, if_neg (by simp [hx]), if_neg (fun h => h.2 he), if_pos ⟨ne_true_of_eq_false hv, he⟩]
  rfl

theorem exec_trayEnable (hv : v.getLsbD 0 = true) : exec (.trayEnable f t v) s = .next (writeTrayCtl s f t v) := congrArg Host.Outcome.next (if_pos hv)
theorem exec_trayReset (hv : v.getLsbD 2 = true) : exec (.trayReset f t v) s = .next (writeTrayCtl s f t v) := congrArg Host.Outcome.next (if_pos hv)
theorem exec_trayDisable (hv : v.getLsbD 0 = false) : exec (.trayDisable f t v) s = .next (writeTrayCtl s f t v) :=
  congrArg Host.Outcome.next (if_neg (ne_true_of_eq_false hv))

/-! A tray that stops (R197): its tickets. -/

/-- A ticket of a tray that stops: its completion will not be written. -/
def orphaned (f t : Nat) (k : Ticket) : Ticket := if k.origin = .tray f t then { k with intact := false } else k

/-- The tickets of a tray's ended commands, without the one that still waits. -/
def endedTickets (x : Tray) : List Nat :=
  let fl := match x.waiting with
    | none => x.flight
    | some w => x.flight.filter fun (y : Flight) => !(decide (y.seq = w.seq) && y.ticket.isNone && y.done.isNone)
  (fl.filter fun (y : Flight) => y.done.isSome).filterMap (·.ticket)

theorem mem_endedTickets {x : Tray} {k : Nat} : k ∈ endedTickets x ↔ ∃ fl ∈ x.flight, fl.done ≠ none ∧ fl.ticket = some k := by
  have hleft : ∀ l : List Flight, k ∈ (l.filter fun (y : Flight) => y.done.isSome).filterMap (·.ticket) ↔ ∃ fl ∈ l, fl.done ≠ none ∧ fl.ticket = some k := fun l => by
    simp only [List.mem_filterMap, List.mem_filter, Option.isSome_iff_ne_none, and_assoc]
  unfold endedTickets; dsimp only
  rw [hleft]
  split
  · exact Iff.rfl
  · refine exists_congr fun fl => ⟨fun ⟨hm, hd⟩ => ⟨(List.mem_filter.mp hm).1, hd⟩, fun ⟨hm, hd, ht⟩ => ⟨List.mem_filter.mpr ⟨hm, ?_⟩, hd, ht⟩⟩
    simp [ht]

/-- The tickets as a tray that stops leaves them: those of its commands orphaned, and those of its ended commands due back. -/
theorem disableTray_tk (s : State) (f t : Nat) : ∃ u : State, u.tk = { s.tk with held := tmap s.tk.held fun _ k => orphaned f t k } ∧
    disableTray s f t = (endedTickets (trayOf s f t)).foldl issueTicket u := by
  refine ⟨_, ?_, rfl⟩
  dsimp only
  split <;> rfl

/-- A ticket given up is due back, and no other gives it up again. -/
theorem issueTicket_ticket (s : State) (j k : Nat) :
    ticketOf (issueTicket s j) k = if k = j then (ticketOf s j).map fun x => { x with state := .issued } else ticketOf s k := by
  unfold issueTicket
  cases h : ticketOf s j with
  | none =>
    dsimp only
    split
    next hk => subst hk; exact h
    · rfl
  | some x => exact (ticketOf_setTicket ..).trans (by simp [ticketOf])

/-- Each held ticket of a list given up is due back. -/
theorem foldl_issueTicket_issued {l : List Nat} {k : Nat} (hk : k ∈ l) (h : ticketOf s k ≠ none) :
    (ticketOf (l.foldl issueTicket s) k).map (·.state) = some .issued := by
  have hdue : ∀ (j : Nat) (u : State), (ticketOf u k).map (·.state) = some .issued → (ticketOf (issueTicket u j) k).map (·.state) = some .issued := fun j u hu => by
    rw [issueTicket_ticket]
    split
    next hj =>
      subst hj
      obtain ⟨x, hx, -⟩ := Option.map_eq_some_iff.mp hu
      rw [hx]; rfl
    · exact hu
  induction l generalizing s with
  | nil => cases hk
  | cons j l ih =>
    rcases List.mem_cons.mp hk with rfl | hk
    · rw [List.foldl_cons]
      refine List.foldlRecOn (motive := fun u : State => (ticketOf u k).map (·.state) = some .issued) _ _ ?_ fun u hu j _ => hdue j u hu
      obtain ⟨x, hx⟩ := Option.ne_none_iff_exists'.mp h
      rw [issueTicket_ticket, if_pos rfl, hx]; rfl
    · refine ih hk ?_
      rw [issueTicket_ticket]
      split
      next hj => subst hj; simpa using h
      · exact h

/-- What a tray that stops leaves of the tickets: an ended command's is due back; where no command has ended they are orphaned alone. -/
theorem disableTray_tickets (s : State) (f t : Nat) :
    (∀ fl ∈ (trayOf s f t).flight, ∀ k, fl.done ≠ none → fl.ticket = some k → ticketOf s k ≠ none → (ticketOf (disableTray s f t) k).map (·.state) = some .issued) ∧
    ((∀ fl ∈ (trayOf s f t).flight, fl.done = none) → (disableTray s f t).tk = { s.tk with held := tmap s.tk.held fun _ k => orphaned f t k }) := by
  obtain ⟨u, hu, hd⟩ := disableTray_tk s f t
  rw [hd]
  refine ⟨fun fl hfl k hdone hk hheld => foldl_issueTicket_issued (mem_endedTickets.mpr ⟨fl, hfl, hdone, hk⟩) ?_, fun hnone => ?_⟩
  · rw [ticketOf, hu, tget_tmap, ne_eq, Option.map_eq_none_iff]
    exact hheld
  · have hempty : endedTickets (trayOf s f t) = [] := List.eq_nil_iff_forall_not_mem.mpr fun k hk => by
      obtain ⟨fl, hfl, hdone, -⟩ := mem_endedTickets.mp hk
      exact hdone (hnone fl hfl)
    rw [hempty]
    exact hu

/-- ENABLE written 0 to an enabled tray stops it (R197). -/
theorem exec_trayDisable_leaves (hx : trayExists s f t = true) (he : (trayOf s f t).enable = true) (hv : v.getLsbD 0 = false) :
    ∃ s', exec (.trayDisable f t v) s = .next s' ∧ s' = disableTray (setTray s f t (ctlBits (trayOf s f t) v)) f t ∧ s'.jn = s.jn ∧ s'.led = s.led ∧
      (∀ fl ∈ (trayOf s f t).flight, ∀ k, fl.done ≠ none → fl.ticket = some k → ticketOf s k ≠ none → (ticketOf s' k).map (·.state) = some .issued) ∧
      ((∀ fl ∈ (trayOf s f t).flight, fl.done = none) → s'.tk = { s.tk with held := tmap s.tk.held fun _ k => orphaned f t k }) := by
  have hset : trayOf (setTray s f t (ctlBits (trayOf s f t) v)) f t = ctlBits (trayOf s f t) v := trayOf_setTray_same s f t (tray_ne_of_enable he)
  have hsettled := settled_disableTray (setTray s f t (ctlBits (trayOf s f t) v)) f t
  have htick := disableTray_tickets (setTray s f t (ctlBits (trayOf s f t) v)) f t
  rw [hset] at htick
  exact ⟨_, (exec_trayDisable hv).trans (by rw [writeTrayCtl_disables hx he hv]), rfl, jn_of_settled hsettled, led_of_settled hsettled, htick⟩

/-! The function map and resets of functions (R188, R229). -/

theorem bitOf_toNat (v : Dbl) (n : Nat) : bitOf v.toNat n = v.getLsbD n := BitVec.testBit_toNat v

/-- What a map entry's write carries (Table 5.3): the tenant, the number of trays and the first of them. -/
def mapTenant (f : Nat) (v : Dbl) : Nat := if f % 8192 = 0 then 0 else bits v.toNat 44 32

theorem exec_functionBind (hf : f < 16384) (hn : (fnOf s f).valid = false) (hv : v.getLsbD 63 = true) : exec (.functionBind f v) s = .next
    (if !fnExists s.part f || absentKey s (mapTenant f v) || decide ((if f = 0 then 2047 else 2048) < bits v.toNat 27 16) ||
        decide (nTrays s.part < bits v.toNat 14 0 + bits v.toNat 27 16) || mapOverlap s f (bits v.toNat 14 0) (bits v.toNat 27 16) then
      { s with host := { s.host with mapErr := true } }
    else setFn s f { fnOf s f with valid := true, tenant := mapTenant f v, ntrays := bits v.toNat 27 16, firstTray := bits v.toNat 14 0, vlogCount := 0 }) := by
  have hx : exec (.functionBind f v) s = .next (writeFnMap s f v) := congrArg Host.Outcome.next (if_pos hv)
  have hlow : ¬ 16384 ≤ f := by omega
  rw [hx]
  unfold writeFnMap; dsimp only
  rw [if_neg hlow, if_neg (ne_true_of_eq_false hn), bitOf_toNat, if_pos hv]
  rfl

theorem exec_functionUnbind (hf : f < 16384) (hn : (fnOf s f).valid = true) (hv : v.getLsbD 63 = false) : exec (.functionUnbind f v) s =
    .next (setFn (resetFn s f) f { fnOf (resetFn s f) f with valid := false, tenant := mapTenant f v, ntrays := bits v.toNat 27 16, firstTray := bits v.toNat 14 0 }) := by
  have hx : exec (.functionUnbind f v) s = .next (writeFnMap s f v) := congrArg Host.Outcome.next (if_neg (ne_true_of_eq_false hv))
  have hlow : ¬ 16384 ≤ f := by omega
  rw [hx]
  unfold writeFnMap; dsimp only
  rw [if_neg hlow, if_pos hn, bitOf_toNat, if_neg (ne_true_of_eq_false hv)]
  rfl

/-- A function-level reset leaves the function its map entry; the books and the journal stay (R229). -/
theorem exec_functionLevelReset_leaves (hf : fnExists s.part f = true) :
    ∃ s', exec (.functionLevelReset f) s = .next s' ∧ fnOf s' f = (fnOf s f).afterReset ∧ s'.jn = s.jn ∧ s'.led = s.led := by
  have hs := settled_resetFn s f
  exact ⟨_, congrArg Host.Outcome.next (if_pos hf), (fnOf_resetFn s f f).trans (if_pos rfl), jn_of_settled hs, led_of_settled hs⟩

/-- A function whose tickets have all returned ends its reset (R229). -/
theorem exec_flrComplete (hr : (fnOf s f).resetting = true) (hn : ∀ e ∈ s.tk.held, ∀ t, e.2.origin ≠ .tray f t) :
    exec (.flrComplete f) s = .next (setFn s f { fnOf s f with resetting := false }) := by
  have hany : (s.tk.held.any fun e => match e.2.origin with | .tray g _ => g == f | _ => false) = false := by
    refine List.any_eq_false.mpr fun e he => ?_
    split
    next g u ho =>
      intro hg
      obtain rfl := beq_iff_eq.mp hg
      exact hn e he u ho
    · exact Bool.false_ne_true
  refine congrArg Host.Outcome.next (if_pos ?_)
  rw [hr, Bool.true_and, Bool.not_eq_true']
  exact hany

/-! TK_RESERVE and the quotas (R230, R233). -/

theorem exec_tenantQuotaWrite {key : Nat} (hk : key ≤ 8191) (ha : absentKey s key = false) : exec (.tenantQuotaWrite key v) s =
    .next (if bits v.toNat 16 0 ≤ 65536 then { s with tk := { s.tk with quotas := tset s.tk.quotas key 0 (bits v.toNat 16 0) } } else s) := by
  have hx : exec (.tenantQuotaWrite key v) s = .next (writeQuota s key v) := rfl
  have hkey : ¬ 8191 < key := by omega
  rw [hx]
  unfold writeQuota; dsimp only
  by_cases hq : bits v.toNat 16 0 ≤ 65536
  · rw [if_neg (by simp [hkey, ha]; exact hq), if_pos hq]
  · rw [if_pos (.inr (.inr (by omega))), if_neg hq]

end

/-- Settles O23: the tray registers by what a write of TRAY_CTL stores, a tray that stops by its tickets, the functions by what a reset leaves (`Fn.afterReset`). -/
theorem trayAndFunctionRegisters : Obligations.TrayAndFunctionRegisters := by
  refine ⟨?enable, ?reset, ?disable, ?bind, ?unbind, ?level, ?vf, ?complete, ?reserve, ?quota⟩
  case enable =>
    intro s f t v x y z hx he
    have hz : ctlBits (ctlReset s f t v) v = z := rfl
    refine ⟨fun hv hr => ?_, fun hv hr => ?_, fun hv hd hi => ?_⟩
    · rw [exec_trayEnable hv, writeTrayCtl_disabled hx he, if_pos hv, hz, if_neg (ne_true_of_eq_false hr)]
    · rw [exec_trayEnable hv, writeTrayCtl_disabled hx he, if_pos hv, hz, if_pos hr]
    · rw [exec_trayReset hv, writeTrayCtl_disabled hx he, if_neg (ne_true_of_eq_false hd), ctlReset, if_pos ⟨hv, hi⟩]
      rfl
  case reset => exact fun x => ⟨rfl, rfl, rfl, rfl, rfl, rfl, rfl, rfl, rfl, rfl, rfl⟩
  case disable => exact fun s f t v hx he hv => exec_trayDisable_leaves hx he hv
  case bind =>
    intro s f v n tenant nt first hf hn hv
    rw [exec_functionBind hf hn hv]
    refine ⟨fun he ha hnt htop ho => congrArg Host.Outcome.next (if_neg ?_), fun h => congrArg Host.Outcome.next (if_pos ?_)⟩
    · have hnt' : ¬ (if f = 0 then 2047 else 2048) < bits v.toNat 27 16 := Nat.not_lt.mpr hnt
      have htop' : ¬ nTrays s.part < bits v.toNat 14 0 + bits v.toNat 27 16 := Nat.not_lt.mpr htop
      have ha' : absentKey s (mapTenant f v) = false := ha
      have ho' : mapOverlap s f (bits v.toNat 14 0) (bits v.toNat 27 16) = false := ho
      simp only [he, ha', hnt', htop', ho', decide_false, Bool.not_true, Bool.or_self, Bool.false_eq_true, not_false_eq_true]
    · simp only [Bool.or_eq_true, Bool.not_eq_true', decide_eq_true_eq, or_assoc]
      exact h
  case unbind => exact fun s f v hf hn hv => exec_functionUnbind hf hn hv
  case level =>
    intro s f hf hv
    obtain ⟨s', hexec, hfn, hjn, hled⟩ := exec_functionLevelReset_leaves hf
    refine ⟨s', hexec, ?_⟩
    rw [hfn]
    exact ⟨rfl, rfl, rfl, rfl, hv, rfl, hjn, hled⟩
  case vf => exact fun s port => rfl
  case complete => exact fun s f => exec_flrComplete
  case reserve => exact fun s v => rfl
  case quota =>
    intro s key v hk ha
    rw [exec_tenantQuotaWrite hk ha]
    exact ⟨fun hq => congrArg Host.Outcome.next (if_pos hq), fun hq => congrArg Host.Outcome.next (if_neg (Nat.not_le.mpr hq))⟩

end Sys2Proof.Machine
end

section
/-! SUPPORT. Writes of KEY_RETIRE and of the MPU region registers (R237, R238, R261). -/
namespace Sys2Proof.Machine

/-- KEY_RETIRE (R261) for a tenant that exists and whose key took its last flip, by the bits of its commit word. -/
theorem exec_keyRetire {s : State} {t : Nat} {v : Dbl} (ht : bits v.toNat 12 0 = t) (ha : absentKey s t = false) (hu : (keyOf s t).unflipped = false) :
    exec (.keyRetire v) s = .next (
      if cwPending (keyOf s t) then setKey s t { keyOf s t with retireWaiting := (keyOf s t).retireWaiting + 1 }
      else if !cwOther (keyOf s t) then { s with guard := { s.guard with retireErr := true } }
      else setKey s t (retireOther (keyOf s t) false)) := by
  subst ht
  exact congrArg Host.Outcome.next (if_neg (by simp [ha, hu]))

/-! The region registers (R237, R238). -/

/-- A region register that exists takes a write unless the region is locked. -/
theorem exec_mpuRegionWrite {s : State} {n reg : Nat} (v : Dbl) (hn : n < 64) (hr : reg < 4) :
    exec (.mpuRegionWrite n reg v) s = .next (
      if (mpuReg s n 3).getLsbD 63 then s
      else { s with guard := { s.guard with regions := tset s.guard.regions (4 * n + reg) 0 (mpuNew reg (mpuReg s n reg) v) } }) := by
  refine congrArg Host.Outcome.next ?_
  simp only [writeMpu, Nat.not_le.mpr hn, Nat.not_le.mpr hr, false_or]

/-- A masked value has no bit outside a mask that covers its own. -/
theorem and_and_not_eq_zero {w : Nat} {m n : BitVec w} (x : BitVec w) (h : m &&& ~~~ n = 0#w) : x &&& m &&& ~~~ n = 0#w := by
  rw [BitVec.and_assoc, h, BitVec.and_zero]

theorem mpuNew_reserved (reg : Nat) (old v : Dbl) : mpuNew reg old v &&& ~~~ mpuMask reg = 0 := by
  unfold mpuNew
  dsimp only
  split
  next h =>
    obtain ⟨rfl, -⟩ := h
    rw [BitVec.and_or_distrib_right, BitVec.and_assoc v, and_and_not_eq_zero v (by decide), and_and_not_eq_zero old (by decide)]
    rfl
  next => exact and_and_not_eq_zero v (BitVec.and_not_self _)

/-- A field of a doubleword's number is the slice of its bits. -/
theorem bits_toNat (v : Dbl) (hi lo : Nat) : bits v.toNat hi lo = (v.extractLsb' lo (hi + 1 - lo)).toNat := rfl

/-- A write of MODE 3 to MATCH leaves MODE as it was. -/
theorem mpuNew_mode_kept (old v : Dbl) (h : bits v.toNat 31 30 = 3) : bits (mpuNew 2 old v).toNat 31 30 = bits old.toNat 31 30 := by
  have hclear : (~~~ 0xC0000000#64).extractLsb' 30 2 = 0#2 := by decide
  have hkeep : (0xC0000000#64).extractLsb' 30 2 = BitVec.allOnes 2 := by decide
  have hnew : mpuNew 2 old v = (v &&& mpuMask 2 &&& ~~~ 0xC0000000#64) ||| (old &&& 0xC0000000#64) := if_pos ⟨rfl, h⟩
  rw [hnew, bits_toNat, bits_toNat, BitVec.extractLsb'_or, BitVec.extractLsb'_and, BitVec.extractLsb'_and (x := old), hclear, hkeep,
    BitVec.and_zero, BitVec.and_allOnes, BitVec.zero_or]

/-- Settles O11: the writes by `exec_keyRetire` and `exec_mpuRegionWrite`, the value of a region register by its masks. -/
theorem guardRegisterWrites : Obligations.GuardRegisterWrites := by
  refine ⟨?retire, ?region, mpuNew_reserved, mpuNew_mode_kept⟩
  case retire =>
    intro s v t ha hu
    rw [exec_keyRetire rfl ha hu]
    refine ⟨fun hp => by rw [if_pos hp], fun hp ho => ?_, fun hp ho => ?_⟩ <;> rw [if_neg (ne_true_of_eq_false hp), ho] <;> rfl
  case region =>
    intro s n reg v hn hr
    rw [exec_mpuRegionWrite v hn hr]
    exact ⟨fun hl => by rw [if_pos hl], fun hl => by rw [if_neg (ne_true_of_eq_false hl)]⟩

end Sys2Proof.Machine
end

section
/-! SUPPORT. TLB invalidation and storage keys at a core (R251, R315, R316, R418): what the issue of each instruction makes of its operation's result. -/
namespace Sys2Proof.Machine

variable {s t : State} {c f : Nat} {i : Instr} {o : LOp} {w : Word} {v : Wait} {e : Exc}

/-! An instruction that leaves its frame alone, and one that is at fault. -/

theorem Ready.listed (h : Ready s c f o w v) : (coreOf s c).frames ≠ [] := frames_of_running h.runs.1

/-- An instruction that has changed the machine to `t`, but neither its frame's state nor its shadows, has ended there. -/
theorem conclude_ended (h : Ready s c f o w v) (hr : (frameOf t c f).state = .running) (he : (frameOf t c f).epoch = (frameOf s c f).epoch)
    (hs : (frameOf t c f).pend = (frameOf s c f).pend) :
    Ended t (conclude s c f (frameOf s c f) o w (.done t)) c f (frameOf t c f) ((frameOf s c f).pc + BitVec.ofNat 32 (lenOf o)) := by
  obtain ⟨hcore, hframe⟩ := coreOnly_countIssue f (frameOf s c f) o w (frames_of_running hr)
  obtain ⟨-, -, -, huntraced⟩ := h.calm
  simp only [conclude, h.rep, endInstr, hframe, traceAfter, huntraced]
  rw [if_neg (fun hne => hne he), if_neg Bool.false_ne_true]
  exact Ended.settled (ended_tick hcore hr (fun p hp => h.shadows p (hs ▸ hp)) rfl) hr

/-- Counting steps keeps a core's frames. -/
theorem frames_countStep {k n : Nat} (h : (coreOf s c).frames ≠ []) (ht : (coreOf t c).frames = (coreOf s c).frames) :
    (coreOf (countStep t c k n) c).frames = (coreOf s c).frames := by
  rw [coreOf_countStep k n (ht ▸ h), ht]

theorem frames_countGroup (x : Frame) (h : (coreOf s c).frames ≠ []) : (coreOf (countGroup s c x o w) c).frames = (coreOf s c).frames := by
  unfold countGroup; dsimp only [spend]; repeat' split
  all_goals repeat' apply frames_countStep h
  all_goals rfl

/-- Counting an instruction that is at fault leaves every frame of the core. -/
theorem frameOf_countFault (x : Frame) (h : (coreOf s c).frames ≠ []) : frameOf (countFault s c x o w e) c f = frameOf s c f := by
  have hframes : (coreOf (countFault s c x o w e) c).frames = (coreOf s c).frames :=
    frames_countStep h (frames_countStep h (frames_countGroup x h))
  rw [frameOf, hframes, frameOf]

/-! The six instructions. -/

def tlbAndKeyOps : List LOp := [.tlbiVa, .tlbiAsid, .tlbiAll, .keyset, .keyget, .keyclr]

theorem tlbAndKeyOps_plain : ∀ o ∈ tlbAndKeyOps, isLongOp o = false ∧ (o ≠ .repi ∧ o ≠ .repu) ∧ o ≠ .longLiteralOp ∧ ¬ (o = .svc ∨ o = .brk) := by
  decide

theorem lenOf_tlbAndKeyOps : ∀ o ∈ tlbAndKeyOps, lenOf o = 4 := by decide

/-- The command of one of the six, once nothing holds it back. -/
theorem exec_tlbOrKey {g : Bool} (ho : o ∈ tlbAndKeyOps) (h : Ready s c f o w v) (hi : exec i s = .next (issue s c o))
    (hv : (v = .idle ∧ g = false) ∨ ∃ d b, v = .filled d b ∧ g = true) :
    exec i s = .next (conclude s c f (frameOf s c f) o w (runOp o s (taskActor s c f g) w 0)) := by
  obtain ⟨hl, hp, hlit, -⟩ := tlbAndKeyOps_plain o ho
  rw [hi, issue_ready h hv hl hp hlit]

/-- One of the six whose operation raises an exception traps. -/
theorem traps_of_exc (ho : o ∈ tlbAndKeyOps) (h : Ready s c f o w) (hi : exec i s = .next (issue s c o))
    (hr : runOp o s (taskActor s c f false) w 0 = .exc s e) (he : e.entry = false) : Traps i s c f e := by
  intro o' w' s' hw hd hraise
  obtain rfl : w = w' := FetchAns.word.inj (h.word.symm.trans hw)
  obtain rfl : o = o' := Option.some.inj (h.names.symm.trans hd)
  obtain ⟨-, -, -, hcall⟩ := tlbAndKeyOps_plain o ho
  rw [exec_tlbOrKey ho h hi (.inl ⟨rfl, rfl⟩), hr]
  simp only [conclude, raiseAt, frameOf_countFault _ h.listed, he, Option.some.injEq, hcall, if_false, Bool.false_eq_true, false_and]
  rw [hraise]; rfl

/-- Each is privileged (R298). -/
theorem runOp_user {a : Actor} (ho : o ∈ tlbAndKeyOps) (ha : a.sup = false) : runOp o s a w 0 = .exc s { vec := 10 } := by
  have hs : ∀ r, superOnly a s r = .exc s { vec := 10 } := fun r => if_neg (ne_true_of_eq_false ha)
  simp only [tlbAndKeyOps, List.mem_cons, List.not_mem_nil, or_false] at ho
  rcases ho with rfl | rfl | rfl | rfl | rfl | rfl <;> exact hs _

theorem traps_user (ho : o ∈ tlbAndKeyOps) (h : Ready s c f o w) (hi : exec i s = .next (issue s c o)) (hu : pSuper (frameOf s c f).psw = false) :
    Traps i s c f { vec := 10 } :=
  traps_of_exc ho h hi (runOp_user ho hu) rfl

/-! TLB invalidation (R315, R418). -/

/-- The state in which a core has removed its own entries and its broadcast is outstanding. -/
def tlbiSent (s : State) (c : Nat) (k : TlbiKind) : State :=
  { tlbiRemove s c k with mem := { s.mem with tlbis := s.mem.tlbis ++ [{ core := c, kind := k, left := tlbiUnits s c }] } }

theorem coreOf_tlbiSent (k : TlbiKind) (h : (coreOf s c).frames ≠ []) : coreOf (tlbiSent s c k) c =
    { coreOf s c with tlb := (coreOf s c).tlb.filter (fun e => !tlbiHits k e), walk := (coreOf s c).walk.filter (fun e => !tlbiHitsWalk k e) } :=
  coreOf_setCore_same s c (core_ne_default h)

theorem tlbiIssue_super {a : Actor} (k : TlbiKind) (ha : a.sup = true) : tlbiIssue s a k = .done (tlbiSent s a.c k) := if_pos ha

theorem exec_tlbi {k : TlbiKind} (ho : o ∈ tlbAndKeyOps) (h : Ready s c f o w) (hi : exec i s = .next (issue s c o)) (hu : pSuper (frameOf s c f).psw = true)
    (hr : runOp o s (taskActor s c f false) w 0 = tlbiIssue s (taskActor s c f false) k) :
    ∃ s', exec i s = .next s' ∧ s'.mem.tlbis = s.mem.tlbis ++ [{ core := c, kind := k, left := tlbiUnits s c }] ∧ s'.mem = { s.mem with tlbis := s'.mem.tlbis } ∧
      (coreOf s' c).tlb = (coreOf s c).tlb.filter (fun e => !tlbiHits k e) ∧ (coreOf s' c).walk = (coreOf s c).walk.filter (fun e => !tlbiHitsWalk k e) ∧
      { frameOf s' c f with fetch := [], last := none } = { frameOf s c f with pc := (frameOf s c f).pc + 4, fetch := [], last := none } := by
  have hcore := coreOf_tlbiSent k h.listed
  have hframe : frameOf (tlbiSent s c k) c f = frameOf s c f := by rw [frameOf, hcore, frameOf]
  have hexec := exec_tlbOrKey ho h hi (.inl ⟨rfl, rfl⟩)
  rw [hr, tlbiIssue_super k hu, show (taskActor s c f false).c = c from rfl] at hexec
  have hend := conclude_ended (t := tlbiSent s c k) h (hframe ▸ h.runs.1) (by rw [hframe]) (by rw [hframe])
  rw [hframe, lenOf_tlbAndKeyOps o ho] at hend
  have hmem : (conclude s c f (frameOf s c f) o w (.done (tlbiSent s c k))).mem = (tlbiSent s c k).mem := by rw [hend.rest]
  refine ⟨_, hexec, ?_, ?_, ?_, ?_, ?_⟩
  · rw [hmem]; rfl
  · rw [hmem]; rfl
  · rw [hend.core, hcore]
  · rw [hend.core, hcore]
  · exact hend.frame.trans (congrArg (fun v => { frameOf s c f with pc := (frameOf s c f).pc + 4, wait := v, fetch := [], last := none }) h.runs.2.symm)

/-! Storage keys (R251, R316). -/

section
variable {a : Actor} {acc : Nat} {k : State → Nat → IRes}

/-- The bus error of a key instruction outside HBM (R251). -/
def keyBusError (pa acc : Nat) : Exc := { vec := 4, addr := BitVec.ofNat 64 pa, acc := acc, phys := true }

theorem keyAccess_outside (ha : a.sup = true) (hm : isHbm s (gPair (actFrame s a) (fRb w)).toNat = false) :
    keyAccess s a w acc k = .exc s (keyBusError (gPair (actFrame s a) (fRb w)).toNat acc) := by
  simp [keyAccess, superOnly, ha, hm, keyBusError]

theorem keyAccess_held (ha : a.sup = true) (hm : isHbm s (gPair (actFrame s a) (fRb w)).toNat = true) (hb : memLopBusy s a.c = true) :
    keyAccess s a w acc k = .stay := by
  simp [keyAccess, superOnly, ha, hm, hb]

theorem keyAccess_answered (ha : a.sup = true) (hm : isHbm s (gPair (actFrame s a) (fRb w)).toNat = true) (hb : memLopBusy s a.c = false) (hg : a.go = true) :
    keyAccess s a w acc k = k s ((gPair (actFrame s a) (fRb w)).toNat / 4096) := by
  simp [keyAccess, superOnly, ha, hm, hb, hg]

end

/-- What a step over lines does to memory alone, keeping every byte, it does over a list of them. -/
theorem foldl_setMem {step : State → Nat → State} (h : ∀ u l, ∃ m, step u l = setMem u m ∧ m.bytes = u.mem.bytes) (ls : List Nat) (s : State) :
    ∃ m, ls.foldl step s = setMem s m ∧ m.bytes = s.mem.bytes := by
  induction ls generalizing s with
  | nil => exact ⟨s.mem, rfl, rfl⟩
  | cons l ls ih =>
    obtain ⟨m, hstep, hm⟩ := h s l
    obtain ⟨m', hrest, hm'⟩ := ih (setMem s m)
    exact ⟨m', by rw [List.foldl_cons, hstep, hrest]; rfl, hm'.trans hm⟩

theorem downgradeLine_setMem (s : State) (l : Nat) : ∃ m, downgradeLine s l = setMem s m ∧ m.bytes = s.mem.bytes := by
  unfold downgradeLine; repeat' split
  all_goals exact ⟨_, rfl, rfl⟩

/-- A key instruction that writes the key of a frame, changes lines of memory and leaves its task's frame as `x`. -/
theorem exec_keyWritten {fr : Nat} {key : Half} {x : Frame} (ho : o ∈ tlbAndKeyOps) (h : Ready s c f o w (.filled [] true)) (hi : exec i s = .next (issue s c o))
    (hr : runOp o s (taskActor s c f true) w 0 = .done t) (ht : t.guard = (setKeyOf s fr key).guard) (hm : t.mem.bytes = s.mem.bytes) (hx : frameOf t c f = x)
    (hstate : x.state = (frameOf s c f).state) (hepoch : x.epoch = (frameOf s c f).epoch) (hpend : x.pend = (frameOf s c f).pend) :
    ∃ s', exec i s = .next s' ∧ s'.guard.storageKeys = tset s.guard.storageKeys fr 0x2000 key ∧ s'.mem.bytes = s.mem.bytes ∧
      { frameOf s' c f with fetch := [], last := none } = { x with pc := (frameOf s c f).pc + 4, wait := .idle, fetch := [], last := none } := by
  subst hx
  have hend := conclude_ended h (hstate.trans h.runs.1) hepoch hpend
  rw [lenOf_tlbAndKeyOps o ho] at hend
  refine ⟨_, (exec_tlbOrKey ho h hi (.inr ⟨_, _, rfl, rfl⟩)).trans (by rw [hr]), ?_, ?_, hend.frame⟩
  · rw [hend.rest, ht]; rfl
  · rw [hend.rest]; exact hm

theorem runOp_key_outside {a : Actor} (ha : a.sup = true) (hm : isHbm s (gPair (actFrame s a) (fRb w)).toNat = false) :
    runOp .keyset s a w 0 = .exc s (keyBusError (gPair (actFrame s a) (fRb w)).toNat 1) ∧
    runOp .keyget s a w 0 = .exc s (keyBusError (gPair (actFrame s a) (fRb w)).toNat 0) ∧
    runOp .keyclr s a w 0 = .exc s (keyBusError (gPair (actFrame s a) (fRb w)).toNat 1) := by
  refine ⟨?_, ?_, ?_⟩
  · show opKeyset s a w = _; rw [opKeyset, keyAccess_outside ha hm]
  · show opKeyget s a w = _; rw [opKeyget, keyAccess_outside ha hm]
  · show opKeyclr s a w = _; rw [opKeyclr, keyAccess_outside ha hm]

theorem runOp_keyget_held {a : Actor} (ha : a.sup = true) (hm : isHbm s (gPair (actFrame s a) (fRb w)).toNat = true) (hb : memLopBusy s a.c = true) :
    runOp .keyget s a w 0 = .stay := by
  show opKeyget s a w = _; rw [opKeyget, keyAccess_held ha hm hb]

section
variable {a : Actor} (ha : a.sup = true) (hm : isHbm s (gPair (actFrame s a) (fRb w)).toNat = true) (hb : memLopBusy s a.c = false) (hg : a.go = true)
include ha hm hb hg

/-- KEYSET is done over memory in which no L1 copy of the frame's lines is left. -/
theorem runOp_keyset : ∃ m, m.bytes = s.mem.bytes ∧ runOp .keyset s a w 0 = .done (setKeyOf (setMem s m) ((gPair (actFrame s a) (fRb w)).toNat / 4096)
    ((storageKey s ((gPair (actFrame s a) (fRb w)).toNat / 4096) &&& 0xC000) ||| ((gA s a w).setWidth 16 &&& 0x3FFF))) := by
  obtain ⟨m, hfold, hbytes⟩ := foldl_setMem (step := invalidateLine) (fun u l => ⟨recallMem u.mem l, rfl, rfl⟩)
    (frameLines ((gPair (actFrame s a) (fRb w)).toNat / 4096)) s
  exact ⟨m, hbytes, by show opKeyset s a w = _; rw [opKeyset, keyAccess_answered ha hm hb hg, hfold]⟩

theorem runOp_keyget : runOp .keyget s a w 0 =
    .done (setFrame s a.c a.f (setG (actFrame s a) (fRd w) ((storageKey s ((gPair (actFrame s a) (fRb w)).toNat / 4096)).setWidth 32))) :=
  by show opKeyget s a w = _; rw [opKeyget, keyAccess_answered ha hm hb hg]; rfl

/-- KEYCLR is done over memory in which every L1 copy of the frame's lines is shared. -/
theorem runOp_keyclr : ∃ m, m.bytes = s.mem.bytes ∧
    runOp .keyclr s a w 0 = .done (setFrame (setKeyOf (setMem s m) ((gPair (actFrame s a) (fRb w)).toNat / 4096)
      (storageKey s ((gPair (actFrame s a) (fRb w)).toNat / 4096) &&& 0x3FFF)) a.c a.f
      (setG (actFrame s a) (fRd w) ((storageKey s ((gPair (actFrame s a) (fRb w)).toNat / 4096)).setWidth 32))) := by
  obtain ⟨m, hfold, hbytes⟩ := foldl_setMem downgradeLine_setMem (frameLines ((gPair (actFrame s a) (fRb w)).toNat / 4096)) s
  exact ⟨m, hbytes, by show opKeyclr s a w = _; rw [opKeyclr, keyAccess_answered ha hm hb hg, hfold]; rfl⟩

end

/-- Settles O44: the traps by what the operations refuse (`runOp_user`, `runOp_key_outside`), the invalidations by the state that they leave (`tlbiSent`), the keys by the memory that they
change line by line. -/
theorem tlbAndStorageKeys : Obligations.TlbAndStorageKeys := by
  intro s c f w x asid pa key issued rd
  refine ⟨fun hu => ⟨?va, ?asid, ?all, ?held, ?answered, ?outside⟩, ?user⟩
  case va => exact fun h => exec_tlbi (by decide) h rfl hu rfl
  case asid => exact fun h => exec_tlbi (by decide) h rfl hu rfl
  case all => exact fun h => exec_tlbi (by decide) h rfl hu rfl
  case held =>
    intro hm hb h
    have hexec := exec_tlbOrKey (i := .keyget c) (by decide) h rfl (.inr ⟨_, _, rfl, rfl⟩)
    rwa [runOp_keyget_held (a := taskActor s c f true) hu hm hb] at hexec
  case answered =>
    intro hm hb
    refine ⟨fun h => ?set, fun h => ?get, fun h => ?clear⟩
    case set =>
      obtain ⟨m, hbytes, hr⟩ := runOp_keyset (a := taskActor s c f true) hu hm hb rfl
      exact exec_keyWritten (by decide) h rfl hr rfl hbytes rfl rfl rfl rfl
    case get =>
      have hexec := exec_tlbOrKey (i := .keyget c) (by decide) h rfl (.inr ⟨_, _, rfl, rfl⟩)
      rw [runOp_keyget (a := taskActor s c f true) hu hm hb rfl] at hexec
      exact ⟨_, hexec, conclude_done ((setG_state ..).trans h.runs.1) (setG_epoch ..) h.calm.2.2.2 h.rep (by rw [setG_pend]; exact h.shadows)⟩
    case clear =>
      obtain ⟨m, hbytes, hr⟩ := runOp_keyclr (a := taskActor s c f true) hu hm hb rfl
      have hne : setG x (fRd w) (key.setWidth 32) ≠ {} := frame_ne_default ((setG_state ..).trans h.runs.1)
      exact exec_keyWritten (by decide) h rfl hr rfl hbytes (frameOf_setFrame_same _ c f hne) (setG_state ..) (setG_epoch ..) (setG_pend ..)
  case outside =>
    intro hm
    obtain ⟨hset, hget, hclear⟩ := runOp_key_outside (a := taskActor s c f false) hu hm
    exact ⟨fun h => traps_of_exc (by decide) h rfl hset rfl, fun h => traps_of_exc (by decide) h rfl hget rfl, fun h => traps_of_exc (by decide) h rfl hclear rfl⟩
  case user =>
    intro hu
    refine ⟨?_, ?_, ?_, ?_, ?_, ?_⟩ <;> exact fun h => traps_user (by decide) h rfl hu

end Sys2Proof.Machine
end

section
/-! SUPPORT. A broadcast of TLBI.ALL at an engine (R418, R419) whose entries stand in a table that is not canonical. -/
namespace Sys2Proof.Machine

/-- Engine 0 is listed twice in the table of the engines' TLBs, and a TLBI.ALL waits for it alone. -/
def engineListedTwice : State := { eng := { tlb := [(0, [1]), (0, [2])] }, mem := { tlbis := [{ kind := .all, left := [128] }] } }

/-- The removal takes the first listing out, and engine 0 reads the second. -/
theorem engTlb_engineListedTwice : engTlb (tlbiTake 0 128 engineListedTwice) 0 = [2] := by decide

/-- Refutes O55, its fifth conjunct: it claims of every table of the engines' TLBs that an engine's is empty once it has received a TLBI.ALL, but `tdel` takes one listing
of a key out, the only one where the keys rise strictly (`tgetD_tset`). The conjunct on the cores has that condition (`twf`), the one on the engines lacks it: in
`engineListedTwice` page 2 is left. -/
theorem not_directoriesAndErrors : ¬ Obligations.DirectoriesAndErrors := by
  unfold Obligations.DirectoriesAndErrors
  rintro ⟨-, -, -, -, hengine, -⟩
  obtain ⟨s', hx, -, hall, -⟩ := hengine engineListedTwice 0 128 { kind := .all, left := [128] } rfl (by decide) (by decide) (by decide) (by decide)
  have hs' : s' = tlbiTake 0 128 engineListedTwice := (Host.Outcome.next.inj hx).symm
  have hempty : engTlb s' 0 = [] := hall rfl
  rw [hs', engTlb_engineListedTwice] at hempty
  cases hempty

end Sys2Proof.Machine
end

section
/-! SUPPORT. How a ladle core issues a word that nothing holds back (R266, R283, R313, R363), and what an instruction leaves whose operation has ended, branched or set its own pc. -/
namespace Sys2Proof.Machine

variable {s t : State} {c f : Nat} {i : Instr} {o : LOp} {w : Word} {rep : Option Nat} {e : Exc}

/-! Issue. -/

/-- A word that waits for nothing, is no long literal and has nothing before it begins as REPI or REPU, as a long operation, or by its operation. -/
theorem issue_begins (h : Ready s c f o w .idle rep) (hlit : o ≠ .longLiteralOp) :
    issue s c o = if o = .repi ∨ o = .repu then issuePrefix s c f (frameOf s c f) o w
      else if isLongOp o then conclude s c f (frameOf s c f) o w (issueLop s c f (frameOf s c f) o w)
      else conclude s c f (frameOf s c f) o w (runOp o s (taskActor s c f false) w 0) := by
  obtain ⟨hf, hin, hrunning⟩ := h.core
  obtain ⟨hstate, hwait⟩ := h.runs
  obtain ⟨-, hlov, htrace, -⟩ := h.calm
  obtain ⟨hlop, hsram⟩ := h.kept
  have hmay : mayIssue s c f = true := by simp [mayIssue, hf, hin, hrunning, hstate, hwait, hlov]
  have hbefore : beforeIssue s c f = none := by simp only [beforeIssue, hsram, htrace, hlop, Bool.false_eq_true, if_false, Option.isSome_none]
  have hfill : fill s c f o = .ok s () := by
    unfold fill; dsimp only
    cases hu : usesAccs o with
    | false => rw [Bool.false_and, if_neg Bool.false_ne_true]
    | true => rw [h.filled hu, Bool.and_false, if_neg Bool.false_ne_true]
  simp only [issue, hrunning, issueAs, hmay, hbefore, h.word, h.names, Bool.not_true, Bool.false_eq_true, if_false, or_true, if_true, issueFor, h.free, literalAt, hlit, hfill, hwait]

theorem issue_repeat (h : Ready s c f o w) (ho : o = .repi ∨ o = .repu) : issue s c o = issuePrefix s c f (frameOf s c f) o w := by
  rw [issue_begins h (by rcases ho with rfl | rfl <;> decide), if_pos ho]

theorem issue_long (h : Ready s c f o w) (ho : isLongOp o = true) :
    issue s c o = conclude s c f (frameOf s c f) o w (issueLop s c f (frameOf s c f) o w) := by
  have hp : ¬ (o = .repi ∨ o = .repu) := by rintro (rfl | rfl) <;> exact absurd ho (by decide)
  rw [issue_begins h (by rintro rfl; exact absurd ho (by decide)), if_neg hp, if_pos ho]

/-- An operation that is carried out as its word issues: no long operation, neither REPI nor REPU, no long literal. -/
def isPlainOp (o : LOp) : Bool := !isLongOp o && o != .repi && o != .repu && o != .longLiteralOp

theorem issue_plain (h : Ready s c f o w .idle rep) (ho : isPlainOp o = true) :
    issue s c o = conclude s c f (frameOf s c f) o w (runOp o s (taskActor s c f false) w 0) := by
  simp only [isPlainOp, Bool.and_eq_true, Bool.not_eq_true', bne_iff_ne] at ho
  obtain ⟨⟨⟨hl, hi⟩, hu⟩, hlit⟩ := ho
  rw [issue_begins h hlit, if_neg (not_or.mpr ⟨hi, hu⟩), hl, if_neg Bool.false_ne_true]

/-- An operation that nothing lets go on yet leaves the machine as it is. -/
theorem exec_plain_stay (h : Ready s c f o w .idle rep) (ho : isPlainOp o = true) (hi : exec i s = .next (issue s c o))
    (hr : runOp o s (taskActor s c f false) w 0 = .stay) : exec i s = .next s := by
  rw [hi, issue_plain h ho, hr]; rfl

/-- An operation that raises an exception at its own word traps (R377). -/
theorem traps_of_plain_exc (h : Ready s c f o w) (ho : isPlainOp o = true) (hcall : ¬ (o = .svc ∨ o = .brk)) (hi : exec i s = .next (issue s c o))
    (hr : runOp o s (taskActor s c f false) w 0 = .exc s e) (he : e.entry = false) : Traps i s c f e := by
  intro o' w' s' hw hd hraise
  obtain rfl : w = w' := FetchAns.word.inj (h.word.symm.trans hw)
  obtain rfl : o = o' := Option.some.inj (h.names.symm.trans hd)
  rw [hi, issue_plain h ho, hr]
  simp only [conclude, raiseAt, frameOf_countFault _ h.listed, he, Option.some.injEq, hcall, if_false, Bool.false_eq_true, false_and]
  rw [hraise]; rfl

/-! The end of an instruction. -/

/-- An instruction that ends a state later has ended from the state before, when what came between changed its frame and counters alone. -/
theorem CoreOnly.ended {s' : State} {x : Frame} {ad : Word} (a : CoreOnly s t c f) (h : Ended t s' c f x ad) : Ended s s' c f x ad where
  frame := h.frame
  others := fun g hg => (h.others g hg).trans (a.others g hg)
  core := by rw [h.core, a.core]
  cores := fun d hd => (h.cores d hd).trans (a.cores d hd)
  rest := by rw [h.rest, a.rest]

/-- An instruction has ended where its frame and counters alone have changed and the frame stands as given. -/
theorem CoreOnly.endedAs {s' : State} {x y : Frame} {ad : Word} (a : CoreOnly s s' c f) (hy : frameOf s' c f = y)
    (hxy : { y with fetch := [], last := none } = { x with pc := ad, wait := .idle, fetch := [], last := none }) : Ended s s' c f x ad :=
  ⟨by rw [hy]; exact hxy, a.others, a.core, a.cores, a.rest⟩

/-- What an instruction's frame must be as it ends, for the instruction to end in it. -/
structure Lasts (x y : Frame) : Prop where
  runs : y.state = .running
  epoch : y.epoch = x.epoch
  shadows : ∀ p ∈ y.pend, p.left = none

/-- The end of an instruction that began untraced, at an address. -/
theorem ended_endInstr {ad : Word} (ht : pTr (frameOf s c f).psw = false) (hy : Lasts (frameOf s c f) (frameOf t c f)) :
    Ended t (endInstr t c f (frameOf s c f) o w ad) c f (frameOf t c f) ad := by
  simp only [endInstr, traceAfter, ht]
  rw [if_neg (not_not_intro hy.epoch), if_neg Bool.false_ne_true]
  exact Ended.settled (ended_tick (.refl (frames_of_running hy.runs)) hy.runs hy.shadows rfl) hy.runs

/-- The end of an instruction whose frame is written as it ends. -/
theorem ended_endInstr_setFrame {y : Frame} {ad : Word} (ht : pTr (frameOf s c f).psw = false) (hy : Lasts (frameOf s c f) y) :
    Ended t (endInstr (setFrame t c f y) c f (frameOf s c f) o w ad) c f y ad := by
  have hne : y ≠ {} := frame_ne_default hy.runs
  have hsame := frameOf_setFrame_same t c f hne
  have hend := ended_endInstr (t := setFrame t c f y) (o := o) (w := w) (ad := ad) ht (hsame.symm ▸ hy)
  rw [hsame] at hend
  exact (coreOnly_setFrame t c f hne).ended hend

/-- The fetch buffer follows the pc, whatever it held. -/
theorem Ended.of_fetch {s' : State} {x : Frame} {l : List FetchBlk} {ad : Word} (h : Ended s s' c f { x with fetch := l } ad) : Ended s s' c f x ad :=
  ⟨h.frame, h.others, h.core, h.cores, h.rest⟩

/-- An operation that is done in `t` ends its instruction there, at the next word. -/
theorem ended_conclude_done (h : Ready s c f o w) (hy : Lasts (frameOf s c f) (frameOf t c f)) :
    Ended t (conclude s c f (frameOf s c f) o w (.done t)) c f (frameOf t c f) ((frameOf s c f).pc + BitVec.ofNat 32 (lenOf o)) := by
  obtain ⟨hcount, hframe⟩ := coreOnly_countIssue f (frameOf s c f) o w (frames_of_running hy.runs)
  obtain ⟨-, -, -, htr⟩ := h.calm
  simp only [conclude, h.rep]
  have hend := ended_endInstr (o := o) (w := w) (ad := (frameOf s c f).pc + BitVec.ofNat 32 (lenOf o)) htr (hframe.symm ▸ hy)
  rw [hframe] at hend
  exact hcount.ended hend

/-- An operation that branches in `t` ends its instruction there, at its target. -/
theorem ended_conclude_jump {ad : Word} (h : Ready s c f o w) (hy : Lasts (frameOf s c f) (frameOf t c f)) :
    Ended t (conclude s c f (frameOf s c f) o w (.jump t ad)) c f (frameOf t c f) ad := by
  obtain ⟨hcount, hframe⟩ := coreOnly_countIssue f (frameOf s c f) o w (frames_of_running hy.runs)
  obtain ⟨hspend, hframe'⟩ := coreOnly_spend f csBranch 2 hcount.listed
  rw [hframe] at hframe'
  obtain ⟨-, -, -, htr⟩ := h.calm
  simp only [conclude, hframe']
  have hy' : Lasts (frameOf s c f) { frameOf t c f with fetch := [] } := ⟨hy.runs, hy.epoch, hy.shadows⟩
  exact ((hcount.trans hspend).ended (ended_endInstr_setFrame htr hy')).of_fetch

/-- An operation that has set its own pc in `t` leaves that but for the counters, while no shadow is open. -/
theorem conclude_raw_leaves (h : Ready s c f o w) (hne : frameOf t c f ≠ {}) (hlisted : (coreOf t c).frames ≠ []) (hs : ∀ p ∈ (frameOf t c f).pend, p.left = none) :
    CoreOnly t (conclude s c f (frameOf s c f) o w (.raw t)) c f ∧ frameOf (conclude s c f (frameOf s c f) o w (.raw t)) c f = frameOf t c f := by
  obtain ⟨hcount, hframe⟩ := coreOnly_countIssue f (frameOf s c f) o w hlisted
  obtain ⟨-, -, -, htr⟩ := h.calm
  simp only [conclude, traceAfter, htr]
  rw [if_neg Bool.false_ne_true]
  rcases tickShadows_closed (s := countIssue t c (frameOf s c f) o w) (c := c) (f := f) (by rw [hframe]; exact hs) with ht | ht
  · rw [ht]; exact ⟨hcount, hframe⟩
  · rw [ht, hframe]; exact ⟨hcount.trans (coreOnly_setFrame _ c f hne), frameOf_setFrame_same _ c f hne⟩

end Sys2Proof.Machine
end

section
/-! SUPPORT. A ladle core's accesses with translation off (R280, R281, R284, R306). -/
namespace Sys2Proof.Machine

variable {s : State} {a : Actor} {va : Dbl} {n : Nat} {b : Bytes} {k : Acc3}

/-! Bytes of memory that a write puts. -/

/-- A byte of a canonical table after a write: the one that was written there, or the one before. -/
theorem tgetD_putMem (t : Tbl Byte) (p q : Nat) (h : twf t = true) :
    tgetD (putMem t p b) q 0 = if p ≤ q ∧ q < p + b.length then byteAt b (q - p) else tgetD t q 0 := by
  induction b generalizing t p with
  | nil =>
    rw [if_neg fun hq => Nat.lt_irrefl p (Nat.lt_of_le_of_lt hq.1 hq.2)]; rfl
  | cons x r ih =>
    rw [putMem, ih _ _ (twf_tset t p 0 x h), tgetD_tset t p q 0 x h, List.length_cons]
    rcases Nat.lt_trichotomy q p with hq | hq | hq
    · rw [if_neg (by omega), if_neg (by omega), if_neg (by omega)]
    · subst hq
      rw [if_neg (by omega), if_pos rfl, if_pos (by omega), Nat.sub_self]; rfl
    · obtain ⟨d, rfl⟩ := Nat.exists_eq_add_of_lt hq
      rw [show p + d + 1 - p = d + 1 by omega, show p + d + 1 - (p + 1) = d by omega, if_neg (show p + d + 1 ≠ p by omega)]
      exact ite_congr (propext (by omega)) (fun _ => rfl) fun _ => rfl

theorem byteOf_setMemBytes (p q : Nat) (h : MemWf s) :
    byteOf (setMemBytes s p b) q = if p ≤ q ∧ q < p + b.length then byteAt b (q - p) else byteOf s q :=
  tgetD_putMem s.mem.bytes p q ((memWf_iff s).mp h).1

theorem byteOf_setMemBytes_written (p : Nat) (h : MemWf s) {i : Nat} (hi : i < b.length) : byteOf (setMemBytes s p b) (p + i) = byteAt b i := by
  rw [byteOf_setMemBytes p _ h, if_pos (by omega), Nat.add_sub_cancel_left]

theorem byteOf_setMemBytes_outside (p : Nat) (h : MemWf s) {q : Nat} (hq : q < p ∨ p + b.length ≤ q) : byteOf (setMemBytes s p b) q = byteOf s q := by
  rw [byteOf_setMemBytes p _ h, if_neg (by omega)]

/-! The steps of an access (R306). -/

theorem misaligned_of_ne (h : va.toNat % n ≠ 0) : misaligned va n k = some { vec := 3, addr := va, acc := accNum k } := if_pos h

theorem misaligned_of_eq (h : va.toNat % n = 0) : misaligned va n k = none := if_neg (not_not_intro h)

/-- With translation off an address below 2^46 is its own physical address (R408). -/
theorem translate_off (ht : bitOf (crNow s a.c (frameOf s a.c a.f) 8).toNat 0 = false) (hv : va.toNat < 2 ^ 46) : translate s a k va = .ok s { pa := va.toNat } := by
  unfold translate
  dsimp only
  rw [ht, Bool.not_false, if_pos rfl, if_neg (Nat.not_le.mpr hv)]

theorem checkPiece_allowed {p : Piece} (hc : checkPa s a.master p.pa k = none) (hb : busFails s p.pa = false) : checkPiece s a k p = .ok s p := by
  simp [checkPiece, hc, hb]

/-- A load whose address, protection and bus checks pass is the read of its piece. -/
theorem loadBytes_checked (hn : va.toNat % n = 0) (ht : translate s a .read va = .ok s { pa := va.toNat }) (hc : checkPa s a.master va.toNat .read = none)
    (hb : busFails s va.toNat = false) : loadBytes s a va n = readPiece s a false { va := va, pa := va.toNat, len := n } := by
  simp only [loadBytes, misaligned_of_eq hn, resolve1, ht, MRes.andThen]
  rw [checkPiece_allowed hc hb]

theorem readPiece_held {p : Piece} {fetch : Bool} (h : portTaken s a p.pa = true) : readPiece s a fetch p = .stay := by
  simp [readPiece, h]

/-- A load from a line that the L1 holds, whose bytes no buffered store overlaps (R281). -/
theorem readPiece_hit {p : Piece} (hp : portTaken s a p.pa = false) (hl : (frameOf s a.c a.f).lop = none) (ha : areaOf s p.pa = .general)
    (ho : overlapsSb s a.c p.pa p.len = false) (hse : p.se = false) (hit : l1Need s a.c (lineOfPa p.pa) a.key false = .hit) :
    readPiece s a false p = .ok s (memBytes s p.pa p.len) := by
  have hlop : overlapsLop (frameOf s a.c a.f) p = false := by rw [overlapsLop, hl]
  simp [readPiece, hp, hlop, ha, ho, hse, hit]

/-- A store to the core's own pantry while no long operation holds the pantry's ports (R280, R284). -/
theorem writePiece_pantry {p : Piece} (ha : areaOf s p.pa = .pantry a.c) (hh : lopHolds s a.c true = false) (hu : lopUses s a.c a.f (frameOf s a.c a.f) true = false) :
    writePiece s a p b = .ok (setMemBytes s p.pa b) () := by
  simp [writePiece, portTaken, waitsDrain, ownPantry, ha, hh, hu]

/-- The store buffer's entry of a store whose address is not translated. -/
def bufferedStore (s : State) (a : Actor) (va : Dbl) (b : Bytes) : SbEntry :=
  { pa := va.toNat, data := b, key := a.key, priv := a.sup, frame := a.f, epoch := (frameOf s a.c a.f).epoch, va := va.toNat, asid := (frameOf s a.c a.f).asid.setWidth 16 }

theorem storeBytes_hbm (hn : va.toNat % b.length = 0) (ht : translate s a .write va = .ok s { pa := va.toNat }) (hm : isHbm s va.toNat = true) :
    storeBytes s a va b = if 8 ≤ (coreOf s a.c).sb.length then .stay
      else .ok (setCore s a.c { coreOf s a.c with sb := (coreOf s a.c).sb ++ [bufferedStore s a va b] }) () := by
  simp only [storeBytes, misaligned_of_eq hn, ht, MRes.andThen, hm]
  rfl

theorem storeBytes_pantry (hn : va.toNat % b.length = 0) (ht : translate s a .write va = .ok s { pa := va.toNat }) (hm : isHbm s va.toNat = false)
    (ha : areaOf s va.toNat = .pantry a.c) (hc : checkPa s a.master va.toNat .write = none) (hh : lopHolds s a.c true = false)
    (hu : lopUses s a.c a.f (frameOf s a.c a.f) true = false) : storeBytes s a va b = .ok (setMemBytes s va.toNat b) () := by
  have hb : busFails s va.toNat = false := by rw [busFails, ha]
  simp only [storeBytes, misaligned_of_eq hn, ht, MRes.andThen, hm, Bool.false_eq_true, false_and, if_false]
  rw [checkPiece_allowed hc hb]
  exact writePiece_pantry ha hh hu

/-- Settles O37: the access's steps in R306's order, and the bytes of a write (`byteOf_setMemBytes`). -/
theorem accessesFollowTheirChecks : Obligations.AccessesFollowTheirChecks := by
  intro s a va n b k x
  refine ⟨fun hn => ?_, fun hn => ?_, fun htcr hva => ⟨fun hn hc hb => ⟨fun ha hp hl ho hit => ?hit, fun hp => ?held⟩, fun hn hm hroom => ?buffered,
    fun hn hm hfull => ?full, fun hwf hn hm ha hc hh hu => ?pantry⟩⟩
  · rw [loadBytes, misaligned_of_ne hn]; rfl
  · rw [storeBytes, misaligned_of_ne hn]; rfl
  case hit => rw [loadBytes_checked hn (translate_off htcr hva) hc hb]; exact readPiece_hit hp hl ha ho rfl hit
  case held => rw [loadBytes_checked hn (translate_off htcr hva) hc hb]; exact readPiece_held hp
  case buffered =>
    exact ⟨_, bufferedStore s a va b, (storeBytes_hbm hn (translate_off htcr hva) hm).trans (if_neg (Nat.not_le.mpr hroom)), rfl, rfl, rfl, rfl, rfl, rfl, rfl⟩
  case full => exact (storeBytes_hbm hn (translate_off htcr hva) hm).trans (if_pos hfull)
  case pantry =>
    exact ⟨_, storeBytes_pantry hn (translate_off htcr hva) hm ha hc hh hu, rfl, fun i hi => byteOf_setMemBytes_written va.toNat hwf hi,
      fun p hp => byteOf_setMemBytes_outside va.toNat hwf hp⟩

end Sys2Proof.Machine
end

section
/-! SUPPORT. Long operations (R283, R341, R347, R348, R354, R357): their issue, their retirement, their chunks, their resumption. -/
namespace Sys2Proof.Machine

variable {s t : State} {a : Actor} {c f : Nat} {i : Instr} {o : LOp} {w ad : Word} {x : Frame}

/-! Issue (R283). -/

/-- The commands of the long operations, with what their words name. -/
def longOps (c : Nat) : List (Instr × LOp) := [(.mulp c, .mulp), (.divp c, .divp), (.mvs c, .mvs), (.mvsx c, .mvsx), (.edit c, .edit), (.editm c, .editm)]

theorem exec_longOps (h : (i, o) ∈ longOps c) (s : State) : exec i s = .next (issue s c o) := by
  simp only [longOps, List.mem_cons, Prod.mk.injEq, List.not_mem_nil, or_false] at h
  rcases h with ⟨rfl, rfl⟩ | ⟨rfl, rfl⟩ | ⟨rfl, rfl⟩ | ⟨rfl, rfl⟩ | ⟨rfl, rfl⟩ | ⟨rfl, rfl⟩ <;> rfl

/-- A long operation is a word of 4 bytes; all but MULP and DIVP access memory. -/
theorem longOps_kind (h : (i, o) ∈ longOps c) : isLongOp o = true ∧ lenOf o = 4 ∧ (isMemLongOp o = false ↔ o = .mulp ∨ o = .divp) := by
  simp only [longOps, List.mem_cons, Prod.mk.injEq, List.not_mem_nil, or_false] at h
  rcases h with ⟨-, rfl⟩ | ⟨-, rfl⟩ | ⟨-, rfl⟩ | ⟨-, rfl⟩ | ⟨-, rfl⟩ | ⟨-, rfl⟩ <;> decide

/-- A frame with a long operation in flight (R283). -/
def inFlightLop (s : State) (c : Nat) (x : Frame) (o : LOp) (w : Word) : Frame :=
  { x with lop := some (w, x.pc), lopPsw := x.psw, lopSb := if o = .mulp ∨ o = .divp then 0 else (coreOf s c).sb.length }

theorem issueLop_eq (h : (i, o) ∈ longOps c) : issueLop s c f (frameOf s c f) o w = .done (setFrame s c f (inFlightLop s c (frameOf s c f) o w)) := by
  obtain ⟨-, -, hkind⟩ := longOps_kind h
  unfold issueLop inFlightLop
  by_cases ho : o = .mulp ∨ o = .divp
  · rw [if_pos ho, hkind.mpr ho, if_neg Bool.false_ne_true]
  · rw [if_neg ho, if_pos (eq_true_of_ne_false (mt hkind.mp ho))]

theorem does_longOp (hi : (i, o) ∈ longOps c) (h : Ready s c f o w) : Does i s s c f (inFlightLop s c (frameOf s c f) o w) ((frameOf s c f).pc + 4) := by
  obtain ⟨hlong, hlen, -⟩ := longOps_kind hi
  obtain ⟨-, -, -, htr⟩ := h.calm
  refine ⟨_, exec_longOps hi s, ?_⟩
  rw [issue_long h hlong, issueLop_eq hi]
  have hend := conclude_done (o := o) (w := w) (x := inFlightLop s c (frameOf s c f) o w) h.runs.1 rfl htr h.rep h.shadows
  rwa [hlen] at hend

/-! Retirement (R283, R341). -/

theorem hasMemLop_eq (hl : x.lop = some (w, ad)) (hd : decode w = some o) : hasMemLop x = isMemLongOp o := by
  simp [hasMemLop, hl, hd]

/-- The long operation of a frame that goes on has ended: the frame has none in flight. -/
theorem lopEnd_eq (hx : frameOf s c f = x) (hstate : x.state = .running ∨ x.state = .ready) : lopEnd s c f = setFrame s c f { x with lop := none } := by
  have hoff : x.state ≠ .off := by rcases hstate with h | h <;> rw [h] <;> exact FrameState.noConfusion
  have hstalled : x.state ≠ .stalled := by rcases hstate with h | h <;> rw [h] <;> exact FrameState.noConfusion
  have hstopping : x.state ≠ .stopping := by rcases hstate with h | h <;> rw [h] <;> exact FrameState.noConfusion
  have hsame : frameOf (setFrame s c f { x with lop := none }) c f = { x with lop := none } := frameOf_setFrame_same s c f (frame_ne_of_state hoff)
  unfold lopEnd settleStop
  dsimp only
  rw [hx, hsame, if_neg (fun h => hstalled h.1), if_neg (fun h => hstopping h.1)]

theorem lopEnd_leaves (hx : x.state = .running ∨ x.state = .ready) :
    frameOf (lopEnd (setFrame s c f x) c f) c f = { x with lop := none } ∧ (lopEnd (setFrame s c f x) c f).mem = s.mem := by
  have hoff : x.state ≠ .off := by rcases hx with h | h <;> rw [h] <;> exact FrameState.noConfusion
  rw [lopEnd_eq (frameOf_setFrame_same s c f (frame_ne_of_state hoff)) hx]
  exact ⟨frameOf_setFrame_same _ c f (frame_ne_of_state (x := { x with lop := none }) hoff), rfl⟩

/-- The retirement of an operation that leaves frame `y`: the frame has that, with no operation in flight, and memory stays. -/
def RetiresWith (s : State) (c f : Nat) (y : Frame) : Prop :=
  ∃ s', exec (.longOperationRetire c f) s = .next s' ∧ frameOf s' c f = { y with lop := none } ∧ s'.mem = s.mem

/-- MULP and DIVP retire with the frame that they compute. -/
theorem retiresWith_of_done {y : Frame} (hl : (frameOf s c f).lop = some (w, ad)) (hy : y.state = .running) (hmem : hasMemLop (frameOf s c f) = false)
    (hr : (if decode w = some .mulp then retMulp s (lopActor (frameOf s c f) c f) w else retDivp s (lopActor (frameOf s c f) c f) w) = .done (setFrame s c f y)) :
    RetiresWith s c f y := by
  refine ⟨lopEnd (setFrame s c f y) c f, ?_, lopEnd_leaves (.inl hy)⟩
  show execLongOperationRetire c f s = _
  simp only [execLongOperationRetire, hl, hmem, Bool.false_eq_true, if_false, hr]

theorem accOk_of_lt {v : Acc} (h : v.val.natAbs < 10 ^ 63) : accOk v = true := decide_eq_true (Nat.le_sub_one_of_lt h)

/-- MULP of a product that fits (R341). -/
theorem retMulp_fits (hp : accOk (dAcc (actFrame s a) (daDa w)) = true) (hq : accOk (dAcc (actFrame s a) (daDb w)) = true)
    (hfit : ((dAcc (actFrame s a) (daDa w)).val * (dAcc (actFrame s a) (daDb w)).val).natAbs < 10 ^ 63) :
    retMulp s a w = .done (setFrame s a.c a.f (setD (actFrame s a) (daDd w)
      { val := (dAcc (actFrame s a) (daDa w)).val * (dAcc (actFrame s a) (daDb w)).val, ov := (dAcc (actFrame s a) (daDa w)).ov || (dAcc (actFrame s a) (daDb w)).ov,
        dz := (dAcc (actFrame s a) (daDa w)).dz || (dAcc (actFrame s a) (daDb w)).dz })) := by
  simp only [retMulp, accBin, hp, hq, Bool.not_true, Bool.or_self, Bool.false_eq_true, if_false, putResult, fitDigits, if_pos hfit, doneF, Bool.or_false]

/-- What DIVP writes (R334, R341): its quotient, and its remainder where the word asks for it. -/
def divided (x : Frame) (w : Word) (quo rem : Int) (dz : Bool) : Frame :=
  let p := dAcc x (daDa w)
  let q := dAcc x (daDb w)
  let y := setD x (daDd w) { val := quo, ov := p.ov || q.ov, dz := dz }
  if bitOf w.toNat 7 then setD y (wf w 10 8) { val := rem, ov := p.ov || q.ov, dz := dz } else y

theorem divided_state (quo rem : Int) (dz : Bool) : (divided x w quo rem dz).state = x.state := by
  unfold divided; dsimp only; split <;> rfl

section
variable (hp : accOk (dAcc (actFrame s a) (daDa w)) = true) (hq : accOk (dAcc (actFrame s a) (daDb w)) = true)
include hp hq

theorem retDivp_nonzero (hz : (dAcc (actFrame s a) (daDb w)).val ≠ 0) :
    retDivp s a w = .done (setFrame s a.c a.f (divided (actFrame s a) w ((dAcc (actFrame s a) (daDa w)).val.tdiv (dAcc (actFrame s a) (daDb w)).val)
      ((dAcc (actFrame s a) (daDa w)).val.tmod (dAcc (actFrame s a) (daDb w)).val) ((dAcc (actFrame s a) (daDa w)).dz || (dAcc (actFrame s a) (daDb w)).dz))) := by
  simp only [retDivp, hp, hq, Bool.not_true, Bool.or_self, Bool.false_eq_true, if_false, hz, decide_false, Bool.false_and, doneF, Bool.or_false, divided]

theorem retDivp_zero (hz : (dAcc (actFrame s a) (daDb w)).val = 0) (hd : pDz a.psw = false) :
    retDivp s a w = .done (setFrame s a.c a.f (divided (actFrame s a) w 0 (dAcc (actFrame s a) (daDa w)).val true)) := by
  simp only [retDivp, hp, hq, Bool.not_true, Bool.or_self, Bool.false_eq_true, if_false, hz, decide_true, Bool.true_and, hd, doneF, Bool.or_true, divided, if_true]

theorem retDivp_raises (hz : (dAcc (actFrame s a) (daDb w)).val = 0) (hd : pDz a.psw = true) : retDivp s a w = .exc s { vec := 13 } := by
  simp only [retDivp, hp, hq, Bool.not_true, Bool.or_self, Bool.false_eq_true, if_false, hz, decide_true, Bool.true_and, hd, if_true]

end

/-- The exception of a long operation whose task is READY is kept with the frame (R287; log entry 104). -/
theorem lopRaised_kept {q : LopExc} (hr : (coreOf s c).running ≠ some f) (hx : (frameOf s c f).state = .ready) (ht : (frameOf s c f).traceDue = none) :
    frameOf (lopRaised s c f q) c f = { frameOf s c f with lop := none, lopExc := some q } ∧ (lopRaised s c f q).mem = s.mem := by
  have hne : frameOf s c f ≠ {} := frame_ne_of_state (by rw [hx]; exact FrameState.noConfusion)
  have hnone : lopFault (setFrame s c f (frameOf s c f)) c f q = none := by
    unfold lopFault; dsimp only
    rw [coreOf_setFrame_same s c f hne, if_pos (.inl hr)]
  have hraised : lopRaised s c f q = lopEnd (setFrame (setFrame s c f (frameOf s c f)) c f { frameOf s c f with lopExc := some q }) c f := by
    simp only [lopRaised, ht, reduceCtorEq, if_false, hnone]
  rw [hraised]
  exact lopEnd_leaves (x := { frameOf s c f with lopExc := some q }) (.inr hx)

theorem exec_retire_raised {e : Exc} (hl : (frameOf s c f).lop = some (w, ad)) (hd : decode w = some .divp)
    (hr : retDivp s (lopActor (frameOf s c f) c f) w = .exc s e) :
    exec (.longOperationRetire c f) s = .next (lopRaised s c f { word := w, addr := ad, exc := e, msk := pMsk (frameOf s c f).psw }) := by
  have hmem : hasMemLop (frameOf s c f) = false := hasMemLop_eq hl hd
  show execLongOperationRetire c f s = _
  simp only [execLongOperationRetire, hl, hmem, hd, Option.some.injEq, reduceCtorEq, Bool.false_eq_true, if_false, hr]

/-- A long operation that accesses memory retires once its chunks or elements have run to their end. -/
theorem exec_retire_mem (hl : (frameOf s c f).lop = some (w, ad)) (hmem : hasMemLop (frameOf s c f) = true) (hstop : (frameOf s c f).state ≠ .stopping)
    (hsb : (frameOf s c f).lopSb = 0) (hrun : lopRun (lopActor (frameOf s c f) c f) w lopFuel s = .fin t) :
    exec (.longOperationRetire c f) s = .next (lopEnd t c f) := by
  show execLongOperationRetire c f s = _
  simp only [execLongOperationRetire, hl, hmem, hstop, hsb, hrun, ne_eq, not_true, if_true, if_false]

/-! Chunks (R347, R348). -/

theorem lopRun_more {n m : Nat} (h : lopStep s a w = .more t m) : lopRun a w (n + 1) s = lopRun a w n t := by
  rw [lopRun, h]

theorem lopRun_fin {n : Nat} (h : lopStep s a w = .fin t) : lopRun a w (n + 1) s = .fin t := by
  rw [lopRun, h]

theorem lopStep_mvs (hd : decode w = some .mvs) : lopStep s a w = stepMvs s a w := by
  rw [lopStep, hd]

theorem lopStep_mvsx (hd : decode w = some .mvsx) : lopStep s a w = stepMvsx s a w := by
  rw [lopStep, hd]

section
variable {n k j : Nat}

theorem stepMvs_end (hn : (gReg (frameOf s a.c a.f) (dlRc w)).toNat = 0) : stepMvs s a w = .fin s := if_pos hn

/-- A chunk of MVS that is copied ends where the destination's 16 bytes do, or with the string; both addresses and the length move on by it. -/
theorem stepMvs_chunk (hn : (gReg (frameOf s a.c a.f) (dlRc w)).toNat = n) (hk : min n (16 - (gReg (frameOf s a.c a.f) (dlRa w)).toNat % 16) = k) (hpos : n ≠ 0)
    (hc : chunk s a (gReg (frameOf s a.c a.f) (dlRb w)).toNat k (gReg (frameOf s a.c a.f) (dlRa w)).toNat k 0 = .ok t ()) :
    stepMvs s a w = .more (setFrame t a.c a.f (setG (setG (setG (frameOf t a.c a.f) (dlRa w) (gReg (frameOf t a.c a.f) (dlRa w) + BitVec.ofNat 32 k))
      (dlRb w) (gReg (frameOf t a.c a.f) (dlRb w) + BitVec.ofNat 32 k)) (dlRc w) (BitVec.ofNat 32 (n - k)))) 4 := by
  subst hn hk
  simp only [stepMvs, actFrame, hpos, if_false, hc, MRes.bindL]

theorem stepMvsx_end (hn : (gReg (frameOf s a.c a.f) (dlRa w + 1)).toNat = 0) : stepMvsx s a w = .fin s := if_pos hn

/-- A chunk of MVSX that is copied: of its `k` bytes `j` come from the source, the rest is the pad; each pair moves on by its own. -/
theorem stepMvsx_chunk (hn : (gReg (frameOf s a.c a.f) (dlRa w + 1)).toNat = n) (hk : min n (16 - (gReg (frameOf s a.c a.f) (dlRa w)).toNat % 16) = k)
    (hj : min k (gReg (frameOf s a.c a.f) (dlRb w + 1)).toNat = j) (hpos : n ≠ 0)
    (hc : chunk s a (gReg (frameOf s a.c a.f) (dlRb w)).toNat j (gReg (frameOf s a.c a.f) (dlRa w)).toNat k ((gReg (frameOf s a.c a.f) (dlRc w)).setWidth 8) = .ok t ()) :
    stepMvsx s a w = .more (setFrame t a.c a.f (advancePair (advancePair (frameOf t a.c a.f) (dlRa w) k) (dlRb w) j)) 4 := by
  subst hn hk hj
  simp only [stepMvsx, actFrame, hpos, if_false, hc, MRes.bindL]

end

/-! Resumption (R357). -/

theorem exec_resume (hr : (coreOf s c).running = some f) (hl : (frameOf s c f).lov = true) (hb : decBusy s c = false)
    (hd : decode (frameOf s c f).lopw = some o) (ho : isMemLongOp o = true) :
    exec (.longOperationResume c) s = .next (setFrame s c f { frameOf s c f with
      lov := false, lop := some ((frameOf s c f).lopw, (frameOf s c f).lopa), lopPsw := (frameOf s c f).psw, lopSb := (coreOf s c).sb.length }) := by
  show execLongOperationResume c s = _
  simp only [execLongOperationResume, hr, hl, hb, hd, ho, Bool.not_true, Bool.or_self, Bool.false_eq_true, if_true, if_false]

/-- Settles O51: the issue by `does_longOp`, the results and the kept exception by what MULP and DIVP compute (`retMulp_fits`, `retDivp_nonzero`, `retDivp_zero`, `retDivp_raises`), the chunks by one step
of each, the resumption by `exec_resume`. -/
theorem longOperations : Obligations.LongOperations := by
  unfold Obligations.LongOperations
  refine ⟨?issued, ?results, ?kept, ?ends, ?steps, ?mvs, ?mvsx, ?resumed⟩
  case issued => exact fun s c f w i o hi h => does_longOp hi h
  case results =>
    intro s c f w ad x p q ends hl hx hp hq
    have hprod : ∀ y : Frame, y.state = .running → decode w = some .mulp → retMulp s (lopActor x c f) w = .done (setFrame s c f y) → ends y :=
      fun y hy hd hr => retiresWith_of_done hl hy (hasMemLop_eq hl hd) (by rw [if_pos hd]; exact hr)
    have hquot : ∀ y : Frame, y.state = .running → decode w = some .divp → retDivp s (lopActor x c f) w = .done (setFrame s c f y) → ends y :=
      fun y hy hd hr => retiresWith_of_done hl hy (hasMemLop_eq hl hd) (by rw [hd, if_neg (by decide)]; exact hr)
    refine ⟨fun hd hfit => ?_, fun hd hz => ?_, fun hd hz hdz => ?_⟩
    · exact hprod _ hx hd (retMulp_fits (accOk_of_lt hp) (accOk_of_lt hq) hfit)
    · exact hquot _ ((divided_state ..).trans hx) hd (retDivp_nonzero (accOk_of_lt hp) (accOk_of_lt hq) hz)
    · exact hquot _ ((divided_state ..).trans hx) hd (retDivp_zero (accOk_of_lt hp) (accOk_of_lt hq) hz hdz)
  case kept =>
    intro s c f w ad x hl hd hp hz hdz hx hr ht
    have hq : accOk (dAcc x (daDb w)) = true := accOk_of_lt (by rw [hz]; decide)
    obtain ⟨hframe, hmem⟩ := lopRaised_kept (q := { word := w, addr := ad, exc := { vec := 13 }, msk := pMsk x.psw }) hr hx ht
    exact ⟨_, exec_retire_raised hl hd (retDivp_raises (a := lopActor x c f) (accOk_of_lt hp) hq hz hdz), hmem, hframe⟩
  case ends => exact fun s t c f w ad hl hmem hstop hsb hrun => exec_retire_mem hl hmem hstop hsb hrun
  case steps => exact fun s t a w m n => ⟨lopRun_more, lopRun_fin⟩
  case mvs =>
    intro s t a w x n k hd
    rw [lopStep_mvs hd]
    exact ⟨stepMvs_end, fun hn hx hc => ⟨4, (stepMvs_chunk rfl rfl hn hc).trans (by rw [hx])⟩⟩
  case mvsx =>
    intro s t a w x n k j hd
    rw [lopStep_mvsx hd]
    exact ⟨stepMvsx_end, fun hn hx hc => ⟨4, (stepMvsx_chunk rfl rfl rfl hn hc).trans (by rw [hx])⟩⟩
  case resumed =>
    intro s c f o x hr hl hb hx hd ho
    exact ⟨_, exec_resume hr hl hb hd ho, frameOf_setFrame_same s c f (frame_ne_default hx), rfl⟩

end Sys2Proof.Machine
end

section
/-! SUPPORT. The two short operations of a word (R269, R271, Table 8.5); the prefixes REPI and REPU and the word that they repeat (R313). -/
namespace Sys2Proof.Machine

variable {s t u : State} {a : Actor} {c f n : Nat} {o : LOp} {w v : Word}

/-! A word of two short operations. -/

/-- With no shadow open, in a state that lists the frame as it is, the tick of shadows changes nothing. -/
theorem tickShadows_eq (h : ∀ p ∈ (frameOf s c f).pend, p.left = none) (hset : setFrame s c f (frameOf s c f) = s) : tickShadows s c f = s := by
  rcases tickShadows_closed h with ht | ht
  · exact ht
  · exact ht.trans hset

theorem extractLsb_two_eq_zero {p : Word} (h : p.toNat % 4 = 0) : p.extractLsb' 0 2 = 0 :=
  BitVec.eq_of_toNat_eq (by simpa [BitVec.extractLsb'_toNat] using h)

theorem goto_aligned {p : Word} (h : p.toNat % 4 = 0) : goto s p = .jump s p := if_neg (not_not_intro (extractLsb_two_eq_zero h))

/-- The actor of slot B, whose modes are those that slot A has left. -/
def slotActor (s : State) (a : Actor) : Actor := { actorOf a.c a.f (actFrame s a).psw a.go with lop := a.lop }

section
variable (hA : runShort s a (slotA w) = .done t) (htick : tickShadows t a.c a.f = t)
include hA htick

/-- Slot B is no branch: the word is done with what B makes of what A has done. -/
theorem opShort_done (hjr : shOp (slotB w) ≠ 0x1D) (hret : shOp (slotB w) ≠ 0x1E) (hB : runShort t (slotActor t a) (slotB w) = .done u) :
    opShort s a w = .done u := by
  unfold slotActor at hB
  unfold opShort
  simp only [hjr, hret, if_false, Bool.false_eq_true, hA, htick, hB]

/-- Slot B is JR, whose target A has left as it was: the word branches there. -/
theorem opShort_jr (hjr : shOp (slotB w) = 0x1D) (hal : (gReg (actFrame s a) (shY (slotB w))).toNat % 4 = 0)
    (hkeep : gReg (actFrame t a) (shY (slotB w)) = gReg (actFrame s a) (shY (slotB w))) :
    opShort s a w = .jump t (gReg (actFrame s a) (shY (slotB w))) := by
  have hB : runShort t (slotActor t a) (slotB w) = .jump t (gReg (actFrame s a) (shY (slotB w))) := by
    unfold runShort
    simp only [hjr]
    rw [show gReg (actFrame t (slotActor t a)) (shY (slotB w)) = gReg (actFrame s a) (shY (slotB w)) from hkeep]
    exact goto_aligned hal
  unfold slotActor at hB
  unfold opShort
  simp only [hjr, if_true, extractLsb_two_eq_zero hal, ne_eq, not_true, decide_false, Bool.false_eq_true, if_false, hA, htick, hB]

end

/-! The register forms (Table 8.5). -/

/-- What a register form writes to rx: `p` and `q` are rx and ry as they were, `n` is the number in ry's place. -/
def shortResult (op : Nat) (p q : Word) (n : Nat) : Option Word :=
  match op with
  | 0x01 => some q
  | 0x02 => some (p + q)
  | 0x03 => some (p - q)
  | 0x04 => some (p &&& q)
  | 0x05 => some (p ||| q)
  | 0x06 => some (p ^^^ q)
  | 0x07 => some (p <<< (q.toNat % 32))
  | 0x08 => some (p >>> (q.toNat % 32))
  | 0x09 => some (p.sshiftRight (q.toNat % 32))
  | 0x0A => some (p + sext 5 n)
  | 0x0B => some (p <<< n)
  | 0x0C => some (p >>> n)
  | 0x0D => some (p.sshiftRight n)
  | 0x0E => some (sext 5 n)
  | 0x0F => some (-q)
  | 0x10 => some (if p = q then 1 else 0)
  | 0x11 => some (if p ≠ q then 1 else 0)
  | 0x12 => some (if p.toInt < q.toInt then 1 else 0)
  | 0x13 => some (if p.toNat < q.toNat then 1 else 0)
  | 0x14 => some (if p.toInt ≤ q.toInt then 1 else 0)
  | 0x15 => some (if p.toNat ≤ q.toNat then 1 else 0)
  | 0x16 => some (p * q)
  | _ => none

theorem word_zero_sub (q : Word) : 0 - q = -q := BitVec.zero_sub ..

/-- A compare as the model spells it and as Table 8.5 does. -/
theorem bw_eq_ite {b : Bool} {p : Prop} [Decidable p] (h : b = true ↔ p) : bw b = if p then 1 else 0 :=
  ite_congr (propext h) (fun _ => rfl) fun _ => rfl

/-- A register form is done, with its result in rx. -/
theorem runShort_register {v : Nat} {r : Word} (h : shortResult (shOp v) (gReg (actFrame s a) (shX v)) (gReg (actFrame s a) (shY v)) (shY v) = some r) :
    runShort s a v = .done (setFrame s a.c a.f (setG (actFrame s a) (shX v) r)) := by
  unfold shortResult at h
  unfold runShort
  split at h
  case h_23 => cases h
  all_goals
    rename_i hop
    obtain rfl := Option.some.inj h
    simp only [hop]
  case h_15 => rw [word_zero_sub]; rfl
  case h_16 => rw [bw_eq_ite beq_iff_eq]; rfl
  case h_17 => rw [bw_eq_ite bne_iff_ne]; rfl
  case h_18 => rw [bw_eq_ite BitVec.slt_iff_toInt_lt]; rfl
  case h_19 => rw [bw_eq_ite BitVec.ult_iff_lt]; rfl
  case h_20 => rw [bw_eq_ite BitVec.sle_iff_toInt_le]; rfl
  case h_21 => rw [bw_eq_ite BitVec.ule_iff_le]; rfl
  all_goals rfl

theorem runShort_nop {v : Nat} (h : shOp v = 0x00) : runShort s a v = .done s := by unfold runShort; simp only [h]

/-! The prefixes (R313). -/

section
variable (h : Ready s c f o w) (ho : o = .repi ∨ o = .repu) (hv : fetchedAt (frameOf s c f) ((frameOf s c f).pc + 4) = .word v) (hr : repeatable v = true)
  (hfresh : (frameOf s c f).repv = false)
include h ho hv hr hfresh

/-- REPI whose count is 0 passes over itself and the word after it. -/
theorem ended_repeat_none (hn : repCount (frameOf s c f) o w = 0) : Ended s (issue s c o) c f (frameOf s c f) ((frameOf s c f).pc + 8) := by
  obtain ⟨hcount, hframe⟩ := coreOnly_countIssue f (frameOf s c f) o w h.listed
  obtain ⟨-, -, -, htr⟩ := h.calm
  obtain ⟨hstate, hwait⟩ := h.runs
  rw [issue_repeat h ho]
  simp only [issuePrefix, hv, hr, hfresh, hn, if_true, Bool.false_eq_true, if_false, traceAfter, htr, hframe]
  exact ended_tick hcount hstate h.shadows (by rw [← hfresh, ← hwait]; rfl)

/-- REPI or REPU with a count stays at its word, the count to be run. -/
theorem ended_repeat_some (hn : repCount (frameOf s c f) o w = n) (hpos : n ≠ 0) :
    Ended s (issue s c o) c f { frameOf s c f with rep := some n } (frameOf s c f).pc := by
  obtain ⟨hcount, hframe⟩ := coreOnly_countIssue f (frameOf s c f) o w h.listed
  obtain ⟨-, -, -, htr⟩ := h.calm
  obtain ⟨hstate, hwait⟩ := h.runs
  rw [issue_repeat h ho]
  simp only [issuePrefix, hv, hr, hfresh, hn, hpos, if_true, Bool.false_eq_true, if_false, traceAfter, htr, hframe]
  exact ended_tick hcount hstate h.shadows (by rw [← hfresh, ← hwait])

end

theorem repCount_repi (x : Frame) : repCount x .repi w = if bitOf w.toNat 14 then wf w 13 0 else (gReg x (fRa w)).toNat := rfl
theorem repCount_repu (x : Frame) : repCount x .repu w = if wf w 5 0 = 0 then 64 else wf w 5 0 := rfl

theorem repCount_repu_pos (x : Frame) : repCount x .repu w ≠ 0 := by
  rw [repCount_repu]; split
  · decide
  · assumption

/-! The repeated word (R313), here ADDI. -/

theorem runOp_addi (hm : fMajor w = 0x08) : runOp .addi s a w 0 =
    .done (setFrame s a.c a.f (setG (actFrame s a) (fRd w) (gReg (actFrame s a) (fRa w) + sext 15 (wf w 14 0)))) := by
  show opAddi s a w = _
  simp only [opAddi, hm]
  rfl

section
variable {x : Frame} (h : Ready s c f o w .idle (some n)) (hx : Lasts (frameOf s c f) x)
include h hx

/-- A repetition that is done, with more to run: the frame stays at its REPI or REPU, one less to run. -/
theorem ended_repetition (hn : 1 < n) (hpc : x.pc = (frameOf s c f).pc) :
    Ended s (conclude s c f (frameOf s c f) o w (.done (setFrame s c f x))) c f { x with rep := some (n - 1) } (frameOf s c f).pc := by
  have hwritten := coreOnly_setFrame s c f (frame_ne_default hx.runs)
  obtain ⟨hcount, hframe⟩ := coreOnly_countIssue f (frameOf s c f) o w hwritten.listed
  rw [frameOf_setFrame_same s c f (frame_ne_default hx.runs)] at hframe
  obtain ⟨-, -, -, htr⟩ := h.calm
  simp only [conclude, h.rep, endRep, hframe, traceAfter, htr]
  rw [if_neg (not_not_intro hx.epoch), if_neg (not_not_intro hx.runs), if_neg (Nat.not_le.mpr hn), if_neg Bool.false_ne_true]
  have hne : ({ x with rep := some (n - 1), wait := .idle } : Frame) ≠ {} := frame_ne_default hx.runs
  exact ((hwritten.trans hcount).trans (coreOnly_setFrame _ c f hne)).endedAs (frameOf_setFrame_same _ c f hne) (by rw [← hpc])

/-- The last repetition is done: the frame goes on past the repeated word. -/
theorem ended_last_repetition (hn : n ≤ 1) :
    Ended s (conclude s c f (frameOf s c f) o w (.done (setFrame s c f x))) c f { x with rep := none } ((frameOf s c f).pc + 8) := by
  have hwritten := coreOnly_setFrame s c f (frame_ne_default hx.runs)
  obtain ⟨hcount, hframe⟩ := coreOnly_countIssue f (frameOf s c f) o w hwritten.listed
  rw [frameOf_setFrame_same s c f (frame_ne_default hx.runs)] at hframe
  obtain ⟨-, -, -, htr⟩ := h.calm
  simp only [conclude, h.rep, endRep, hframe]
  rw [if_neg (not_not_intro hx.epoch), if_neg (not_not_intro hx.runs), if_pos hn]
  have hy : Lasts (frameOf s c f) { x with rep := none } := ⟨hx.runs, hx.epoch, hx.shadows⟩
  exact (hwritten.trans hcount).ended (ended_endInstr_setFrame htr hy)

end

/-- Settles O40: the word by what its slots do in turn (`opShort_done`, `opShort_jr`), the register forms by the table of their results (`shortResult`), the prefixes by their count and
the repetitions by what is left of it. -/
theorem shortOperationsAndPrefixes : Obligations.ShortOperationsAndPrefixes := by
  unfold Obligations.ShortOperationsAndPrefixes
  refine ⟨?word, ?jump, ?forms, ?prefixes, ?repeated⟩
  case word =>
    intro s t u c f w x a h hjr hret hA hB hpsw hpend hset hepoch hpend' hrun
    have htick : tickShadows t c f = t := tickShadows_eq (hpend ▸ h.shadows) hset
    have hslot : slotActor t a = a := by unfold slotActor actFrame; rw [show (frameOf t a.c a.f).psw = x.psw from hpsw]; rfl
    refine ⟨_, rfl, ?_⟩
    rw [issue_plain h rfl, show runOp .shortOperationWord s a w 0 = .done u from opShort_done hA htick hjr hret (hslot ▸ hB)]
    exact ended_conclude_done h ⟨hrun, hepoch, hpend' ▸ h.shadows⟩
  case jump =>
    intro s t c f w x a h hjr hal hA hpend hepoch hrun hkeep hset
    have htick : tickShadows t c f = t := tickShadows_eq (hpend ▸ h.shadows) hset
    refine ⟨_, rfl, ?_⟩
    rw [issue_plain h rfl, show runOp .shortOperationWord s a w 0 = .jump t (gReg x (shY (slotB w))) from opShort_jr hA htick hjr hal hkeep]
    exact ended_conclude_jump h ⟨hrun, hepoch, hpend ▸ h.shadows⟩
  case forms =>
    intro s a v x p q k n puts
    have hputs : ∀ {op : Nat} {r : Word}, shortResult op p q n = some r → shOp v = op → puts r := fun hr hop => runShort_register (by rw [hop]; exact hr)
    exact ⟨runShort_nop, by and_intros <;> exact hputs rfl⟩
  case prefixes =>
    intro s c f w v x n m hv hr hfresh
    refine ⟨fun hi => ?_, fun hi => ?_, fun hm => if_pos hm, fun hm => if_neg hm, fun h hn => ?_, fun h hn => ?_, fun h => ?_⟩
    · exact (repCount_repi x).trans (if_pos hi)
    · exact (repCount_repi x).trans (if_neg (ne_true_of_eq_false hi))
    · exact ⟨_, rfl, ended_repeat_none h (.inl rfl) hv hr hfresh hn⟩
    · exact ⟨_, rfl, ended_repeat_some h (.inl rfl) hv hr hfresh rfl hn⟩
    · exact ⟨_, rfl, ended_repeat_some h (.inr rfl) hv hr hfresh rfl (repCount_repu_pos x)⟩
  case repeated =>
    intro s c f n w x y hm
    have hpc : y.pc = x.pc := setG_pc ..
    refine ⟨fun h => ⟨_, rfl, ?_⟩, fun h => ⟨_, rfl, ?_⟩⟩
    all_goals
      have hy : Lasts x y := ⟨(setG_state ..).trans h.runs.1, setG_epoch .., by rw [setG_pend]; exact h.shadows⟩
      rw [issue_plain h rfl, runOp_addi hm]
    · exact ended_repetition h hy (by omega) hpc
    · exact ended_last_repetition h hy (Nat.le_refl 1)

end Sys2Proof.Machine
end

section
/-! SUPPORT. The barriers SYNC, SYNC.TLB and DBAR (R286, R290), and YIELD (R363, R367). -/
namespace Sys2Proof.Machine

variable {s t : State} {a : Actor} {c f g : Nat} {i : Instr} {o : LOp} {w : Word}

/-! SYNC and SYNC.TLB. -/

theorem lopPending_of_ready (h : Ready s c f o w) : lopPending (frameOf s c f) = false := by
  obtain ⟨hlop, hlov, -, -⟩ := h.calm
  simp [lopPending, hlop, hlov]

theorem opSync_clear (hl : lopPending (actFrame s a) = false) (hsb : (coreOf s a.c).sb = []) (hm : missesLeft s a = false) :
    opSync s a = .done (setFrame (applyAll s a.c a.f) a.c a.f { frameOf (applyAll s a.c a.f) a.c a.f with fetch := [] }) := by
  simp only [opSync, hl, hsb, hm, List.isEmpty_nil, Bool.not_true, Bool.or_self, Bool.false_eq_true, if_false]
  rfl

theorem opSync_waits (h : (coreOf s a.c).sb ≠ [] ∨ missesLeft s a = true) : opSync s a = .stay := by
  have hwait : (lopPending (actFrame s a) || !(coreOf s a.c).sb.isEmpty || missesLeft s a) = true := by
    rcases h with h | h <;> simp [h]
  simp only [opSync, hwait, if_true]

theorem opSyncTlb_user (ha : a.sup = false) : opSyncTlb s a = .exc s { vec := 10 } := if_neg (ne_true_of_eq_false ha)

theorem opSyncTlb_acknowledged (ha : a.sup = true) (hb : ∀ b ∈ s.mem.tlbis, b.core = a.c → b.left = []) : opSyncTlb s a = opSync s a := by
  have hnone : (s.mem.tlbis.any fun (b : Tlbi) => decide (b.core = a.c) && !b.left.isEmpty) = false := by
    rw [List.any_eq_false]
    intro b hmem hwaits
    simp only [Bool.and_eq_true, decide_eq_true_eq, Bool.not_eq_true', List.isEmpty_eq_false_iff] at hwaits
    exact hwaits.2 (hb b hmem hwaits.1)
  simp only [opSyncTlb, superOnly, ha, hnone, if_true, Bool.false_eq_true, if_false]

theorem opSyncTlb_waits (ha : a.sup = true) (hb : ∃ b ∈ s.mem.tlbis, b.core = a.c ∧ b.left ≠ []) : opSyncTlb s a = .stay := by
  have hsome : (s.mem.tlbis.any fun (b : Tlbi) => decide (b.core = a.c) && !b.left.isEmpty) = true := by
    obtain ⟨b, hmem, hcore, hleft⟩ := hb
    exact List.any_eq_true.mpr ⟨b, hmem, by simp [hcore, hleft]⟩
  simp only [opSyncTlb, superOnly, ha, hsome, if_true]

/-- The misses and network accesses of a core's other frames (R290). -/
theorem missesLeft_iff : missesLeft s a = true ↔ ∃ e ∈ (coreOf s a.c).frames, e.1 ≠ a.f ∧ (e.2.wait = .net ∨ ∃ l own, e.2.wait = .line l own) := by
  simp only [missesLeft, List.any_eq_true, Bool.and_eq_true, bne_iff_ne]
  refine exists_congr fun e => and_congr_right fun _ => and_congr_right fun _ => ?_
  cases e.2.wait <;> simp

/-- A barrier that is past its waits puts the pending writes in force and discards the fetch buffer; it ends behind itself. -/
theorem does_sync (h : Ready s c f o w) (hi : exec i s = .next (issue s c o)) (ho : isPlainOp o = true) (hlen : lenOf o = 4)
    (hr : runOp o s (taskActor s c f false) w 0 = opSync s (taskActor s c f false)) (hsb : (coreOf s c).sb = []) (hm : missesLeft s (taskActor s c f false) = false)
    (hy : Lasts (frameOf s c f) (frameOf (applyAll s c f) c f)) :
    Does i s (applyAll s c f) c f (frameOf (applyAll s c f) c f) ((frameOf s c f).pc + 4) := by
  have hne : ({ frameOf (applyAll s c f) c f with fetch := [] } : Frame) ≠ {} := frame_ne_default hy.runs
  have hsame := frameOf_setFrame_same (applyAll s c f) c f hne
  have hy' : Lasts (frameOf s c f) { frameOf (applyAll s c f) c f with fetch := [] } := ⟨hy.runs, hy.epoch, hy.shadows⟩
  have hend := ended_conclude_done h (hsame.symm ▸ hy')
  rw [hsame, hlen] at hend
  refine ⟨_, hi, ?_⟩
  rw [issue_plain h ho, hr, opSync_clear (lopPending_of_ready h) hsb hm]
  exact ((coreOnly_setFrame _ c f hne).ended hend).of_fetch

/-- A pending write of TCR is in force once the pending writes apply (R290). -/
theorem frameOf_applyAll_tcr {v : Dbl} (hstate : (frameOf s c f).state ≠ .off) (hp : (frameOf s c f).pend = [{ reg := 8, val := v }]) :
    frameOf (applyAll s c f) c f = { frameOf s c f with pend := [], tcr := v.setWidth 32 } := by
  have hne : ∀ x : Frame, x.state = (frameOf s c f).state → x ≠ {} := fun x hx => frame_ne_of_state (hx ▸ hstate)
  have happly : applyAll s c f = setFrame (setFrame s c f { frameOf s c f with pend := [] }) c f
      (crPut (frameOf (setFrame s c f { frameOf s c f with pend := [] }) c f) 8 v) := by
    simp only [applyAll, hp, List.foldl_cons, List.foldl_nil]; rfl
  rw [happly, frameOf_setFrame_same s c f (hne { frameOf s c f with pend := [] } rfl)]
  exact frameOf_setFrame_same _ c f (hne { frameOf s c f with pend := [], tcr := v.setWidth 32 } rfl)

/-! YIELD: which frame is next (R367). -/

theorem next_frame_ne {n i : Nat} (hf : f < n) (hi : i < n - 1) : (f + 1 + i) % n ≠ f := by
  rcases Nat.lt_or_ge (f + 1 + i) n with h | h
  · rw [Nat.mod_eq_of_lt h]; omega
  · rw [Nat.mod_eq_sub_mod h, Nat.mod_eq_of_lt (by omega)]; omega

/-- The frames of a core in the order in which one that leaves looks for the next: itself comes last. -/
theorem frames_after (n : Nat) (hf : f < n) : ((List.range n).map fun i => (f + 1 + i) % n) = ((List.range (n - 1)).map fun i => (f + 1 + i) % n) ++ [f] := by
  obtain ⟨m, rfl⟩ := Nat.exists_eq_add_of_lt hf
  rw [List.range_succ, List.map_append, List.map_singleton, Nat.add_sub_cancel]
  congr 2
  rw [show f + 1 + (f + m) = f + (f + m + 1) by omega, Nat.add_mod_right, Nat.mod_eq_of_lt (by omega)]

/-- Two tests that agree on a list find the same in it. -/
theorem find?_eq_of_agree {p q : Nat → Bool} {l : List Nat} (h : ∀ k ∈ l, p k = q k) : l.find? p = l.find? q := by
  induction l with
  | nil => rfl
  | cons k r ih => rw [List.find?_cons, List.find?_cons, h k List.mem_cons_self, ih fun j hj => h j (List.mem_cons_of_mem k hj)]

/-- The next READY frame after `f`, another than `f`, is still the next one whatever `f` becomes. -/
theorem nextReady_of_others (hf : f < nFrames s) (hn : nFrames t = nFrames s) (ho : ∀ k, k ≠ f → frameOf t c k = frameOf s c k) (hg : g ≠ f)
    (h : nextReady s c f = some g) : nextReady t c f = some g := by
  unfold nextReady at h ⊢
  dsimp only at h ⊢
  rw [frames_after _ hf, List.find?_append] at h
  rw [hn, frames_after _ hf, List.find?_append]
  rcases Option.or_eq_some_iff.mp h with hfound | ⟨-, hlast⟩
  · have hsame : ((List.range (nFrames s - 1)).map fun i => (f + 1 + i) % nFrames s).find? (fun k => (frameOf t c k).state == .ready) =
        ((List.range (nFrames s - 1)).map fun i => (f + 1 + i) % nFrames s).find? fun k => (frameOf s c k).state == .ready := by
      refine find?_eq_of_agree fun k hk => ?_
      obtain ⟨i, hi, rfl⟩ := List.mem_map.mp hk
      rw [ho _ (next_frame_ne hf (List.mem_range.mp hi))]
    rw [hsame, hfound]; rfl
  · exact absurd (List.mem_singleton.mp (List.mem_of_find?_eq_some hlast)) hg

theorem nextReady_none (h : ∀ k, k < nFrames s → (frameOf s c k).state ≠ .ready) : nextReady s c f = none := by
  unfold nextReady
  rw [List.find?_eq_none]
  intro k hk
  obtain ⟨i, hi, rfl⟩ := List.mem_map.mp hk
  have hpos : 0 < nFrames s := Nat.pos_of_ne_zero fun h0 => by rw [h0] at hi; simp at hi
  simpa using h _ (Nat.mod_lt _ hpos)

/-! YIELD: the switch (R363, R367). -/

theorem stopLop_none (h : (frameOf s c f).lop = none) : stopLop s c f = s := by
  simp only [stopLop, reachPoint, h]

theorem parkRep_none {x : Frame} (h : x.rep = none) : parkRep x = x := by
  simp only [parkRep, h]

/-- Which frame of a core runs. -/
def setRunning (s : State) (c : Nat) (r : Option Nat) : State := setCore s c { coreOf s c with running := r }

/-- From `s` to `s'` frame `f` has become `x` and the core runs `r`; of the rest only the counters may have changed. The core lists a frame. -/
structure Switched (s s' : State) (c f : Nat) (x : Frame) (r : Option Nat) : Prop where
  rest : s' = { s with cores := { s.cores with cores := s'.cores.cores } }
  frame : frameOf s' c f = x
  others : ∀ k, k ≠ f → frameOf s' c k = frameOf s c k
  running : (coreOf s' c).running = r
  listed : (coreOf s' c).frames ≠ []

theorem switched_setRunning {x : Frame} (hx : x ≠ {}) (r : Option Nat) : Switched s (setRunning (setFrame s c f x) c r) c f x r := by
  have hw := coreOnly_setFrame s c f hx
  have hcore : coreOf (setRunning (setFrame s c f x) c r) c = { coreOf (setFrame s c f x) c with running := r } :=
    coreOf_setCore_same _ c (x := { coreOf (setFrame s c f x) c with running := r }) (core_ne_default hw.listed)
  have hframes : ∀ k, frameOf (setRunning (setFrame s c f x) c r) c k = frameOf (setFrame s c f x) c k := fun k => by rw [frameOf, hcore, frameOf]
  exact ⟨rfl, (hframes f).trans (frameOf_setFrame_same s c f hx), fun k hk => (hframes k).trans (hw.others k hk), by rw [hcore], by rw [hcore]; exact hw.listed⟩

theorem Switched.nFrames {x : Frame} {r : Option Nat} (h : Switched s t c f x r) : nFrames t = nFrames s := by
  have hstore : t.store = s.store := by rw [h.rest]
  rw [Machine.nFrames, Machine.nFrames, hstore]

/-- Steps that are counted change no frame. -/
theorem Switched.counted {u : State} {x : Frame} {r : Option Nat} (h : Switched s t c f x r) (hu : CoreOnly t u c f) (hf : frameOf u c f = frameOf t c f) : Switched s u c f x r where
  rest := by rw [hu.rest, h.rest]
  frame := hf.trans h.frame
  others := fun k hk => (hu.others k hk).trans (h.others k hk)
  running := by rw [hu.core]; exact h.running
  listed := hu.listed

/-- A frame has left its core for a state: none runs, and one step is counted. -/
def frameLeft (s : State) (c f : Nat) (st : FrameState) : State := spend (setRunning (setFrame s c f { frameOf s c f with state := st }) c none) c csOther 1

theorem switched_frameLeft {st : FrameState} (hst : st ≠ .off) : Switched s (frameLeft s c f st) c f { frameOf s c f with state := st } none := by
  have h := switched_setRunning (s := s) (c := c) (f := f) (x := { frameOf s c f with state := st }) (frame_ne_of_state hst) none
  obtain ⟨hspend, hsame⟩ := coreOnly_spend f csOther 1 h.listed
  exact h.counted hspend hsame

theorem switched_runFrame : Switched s (runFrame s c g) c g { frameOf s c g with state := .running } (some g) :=
  have hx : ({ frameOf s c g with state := .running } : Frame) ≠ {} := frame_ne_default rfl
  switched_setRunning hx (some g)

theorem switchOut_eq {st : FrameState} (hl : (frameOf s c f).lop = none) (hr : (frameOf s c f).rep = none) :
    switchOut s c f st = pickAfter (frameLeft s c f st) c f := by
  rw [switchOut, stopLop_none hl, leaveFrame, parkRep_none hr]
  rfl

/-- The frame of a YIELD as it leaves: behind the instruction, with nothing to wait for (R367). -/
def yieldFrame (x : Frame) : Frame := trimFetch { x with pc := x.pc + 4, wait := .idle, last := none }

section
variable (h : Ready s c f .yield w)
include h

theorem yieldFrame_state : (yieldFrame (frameOf s c f)).state = .running := h.runs.1

theorem coreOnly_yieldFrame : CoreOnly s (setFrame s c f (yieldFrame (frameOf s c f))) c f := coreOnly_setFrame s c f (frame_ne_default (yieldFrame_state h))

theorem frameOf_yieldFrame : frameOf (setFrame s c f (yieldFrame (frameOf s c f))) c f = yieldFrame (frameOf s c f) :=
  frameOf_setFrame_same s c f (frame_ne_default (yieldFrame_state h))

/-- A YIELD that goes for no other frame ends behind itself. -/
theorem ended_yield_stays (hr : runOp .yield s (taskActor s c f false) w 0 = .raw (setFrame s c f (yieldFrame (frameOf s c f)))) :
    Ended s (issue s c .yield) c f (frameOf s c f) ((frameOf s c f).pc + 4) := by
  have hy := frameOf_yieldFrame h
  obtain ⟨hraw, hsame⟩ := conclude_raw_leaves (t := setFrame s c f (yieldFrame (frameOf s c f))) h (by rw [hy]; exact frame_ne_default (yieldFrame_state h))
    (coreOnly_yieldFrame h).listed (by rw [hy]; exact h.shadows)
  rw [issue_plain h rfl, hr]
  exact ((coreOnly_yieldFrame h).trans hraw).endedAs (hsame.trans hy) rfl

/-- The switch of a YIELD: its frame has left for a state, and the next READY frame, if there is one, is to run. -/
def yieldLeft (s : State) (c f : Nat) (st : FrameState) : State := frameLeft (setFrame s c f (yieldFrame (frameOf s c f))) c f st

theorem switched_yieldLeft {st : FrameState} (hst : st ≠ .off) : Switched s (yieldLeft s c f st) c f { yieldFrame (frameOf s c f) with state := st } none := by
  have hleft := switched_frameLeft (s := setFrame s c f (yieldFrame (frameOf s c f))) (c := c) (f := f) hst
  rw [frameOf_yieldFrame h] at hleft
  exact ⟨by rw [yieldLeft, hleft.rest]; rfl, hleft.frame, fun k hk => (hleft.others k hk).trans ((coreOnly_yieldFrame h).others k hk), hleft.running, hleft.listed⟩

theorem switchOut_yield (st : FrameState) : switchOut (setFrame s c f (yieldFrame (frameOf s c f))) c f st = pickAfter (yieldLeft s c f st) c f := by
  have hy := frameOf_yieldFrame h
  exact switchOut_eq (by rw [hy]; exact h.calm.1) (by rw [hy]; exact h.rep)

end

/-- The state that a YIELD leaves its frame in: with W, outside a handler, it sleeps. -/
def yieldState (x : Frame) (w : Word) : FrameState := if bitOf w.toNat 5 && !pMsk x.psw then .sleep else .ready

theorem yieldState_ne_off (x : Frame) (w : Word) : yieldState x w ≠ .off := by unfold yieldState; split <;> exact FrameState.noConfusion

theorem opYield_leaves (hn : (bitOf w.toNat 5 && !pMsk (actFrame s a).psw) = true ∨ (nextReady s a.c a.f).isSome = true) :
    opYield s a w = .raw (switchOut (setFrame s a.c a.f (yieldFrame (actFrame s a))) a.c a.f (yieldState (actFrame s a) w)) := by
  unfold opYield yieldState
  dsimp only
  cases hw : bitOf w.toNat 5 && !pMsk (actFrame s a).psw with
  | true => rfl
  | false =>
    rw [hw] at hn
    rw [if_neg Bool.false_ne_true, if_pos (hn.resolve_left Bool.false_ne_true)]
    rfl

theorem opYield_stays (hw : (bitOf w.toNat 5 && !pMsk (actFrame s a).psw) = false) (hn : nextReady s a.c a.f = none) :
    opYield s a w = .raw (setFrame s a.c a.f (yieldFrame (actFrame s a))) := by
  simp only [opYield, hw, hn, Option.isSome_none, Bool.false_eq_true, if_false]
  rfl

section
variable (h : Ready s c f .yield w)
include h

/-- A YIELD that switches ends as its switch does, but for the counters. -/
theorem exec_yield_switches {u : State} {r : Option Nat} {y : Frame} (hn : (bitOf w.toNat 5 && !pMsk (frameOf s c f).psw) = true ∨ (nextReady s c f).isSome = true)
    (hu : pickAfter (yieldLeft s c f (yieldState (frameOf s c f) w)) c f = u) (hy : frameOf u c f = y) (hstate : y.state = yieldState (frameOf s c f) w)
    (hpend : y.pend = (frameOf s c f).pend) (hlisted : (coreOf u c).frames ≠ []) (hrun : (coreOf u c).running = r) :
    ∃ s', exec (.yield c) s = .next s' ∧ CoreOnly u s' c f ∧ frameOf s' c f = y ∧ (coreOf s' c).running = r := by
  have hop : runOp .yield s (taskActor s c f false) w 0 = .raw u := by
    rw [← hu, ← switchOut_yield h]; exact opYield_leaves hn
  obtain ⟨hraw, hsame⟩ := conclude_raw_leaves (t := u) h (by rw [hy]; exact frame_ne_of_state (hstate ▸ yieldState_ne_off _ _)) hlisted (by rw [hy, hpend]; exact h.shadows)
  refine ⟨_, rfl, ?_⟩
  rw [issue_plain h rfl, hop]
  exact ⟨hraw, hsame.trans hy, by rw [hraw.core]; exact hrun⟩

/-- YIELD leaves for the next READY frame. -/
theorem exec_yield_next (hg : g ≠ f) (hn : nextReady s c f = some g) :
    ∃ s', exec (.yield c) s = .next s' ∧ (coreOf s' c).running = some g ∧ frameOf s' c g = { frameOf s c g with state := .running } ∧
      frameOf s' c f = { yieldFrame (frameOf s c f) with state := yieldState (frameOf s c f) w } ∧ s' = { s with cores := { s.cores with cores := s'.cores.cores } } := by
  have hleft := switched_yieldLeft h (yieldState_ne_off (frameOf s c f) w)
  have hnext : nextReady (yieldLeft s c f (yieldState (frameOf s c f) w)) c f = some g :=
    nextReady_of_others h.core.1 hleft.nFrames hleft.others hg hn
  have hrun := switched_runFrame (s := yieldLeft s c f (yieldState (frameOf s c f) w)) (c := c) (g := g)
  rw [hleft.others g hg] at hrun
  obtain ⟨s', hx, hcore, hf, hr⟩ := exec_yield_switches h (.inr (by rw [hn]; rfl)) (by rw [pickAfter, hnext]) ((hrun.others f hg.symm).trans hleft.frame) rfl rfl hrun.listed hrun.running
  exact ⟨s', hx, hr, (hcore.others g hg).trans hrun.frame, hf, by rw [hcore.rest, hrun.rest, hleft.rest]⟩

/-- YIELD with W, outside a handler, where no frame is READY: its frame sleeps and none runs. -/
theorem exec_yield_sleeps (hw : bitOf w.toNat 5 = true) (hm : pMsk (frameOf s c f).psw = false) (hn : ∀ k, k < nFrames s → (frameOf s c k).state ≠ .ready) :
    ∃ s', exec (.yield c) s = .next s' ∧ (coreOf s' c).running = none ∧ frameOf s' c f = { yieldFrame (frameOf s c f) with state := .sleep } := by
  have hsleep : yieldState (frameOf s c f) w = .sleep := by rw [yieldState, hw, hm]; rfl
  have hleft := switched_yieldLeft h (yieldState_ne_off (frameOf s c f) w)
  have hnone : nextReady (yieldLeft s c f (yieldState (frameOf s c f) w)) c f = none := by
    refine nextReady_none fun k hk => ?_
    by_cases hkf : k = f
    · rw [hkf, hleft.frame, hsleep]; exact FrameState.noConfusion
    · rw [hleft.others k hkf]; exact hn k (hleft.nFrames ▸ hk)
  obtain ⟨s', hx, -, hf, hr⟩ := exec_yield_switches h (.inl (by rw [hw, hm]; rfl)) (by rw [pickAfter, hnone]) hleft.frame rfl rfl hleft.listed hleft.running
  exact ⟨s', hx, hr, hsleep ▸ hf⟩

end

/-- Settles O41: the barriers by what holds them (`opSync_waits`, `opSyncTlb_waits`) and where they end (`does_sync`), YIELD by the frame that it leaves for, if there is one. -/
theorem barriersAndSwitches : Obligations.BarriersAndSwitches := by
  unfold Obligations.BarriersAndSwitches
  refine ⟨fun s c f w => ?barriers, ?next, ?sleeps⟩
  case barriers =>
    intro x t a
    refine ⟨fun h hsb hm he hr hp => ?sync, fun h hwait => ?syncWaits, missesLeft_iff, fun h hu hb hsb hm he hr hp => ?tlb, fun h hu hb => ?tlbWaits, fun h hu => ?user,
      fun h => ?dbar, fun h hw hn => ?yield, fun v hstate hp => frameOf_applyAll_tcr hstate hp⟩
    case sync => exact does_sync h rfl rfl rfl rfl hsb hm ⟨hr, he, hp ▸ List.forall_mem_nil _⟩
    case syncWaits => exact exec_plain_stay h rfl rfl (opSync_waits hwait)
    case tlb => exact does_sync h rfl rfl rfl (opSyncTlb_acknowledged hu hb) hsb hm ⟨hr, he, hp ▸ List.forall_mem_nil _⟩
    case tlbWaits => exact exec_plain_stay h rfl rfl (opSyncTlb_waits hu hb)
    case user => exact traps_of_plain_exc h rfl (by decide) rfl (opSyncTlb_user hu) rfl
    case dbar =>
      refine ⟨_, rfl, ?_⟩
      have hop : runOp .dbar s a w 0 = .done s := if_neg (by rw [show actFrame s a = x from rfl, lopPending_of_ready h]; exact Bool.false_ne_true)
      rw [issue_plain h rfl, hop]
      exact ended_conclude_done h ⟨h.runs.1, rfl, h.shadows⟩
    case yield =>
      have hw' : (bitOf w.toNat 5 && !pMsk x.psw) = false := by rcases hw with hw | hw <;> simp [hw]
      exact ⟨_, rfl, ended_yield_stays h (opYield_stays hw' hn)⟩
  case next =>
    intro s c f g w x h hn hg
    obtain ⟨s', hx, hr, hnext, hf, hrest⟩ := exec_yield_next h hg hn
    exact ⟨s', hx, hr, hnext, by rw [hf]; rfl, by rw [hf]; rfl, by rw [hf]; rfl, hrest⟩
  case sleeps =>
    intro s c f w h hw hm hn
    obtain ⟨s', hx, hr, hf⟩ := exec_yield_sleeps h hw hm hn
    exact ⟨s', hx, hr, by rw [hf], by rw [hf]; rfl⟩

end Sys2Proof.Machine
end

section
/-! SUPPORT. A store that fails (R385) as its frame's wait for the store buffer ends (R280), where the core's table of frames is not canonical. -/
namespace Sys2Proof.Machine

/-- Core 0 buffers one store of frame 0, into the ledger's area, where the MPU refuses it. Its table lists frame 0 twice: as a frame that waits for the buffer to empty, and as one of another epoch. -/
def frameListedTwice : State := { cores := { cores := [(0, { sb := [{}], frames := [(0, { wait := .drain }), (0, { epoch := 1 })] })] } }

/-- No region and no area lets a ladle core write the ledger (Table 6.2). -/
theorem checkPa_frameListedTwice : checkPa frameListedTwice (sbMaster 0 {}) 0 .write = some { cause := 4 } := by decide

/-- The drain ends frame 0's wait, which takes its first listing out; the store error then meets the second, of an epoch that is not the store's. -/
theorem drain_frameListedTwice : frameOf (drainHead frameListedTwice 0 false) 0 0 = { epoch := 1 } := by decide

/-- Refutes O53, its third conjunct, on a store that is refused: it claims that the frame has the store error in every state whose table of cores is canonical, but asks nothing of the table of
frames. A frame that waited for the buffer and is otherwise as an unlisted one is taken out of that table when its wait ends, and `tdel` takes out one listing of a key, the only one where the
keys rise strictly. In `frameListedTwice` another listing is left, whose epoch discards the error (R366). -/
theorem not_coresBesideInstructions : ¬ Obligations.CoresBesideInstructions := by
  unfold Obligations.CoresBesideInstructions
  rintro ⟨-, -, hdrain, -⟩
  obtain ⟨-, -, hfail⟩ := hdrain frameListedTwice 0 {} [] rfl (by decide) (by decide)
  obtain ⟨s', hx, -, -, hste⟩ := hfail _ checkPa_frameListedTwice (by decide) (by decide)
  have hs' : s' = drainHead frameListedTwice 0 false := (Host.Outcome.next.inj hx).symm
  have hnone : (frameOf s' 0 0).ste = none := by rw [hs', drain_frameListedTwice]
  rw [show (frameOf s' 0 ({} : SbEntry).frame).ste = none from hnone] at hste
  cases hste

end Sys2Proof.Machine
end

section
/-! SUPPORT. How an instruction ends that writes its frame, and one that branches, whatever its word waited for (R266, R298, R305). -/
namespace Sys2Proof.Machine

variable {s t : State} {c f : Nat} {i : Instr} {o : LOp} {w ad : Word} {v : Wait} {g : Bool} {x y : Frame} {e : Exc}

/-! What an instruction keeps of its frame. -/

/-- A frame runs on as it did: its state, its epoch and its pending writes are as they were. -/
structure RunsOn (x y : Frame) : Prop where
  state : y.state = x.state
  epoch : y.epoch = x.epoch
  pend : y.pend = x.pend

theorem RunsOn.refl (x : Frame) : RunsOn x x := ⟨rfl, rfl, rfl⟩

theorem RunsOn.setG (h : RunsOn x y) (n : Nat) (r : Word) : RunsOn x (setG y n r) :=
  ⟨(setG_state ..).trans h.state, (setG_epoch ..).trans h.epoch, (setG_pend ..).trans h.pend⟩

theorem RunsOn.setPair (h : RunsOn x y) (n : Nat) (r : Dbl) : RunsOn x (setPair y n r) := (h.setG n _).setG (n + 1) _

theorem RunsOn.setM (h : RunsOn x y) (n : Nat) (r : Word × Word) : RunsOn x (setM y n r) := ⟨h.state, h.epoch, h.pend⟩

/-! The end of an instruction. -/

/-- What a word waited for as it issues, and whether its accesses then go at once: nothing, or what has come. -/
def Answered (v : Wait) (g : Bool) : Prop := (v = .idle ∧ g = false) ∨ ∃ d b, v = .filled d b ∧ g = true

theorem answered_idle : Answered .idle false := .inl ⟨rfl, rfl⟩
theorem answered_filled (d : Bytes) (b : Bool) : Answered (.filled d b) true := .inr ⟨d, b, rfl, rfl⟩

theorem lenOf_plain (ho : isPlainOp o = true) : lenOf o = 4 := by
  have hlit : o ≠ .longLiteralOp := by rintro rfl; exact absurd ho (by decide)
  exact if_neg hlit

/-- The command of an operation that is carried out as its word issues. -/
theorem exec_plain (h : Ready s c f o w v) (hv : Answered v g) (ho : isPlainOp o = true) (hi : exec i s = .next (issue s c o)) :
    exec i s = .next (conclude s c f (frameOf s c f) o w (runOp o s (taskActor s c f g) w 0)) := by
  simp only [isPlainOp, Bool.and_eq_true, Bool.not_eq_true', bne_iff_ne] at ho
  obtain ⟨⟨⟨hlong, hrepi⟩, hrepu⟩, hlit⟩ := ho
  rw [hi, issue_ready h hv hlong ⟨hrepi, hrepu⟩ hlit]

/-- An operation that is done in `t` ends its instruction there, at the next word. -/
theorem ended_done (h : Ready s c f o w v) (ho : isPlainOp o = true) (hy : RunsOn (frameOf s c f) (frameOf t c f)) :
    Ended t (conclude s c f (frameOf s c f) o w (.done t)) c f (frameOf t c f) ((frameOf s c f).pc + 4) := by
  have hend := conclude_ended h (hy.state.trans h.runs.1) hy.epoch hy.pend
  rwa [lenOf_plain ho] at hend

/-- One that is done where its frame is written as `y`. -/
theorem ended_doneF (h : Ready s c f o w v) (ho : isPlainOp o = true) (hy : RunsOn (frameOf s c f) y) :
    Ended t (conclude s c f (frameOf s c f) o w (.done (setFrame t c f y))) c f y ((frameOf s c f).pc + 4) := by
  have hne : y ≠ {} := frame_ne_default (hy.state.trans h.runs.1)
  have hsame := frameOf_setFrame_same t c f hne
  have hend := ended_done (t := setFrame t c f y) h ho (hsame.symm ▸ hy)
  rw [hsame] at hend
  exact (coreOnly_setFrame t c f hne).ended hend

/-- An instruction whose operation is done in `t` and leaves its frame as it was. -/
theorem does_done (h : Ready s c f o w v) (hv : Answered v g) (ho : isPlainOp o = true) (hi : exec i s = .next (issue s c o))
    (hr : runOp o s (taskActor s c f g) w 0 = .done t) (hy : frameOf t c f = y) (hkeep : RunsOn (frameOf s c f) y) :
    Does i s t c f y ((frameOf s c f).pc + 4) := by
  subst hy
  exact ⟨_, exec_plain h hv ho hi, hr ▸ ended_done h ho hkeep⟩

/-- An instruction whose operation writes its frame. -/
theorem does_doneF (h : Ready s c f o w v) (hv : Answered v g) (ho : isPlainOp o = true) (hi : exec i s = .next (issue s c o))
    (hr : runOp o s (taskActor s c f g) w 0 = doneF t (taskActor s c f g) y) (hy : RunsOn (frameOf s c f) y) : Does i s t c f y ((frameOf s c f).pc + 4) :=
  ⟨_, exec_plain h hv ho hi, hr ▸ ended_doneF h ho hy⟩

/-- An instruction that only writes rd. -/
theorem does_setRd {r : Word} (h : Ready s c f o w v) (hv : Answered v g) (ho : isPlainOp o = true) (hi : exec i s = .next (issue s c o))
    (ht : frameOf t c f = frameOf s c f) (hr : runOp o s (taskActor s c f g) w 0 = setRd t (taskActor s c f g) w r) :
    Does i s t c f (setG (frameOf s c f) (fRd w) r) ((frameOf s c f).pc + 4) :=
  does_doneF h hv ho hi (hr.trans (congrArg (fun x => doneF t (taskActor s c f g) (setG x (fRd w) r)) ht)) ((RunsOn.refl _).setG _ _)

/-- A branch that is taken, in a state that differs in nothing but what the branch leaves of the frame. -/
theorem does_jump (h : Ready s c f o w) (ho : isPlainOp o = true) (hi : exec i s = .next (issue s c o))
    (hr : runOp o s (taskActor s c f false) w 0 = .jump s ad) : Does i s s c f (frameOf s c f) ad :=
  ⟨_, exec_plain h answered_idle ho hi, hr ▸ ended_conclude_jump h ⟨h.runs.1, rfl, h.shadows⟩⟩

/-- A call that is taken: it writes the link too. -/
theorem does_jumpF (h : Ready s c f o w) (ho : isPlainOp o = true) (hi : exec i s = .next (issue s c o))
    (hr : runOp o s (taskActor s c f false) w 0 = .jump (setFrame s c f y) ad) (hy : RunsOn (frameOf s c f) y) : Does i s s c f y ad := by
  have hne : y ≠ {} := frame_ne_default (hy.state.trans h.runs.1)
  have hsame := frameOf_setFrame_same s c f hne
  have hlasts : Lasts (frameOf s c f) (frameOf (setFrame s c f y) c f) := by
    rw [hsame]; exact ⟨hy.state.trans h.runs.1, hy.epoch, hy.pend.symm ▸ h.shadows⟩
  refine ⟨_, exec_plain h answered_idle ho hi, ?_⟩
  rw [hr]
  have hend := ended_conclude_jump (ad := ad) h hlasts
  rw [hsame] at hend
  exact (coreOnly_setFrame s c f hne).ended hend

end Sys2Proof.Machine
end

section
/-! SUPPORT. Binary arithmetic (R301 to R304, Tables 8.4 and 8.6): what each operation writes. -/
namespace Sys2Proof.Machine

variable {s : State} {a : Actor} {c f : Nat} {w lit p q : Word}

/-- A long literal issues with the word that follows it (R270). -/
theorem issue_longLiteral (h : Ready s c f .longLiteralOp w) (hl : fetchedAt (frameOf s c f) ((frameOf s c f).pc + 4) = .word lit) :
    issue s c .longLiteralOp = conclude s c f (frameOf s c f) .longLiteralOp w (runOp .longLiteralOp s (taskActor s c f false) w lit) := by
  obtain ⟨hf, hin, hrunning⟩ := h.core
  obtain ⟨hstate, hwait⟩ := h.runs
  obtain ⟨-, hlov, htrace, -⟩ := h.calm
  obtain ⟨hlop, hsram⟩ := h.kept
  have hmay : mayIssue s c f = true := by simp [mayIssue, hf, hin, hrunning, hstate, hwait, hlov]
  have hbefore : beforeIssue s c f = none := by simp only [beforeIssue, hsram, htrace, hlop, Bool.false_eq_true, if_false, Option.isSome_none]
  have hfill : fill s c f .longLiteralOp = .ok s () := rfl
  simp only [issue, hrunning, issueAs, hmay, hbefore, h.word, h.names, Bool.not_true, Bool.false_eq_true, if_false, or_true, if_true, issueFor, h.free, literalAt, hl, hfill, hwait,
    reduceCtorEq, or_self]
  rfl


/-- A long literal goes on past both of its words. -/
theorem does_longLiteral {r : Word} (h : Ready s c f .longLiteralOp w) (hl : fetchedAt (frameOf s c f) ((frameOf s c f).pc + 4) = .word lit)
    (hr : opLongLiteral s (taskActor s c f false) w lit = setRd s (taskActor s c f false) w r) :
    Does (.longLiteralOp c) s s c f (setG (frameOf s c f) (fRd w) r) ((frameOf s c f).pc + 8) := by
  have hne : setG (frameOf s c f) (fRd w) r ≠ {} := frame_ne_default ((setG_state ..).trans h.runs.1)
  have hsame := frameOf_setFrame_same s c f hne
  refine ⟨_, rfl, ?_⟩
  rw [issue_longLiteral h hl, show runOp .longLiteralOp s (taskActor s c f false) w lit = _ from hr]
  have hend := conclude_ended (t := setFrame s c f (setG (frameOf s c f) (fRd w) r)) h (by rw [hsame]; exact (setG_state ..).trans h.runs.1) (by rw [hsame, setG_epoch])
    (by rw [hsame, setG_pend])
  rw [hsame] at hend
  exact (coreOnly_setFrame s c f hne).ended hend

/-- What ADDI, ANDI, ORI and XORI make of a register: `i` is their immediate with its sign, `z` the immediate without (R301). -/
def immediateResult (major : Nat) (p i z : Word) : Word :=
  match major with | 0x08 => p + i | 0x09 => p &&& z | 0x0A => p ||| z | _ => p ^^^ z

theorem opAddi_eq : opAddi s a w = setRd s a w (immediateResult (fMajor w) (gA s a w) (sext 15 (wf w 14 0)) (BitVec.ofNat 32 (wf w 14 0))) := rfl

/-- What the compares with an immediate find (R301). -/
def compareResult (major : Nat) (p i : Word) : Bool :=
  match major with | 0x0C => p == i | 0x0D => p != i | 0x0E => p.slt i | 0x0F => p.ult i | 0x10 => i.slt p | _ => i.ult p

theorem opCompareImmediate_eq : opCompareImmediate s a w = setRd s a w (bw (compareResult (fMajor w) (gA s a w) (sext 15 (wf w 14 0)))) := rfl

/-- What the operations with a long literal make of a register (R301). -/
def literalResult (func : Nat) (p lit : Word) : Word :=
  match func with
  | 0 => lit
  | 1 => p + lit
  | 2 => p &&& lit
  | 3 => p ||| lit
  | 4 => p ^^^ lit
  | 5 => bw (p == lit)
  | 6 => bw (p.slt lit)
  | _ => bw (p.ult lit)

theorem opLongLiteral_eq : opLongLiteral s a w lit = setRd s a w (literalResult (fRb w) (gA s a w) lit) := rfl

/-- Settles O33: each operation writes one value to rd (`does_setRd`, `does_longLiteral`); for those of several majors or functions, the value of each. -/
theorem arithmeticWritesRd : Obligations.ArithmeticWritesRd := by
  intro s c f w lit x p q i z rd
  refine ⟨fun h => ?add, fun h => ?mul, fun h => ?sel, fun h => ?lui, fun h => ?shift, fun h => ⟨immediateResult (fMajor w) p i z, ?addi, ?addiValue⟩,
    fun h => ⟨compareResult (fMajor w) p i, ?compare, ?compareValue⟩, fun h hl => ⟨literalResult (fRb w) p lit, does_longLiteral h hl opLongLiteral_eq, ?literalValue⟩⟩
  case addi => exact does_setRd h answered_idle rfl rfl rfl opAddi_eq
  case addiValue => and_intros <;> intro hm <;> rw [hm] <;> rfl
  case compare => exact does_setRd h answered_idle rfl rfl rfl opCompareImmediate_eq
  case compareValue =>
    refine ⟨fun hm => ?_, fun hm => ?_, fun hm => ?_, fun hm => ?_, fun hm => ?_, fun hm => ?_⟩ <;> rw [hm]
    case refine_2 => exact Bool.eq_iff_iff.mpr (bne_iff_ne.trans decide_eq_true_iff.symm)
    all_goals rfl
  case literalValue =>
    refine ⟨fun hm => ?_, fun hm => ?_, fun hm => ?_, fun hm => ?_, fun hm => ?_, fun hm => ?_, fun hm => ?_, fun hm => ?_⟩ <;> rw [hm]
    case refine_6 => exact bw_eq_ite beq_iff_eq
    case refine_7 => exact bw_eq_ite BitVec.slt_iff_toInt_lt
    case refine_8 => exact bw_eq_ite BitVec.ult_iff_lt
    all_goals rfl
  all_goals exact does_setRd h answered_idle rfl rfl rfl rfl

/-! Products and quotients (R302, R303). -/

theorem mul_setWidth (p q : Word) : p.setWidth 64 * q.setWidth 64 = BitVec.ofNat 64 (p.toNat * q.toNat) := by
  rw [BitVec.ofNat_mul, BitVec.ofNat_toNat, BitVec.ofNat_toNat]

theorem mul_signExtend (p q : Word) : p.signExtend 64 * q.signExtend 64 = BitVec.ofInt 64 (p.toInt * q.toInt) := by
  rw [BitVec.ofInt_mul]; rfl

theorem sdiv_eq_ofInt (p q : Word) : p.sdiv q = BitVec.ofInt 32 (p.toInt.tdiv q.toInt) := by
  apply BitVec.eq_of_toInt_eq
  rw [BitVec.toInt_sdiv, BitVec.toInt_ofInt]

theorem srem_eq_ofInt (p q : Word) : p.srem q = BitVec.ofInt 32 (p.toInt.tmod q.toInt) := by
  rw [← BitVec.toInt_srem, BitVec.ofInt_toInt]

theorem udiv_eq_ofNat (p q : Word) : p / q = BitVec.ofNat 32 (p.toNat / q.toNat) := by
  rw [← BitVec.toNat_udiv, BitVec.ofNat_toNat, BitVec.setWidth_eq]

theorem umod_eq_ofNat (p q : Word) : p % q = BitVec.ofNat 32 (p.toNat % q.toNat) := by
  rw [← BitVec.toNat_umod, BitVec.ofNat_toNat, BitVec.setWidth_eq]

theorem divide_nonzero {op : Word → Word → Word} (h : gB s a w ≠ 0) : divide s a w op = setRd s a w (op (gA s a w) (gB s a w)) := if_neg h
theorem divide_zero {op : Word → Word → Word} (h : gB s a w = 0) : divide s a w op = .exc s { vec := 13 } := if_pos h

/-- Settles O34: the products and quotients as the words that the numbers give, and `divide_zero`. -/
theorem productsAndQuotients : Obligations.ProductsAndQuotients := by
  intro s c f w x p q
  refine ⟨fun h => ?muld, fun h => ?mulds, fun hq => ⟨fun h => ?divu, fun h => ?remu, fun h => ?divs, fun h => ?rems⟩, fun hq => ?zero⟩
  case muld => rw [← mul_setWidth]; exact does_doneF h answered_idle rfl rfl rfl ((RunsOn.refl _).setPair _ _)
  case mulds => rw [← mul_signExtend]; exact does_doneF h answered_idle rfl rfl rfl ((RunsOn.refl _).setPair _ _)
  case divu => rw [← udiv_eq_ofNat]; exact does_setRd h answered_idle rfl rfl rfl (divide_nonzero hq)
  case remu => rw [← umod_eq_ofNat]; exact does_setRd h answered_idle rfl rfl rfl (divide_nonzero hq)
  case divs => rw [← sdiv_eq_ofInt]; exact does_setRd h answered_idle rfl rfl rfl (divide_nonzero hq)
  case rems => rw [← srem_eq_ofInt]; exact does_setRd h answered_idle rfl rfl rfl (divide_nonzero hq)
  case zero => and_intros <;> exact fun h => traps_of_plain_exc h rfl (by decide) rfl (divide_zero hq) rfl

end Sys2Proof.Machine
end

section
/-! SUPPORT. Branches and the modulo descriptors (R305, R310). -/
namespace Sys2Proof.Machine

variable {s : State} {a : Actor} {c f : Nat} {i : Instr} {o : LOp} {w ad : Word}

/-- The exception of a branch to a target that is no multiple of 4 (R305). -/
def badTarget (ad : Word) : Exc := { vec := 3, addr := ad.setWidth 64, acc := 2 }

theorem goto_misaligned (h : ad.toNat % 4 ≠ 0) : goto s ad = .exc s (badTarget ad) := by
  refine if_pos fun h0 => h ?_
  have hlow : (ad.extractLsb' 0 2).toNat = 0 := by rw [h0]; rfl
  simpa [BitVec.extractLsb'_toNat] using hlow

theorem callTo_aligned (h : ad.toNat % 4 = 0) : callTo s a ad = .jump (setFrame s a.c a.f (setG (actFrame s a) 31 ((actFrame s a).pc + 4))) ad := by
  rw [callTo, goto_aligned h]

theorem callTo_misaligned (h : ad.toNat % 4 ≠ 0) : callTo s a ad = .exc s (badTarget ad) := by
  rw [callTo, goto_misaligned h]

/-- Settles O35: a branch ends at its target (`does_jump`, `does_jumpF`) or at the next word; a misaligned target traps before the link is written. -/
theorem branchesAndDescriptors : Obligations.BranchesAndDescriptors := by
  intro s c f w x near far p bad
  have hlink : RunsOn x (setG x 31 (x.pc + 4)) := (RunsOn.refl x).setG _ _
  refine ⟨fun h hz => ?bzOn, fun h hz hal => ?bz, fun h hz => ?bnzOn, fun h hz hal => ?bnz, fun h hal => ?j, fun h hal => ?call, fun h hal => ?jr, fun h hal => ?jrBad,
    fun h hal => ?callr, fun h hal => ?callrBad, fun h => ?mtm, fun h => ?mfmb, fun h => ?mfml⟩
  case bzOn => exact does_done h answered_idle rfl rfl (if_neg hz) rfl (RunsOn.refl x)
  case bz => exact does_jump h rfl rfl ((if_pos hz).trans (goto_aligned hal))
  case bnzOn => exact does_done h answered_idle rfl rfl (if_neg (not_not_intro hz)) rfl (RunsOn.refl x)
  case bnz => exact does_jump h rfl rfl ((if_pos hz).trans (goto_aligned hal))
  case j => exact does_jump h rfl rfl (goto_aligned hal)
  case call => exact does_jumpF h rfl rfl (callTo_aligned hal) hlink
  case jr => exact does_jump h rfl rfl (goto_aligned hal)
  case jrBad => exact traps_of_plain_exc h rfl (by decide) rfl (goto_misaligned hal) rfl
  case callr => exact does_jumpF h rfl rfl (callTo_aligned hal) hlink
  case callrBad => exact traps_of_plain_exc h rfl (by decide) rfl (callTo_misaligned hal) rfl
  case mtm => exact does_doneF h answered_idle rfl rfl rfl ((RunsOn.refl x).setM _ _)
  case mfmb => exact does_setRd h answered_idle rfl rfl rfl rfl
  case mfml => exact does_setRd h answered_idle rfl rfl rfl rfl

end Sys2Proof.Machine
end

section
/-! SUPPORT. Loads, stores and compare-and-swap (R306 to R309, R311, R312): what an access that is answered leaves, and CAS at a line that the L1 owns. -/
namespace Sys2Proof.Machine

variable {s s1 : State} {a : Actor} {c f : Nat} {w : Word} {va : Dbl} {b : Bytes} {p : Piece}

/-! Loads and stores. -/

/-- The base register of an M-format word, moved on where its mode says so (R308). -/
def baseMoved (x : Frame) (w : Word) : Frame := match (mAddress x w).2 with | some v => setG x (fRa w) v | none => x
/-- The base pair of an MF-format word, moved on where its mode says so (R311). -/
def basePairMoved (x : Frame) (w : Word) : Frame := match (mfAddress x w).2 with | some v => setPair x (fRa w) v | none => x

theorem runsOn_baseMoved (x : Frame) (w : Word) : RunsOn x (baseMoved x w) := by
  unfold baseMoved; split
  · exact (RunsOn.refl x).setG _ _
  · exact RunsOn.refl x

theorem runsOn_basePairMoved (x : Frame) (w : Word) : RunsOn x (basePairMoved x w) := by
  unfold basePairMoved; split
  · exact (RunsOn.refl x).setPair _ _
  · exact RunsOn.refl x

section
variable (hx : actFrame s1 a = actFrame s a)
include hx

theorem opLoad_answered (hb : loadBytes s a ((mAddress (actFrame s a) w).1.setWidth 64) (sizeBytes (fMajor w - 0x14)) = .ok s1 b) :
    opLoad s a w = doneF s1 a (setG (baseMoved (actFrame s a) w) (fRd w) (extendLoad (fMajor w - 0x14) b)) := by
  simp only [opLoad, hb, MRes.bindI, hx]; rfl

theorem opLdf_answered (hb : loadBytes s a (mfAddress (actFrame s a) w).1 (sizeBytes (wf w 14 12)) = .ok s1 b) :
    opLdf s a w = doneF s1 a (setG (basePairMoved (actFrame s a) w) (fRd w) (extendLoad (wf w 14 12) b)) := by
  simp only [opLdf, hb, MRes.bindI, hx]; rfl

theorem opStore_taken (hb : storeBytes s a ((mAddress (actFrame s a) w).1.setWidth 64) (le (2 ^ (fMajor w - 0x19)) (gReg (actFrame s a) (fRd w)).toNat) = .ok s1 ()) :
    opStore s a w = doneF s1 a (baseMoved (actFrame s a) w) := by
  simp only [opStore, hb, MRes.bindI, hx]; rfl

theorem opStf_taken (hb : storeBytes s a (mfAddress (actFrame s a) w).1 (le (sizeBytes (wf w 14 12)) (gReg (actFrame s a) (fRd w)).toNat) = .ok s1 ()) :
    opStf s a w = doneF s1 a (basePairMoved (actFrame s a) w) := by
  simp only [opStf, hb, MRes.bindI, hx]; rfl

end

/-! Compare-and-swap (R312). -/

/-- A checked piece is the piece. -/
theorem checkPiece_ok {k : Acc3} {q : Piece} (h : checkPiece s a k p = .ok s1 q) : q = p := by
  unfold checkPiece at h
  split at h
  · cases h
  · split at h
    · cases h
    · injection h with _ hq; exact hq.symm

/-- An access that passes its translation and checks is to as many bytes as were asked for. -/
theorem len_of_resolve1 {k : Acc3} {n : Nat} (h : resolve1 s a k va n = .ok s1 p) : p.len = n := by
  unfold resolve1 at h
  cases ht : translate s a k va with
  | ok s2 x => rw [ht] at h; rw [checkPiece_ok h]
  | exc s2 x => rw [ht] at h; cases h
  | wait s2 x => rw [ht] at h; cases h
  | stay => rw [ht] at h; cases h

@[simp] theorem serveLosers_cores (s : State) (l : Nat) : (serveLosers s l).cores = s.cores := by
  unfold serveLosers; repeat' split
  all_goals rfl

@[simp] theorem dirtyL1_cores (s : State) (c l n : Nat) : (dirtyL1 s c l n).cores = s.cores := by
  unfold dirtyL1; dsimp only; split
  · rw [serveLosers_cores]; rfl
  · rfl

/-- A frame is read from the cores alone. -/
theorem frameOf_of_cores {t : State} (h : t.cores = s.cores) (c f : Nat) : frameOf t c f = frameOf s c f := by simp only [frameOf, coreOf, h]

/-- A line of HBM that the actor's own L1 owns and holds for its key, while nothing that the core buffers or has in flight stands in the way (R281, R284, R422). -/
structure OwnsLine (s : State) (a : Actor) (p : Piece) : Prop where
  area : areaOf s p.pa = .general
  plain : p.se = false
  drained : (coreOf s a.c).sb = []
  port : memLopBusy s a.c = false
  noLop : (frameOf s a.c a.f).lop = none
  read : l1Need s a.c (lineOfPa p.pa) a.key false = .hit
  write : l1Need s a.c (lineOfPa p.pa) a.key true = .hit

section
variable (h : OwnsLine s a p)
include h

theorem OwnsLine.waitsDrain : waitsDrain s a p.pa = false := by simp [Machine.waitsDrain, h.drained]

theorem OwnsLine.portTaken : portTaken s a p.pa = false := by
  have hport : lopHolds s a.c false = false := h.port
  simp only [Machine.portTaken, h.area, hport, Bool.and_false]

theorem OwnsLine.atOnce : OwnsLine s { a with go := true } p := ⟨h.area, h.plain, h.drained, h.port, h.noLop, h.read, h.write⟩

theorem OwnsLine.readyWrite : readyWrite a s [p] = .ok s () := by
  simp only [Machine.readyWrite, h.waitsDrain, h.area, h.plain, h.write, Bool.false_eq_true, if_false]

theorem OwnsLine.readPiece : readPiece s a false p = .ok s (memBytes s p.pa p.len) :=
  readPiece_hit h.portTaken h.noLop h.area (by simp [overlapsSb, h.drained]) h.plain h.read

theorem OwnsLine.writePiece : writePiece s a p b = .ok (setMemBytes (dirtyL1 s a.c p.pa b.length) p.pa b) () := by
  simp [Machine.writePiece, h.portTaken, h.waitsDrain, ownPantry, h.area, h.plain, h.write]

end

section
variable (hal : (gReg (actFrame s a) (fRa w)).toNat % 4 = 0) (hsb : (coreOf s a.c).sb = []) (hr : resolve1 s a .write ((gReg (actFrame s a) (fRa w)).setWidth 64) 4 = .ok s1 p)
  (hx : actFrame s1 a = actFrame s a) (ho : OwnsLine s1 a p)
include hal hsb hr hx ho

/-- CAS on an aligned word of a line that its L1 owns: it writes where the word is rd, and lets the losers of the line go where it is not. -/
theorem opCas_owned : opCas s a w =
    if wordAt (memBytes s1 p.pa 4) 0 = gReg (actFrame s a) (fRd w) then
      doneF (setMemBytes (dirtyL1 s1 a.c p.pa 4) p.pa (le 4 (gReg (actFrame s a) (fRb w)).toNat)) a (setG (actFrame s a) (fRd w) (wordAt (memBytes s1 p.pa 4) 0))
    else doneF (serveLosers s1 (lineOfPa p.pa)) a (setG (actFrame s a) (fRd w) (wordAt (memBytes s1 p.pa 4) 0)) := by
  have hmod : ((gReg (actFrame s a) (fRa w)).setWidth 64).toNat % 4 = 0 := by
    rw [BitVec.toNat_setWidth_of_le (by decide)]; exact hal
  have hafter : ∀ b, actFrame (setMemBytes (dirtyL1 s1 a.c p.pa 4) p.pa b) a = actFrame s1 a := fun b => frameOf_of_cores (dirtyL1_cores ..) ..
  simp only [opCas, misaligned_of_eq hmod, hsb, hr, MRes.bindI, ho.readyWrite, ho.atOnce.readPiece, ho.atOnce.writePiece, length_le, len_of_resolve1 hr, List.isEmpty_nil,
    Bool.not_true, Bool.false_eq_true, if_false, hafter, hx]

end

/-- Settles O36: an access that is answered ends its instruction in the state that the access left, the base moved on (`baseMoved`, `basePairMoved`); CAS by `opCas_owned`. -/
theorem loadsAndStores : Obligations.LoadsAndStores := by
  unfold Obligations.LoadsAndStores
  refine ⟨?access, ?cas⟩
  case access =>
    intro s s1 c f w b x a m n k y z hx
    refine ⟨fun h hb => ?load, fun h hb => ?ldf, fun h hb => ?store, fun h hb => ?stf⟩
    case load => exact does_doneF h answered_idle rfl rfl (opLoad_answered hx hb) ((runsOn_baseMoved x w).setG _ _)
    case ldf => exact does_doneF h answered_idle rfl rfl (opLdf_answered hx hb) ((runsOn_basePairMoved x w).setG _ _)
    case store => exact does_doneF h answered_idle rfl rfl (opStore_taken hx hb) (runsOn_baseMoved x w)
    case stf => exact does_doneF h answered_idle rfl rfl (opStf_taken hx hb) (runsOn_basePairMoved x w)
  case cas =>
    intro s s1 c f w p x a va old h hal hsb hr hx hsb1 hport harea hse hwrite hread
    have howns : OwnsLine s1 a p := ⟨harea, hse, hsb1, hport, by rw [show frameOf s1 a.c a.f = x from hx]; exact h.calm.1, hread, hwrite⟩
    have hcas := opCas_owned (a := a) (w := w) hal hsb hr hx howns
    have hkeep : RunsOn x (setG x (fRd w) old) := (RunsOn.refl x).setG _ _
    exact ⟨fun heq => does_doneF h answered_idle rfl rfl (hcas.trans (if_pos heq)) hkeep, fun hne => does_doneF h answered_idle rfl rfl (hcas.trans (if_neg hne)) hkeep⟩

end Sys2Proof.Machine
end

section
/-! SUPPORT. The task queues: LQTAKE and LCOMPL (R317, R319, Table 8.13). -/
namespace Sys2Proof.Machine

variable {s s1 : State} {a : Actor} {tk : Nat} {w h : Word} {e : QEntry} {t : Ticket} {b : Bytes}

/-! LQTAKE. -/

/-- The handle of a command that a task takes (Table 8.15). -/
def takeHandle (s : State) (e : QEntry) : Word := BitVec.ofNat 32 (e.ticket * 65536 + (takeFree 15 s).1.toNat * 2 + 1)

/-- A queue without the command that a task takes. -/
def leaveQueue (s : State) (q : Nat) (e : QEntry) : State := setQueue s q ((queueOf s q).filter fun (y : QEntry) => decide (y.ticket ≠ e.ticket))

theorem opLqtake_misaligned (hb : (gReg (actFrame s a) (fRa w)).toNat % 32 ≠ 0) :
    opLqtake s a w = .exc s { vec := 3, addr := BitVec.ofNat 64 (gReg (actFrame s a) (fRa w)).toNat, acc := 1 } := if_pos hb

section
variable (hb : (gReg (actFrame s a) (fRa w)).toNat % 32 = 0)
include hb

theorem opLqtake_full (hn : 16 ≤ (actFrame s a).cmds.length) : opLqtake s a w = setRd s a w 2 :=
  (if_neg (not_not_intro hb)).trans (if_pos hn)

variable (hn : (actFrame s a).cmds.length < 16)
include hn

theorem opLqtake_none (ht : takeable s a (wf w 8 5) = none) : opLqtake s a w = setRd s a w 0 := by
  have hroom : ¬ 16 ≤ (actFrame s a).cmds.length := by omega
  simp only [opLqtake, gA, hb, hroom, ht, ne_eq, not_true, if_false]

theorem opLqtake_takes (ht : takeable s a (wf w 8 5) = some (e, t))
    (hw : writeVa (takeFree 15 s).2 a wrap32 (gReg (actFrame s a) (fRa w)).toNat (takeBuffer e t (takeHandle s e)) = .ok s1 ()) (hx : actFrame s1 a = actFrame s a) :
    opLqtake s a w = doneF (leaveQueue s1 (wf w 8 5) e) a
      (setG { actFrame s a with cmds := (actFrame s a).cmds ++ [(e.ticket, takeHandle s e)] } (fRd w) (takeHandle s e)) := by
  have hroom : ¬ 16 ≤ (actFrame s a).cmds.length := by omega
  unfold takeHandle at hw
  simp only [opLqtake, gA, hb, hroom, ht, ne_eq, not_true, if_false, hw, MRes.bindI]
  rw [← hx]; rfl

end

/-! LCOMPL. -/

theorem opLcompl_unheld (hf : (actFrame s a).cmds.find? (fun e => e.2 == gReg (actFrame s a) (fRa w)) = none) : opLcompl s a w = .exc s { vec := 10 } := by
  simp only [opLcompl, gA, hf]

theorem opLcompl_held (hf : (actFrame s a).cmds.find? (fun e => e.2 == gReg (actFrame s a) (fRa w)) = some (tk, h))
    (hr : readVa s a wrap32 (gReg (actFrame s a) (fRb w)).toNat 32 = .ok s1 b) (ht : ticketOf s1 tk = some t) (hx : actFrame s1 a = actFrame s a) :
    opLcompl s a w = doneF (setTicket s1 tk { t with result := some (imageCompl t b) }) a
      { actFrame s a with cmds := (actFrame s a).cmds.filter fun e => e.2 != gReg (actFrame s a) (fRa w) } := by
  simp only [opLcompl, gA, gB, hf, hr, MRes.bindI, ht]
  rw [← hx]; rfl

/-- The completion's STATUS is the image's, where that is listed (R319). -/
theorem imageCompl_status (t : Ticket) (b : Bytes) : (imageCompl t b).status = if listedStatus (byteAt b 24) then byteAt b 24 else 0x60 := rfl

/-- Settles O46: what LQTAKE does by whether the frame holds 16 commands and whether the queue has one for it, LCOMPL by whether the handle is held. -/
theorem taskQueueCommands : Obligations.TaskQueueCommands := by
  unfold Obligations.TaskQueueCommands
  refine ⟨?take, ?misaligned, ?complete, ?image⟩
  case take =>
    intro s s1 c f w e t v go x a q b g h s2 hv hready hb
    refine ⟨fun hn => ?full, fun hn ht => ?empty, fun hn ht hw hx => ?takes⟩
    case full => exact does_setRd hready hv rfl rfl rfl (opLqtake_full (a := a) hb hn)
    case empty => exact does_setRd hready hv rfl rfl rfl (opLqtake_none (a := a) hb hn ht)
    case takes =>
      have hkeep : RunsOn x { x with cmds := x.cmds ++ [(e.ticket, h)] } := ⟨rfl, rfl, rfl⟩
      exact does_doneF hready hv rfl rfl (opLqtake_takes (a := a) hb hn ht hw hx) (hkeep.setG _ _)
  case misaligned => exact fun s c f w hready hb => traps_of_plain_exc hready rfl (by decide) rfl (opLqtake_misaligned hb) rfl
  case complete =>
    intro s s1 c f tk w h b t v go x a hh hv
    subst hh
    refine ⟨fun hready hf hr ht hx => ?held, fun hready hf => ?unheld⟩
    case held => exact does_doneF hready hv rfl rfl (opLcompl_held (a := a) hf hr ht hx) ⟨rfl, rfl, rfl⟩
    case unheld => exact traps_of_plain_exc hready rfl (by decide) rfl (opLcompl_unheld hf) rfl
  case image =>
    intro t b r
    exact ⟨rfl, rfl, rfl, rfl, fun hl => (imageCompl_status t b).trans (if_pos hl), fun hl => (imageCompl_status t b).trans (if_neg (ne_true_of_eq_false hl))⟩

end Sys2Proof.Machine
end

section
/-! SUPPORT. An instruction that waits (R363, R368): its frame keeps its place, whether or not its core runs another frame meanwhile. -/
namespace Sys2Proof.Machine

variable {s t u : State} {c f : Nat} {i : Instr} {o : LOp} {w : Word} {v : Wait}

/-- From `s` to `t` core `c` has changed its frames, which of them runs and its counters alone; frame `f` stands as `x`, in whatever state, and is not READY.
The core lists a frame. -/
structure Parked (s t : State) (c f : Nat) (x : Frame) : Prop where
  frame : frameOf t c f = { x with state := (frameOf t c f).state }
  unready : (frameOf t c f).state ≠ .ready
  core : coreOf t c = { coreOf s c with frames := (coreOf t c).frames, running := (coreOf t c).running, counts := (coreOf t c).counts }
  rest : t = { s with cores := { s.cores with cores := t.cores.cores } }
  listed : (coreOf t c).frames ≠ []

/-- What keeps frame `f` and all but the frames, the counters and which frame runs keeps the frame parked. -/
theorem Parked.later {x : Frame} (h : Parked s t c f x) (hf : frameOf u c f = frameOf t c f)
    (hc : coreOf u c = { coreOf t c with frames := (coreOf u c).frames, running := (coreOf u c).running, counts := (coreOf u c).counts })
    (hr : u = { t with cores := { t.cores with cores := u.cores.cores } }) (hl : (coreOf u c).frames ≠ []) : Parked s u c f x where
  frame := by rw [hf]; exact h.frame
  unready := by rw [hf]; exact h.unready
  core := by rw [hc, h.core]
  rest := by rw [hr, h.rest]
  listed := hl

theorem parked_setFrame {x : Frame} (hx : x ≠ {}) (hready : x.state ≠ .ready) : Parked s (setFrame s c f x) c f x := by
  have hsame := frameOf_setFrame_same s c f hx
  have hcore := coreOf_setFrame_same s c f hx
  exact ⟨by rw [hsame], by rw [hsame]; exact hready, by rw [hcore], rfl, by rw [hcore]; exact tset_ne_nil _ f hx⟩

theorem Parked.setRunning {x : Frame} (h : Parked s t c f x) (r : Option Nat) : Parked s (setRunning t c r) c f x := by
  have hcore : coreOf (Machine.setRunning t c r) c = { coreOf t c with running := r } :=
    coreOf_setCore_same t c (x := { coreOf t c with running := r }) (core_ne_default h.listed)
  exact h.later (by rw [frameOf, hcore, frameOf]) (by rw [hcore]) rfl (by rw [hcore]; exact h.listed)

theorem Parked.spend {x : Frame} (h : Parked s t c f x) (k n : Nat) : Parked s (spend t c k n) c f x := by
  obtain ⟨hspend, hsame⟩ := coreOnly_spend f k n h.listed
  exact h.later hsame (by rw [hspend.core]) hspend.rest hspend.listed

/-- Another frame is written. -/
theorem Parked.setOther {x y : Frame} {g : Nat} (h : Parked s t c f x) (hg : g ≠ f) (hy : y ≠ {}) : Parked s (setFrame t c g y) c f x := by
  have hcore := coreOf_setFrame_same t c g hy
  exact h.later (frameOf_setFrame_other t c hy hg.symm) (by rw [hcore]) rfl (by rw [hcore]; exact tset_ne_nil _ g hy)

/-- The frame that a core picks next is READY, and so is not the one that is parked. -/
theorem Parked.pickAfter {x : Frame} (h : Parked s t c f x) (k : Nat) : Parked s (pickAfter t c k) c f x := by
  unfold Machine.pickAfter
  split
  · exact h
  · next g hg =>
    have hready : (frameOf t c g).state = .ready :=
      eq_of_beq (List.find?_some (p := fun j => (frameOf t c j).state == .ready) hg)
    have hne : g ≠ f := by rintro rfl; exact h.unready hready
    exact (h.setOther hne (frame_ne_default (x := { frameOf t c g with state := .running }) rfl)).setRunning (some g)

/-- A frame that is stalled by its wait, with no long operation in flight and none to repeat, is parked where it waits. -/
theorem parked_stallSwitch (hrun : (frameOf s c f).state = .running) (hl : (frameOf s c f).lop = none) (hr : (frameOf s c f).rep = none) :
    Parked s (stallSwitch s c f) c f (frameOf s c f) := by
  unfold stallSwitch
  split
  · have hmem : hasMemLop (frameOf s c f) = false := by rw [hasMemLop, hl]
    rw [hmem, switchOut_eq hl hr]
    have hleft : Parked s (setFrame s c f { frameOf s c f with state := .stalled }) c f { frameOf s c f with state := .stalled } :=
      parked_setFrame (frame_ne_of_state FrameState.noConfusion) FrameState.noConfusion
    have hpicked := ((hleft.setRunning none).spend csOther 1).pickAfter f
    exact ⟨hpicked.frame, hpicked.unready, hpicked.core, hpicked.rest, hpicked.listed⟩
  · exact ⟨rfl, by rw [hrun]; exact FrameState.noConfusion, rfl, rfl, frames_of_running hrun⟩

/-- A running frame that waits for no line is parked as it was, but for what it waits for. -/
theorem parked_waitFrame (hrun : (frameOf s c f).state = .running) (hl : (frameOf s c f).lop = none) (hr : (frameOf s c f).rep = none) (hv : noteMiss s c f v = s) :
    Parked s (waitFrame s c f v) c f { frameOf s c f with wait := v } := by
  have hne : ({ frameOf s c f with wait := v } : Frame) ≠ {} := frame_ne_default hrun
  have hsame := frameOf_setFrame_same s c f hne
  have hcore := coreOf_setFrame_same s c f hne
  unfold waitFrame
  rw [hv]
  have hstall := parked_stallSwitch (s := setFrame s c f { frameOf s c f with wait := v }) (c := c) (f := f) (by rw [hsame]; exact hrun) (by rw [hsame]; exact hl)
    (by rw [hsame]; exact hr)
  rw [hsame] at hstall
  exact ⟨hstall.frame, hstall.unready, by rw [hstall.core, hcore], by rw [hstall.rest]; rfl, hstall.listed⟩

/-- An instruction whose operation has it wait, in a state that keeps its frame. -/
theorem exec_waits (h : Ready s c f o w) (ho : isPlainOp o = true) (hi : exec i s = .next (issue s c o)) (ht : frameOf t c f = frameOf s c f)
    (hr : runOp o s (taskActor s c f false) w 0 = .wait t v) (hv : noteMiss t c f v = t) :
    ∃ s', exec i s = .next s' ∧ Parked t s' c f { frameOf s c f with wait := v } := by
  obtain ⟨hlop, -, -, -⟩ := h.calm
  refine ⟨_, exec_plain h answered_idle ho hi, ?_⟩
  have hpark := parked_waitFrame (v := v) (ht ▸ h.runs.1) (ht ▸ hlop) (ht ▸ h.rep) hv
  rw [hr]
  rwa [ht] at hpark

section
variable {x : Frame} (h : Parked s t c f x)
include h

theorem Parked.wait : (frameOf t c f).wait = x.wait := by rw [h.frame]
theorem Parked.pc : (frameOf t c f).pc = x.pc := by rw [h.frame]
theorem Parked.g : (frameOf t c f).g = x.g := by rw [h.frame]
theorem Parked.slots : (coreOf t c).slots = (coreOf s c).slots := by rw [h.core]
theorem Parked.slotOf (n : Nat) : slotOf t c n = slotOf s c n := congrArg (tget · n) h.slots
theorem Parked.portWait : (coreOf t c).portWait = (coreOf s c).portWait := by rw [h.core]

end

end Sys2Proof.Machine
end

section
/-! SUPPORT. The posting port: what PPOST and PPOSTL make of a block (R320, R323). -/
namespace Sys2Proof.Machine

variable {s s1 s2 s3 : State} {a : Actor} {c f n : Nat} {i : Instr} {o : LOp} {w : Word} {d desc ext : Bytes} {ok locked : Bool} {p : PortSlot} {cmd : Cmd}
  {parent : Option Nat} {area : List Nat} {code : Byte}

/-! A posting takes a slot. -/

@[simp] theorem masterWrite_cores (s : State) (k : Nat) (b : Bytes) : (masterWrite s k b).cores = s.cores := by
  unfold masterWrite grantBits; split <;> rfl

@[simp] theorem writeAddrs_cores (s : State) (l : List Nat) (b : Bytes) : (writeAddrs s l b).cores = s.cores := by
  unfold writeAddrs
  induction l.zip b generalizing s with
  | nil => rfl
  | cons e r ih => rw [List.foldl_cons, ih, masterWrite_cores]

theorem slotOf_of_cores {t : State} (h : t.cores = s.cores) (c n : Nat) : slotOf t c n = slotOf s c n := by simp only [slotOf, coreOf, h]

/-- The handle that a posting gets as it takes slot `n` (Table 8.15). -/
def seatHandle (s : State) (n : Nat) : Word := portHandle (takeFree 8 s).1.toNat n

/-- A posting that the port accepts waits in its slot. -/
theorem seatPosting_accepted (hp : p.refused = none) :
    slotOf (seatPosting s c n p) c n = some { p with handle := seatHandle s n } ∧ frameOf (seatPosting s c n p) c f = frameOf s c f := by
  unfold seatPosting
  split
  · next code hcode => rw [hp] at hcode; cases hcode
  · exact setSlotOf_leaves n _

/-- A posting that the port refuses is done in its slot at once. -/
theorem seatPosting_refused (hp : p.refused = some code) :
    slotOf (seatPosting s c n p) c n = some { p with handle := seatHandle s n, state := .done, status := code } ∧ frameOf (seatPosting s c n p) c f = frameOf s c f := by
  unfold seatPosting
  split
  · next code' hcode =>
    obtain rfl : code' = code := Option.some.inj (hcode.symm.trans hp)
    have hframe : ∀ l b, frameOf (writeAddrs (takeFree 8 s).2 l b) c f = frameOf s c f := fun l b => frameOf_of_cores (writeAddrs_cores ..) c f
    obtain ⟨hslot, hkeep⟩ := setSlotOf_leaves (s := writeAddrs (takeFree 8 s).2 p.area (portEntry (plainCompl code' (cHostTag p.cmd) false))) (c := c) (f := f) n
      { p with handle := seatHandle s n, state := .done, status := code' }
    exact ⟨(slotOf_of_cores (pulseSrc_cores ..) c n).trans hslot, (frameOf_of_cores (pulseSrc_cores ..) c f).trans (hkeep.trans (hframe ..))⟩
  · next hnone => rw [hp] at hnone; cases hnone

/-! A block becomes a posting (R320). -/

/-- The command of a port block that has been read, whose parent is the ladle-class command `parent`. -/
def portCmd (s : State) (a : Actor) (desc ext : Bytes) (parent : Option Nat) (locked : Bool) : Cmd :=
  { desc := desc, ext := ext, tenant := a.key, trayNo := (parent.bind (ticketOf s)).bind (·.cmd.trayNo), traySeq := ((parent.bind (ticketOf s)).map (·.cmd.traySeq)).getD 0,
    inner := locked, supervisor := a.sup, verifyKey := if cOp { desc := desc } = 0x18 then ((keyOf s a.key).cur.map (·.key)) else none }

/-- The posting of a command that has no response, as its task's frame stands. -/
def portPosting (s : State) (a : Actor) (cmd : Cmd) (parent : Option Nat) (area : List Nat) : PortSlot :=
  { frame := a.f, epoch := (actFrame s a).epoch, cmd := cmd, parent := parent, area := area, locked := cmd.inner, order := s.cores.posts,
    refused := portSieve s cmd (locksOf s a.c a.f) }

/-- The state in which a posting has been numbered. -/
def postCounted (s : State) : State := { s with cores := { s.cores with posts := s.cores.posts + 1 } }

/-- The state in which a posting waits for a slot. -/
def portQueued (s : State) (c : Nat) (p : PortSlot) : State := setCore (postCounted s) c { coreOf s c with portWait := (coreOf s c).portWait ++ [p] }

/-- How a posting that has no response is issued. -/
theorem portIssue_eq (s : State) (a : Actor) (w : Word) (cmd : Cmd) (parent : Option Nat) (area : List Nat) :
    portIssue s a w cmd parent area [] = match freeSlot s a.c with
      | none => .wait (portQueued s a.c (portPosting s a cmd parent area)) (.grant w 32)
      | some n =>
        if (portSieve s cmd (locksOf s a.c a.f)).isSome then setRd (seatPosting (postCounted s) a.c n (portPosting s a cmd parent area)) a w
          (((slotOf (seatPosting (postCounted s) a.c n (portPosting s a cmd parent area)) a.c n).map (·.handle)).getD 0)
        else .wait (seatPosting (postCounted s) a.c n (portPosting s a cmd parent area)) (.grant w n) := rfl

theorem portIssue_accepted (hn : freeSlot s a.c = some n) (hs : portSieve s cmd (locksOf s a.c a.f) = none) :
    portIssue s a w cmd parent area [] = .wait (seatPosting (postCounted s) a.c n (portPosting s a cmd parent area)) (.grant w n) := by
  rw [portIssue_eq, hn, hs]; rfl

theorem portIssue_refused (hn : freeSlot s a.c = some n) (hs : portSieve s cmd (locksOf s a.c a.f) = some code) :
    portIssue s a w cmd parent area [] = setRd (seatPosting (postCounted s) a.c n (portPosting s a cmd parent area)) a w (seatHandle (postCounted s) n) := by
  have hslot := (seatPosting_refused (s := postCounted s) (c := a.c) (f := a.f) (n := n) (p := portPosting s a cmd parent area) hs).1
  rw [portIssue_eq, hn, hs]
  exact congrArg (fun y => setRd _ a w ((y.map PortSlot.handle).getD 0)) hslot

theorem portIssue_full (hn : freeSlot s a.c = none) :
    portIssue s a w cmd parent area [] = .wait (portQueued s a.c (portPosting s a cmd parent area)) (.grant w 32) := by
  rw [portIssue_eq, hn]

theorem coreOf_portQueued (h : (coreOf s c).frames ≠ []) : coreOf (portQueued s c p) c = { coreOf s c with portWait := (coreOf s c).portWait ++ [p] } :=
  coreOf_setCore_same (postCounted s) c (x := { coreOf s c with portWait := (coreOf s c).portWait ++ [p] }) (core_ne_default h)

/-! PPOST and PPOSTL. -/

theorem ppost_granted (h : (actFrame s a).wait = .filled d ok) : ppost s a w locked = setRd s a w (wordAt d 0) := by
  simp only [ppost, h]

section
variable (hw : (actFrame s a).wait = .idle)
include hw

theorem ppost_misaligned (hq : gReg (actFrame s a) (fRb w) = 0) (hb : (gReg (actFrame s a) (fRa w)).toNat % 32 ≠ 0) :
    ppost s a w locked = .exc s { vec := 3, addr := BitVec.ofNat 64 (gReg (actFrame s a) (fRa w)).toNat, acc := 0 } := by
  simp only [ppost, hw, gA, gB, hq, hb, ne_eq, not_true, false_and, if_false, not_false_eq_true, if_true]

/-- A block that is read, with a handle that the frame holds or none, is issued as it reads. -/
theorem ppost_issues (hb : (gReg (actFrame s a) (fRa w)).toNat % 32 = 0)
    (hp : parent = ((actFrame s a).cmds.find? fun e => e.2 == gReg (actFrame s a) (fRb w)).map (·.1)) (hq : gReg (actFrame s a) (fRb w) = 0 ∨ parent.isSome = true)
    (harea : portArea s { a with go := true } wrap32 (gReg (actFrame s a) (fRa w)).toNat 32 = .ok s1 area)
    (hdesc : readVa s1 { a with go := true } wrap32 (((gReg (actFrame s a) (fRa w)).toNat + 32) % wrap32) 128 = .ok s2 desc)
    (hext : readVa s2 { a with go := true } wrap32 (((gReg (actFrame s a) (fRa w)).toNat + 160) % wrap32) (128 * cNext { desc := desc }) = .ok s3 ext)
    (hdest : destOf (portCmd s3 a desc ext parent locked) = none) :
    ppost s a w locked = portIssue s3 a w (portCmd s3 a desc ext parent locked) parent area [] := by
  have hheld : ¬ (gReg (actFrame s a) (fRb w) ≠ 0 ∧ parent.isNone = true) := by
    rintro ⟨hne, hnone⟩
    rcases hq with hq | hq
    · exact hne hq
    · rw [Option.isNone_iff_eq_none.mp hnone] at hq; cases hq
  unfold portCmd at hdest
  simp only [ppost, hw, gA, gB, ← hp, hheld, hb, ne_eq, not_true, if_false, harea, hdesc, hext, MRes.bindI, hdest]
  rfl

end

/-- The commands of the port's postings, with what their words name and whether they post under locks. -/
def portPosts (c : Nat) : List (Instr × LOp × Bool) := [(.ppost c, .ppost, false), (.ppostl c, .ppostl, true)]

theorem portPosts_run (h : (i, o, locked) ∈ portPosts c) : (∀ s, exec i s = .next (issue s c o)) ∧ isPlainOp o = true ∧ ¬ (o = .svc ∨ o = .brk) ∧
    ∀ s a w, runOp o s a w 0 = ppost s a w locked := by
  simp only [portPosts, List.mem_cons, Prod.mk.injEq, List.not_mem_nil, or_false] at h
  rcases h with ⟨rfl, rfl, rfl⟩ | ⟨rfl, rfl, rfl⟩ <;> exact ⟨fun _ => rfl, rfl, by decide, fun _ _ _ => rfl⟩

section
variable (hi : (i, o, locked) ∈ portPosts c) (h : Ready s c f o w) (hx : frameOf s3 c f = frameOf s c f)
  (hr : ppost s (taskActor s c f false) w locked = portIssue s3 (taskActor s c f false) w cmd parent area [])
include hi h hx hr

/-- A posting that passes the port's checks waits in its slot for its ticket. -/
theorem exec_ppost_accepted (hn : freeSlot s3 c = some n) (hs : portSieve s3 cmd (locksOf s3 c f) = none) :
    ∃ s', exec i s = .next s' ∧ (frameOf s' c f).wait = .grant w n ∧ (frameOf s' c f).g = (frameOf s c f).g ∧
      slotOf s' c n = some { portPosting s3 (taskActor s c f false) cmd parent area with handle := seatHandle (postCounted s3) n } := by
  obtain ⟨hexec, hplain, -, hop⟩ := portPosts_run hi
  obtain ⟨hslot, hframe⟩ := seatPosting_accepted (s := postCounted s3) (c := c) (f := f) (n := n) (p := portPosting s3 (taskActor s c f false) cmd parent area) hs
  obtain ⟨s', hs', hpark⟩ := exec_waits h hplain (hexec s) (hframe.trans hx) ((hop ..).trans (hr.trans (portIssue_accepted hn hs))) rfl
  exact ⟨s', hs', hpark.wait, hpark.g, (hpark.slotOf n).trans hslot⟩

/-- A posting that the port refuses is done with its code, and its handle is in rd. -/
theorem exec_ppost_refused (hn : freeSlot s3 c = some n) (hs : portSieve s3 cmd (locksOf s3 c f) = some code) :
    ∃ s', exec i s = .next s' ∧ (frameOf s' c f).pc = (frameOf s c f).pc + 4 ∧ (frameOf s' c f).g = (setG (frameOf s c f) (fRd w) (seatHandle (postCounted s3) n)).g ∧
      slotOf s' c n = some { portPosting s3 (taskActor s c f false) cmd parent area with handle := seatHandle (postCounted s3) n, state := .done, status := code } := by
  obtain ⟨hexec, hplain, -, hop⟩ := portPosts_run hi
  obtain ⟨hslot, hframe⟩ := seatPosting_refused (s := postCounted s3) (c := c) (f := f) (n := n) (p := portPosting s3 (taskActor s c f false) cmd parent area) hs
  obtain ⟨s', hs', hend⟩ := does_setRd h answered_idle hplain (hexec s) (hframe.trans hx) ((hop ..).trans (hr.trans (portIssue_refused hn hs)))
  have hslots : slotOf s' c n = slotOf (seatPosting (postCounted s3) c n (portPosting s3 (taskActor s c f false) cmd parent area)) c n := by
    rw [slotOf, hend.core, slotOf]
  have hpc := congrArg Frame.pc hend.frame
  have hg := congrArg Frame.g hend.frame
  exact ⟨s', hs', hpc, hg, hslots.trans hslot⟩

/-- With no slot free, a posting waits for one behind those that wait. -/
theorem exec_ppost_queued (hn : freeSlot s3 c = none) :
    ∃ s', exec i s = .next s' ∧ (frameOf s' c f).wait = .grant w 32 ∧ (coreOf s' c).slots = (coreOf s3 c).slots ∧
      (coreOf s' c).portWait = (coreOf s3 c).portWait ++ [portPosting s3 (taskActor s c f false) cmd parent area] := by
  obtain ⟨hexec, hplain, -, hop⟩ := portPosts_run hi
  have hlisted : (coreOf s3 c).frames ≠ [] := frames_of_running (hx ▸ h.runs.1)
  have hcore := coreOf_portQueued (p := portPosting s3 (taskActor s c f false) cmd parent area) hlisted
  have hframe : frameOf (portQueued s3 c (portPosting s3 (taskActor s c f false) cmd parent area)) c f = frameOf s c f := by rw [frameOf, hcore]; exact hx
  obtain ⟨s', hs', hpark⟩ := exec_waits h hplain (hexec s) hframe ((hop ..).trans (hr.trans (portIssue_full hn))) rfl
  exact ⟨s', hs', hpark.wait, by rw [hpark.slots, hcore], by rw [hpark.portWait, hcore]⟩

end

end Sys2Proof.Machine
end

section
/-! SUPPORT. The posting port: PWAIT and PTEST (R321), and what each instruction of the port leaves. -/
namespace Sys2Proof.Machine

variable {s : State} {a : Actor} {c f n : Nat} {i : Instr} {o : LOp} {w h : Word} {d : Bytes} {ok : Bool} {y : PortSlot}

/-! Handles (Table 8.15). -/

theorem slotNamed_eq_some (s : State) (a : Actor) (h : Word) (n : Nat) (y : PortSlot) : slotNamed s a h = some (n, y) ↔
    n = bits h.toNat 4 0 ∧ slotOf s a.c n = some y ∧ y.handle = h ∧ y.frame = a.f ∧ y.epoch = (actFrame s a).epoch := by
  unfold slotNamed
  dsimp only
  constructor
  · intro hnamed
    split at hnamed
    · next x hx =>
      split at hnamed
      · next hown =>
        obtain ⟨rfl, rfl⟩ := Prod.mk.inj (Option.some.inj hnamed)
        exact ⟨rfl, hx, hown⟩
      · cases hnamed
    · cases hnamed
  · rintro ⟨rfl, hslot, hown⟩
    rw [hslot]
    exact if_pos hown

/-! PWAIT and PTEST. -/

/-- The commands that ask for a posting's STATUS, with what their words name. -/
def portAsks (c : Nat) : List (Instr × LOp) := [(.pwait c, .pwait), (.ptest c, .ptest)]

theorem portAsks_run (hi : (i, o) ∈ portAsks c) : (∀ s, exec i s = .next (issue s c o)) ∧ isPlainOp o = true ∧ ¬ (o = .svc ∨ o = .brk) := by
  simp only [portAsks, List.mem_cons, Prod.mk.injEq, List.not_mem_nil, or_false] at hi
  rcases hi with ⟨rfl, rfl⟩ | ⟨rfl, rfl⟩ <;> exact ⟨fun _ => rfl, rfl, by decide⟩

theorem opPwait_ended (hw : (actFrame s a).wait = .filled d ok) : opPwait s a w = setRd s a w (wordAt d 0) := by simp only [opPwait, hw]

/-- Either gives the STATUS of a posting that is done, and frees its slot. -/
theorem runOp_ask_done (hi : (i, o) ∈ portAsks c) (hw : (actFrame s a).wait = .idle) (hn : slotNamed s a (gReg (actFrame s a) (fRa w)) = some (n, y)) (hy : y.state = .done) :
    runOp o s a w 0 = setRd (freeSlotOf s a.c n) a w (y.status.setWidth 32) := by
  simp only [portAsks, List.mem_cons, Prod.mk.injEq, List.not_mem_nil, or_false] at hi
  rcases hi with ⟨-, rfl⟩ | ⟨-, rfl⟩
  · simp only [runOp, opPwait, hw, gA, hn, hy, if_true]
  · simp only [runOp, opPtest, gA, hn, hy, if_true]

theorem runOp_ask_unheld (hi : (i, o) ∈ portAsks c) (hw : (actFrame s a).wait = .idle) (hn : slotNamed s a (gReg (actFrame s a) (fRa w)) = none) :
    runOp o s a w 0 = .exc s { vec := 10 } := by
  simp only [portAsks, List.mem_cons, Prod.mk.injEq, List.not_mem_nil, or_false] at hi
  rcases hi with ⟨-, rfl⟩ | ⟨-, rfl⟩
  · simp only [runOp, opPwait, hw, gA, hn]
  · simp only [runOp, opPtest, gA, hn]

theorem opPwait_waits (hw : (actFrame s a).wait = .idle) (hn : slotNamed s a (gReg (actFrame s a) (fRa w)) = some (n, y)) (hy : y.state ≠ .done) :
    opPwait s a w = .wait s (.port w n) := by
  simp only [opPwait, hw, gA, hn, hy, if_false]

theorem opPtest_runs (hn : slotNamed s a (gReg (actFrame s a) (fRa w)) = some (n, y)) (hy : y.state ≠ .done) : opPtest s a w = setRd s a w 0xFFFFFFFF#32 := by
  simp only [opPtest, gA, hn, hy, if_false]

/-- A core whose slot `n` has been taken out. -/
def slotDropped (s : State) (c n : Nat) : State := setCore s c { coreOf s c with slots := tdel (coreOf s c).slots n }

theorem freeSlotOf_eq (s : State) (c n : Nat) : freeSlotOf s c n = seatWaiters c (coreOf (slotDropped s c n) c).portWait (slotDropped s c n) := rfl

theorem coreOf_slotDropped (hframes : (coreOf s c).frames ≠ []) : coreOf (slotDropped s c n) c = { coreOf s c with slots := tdel (coreOf s c).slots n } :=
  coreOf_setCore_same s c (core_ne_default (k := { coreOf s c with slots := tdel (coreOf s c).slots n }) hframes)

/-- With no posting that waits for a slot, a slot that is freed is free. -/
theorem slotOf_freeSlotOf (hframes : (coreOf s c).frames ≠ []) (ht : twf (coreOf s c).slots = true) (hw : (coreOf s c).portWait = []) : slotOf (freeSlotOf s c n) c n = none := by
  have hnone : (coreOf (slotDropped s c n) c).portWait = [] := by rw [coreOf_slotDropped hframes]; exact hw
  rw [freeSlotOf_eq, hnone, seatWaiters, slotOf, coreOf_slotDropped hframes]
  exact (tget_tdel _ n n ht).trans (if_pos rfl)

/-- Settles O45: a block by what the port makes of it (`exec_ppost_accepted`, `exec_ppost_refused`, `exec_ppost_queued`), PWAIT and PTEST by the slot that the handle names. -/
theorem portPostings : Obligations.PortPostings := by
  unfold Obligations.PortPostings
  refine ⟨?posts, ?asks⟩
  case posts =>
    intro s s1 s2 s3 c f n w d ok locked i o area desc ext parent x a b q tk cmd hi
    obtain ⟨hexec, hplain, hcall, hop⟩ := portPosts_run hi
    refine ⟨fun h => ?granted, fun h hb hq => ?misaligned, fun h hb hp hq harea hdesc hext hdest hn hx => ⟨fun hs => ?accepted, fun code hs => ?refused⟩,
      fun h hb hp hq harea hdesc hext hdest hn hx => ?queued⟩
    case granted => exact does_setRd h (answered_filled d ok) hplain (hexec s) rfl ((hop ..).trans (ppost_granted h.runs.2))
    case misaligned => exact traps_of_plain_exc h hplain hcall (hexec s) ((hop ..).trans (ppost_misaligned h.runs.2 hq hb)) rfl
    case accepted =>
      have hr := ppost_issues (a := taskActor s c f false) h.runs.2 hb hp hq harea hdesc hext hdest
      obtain ⟨s', hs', hwait, hg, hslot⟩ := exec_ppost_accepted hi h hx hr hn hs
      exact ⟨s', hs', hwait, hg, _, hslot, rfl, rfl, rfl, congrArg Frame.epoch hx, rfl, rfl, rfl⟩
    case refused =>
      have hr := ppost_issues (a := taskActor s c f false) h.runs.2 hb hp hq harea hdesc hext hdest
      obtain ⟨s', hs', hpc, hg, hslot⟩ := exec_ppost_refused hi h hx hr hn hs
      exact ⟨s', _, hs', hslot, rfl, rfl, rfl, hpc, hg⟩
    case queued =>
      have hr := ppost_issues (a := taskActor s c f false) h.runs.2 hb hp hq harea hdesc hext hdest
      obtain ⟨s', hs', hwait, hslots, hqueue⟩ := exec_ppost_queued hi h hx hr hn
      exact ⟨s', _, hs', hwait, hqueue, rfl, rfl, congrArg Frame.epoch hx, rfl, rfl, hslots⟩
  case asks =>
    intro s c f n w y d ok i o x a h t hi
    obtain ⟨hexec, hplain, hcall⟩ := portAsks_run hi
    refine ⟨slotNamed_eq_some s a h n y, fun hr hn hy hx => ⟨fun ht hw => ?freed, ?done⟩, fun hr hn => ?unheld, fun hr => ?ended, fun hr hn hy => ?waits,
      fun hr hn hy => ?runs⟩
    case freed => exact slotOf_freeSlotOf hr.listed ht hw
    case done => exact does_setRd hr answered_idle hplain (hexec s) hx (runOp_ask_done (a := a) hi hr.runs.2 hn hy)
    case unheld => exact traps_of_plain_exc hr hplain hcall (hexec s) (runOp_ask_unheld hi hr.runs.2 hn) rfl
    case ended => exact does_setRd hr (answered_filled d ok) rfl rfl rfl (opPwait_ended hr.runs.2)
    case waits =>
      obtain ⟨s', hs', hpark⟩ := exec_waits (i := .pwait c) hr rfl rfl rfl (opPwait_waits hr.runs.2 hn hy) rfl
      exact ⟨s', hs', hpark.wait, hpark.pc, hpark.g⟩
    case runs => exact does_setRd hr answered_idle rfl rfl rfl (opPtest_runs hn hy)

end Sys2Proof.Machine
end

section
/-! SUPPORT. Registers, pairs and memory read back (R295, R298): what a write of each leaves, and that no legal word names a pair by an odd register. -/
namespace Sys2Proof.Machine

variable {s : State} {x : Frame} {n m : Nat} {w : Word} {o : LOp} {b : Bytes}

/-! Registers (R298). -/

theorem gReg_setG (v : Word) (h : twf x.g = true) : gReg (setG x n v) m = if m = n ∧ n ≠ 0 then v else gReg x m := by
  by_cases hn : n = 0
  · subst hn; rw [setG_zero, if_neg (fun hm => hm.2 rfl)]
  · simp only [setG, if_neg hn]
    by_cases hm : m = 0
    · subst hm; rw [gReg_zero, gReg_zero, if_neg (fun h0 => hn h0.1.symm)]
    · simp only [gReg, if_neg hm, tgetD_tset x.g n m 0 v h, hn, ne_eq, not_false_eq_true, and_true]

theorem twf_setG (v : Word) (h : twf x.g = true) : twf (setG x n v).g = true := by
  unfold setG; split
  · exact h
  · exact twf_tset x.g n 0 v h

/-! Pairs (R295). -/

theorem gPair_setPair (v : Dbl) (h : twf x.g = true) (hn : n ≠ 0) : gPair (setPair x n v) n = v := by
  have hhigh : gReg (setPair x n v) (n + 1) = v.extractLsb' 32 32 := by
    rw [setPair, gReg_setG _ (twf_setG _ h), if_pos ⟨rfl, Nat.succ_ne_zero n⟩]
  have hlow : gReg (setPair x n v) n = v.extractLsb' 0 32 := by
    rw [setPair, gReg_setG _ (twf_setG _ h), if_neg (by omega), gReg_setG _ h, if_pos ⟨rfl, hn⟩]
  rw [gPair, hhigh, hlow]
  exact BitVec.extractLsb'_append_extractLsb'

/-- The pairs that an operation's word names have even numbers, if it names an operation. -/
def PairsEven (w : Word) (r : Option LOp) : Prop := ∀ o, r = some o → ∀ n ∈ pairsNamed o w, n % 2 = 0

theorem pairsEven_none : PairsEven w none := fun _ h => nomatch h

theorem pairsEven_some : PairsEven w (some o) ↔ ∀ n ∈ pairsNamed o w, n % 2 = 0 := by
  simp only [PairsEven, Option.some.injEq, forall_eq']

theorem pairsEven_named {t : Bool} : PairsEven w (named t o) ↔ (t = true → ∀ n ∈ pairsNamed o w, n % 2 = 0) := by
  cases t
  · exact ⟨fun _ h => (nomatch h), fun _ => pairsEven_none⟩
  · exact pairsEven_some.trans ⟨fun h _ => h, fun h => h rfl⟩

theorem PairsEven.ite {p : Prop} [Decidable p] {r q : Option LOp} (hr : PairsEven w r) (hq : PairsEven w q) : PairsEven w (if p then r else q) := by
  split
  · exact hr
  · exact hq

/-- MFC and MTC name a pair for the control registers of 64 bits alone, and test its register then (Table 8.10). -/
theorem even_of_controlTest {imm r : Nat} (h : ((imm != 5 && imm != 9) || evenReg r) = true) : ∀ n ∈ if imm = 5 ∨ imm = 9 then [r] else [], n % 2 = 0 := by
  rw [Bool.or_eq_true, Bool.and_eq_true, bne_iff_ne, bne_iff_ne] at h
  split
  · next hpair =>
    have heven : r % 2 = 0 := beq_iff_eq.mp (h.resolve_left fun hne => hpair.elim hne.1 hne.2)
    exact List.forall_mem_singleton.mpr heven
  · exact List.forall_mem_nil _

theorem pairsEven_decodeSys : PairsEven w (decodeSys w) := by
  unfold decodeSys; dsimp only; split
  case h_7 => split <;> simp [pairsEven_named, pairsNamed]
  case h_8 => exact pairsEven_named.mpr fun ht => even_of_controlTest (Bool.and_eq_true_iff.mp ht).2
  case h_9 => exact pairsEven_named.mpr fun ht => even_of_controlTest (Bool.and_eq_true_iff.mp ht).2
  all_goals simp [pairsEven_named, pairsEven_none, pairsNamed, evenReg]

theorem pairsEven_decodePort : PairsEven w (decodePort w) := by
  unfold decodePort; dsimp only; split
  all_goals simp [pairsEven_named, pairsEven_none, pairsNamed, evenReg]

theorem pairsEven_decodeDa : PairsEven w (decodeDa w) := by
  unfold decodeDa; dsimp only; split
  all_goals simp [pairsEven_named, pairsEven_none, pairsNamed]

theorem pairsEven_decodeDc : PairsEven w (decodeDc w) := by
  unfold decodeDc; dsimp only; split
  all_goals simp [pairsEven_named, pairsEven_none, pairsNamed, evenReg]

theorem pairsEven_decodeDl : PairsEven w (decodeDl w) := by
  unfold decodeDl; dsimp only; split
  all_goals simp +contextual [pairsEven_named, pairsEven_none, pairsNamed, evenReg]

theorem pairsEven_decodeDs : PairsEven w (decodeDs w) := by
  unfold decodeDs; dsimp only; split
  all_goals simp +contextual [pairsEven_named, pairsEven_none, pairsNamed, evenReg]

theorem pairsEven_decodeCps : PairsEven w (decodeCps w) := by
  unfold decodeCps; split
  all_goals simp [pairsEven_some, pairsEven_none, pairsNamed]

/-- The words of the accumulators' loads and stores name no pair. -/
theorem pairsEven_decodeDm : PairsEven w (match wf w 24 22 with | 0 => some .ldp | 1 => some .stp | 2 => some .addpMemory | 3 => some .subpMemory | _ => none) := by
  split
  all_goals simp [pairsEven_some, pairsEven_none, pairsNamed]

theorem even_of_mfOk {load : Bool} (h : mfOk w load = true) : ∀ n ∈ [fRa w], n % 2 = 0 := by
  simp only [mfOk, Bool.and_eq_true] at h
  obtain ⟨⟨heven, -⟩, -⟩ := h
  exact List.forall_mem_singleton.mpr (beq_iff_eq.mp heven)

theorem pairsEven_decodeFull : PairsEven w (decodeFull w) := by
  have hldf : PairsEven w (named (mfOk w true) .ldf) := pairsEven_named.mpr even_of_mfOk
  have hstf : PairsEven w (named (mfOk w false) .stf) := pairsEven_named.mpr even_of_mfOk
  have hsys : PairsEven w (decodeSys w) := pairsEven_decodeSys
  have hport : PairsEven w (decodePort w) := pairsEven_decodePort
  have hda : PairsEven w (decodeDa w) := pairsEven_decodeDa
  have hdm := pairsEven_decodeDm (w := w)
  have hdc : PairsEven w (decodeDc w) := pairsEven_decodeDc
  have hdl : PairsEven w (decodeDl w) := pairsEven_decodeDl
  have hds : PairsEven w (decodeDs w) := pairsEven_decodeDs
  have hcps : PairsEven w (decodeCps w) := pairsEven_decodeCps
  unfold decodeFull; dsimp only; repeat' with_reducible apply PairsEven.ite
  any_goals assumption
  all_goals simp [pairsEven_named, pairsEven_some, pairsEven_none, pairsNamed, evenReg]

/-- A legal word names no pair by an odd register (R295). -/
theorem even_of_pairsNamed (h : decode w = some o) : ∀ n ∈ pairsNamed o w, n % 2 = 0 := by
  have hdecode : PairsEven w (decode w) := PairsEven.ite (pairsEven_named.mpr fun _ => List.forall_mem_nil _) pairsEven_decodeFull
  exact hdecode o h

/-! Memory. -/

theorem length_memBytes (s : State) (p n : Nat) : (memBytes s p n).length = n := by
  induction n generalizing p with
  | zero => rfl
  | succ n ih => rw [memBytes, List.length_cons, ih]

theorem getElem_memBytes (s : State) (p n i : Nat) (h : i < (memBytes s p n).length) : (memBytes s p n)[i] = byteOf s (p + i) := by
  induction n generalizing p i with
  | zero => exact absurd h (Nat.not_lt_zero i)
  | succ n ih =>
    cases i with
    | zero => rfl
    | succ i =>
      have hstep := ih (p + 1) i (Nat.lt_of_succ_lt_succ h)
      rw [show p + 1 + i = p + (i + 1) by omega] at hstep
      exact hstep

theorem byteOf_setMemBytes_getElem (p : Nat) (h : MemWf s) {i : Nat} (hi : i < b.length) : byteOf (setMemBytes s p b) (p + i) = b[i] := by
  rw [byteOf_setMemBytes_written p h hi, byteAt, List.getElem?_eq_getElem hi, Option.getD_some]

theorem memBytes_setMemBytes (p : Nat) (h : MemWf s) : memBytes (setMemBytes s p b) p b.length = b := by
  refine List.ext_getElem (length_memBytes ..) fun i hi hb => ?_
  rw [getElem_memBytes, byteOf_setMemBytes_getElem p h hb]

/-- Settles O60: registers by `gReg_setG`, pairs by their halves, the decoder by its tests (`even_of_pairsNamed`), memory by the bytes of a write. -/
theorem registersAndMemoryReadBack : Obligations.RegistersAndMemoryReadBack := by
  unfold Obligations.RegistersAndMemoryReadBack
  refine ⟨fun x n m v h => ⟨gReg_setG v h, twf_setG v h, gReg_zero x, setG_zero x v⟩, fun x n v h hn => gPair_setPair v h hn,
    fun x n => ⟨BitVec.setWidth_append_eq_right, BitVec.extractLsb'_append_eq_left, BitVec.setWidth_append_eq_right⟩, fun x v => rfl,
    fun w o h => even_of_pairsNamed h, fun s a b h => ⟨setMemBytes_canonical a b h, fun i hi => byteOf_setMemBytes_getElem a h hi,
      fun k hk => byteOf_setMemBytes_outside a h hk, memBytes_setMemBytes a h⟩⟩

end Sys2Proof.Machine
end

section
/-! SUPPORT. A lock from the spill area (R172) that passes to its head waiter. -/
namespace Sys2Proof.Machine

/-- Frame 0 of core 0 holds the lock of key 5, whose entry came from the spill area (R172); frame 1 waits for it. -/
def spilledLock : Lock := { owner := frameOwner 0 0, waiters := [{ owner := frameOwner 0 1 }], spill := true }

def spilledLockHeld : State := { locks := [(5, spilledLock)] }

/-- The lock passes with its entry where it is. -/
theorem releaseLock_spilledLockHeld : (releaseLock spilledLockHeld (frameOwner 0 0) 0 5).locks = [(5, { owner := frameOwner 0 1, spill := true })] := by decide

/-- Refutes O47, its third conjunct: it claims that a released lock whose waiters are `v` and `r` becomes one of `v`'s with the waiters `r` and every other
field at its default. But the entry of a lock that found its slice full stays in the spill area as the lock passes on (`passLock`, R172), which its field
`spill` says: in `spilledLockHeld` frame 1's lock is a spilled one. -/
theorem not_accountLocksOfTasks : ¬ Obligations.AccountLocksOfTasks := by
  unfold Obligations.AccountLocksOfTasks
  rintro ⟨-, -, hpass⟩
  obtain ⟨-, hwaiter, -⟩ := hpass spilledLockHeld 0 0 5 spilledLock rfl rfl rfl
  have hlocks := hwaiter _ _ rfl
  rw [show spilledLock.epoch = 0 from rfl, releaseLock_spilledLockHeld] at hlocks
  exact absurd hlocks (by decide)

end Sys2Proof.Machine
end

section
/-! SUPPORT. A request of the seal engine (R145, R326) that one unit has begun, and a result that names another. -/
namespace Sys2Proof.Machine

/-- A SHA-256 request of frame 0 of core 0, which unit 0 has begun. -/
def hashJob : SealJob := { func := 8, outLen := 32, unit := some 0 }

/-- Frame 0 of core 0 waits for that request, with no output area; every unit is in service. -/
def hashAsked : State := { cores := { cores := [(0, { running := some 0, frames := [(0, { state := .running, wait := .seal 0 [] 0 })] })], jobs := [hashJob] } }

/-- Unit 1 has not begun the request, so that no result of it comes from there. -/
theorem exec_sealServiceResult_hashAsked : exec (.sealServiceResult 0 1) hashAsked = .next hashAsked := rfl

/-- Refutes O48, its third conjunct: it claims that the result of a request comes from any unit that may serve one. But a unit gives the result of the request
that it has begun, as R145 has it (log entry 98), and of no other: in `hashAsked` unit 0 has begun the request, and a result from unit 1, which may serve too,
leaves it waiting. -/
theorem not_sealServicesAndCompanion : ¬ Obligations.SealServicesAndCompanion := by
  unfold Obligations.SealServicesAndCompanion
  rintro ⟨-, -, hresult, -⟩
  obtain ⟨s', hx, hjobs, -⟩ := hresult hashAsked 0 1 hashJob 0 [] rfl (by decide) (by decide) rfl rfl rfl rfl List.nodup_nil (List.forall_mem_nil _)
  have hs' : s' = hashAsked := (Host.Outcome.next.inj (exec_sealServiceResult_hashAsked.symm.trans hx)).symm
  rw [hs'] at hjobs
  exact absurd hjobs (by decide)

end Sys2Proof.Machine
end

section
/-! SUPPORT. How an instruction ends that raises behind its memory accesses (R306, R377), and a round of one that goes on at its own word (R349). -/
namespace Sys2Proof.Machine

variable {s t : State} {c f : Nat} {i : Instr} {o : LOp} {w : Word} {x y : Frame} {e : Exc}

theorem RunsOn.setD (h : RunsOn x y) (k : Nat) (v : Acc) : RunsOn x (setD y k v) := ⟨h.state, h.epoch, h.pend⟩

/-- An operation that raises once its accesses have left the state `t` enters its exception from there. -/
theorem exec_raises {s' : State} (h : Ready s c f o w) (ho : isPlainOp o = true) (hcall : ¬ (o = .svc ∨ o = .brk)) (hi : exec i s = .next (issue s c o))
    (hr : runOp o s (taskActor s c f false) w 0 = .exc t e) (he : e.entry = false) (ht : frameOf t c f = frameOf s c f)
    (hs' : raiseSync (countFault t c (frameOf s c f) o w e) c f e (frameOf s c f).pc (frameOf s c f).pc = some s') : exec i s = .next s' := by
  have hlisted : (coreOf t c).frames ≠ [] := frames_of_running (ht.symm ▸ h.runs.1)
  rw [exec_plain h answered_idle ho hi, hr]
  simp only [conclude, raiseAt, frameOf_countFault _ hlisted, ht, he, Option.some.injEq, hcall, if_false, Bool.false_eq_true, false_and, hs', Option.getD_some]

/-- An operation whose round is not its last stays at its word, its frame written as `y`. -/
theorem does_again (h : Ready s c f o w) (ho : isPlainOp o = true) (hi : exec i s = .next (issue s c o))
    (hr : runOp o s (taskActor s c f false) w 0 = .again (setFrame t c f y)) (hy : RunsOn (frameOf s c f) y) : Does i s t c f y y.pc := by
  have hrun : y.state = .running := hy.state.trans h.runs.1
  have hwritten := coreOnly_setFrame t c f (frame_ne_default hrun)
  obtain ⟨hcount, hframe⟩ := coreOnly_countIssue f (frameOf s c f) o w hwritten.listed
  rw [frameOf_setFrame_same t c f (frame_ne_default hrun)] at hframe
  have hne : ({ y with wait := .idle, last := none } : Frame) ≠ {} := frame_ne_default hrun
  refine ⟨_, exec_plain h answered_idle ho hi, ?_⟩
  simp only [hr, conclude, hframe]
  exact ((hwritten.trans hcount).trans (coreOnly_setFrame _ c f hne)).endedAs (frameOf_setFrame_same _ c f hne) rfl

end Sys2Proof.Machine
end

section
/-! SUPPORT. The decimal instructions on accumulators (R330 to R333, R339, R340, R342, R343, R345). -/
namespace Sys2Proof.Machine

variable {s t : State} {a : Actor} {c f k n : Nat} {i : Instr} {o : LOp} {w : Word} {x : Frame} {v : Int} {ov dz : Bool}

theorem accOk_of_ge {p : Acc} (h : 10 ^ 63 ≤ p.val.natAbs) : accOk p = false :=
  decide_eq_false (Nat.not_le.mpr (Nat.lt_of_lt_of_le (Nat.sub_one_lt (by decide)) h))

/-! A result in a capacity (R333). -/

/-- The low `n` digits of a value, with its sign. -/
def lowDigits (n : Nat) (v : Int) : Int := if v < 0 then -((v.natAbs % 10 ^ n : Nat) : Int) else ((v.natAbs % 10 ^ n : Nat) : Int)

theorem fitDigits_fits {b : Bool} (h : v.natAbs < 10 ^ n) : fitDigits b n v = some (v, false) := if_pos h
theorem fitDigits_raises (h : 10 ^ n ≤ v.natAbs) : fitDigits true n v = none := if_neg (Nat.not_lt.mpr h)
theorem fitDigits_low (h : 10 ^ n ≤ v.natAbs) : fitDigits false n v = some (lowDigits n v, true) := if_neg (Nat.not_lt.mpr h)

theorem putResult_fits (h : v.natAbs < 10 ^ 63) : putResult t a x k v ov dz = doneF t a (setD x k { val := v, ov := ov, dz := dz }) := by
  simp only [putResult, fitDigits_fits h, Bool.or_false]

theorem putResult_low (h : 10 ^ 63 ≤ v.natAbs) (ha : pOv a.psw = false) :
    putResult t a x k v ov dz = doneF t a (setD x k { val := lowDigits 63 v, ov := true, dz := dz }) := by
  simp only [putResult, ha, fitDigits_low h, Bool.or_true]

theorem putResult_raises (h : 10 ^ 63 ≤ v.natAbs) (ha : pOv a.psw = true) : putResult t a x k v ov dz = .exc t excOverflow := by
  simp only [putResult, ha, fitDigits_raises h]

/-- What becomes of an instruction whose operation puts a result in an accumulator. -/
theorem outcomes_of_putResult (h : Ready s c f o w) (ho : isPlainOp o = true) (hcall : ¬ (o = .svc ∨ o = .brk)) (hi : exec i s = .next (issue s c o))
    (hr : runOp o s (taskActor s c f false) w 0 = putResult s (taskActor s c f false) (frameOf s c f) k v ov dz) :
    (v.natAbs < 10 ^ 63 → Does i s s c f (setD (frameOf s c f) k { val := v, ov := ov, dz := dz }) ((frameOf s c f).pc + 4)) ∧
    (10 ^ 63 ≤ v.natAbs → pOv (frameOf s c f).psw = false →
      Does i s s c f (setD (frameOf s c f) k { val := lowDigits 63 v, ov := true, dz := dz }) ((frameOf s c f).pc + 4)) ∧
    (10 ^ 63 ≤ v.natAbs → pOv (frameOf s c f).psw = true → Traps i s c f { vec := 12 }) :=
  ⟨fun hfit => does_doneF h answered_idle ho hi (hr.trans (putResult_fits hfit)) ((RunsOn.refl _).setD _ _),
    fun hbig hov => does_doneF h answered_idle ho hi (hr.trans (putResult_low hbig hov)) ((RunsOn.refl _).setD _ _),
    fun hbig hov => traps_of_plain_exc h ho hcall hi (hr.trans (putResult_raises hbig hov)) rfl⟩

/-! Operations of one and of two sources (R330, R340). -/

theorem accBin_valid {op : Int → Int → Int} (hp : accOk (dAcc (actFrame s a) (daDa w)) = true) (hq : accOk (dAcc (actFrame s a) (daDb w)) = true) :
    accBin s a w op = putResult s a (actFrame s a) (daDd w) (op (dAcc (actFrame s a) (daDa w)).val (dAcc (actFrame s a) (daDb w)).val)
      ((dAcc (actFrame s a) (daDa w)).ov || (dAcc (actFrame s a) (daDb w)).ov) ((dAcc (actFrame s a) (daDa w)).dz || (dAcc (actFrame s a) (daDb w)).dz) := by
  simp only [accBin, hp, hq, Bool.not_true, Bool.or_self, Bool.false_eq_true, if_false]

theorem accBin_invalid {op : Int → Int → Int} (h : accOk (dAcc (actFrame s a) (daDa w)) = false ∨ accOk (dAcc (actFrame s a) (daDb w)) = false) :
    accBin s a w op = .exc s excData := by
  have hbad : (!accOk (dAcc (actFrame s a) (daDa w)) || !accOk (dAcc (actFrame s a) (daDb w))) = true := by
    rcases h with h | h <;> simp [h]
  simp only [accBin, hbad, if_true]

theorem accUn_valid {op : Int → Int} (hp : accOk (dAcc (actFrame s a) (daDa w)) = true) :
    accUn s a w op = putResult s a (actFrame s a) (daDd w) (op (dAcc (actFrame s a) (daDa w)).val) (dAcc (actFrame s a) (daDa w)).ov (dAcc (actFrame s a) (daDa w)).dz := by
  simp only [accUn, hp, Bool.not_true, Bool.false_eq_true, if_false]

theorem accUn_invalid {op : Int → Int} (hp : accOk (dAcc (actFrame s a) (daDa w)) = false) : accUn s a w op = .exc s excData := by
  simp only [accUn, hp, Bool.not_false, if_true]

/-- The instructions of two sources, with what they make of them. -/
def accBinOps (c : Nat) : List (Instr × LOp × (Int → Int → Int)) := [(.addp c, .addp, fun a b => a + b), (.subp c, .subp, fun a b => a - b)]

/-- The instructions of one source, with what they make of a value `v`; SHRP and SHRPR shift by a literal or by a register (R343). -/
def accUnOps (c : Nat) (x : Frame) (w : Word) (v : Int) : List (Instr × LOp × Int) :=
  [(.movp c, .movp, v), (.negp c, .negp, -v), (.absp c, .absp, (v.natAbs : Int)), (.shrp c, .shrp, shiftRound v (sextI 7 (wf w 10 4)) (wf w 3 0)),
    (.shrpr c, .shrpr, shiftRound v (sextI 7 (bits (gReg x (wf w 10 6)).toNat 6 0)) (wf w 3 0))]

/-- The command of an instruction runs its word's operation as it issues, and it is no call. -/
def RunsPlain (i : Instr) (c : Nat) (o : LOp) : Prop := (∀ s, exec i s = .next (issue s c o)) ∧ isPlainOp o = true ∧ ¬ (o = .svc ∨ o = .brk)

theorem accBinOps_run {op : Int → Int → Int} (h : (i, o, op) ∈ accBinOps c) : RunsPlain i c o ∧ ∀ s a w, runOp o s a w 0 = accBin s a w op := by
  simp only [accBinOps, List.mem_cons, Prod.mk.injEq, List.not_mem_nil, or_false] at h
  rcases h with ⟨rfl, rfl, rfl⟩ | ⟨rfl, rfl, rfl⟩ <;> exact ⟨⟨fun _ => rfl, rfl, by decide⟩, fun _ _ _ => rfl⟩

theorem accUnOps_run (h : (i, o, v) ∈ accUnOps c (actFrame s a) w (dAcc (actFrame s a) (daDa w)).val) :
    RunsPlain i c o ∧ ∃ op : Int → Int, v = op (dAcc (actFrame s a) (daDa w)).val ∧ runOp o s a w 0 = accUn s a w op := by
  simp only [accUnOps, List.mem_cons, Prod.mk.injEq, List.not_mem_nil, or_false] at h
  rcases h with ⟨rfl, rfl, rfl⟩ | ⟨rfl, rfl, rfl⟩ | ⟨rfl, rfl, rfl⟩ | ⟨rfl, rfl, rfl⟩ | ⟨rfl, rfl, rfl⟩
  · exact ⟨⟨fun _ => rfl, rfl, by decide⟩, id, rfl, rfl⟩
  · exact ⟨⟨fun _ => rfl, rfl, by decide⟩, fun v => -v, rfl, rfl⟩
  · exact ⟨⟨fun _ => rfl, rfl, by decide⟩, fun v => (v.natAbs : Int), rfl, rfl⟩
  · exact ⟨⟨fun _ => rfl, rfl, by decide⟩, fun v => shiftRound v (sextI 7 (wf w 10 4)) (wf w 3 0), rfl, rfl⟩
  · exact ⟨⟨fun _ => rfl, rfl, by decide⟩, fun v => shiftRound v (sextI 7 (bits (gReg (actFrame s a) (wf w 10 6)).toNat 6 0)) (wf w 3 0), rfl, rfl⟩

/-! Shifts (R343). -/

/-- The magnitude of an integer, with its sign. -/
theorem natAbs_signed (v : Int) : (if v < 0 then -((v.natAbs : Nat) : Int) else (v.natAbs : Int)) = v := by
  split <;> omega

theorem shiftRound_zero (r : Nat) : shiftRound v 0 r = v := by
  simp only [shiftRound, Int.le_refl, if_true, Int.natAbs_zero, Nat.pow_zero, Nat.mul_one]
  exact natAbs_signed v

theorem shiftRound_left (r : Nat) : shiftRound v (n : Int) r = v * 10 ^ n := by
  have hpow : ((v.natAbs * 10 ^ n : Nat) : Int) = (v.natAbs : Int) * 10 ^ n := by push_cast; rfl
  simp only [shiftRound, Int.natCast_nonneg, if_true, Int.natAbs_natCast, hpow]
  split
  · rw [← Int.neg_mul, show -(v.natAbs : Int) = v by omega]
  · rw [show (v.natAbs : Int) = v by omega]

theorem shiftRound_right (r : Nat) (h : 0 < n) :
    shiftRound v (-(n : Int)) r = (if v < 0 then -1 else 1) * (((v.natAbs + r * 10 ^ (n - 1)) / 10 ^ n : Nat) : Int) := by
  have hneg : ¬ 0 ≤ -(n : Int) := by omega
  simp only [shiftRound, hneg, if_false, Int.natAbs_neg, Int.natAbs_natCast]
  split
  · exact (Int.neg_one_mul _).symm
  · exact (Int.one_mul _).symm

/-- If a decoding names SHRP or SHRPR, the word's rounding digit is a digit (R343). -/
def RoundsByDigit (w : Word) (r : Option LOp) : Prop := r = some .shrp ∨ r = some .shrpr → wf w 3 0 ≤ 9

theorem RoundsByDigit.ite {p : Prop} [Decidable p] {r q : Option LOp} (hr : RoundsByDigit w r) (hq : RoundsByDigit w q) : RoundsByDigit w (if p then r else q) := by
  split
  · exact hr
  · exact hq

theorem named_eq_some {b : Bool} {p : LOp} : named b o = some p ↔ b = true ∧ o = p := by
  cases b <;> simp [named]

theorem roundsByDigit_decodeSys : RoundsByDigit w (decodeSys w) := by
  unfold decodeSys; dsimp only; split
  case h_7 => split <;> simp [RoundsByDigit, named_eq_some]
  all_goals simp [RoundsByDigit, named_eq_some]

/-- The decoders of the ports, the conversions, the strings and the services name no shift. -/
theorem roundsByDigit_otherTables : RoundsByDigit w (decodePort w) ∧ RoundsByDigit w (decodeDc w) ∧ RoundsByDigit w (decodeDl w) ∧ RoundsByDigit w (decodeDs w) ∧
    RoundsByDigit w (decodeCps w) := by
  unfold decodePort decodeDc decodeDl decodeDs decodeCps
  dsimp only
  refine ⟨?_, ?_, ?_, ?_, ?_⟩ <;> split
  all_goals simp [RoundsByDigit, named_eq_some]

theorem roundsByDigit_decodeDa : RoundsByDigit w (decodeDa w) := by
  unfold decodeDa; dsimp only; split
  all_goals simp +contextual [RoundsByDigit, named_eq_some]

/-- The words of the accumulators' loads and stores name no shift. -/
theorem roundsByDigit_decodeDm : RoundsByDigit w (match wf w 24 22 with | 0 => some .ldp | 1 => some .stp | 2 => some .addpMemory | 3 => some .subpMemory | _ => none) := by
  split
  all_goals simp [RoundsByDigit]

theorem roundsByDigit_decodeFull : RoundsByDigit w (decodeFull w) := by
  have hsys := roundsByDigit_decodeSys (w := w)
  obtain ⟨hport, hdc, hdl, hds, hcps⟩ := roundsByDigit_otherTables (w := w)
  have hda := roundsByDigit_decodeDa (w := w)
  have hdm := roundsByDigit_decodeDm (w := w)
  unfold decodeFull; dsimp only; repeat' with_reducible apply RoundsByDigit.ite
  any_goals assumption
  all_goals simp [RoundsByDigit, named_eq_some]

/-- A legal SHRP or SHRPR rounds by a digit. -/
theorem rounding_digit (h : decode w = some .shrp ∨ decode w = some .shrpr) : wf w 3 0 ≤ 9 := by
  have hdecode : RoundsByDigit w (decode w) := RoundsByDigit.ite (by simp [RoundsByDigit, named_eq_some]) roundsByDigit_decodeFull
  exact hdecode h

/-! Comparing, testing, clearing and converting (R342, R345). -/

theorem ofNat_b2n (b : Bool) : BitVec.ofNat 32 (b2n b) = if b then (1 : Word) else 0 := by cases b <;> rfl

theorem mul_b2n (n : Nat) (b : Bool) : n * b2n b = if b then n else 0 := by
  cases b
  · exact Nat.mul_zero n
  · exact Nat.mul_one n

/-- The orderings of two numbers, from whether the first is below the second and whether it is it. -/
theorem decide_orderings (p q : Int) : (decide (p < q) || decide (p = q)) = decide (p ≤ q) ∧ (!decide (p < q)) = decide (q ≤ p) ∧
    (!decide (p = q)) = decide (p ≠ q) ∧ (decide (q ≤ p) && decide (p ≠ q)) = decide (q < p) := by
  simp only [← decide_not, ← Bool.decide_or, ← Bool.decide_and, decide_eq_decide, true_and]
  omega

theorem opCmpp_valid (hp : accOk (dAcc (actFrame s a) (daDa w)) = true) (hq : accOk (dAcc (actFrame s a) (daDb w)) = true) :
    opCmpp s a w = doneF s a (setG (actFrame s a) (wf w 10 6) (BitVec.ofNat 32 (b2n (relHolds (wf w 5 3)
      (decide ((dAcc (actFrame s a) (daDa w)).val < (dAcc (actFrame s a) (daDb w)).val)) (decide ((dAcc (actFrame s a) (daDa w)).val = (dAcc (actFrame s a) (daDb w)).val)))))) := by
  simp only [opCmpp, hp, hq, Bool.not_true, Bool.or_self, Bool.false_eq_true, if_false]

/-- The flags that TSTP reads from an accumulator (R342). -/
def testFlags (p : Acc) : Nat := (if p.val < 0 then 1 else 0) + (if p.val = 0 then 2 else 0) + (if p.ov then 4 else 0) + (if p.dz then 8 else 0)

/-- What TSTP leaves of a frame: the flags in its register, and, where the word asks for it, the accumulator's own flags cleared. -/
def tested (x : Frame) (w : Word) : Frame :=
  let y := setG x (wf w 10 6) (BitVec.ofNat 32 (testFlags (dAcc x (daDa w))))
  if bitOf w.toNat 5 then setD y (daDa w) { dAcc x (daDa w) with ov := false, dz := false } else y

theorem runsOn_tested (x : Frame) (w : Word) : RunsOn x (tested x w) := by
  unfold tested; dsimp only; split
  · exact ((RunsOn.refl x).setG _ _).setD _ _
  · exact (RunsOn.refl x).setG _ _

theorem opTstp_valid (hp : accOk (dAcc (actFrame s a) (daDa w)) = true) : opTstp s a w = doneF s a (tested (actFrame s a) w) := by
  have hflags : ∀ p : Acc, b2n (decide (p.val < 0)) + 2 * b2n (decide (p.val = 0)) + 4 * b2n p.ov + 8 * b2n p.dz = testFlags p := fun p => by
    simp only [mul_b2n, decide_eq_true_eq]
    simp only [b2n, decide_eq_true_eq, testFlags]
  simp only [opTstp, hp, Bool.not_true, Bool.false_eq_true, if_false, hflags, tested]

/-- The range of a binary doubleword (R333). -/
def inDbl (v : Int) : Bool := decide (-(2 : Int) ^ 63 ≤ v) && decide (v < (2 : Int) ^ 63)

theorem inDbl_eq_true (hlo : -(2 : Int) ^ 63 ≤ v) (hhi : v < 2 ^ 63) : inDbl v = true := by simp only [inDbl, decide_eq_true hlo, decide_eq_true hhi, Bool.and_self]

theorem inDbl_eq_false (h : v < -(2 : Int) ^ 63 ∨ 2 ^ 63 ≤ v) : inDbl v = false := by
  rw [inDbl, Bool.and_eq_false_iff, decide_eq_false_iff_not, decide_eq_false_iff_not, Int.not_le, Int.not_lt]; exact h

theorem opCvdb_fits (hp : accOk (dAcc (actFrame s a) (dcDk w)) = true) (hv : inDbl (dAcc (actFrame s a) (dcDk w)).val = true) :
    opCvdb s a w = doneF s a (setPair (actFrame s a) (dcRa w) (BitVec.ofInt 64 (dAcc (actFrame s a) (dcDk w)).val)) := by
  unfold inDbl at hv
  simp only [opCvdb, hp, hv, Bool.not_true, Bool.false_and, Bool.false_eq_true, if_true, if_false]

section
variable (hp : accOk (dAcc (actFrame s a) (dcDk w)) = true) (hv : inDbl (dAcc (actFrame s a) (dcDk w)).val = false)
include hp hv

theorem opCvdb_raises (ha : pOv a.psw = true) : opCvdb s a w = .exc s excOverflow := by
  unfold inDbl at hv
  simp only [opCvdb, hp, hv, ha, Bool.not_true, Bool.not_false, Bool.and_self, Bool.false_eq_true, if_true, if_false]

theorem opCvdb_low (ha : pOv a.psw = false) :
    opCvdb s a w = doneF s a (setD (setPair (actFrame s a) (dcRa w) (BitVec.ofInt 64 (dAcc (actFrame s a) (dcDk w)).val)) (dcDk w)
      { dAcc (actFrame s a) (dcDk w) with ov := true }) := by
  unfold inDbl at hv
  simp only [opCvdb, hp, hv, ha, Bool.not_true, Bool.not_false, Bool.and_false, Bool.false_eq_true, if_false]

end

/-- Settles O49: the results of one and of two sources by what becomes of a result (`outcomes_of_putResult`), the shifts by their sign (`shiftRound_left`, `shiftRound_right`), the rounding
digit by the decoder's tests (`rounding_digit`), the others by the frame that each leaves. -/
theorem accumulatorArithmetic : Obligations.AccumulatorArithmetic := by
  unfold Obligations.AccumulatorArithmetic
  refine ⟨?two, ?one, fun w v r => ⟨shiftRound_zero r, rounding_digit⟩, fun v n r hn => ⟨shiftRound_left r, shiftRound_right r hn⟩, ?others⟩
  case two =>
    intro s c f w i o op x p q v low hi h
    obtain ⟨⟨hexec, hplain, hcall⟩, hop⟩ := accBinOps_run hi
    refine ⟨fun hp hq => ?valid, fun hbad => ?invalid⟩
    case valid => exact outcomes_of_putResult h hplain hcall (hexec s) ((hop ..).trans (accBin_valid (accOk_of_lt hp) (accOk_of_lt hq)))
    case invalid => exact traps_of_plain_exc h hplain hcall (hexec s) ((hop ..).trans (accBin_invalid (hbad.imp accOk_of_ge accOk_of_ge))) rfl
  case one =>
    intro s c f w i o v x p hi h
    obtain ⟨⟨hexec, hplain, hcall⟩, op, rfl, hop⟩ := accUnOps_run (s := s) (a := taskActor s c f false) hi
    have hinvalid : 10 ^ 63 ≤ p.val.natAbs → Traps i s c f { vec := 11 } := fun hp =>
      traps_of_plain_exc h hplain hcall (hexec s) (hop.trans (accUn_invalid (accOk_of_ge hp))) rfl
    by_cases hp : p.val.natAbs < 10 ^ 63
    · obtain ⟨hfits, hlow, hraises⟩ := outcomes_of_putResult h hplain hcall (hexec s) (hop.trans (accUn_valid (accOk_of_lt hp)))
      exact ⟨fun _ => hfits, fun _ => hraises, fun _ => hlow, hinvalid⟩
    · exact ⟨fun h' => absurd h' hp, fun h' => absurd h' hp, fun h' => absurd h' hp, hinvalid⟩
  case others =>
    intro s c f w x p q k holds
    have hdbl : -(2 : Int) ^ 63 ≤ k.val → k.val < 2 ^ 63 → k.val.natAbs < 10 ^ 63 := by omega
    refine ⟨fun h => ?clrp, fun h hp hq => ?cmpp, fun h hp => ?tstp, fun h => ?cvbd, fun h hlo hhi => ?cvdb, fun h hk hout hov => ?cvdbRaises, fun h hk hout hov => ?cvdbLow⟩
    case clrp => exact does_doneF h answered_idle rfl rfl rfl ((RunsOn.refl x).setD _ _)
    case cmpp =>
      obtain ⟨hle, hge, hne, hgt⟩ := decide_orderings p.val q.val
      have hrel : relHolds (wf w 5 3) (decide (p.val < q.val)) (decide (p.val = q.val)) = holds := by
        simp only [relHolds, hle, hge, hne, hgt]; rfl
      rw [← ofNat_b2n holds, ← hrel]
      exact does_doneF h answered_idle rfl rfl (opCmpp_valid (accOk_of_lt hp) (accOk_of_lt hq)) ((RunsOn.refl x).setG _ _)
    case tstp => exact does_doneF h answered_idle rfl rfl (opTstp_valid (accOk_of_lt hp)) (runsOn_tested x w)
    case cvbd => exact does_doneF h answered_idle rfl rfl rfl ((RunsOn.refl x).setD _ _)
    case cvdb => exact does_doneF h answered_idle rfl rfl (opCvdb_fits (accOk_of_lt (hdbl hlo hhi)) (inDbl_eq_true hlo hhi)) ((RunsOn.refl x).setPair _ _)
    case cvdbRaises => exact traps_of_plain_exc h rfl (by decide) rfl (opCvdb_raises (accOk_of_lt hk) (inDbl_eq_false hout) hov) rfl
    case cvdbLow => exact does_doneF h answered_idle rfl rfl (opCvdb_low (accOk_of_lt hk) (inDbl_eq_false hout) hov) (((RunsOn.refl x).setPair _ _).setD _ _)

end Sys2Proof.Machine
end

section
/-! SUPPORT. The decimal instructions with operands in memory (R336, R337, R344 to R346). -/
namespace Sys2Proof.Machine

variable {s s1 s2 s3 s4 t : State} {a : Actor} {c f k n va digits : Nat} {i : Instr} {o : LOp} {w : Word} {x : Frame} {v : Int} {b d : Bytes} {ps qs : List Piece}

/-! Operands that are read. -/

section
variable (hb : readVa s a wrap32 (dmAddr (actFrame s a) w) (dmLen w) = .ok s1 b)
include hb

theorem opLdp_packed (hok : packOk b = true) : opLdp s a w = doneF s1 a (setD (actFrame s1 a) (dmDk w) { val := unpack b }) := by
  simp only [opLdp, hb, MRes.bindI, hok, Bool.not_true, Bool.false_eq_true, if_false]

theorem opLdp_invalid (hok : packOk b = false) : opLdp s a w = .exc s1 excData := by
  simp only [opLdp, hb, MRes.bindI, hok, Bool.not_false, if_true]

theorem accMem_packed {op : Int → Int → Int} (hp : accOk (dAcc (actFrame s1 a) (dmDk w)) = true) (hok : packOk b = true) :
    accMem s a w op = putResult s1 a (actFrame s1 a) (dmDk w) (op (dAcc (actFrame s1 a) (dmDk w)).val (unpack b)) (dAcc (actFrame s1 a) (dmDk w)).ov
      (dAcc (actFrame s1 a) (dmDk w)).dz := by
  simp only [accMem, hb, MRes.bindI, hp, hok, Bool.not_true, Bool.or_self, Bool.false_eq_true, if_false]

end

section
variable (hb : readVa s a wrap32 (gReg (actFrame s a) (dcRa w)).toNat (dcN w) = .ok s1 b)
include hb

theorem opCvzd_zoned (hv : unzone (pZm a.psw) b = some v) : opCvzd s a w = doneF s1 a (setD (actFrame s1 a) (dcDk w) { val := v }) := by
  simp only [opCvzd, hb, MRes.bindI, hv]

theorem opCvzd_invalid (hv : unzone (pZm a.psw) b = none) : opCvzd s a w = .exc s1 excData := by
  simp only [opCvzd, hb, MRes.bindI, hv]

end

/-- An addition or subtraction of an operand in memory whose result fits ends with it in the accumulator. -/
theorem does_accMem {op : Int → Int → Int} (h : Ready s c f o w) (ho : isPlainOp o = true) (hi : exec i s = .next (issue s c o))
    (hr : runOp o s (taskActor s c f false) w 0 = accMem s (taskActor s c f false) w op) (hx : frameOf s1 c f = frameOf s c f)
    (hb : readVa s (taskActor s c f false) wrap32 (dmAddr (frameOf s c f) w) (dmLen w) = .ok s1 b) (hok : packOk b = true)
    (hp : (dAcc (frameOf s c f) (dmDk w)).val.natAbs < 10 ^ 63) (hfit : (op (dAcc (frameOf s c f) (dmDk w)).val (unpack b)).natAbs < 10 ^ 63) :
    Does i s s1 c f (setD (frameOf s c f) (dmDk w) { dAcc (frameOf s c f) (dmDk w) with val := op (dAcc (frameOf s c f) (dmDk w)).val (unpack b) })
      ((frameOf s c f).pc + 4) := by
  have hact : actFrame s1 (taskActor s c f false) = frameOf s c f := hx
  have hput := hr.trans (accMem_packed hb (by rw [hact]; exact accOk_of_lt hp) hok)
  rw [hact] at hput
  exact does_doneF h answered_idle ho hi (hput.trans (putResult_fits hfit)) ((RunsOn.refl _).setD _ _)

/-! Results that go to memory (R336): the destination is checked, readied and written. -/

theorem accStore_fits {image : Int → Bytes} (hps : resolve a .write wrap32 (n + 1) s va n = .ok s1 ps) (hp : accOk (dAcc (actFrame s1 a) k) = true)
    (hfit : (dAcc (actFrame s1 a) k).val.natAbs < 10 ^ digits) (hready : readyWrite a s1 ps = .ok s2 ())
    (hw : writePieces a s2 ps (image (dAcc (actFrame s1 a) k).val) = .ok s3 ()) : accStore s a k va n digits image = doneF s3 a (actFrame s3 a) := by
  simp only [accStore, hps, MRes.bindI, hp, fitDigits_fits hfit, hready, hw, Bool.not_true, Bool.false_eq_true, if_false]

/-- A result that fits its field in memory is written there, and the frame stays. -/
theorem does_accStore {image : Int → Bytes} (h : Ready s c f o w) (ho : isPlainOp o = true) (hi : exec i s = .next (issue s c o))
    (hr : runOp o s (taskActor s c f false) w 0 = accStore s (taskActor s c f false) k va n digits image) (hx1 : frameOf s1 c f = frameOf s c f)
    (hx3 : frameOf s3 c f = frameOf s c f) (hps : resolve (taskActor s c f false) .write wrap32 (n + 1) s va n = .ok s1 ps)
    (hfit : (dAcc (frameOf s c f) k).val.natAbs < 10 ^ digits) (hp : (dAcc (frameOf s c f) k).val.natAbs < 10 ^ 63)
    (hready : readyWrite (taskActor s c f false) s1 ps = .ok s2 ())
    (hw : writePieces (taskActor s c f false) s2 ps (image (dAcc (frameOf s c f) k).val) = .ok s3 ()) :
    Does i s s3 c f (frameOf s c f) ((frameOf s c f).pc + 4) := by
  have hact1 : actFrame s1 (taskActor s c f false) = frameOf s c f := hx1
  have hact3 : actFrame s3 (taskActor s c f false) = frameOf s c f := hx3
  have hstore := accStore_fits (k := k) (digits := digits) (image := image) hps (by rw [hact1]; exact accOk_of_lt hp) (by rw [hact1]; exact hfit) hready (by rw [hact1]; exact hw)
  rw [hact3] at hstore
  exact does_doneF h answered_idle ho hi (hr.trans hstore) (RunsOn.refl _)

/-! MACP (R346). -/

/-- What MACP leaves of a frame: the sum in its accumulator, and, where the word asks for it, both addresses behind their operands. -/
def macpFrame (x : Frame) (w : Word) (v : Int) : Frame :=
  let y := setD x (dxDk w) { dAcc x (dxDk w) with val := v }
  if dxP w then
    setG (setG y (dxGa w) (gReg x (dxGa w) + BitVec.ofNat 32 (dxLen w))) (dxGb w) (gReg x (dxGb w) + BitVec.ofNat 32 (dxLen w))
  else y

theorem runsOn_macpFrame (x : Frame) (w : Word) (v : Int) : RunsOn x (macpFrame x w v) := by
  unfold macpFrame; dsimp only; split
  · exact (((RunsOn.refl x).setD _ _).setG _ _).setG _ _
  · exact (RunsOn.refl x).setD _ _

theorem opMacp_fits (hps : resolve a .read wrap32 (dxLen w + 1) s (gReg (actFrame s a) (dxGa w)).toNat (dxLen w) = .ok s1 ps)
    (hqs : resolve a .read wrap32 (dxLen w + 1) s1 (gReg (actFrame s a) (dxGb w)).toNat (dxLen w) = .ok s2 qs)
    (hb : readPieces a false s2 ps = .ok s3 b) (hd : readPieces a false s3 qs = .ok s4 d) (hx : actFrame s4 a = x) (hp : accOk (dAcc x (dxDk w)) = true)
    (hbok : packOk b = true) (hdok : packOk d = true) (hfit : ((dAcc x (dxDk w)).val + unpack b * unpack d).natAbs < 10 ^ 63) :
    opMacp s a w = doneF s4 a (macpFrame x w ((dAcc x (dxDk w)).val + unpack b * unpack d)) := by
  simp only [opMacp, hps, hqs, hb, hd, MRes.bindI, hx, hp, hbok, hdok, fitDigits_fits hfit, Bool.not_true, Bool.or_self, Bool.or_false, Bool.false_eq_true, if_false]
  rfl

/-- Settles O50: an operand that is read by its packed or zoned form, a result that goes to memory by `does_accStore`, MACP by the frame that it leaves (`macpFrame`). -/
theorem decimalOperandsInMemory : Obligations.DecimalOperandsInMemory := by
  unfold Obligations.DecimalOperandsInMemory
  refine ⟨?packed, ?zoned, ?stored, ?macp⟩
  case packed =>
    intro s s1 c f w b x a p v hx hb
    have hact : actFrame s1 a = x := hx
    refine ⟨fun hok => ⟨fun h => ?ldp, fun h hp hfit => ?addp, fun h hp hfit => ?subp⟩, fun hok h s' hs' => ?invalid⟩
    case ldp => exact does_doneF h answered_idle rfl rfl ((opLdp_packed hb hok).trans (by rw [hact])) ((RunsOn.refl x).setD _ _)
    case addp => exact does_accMem h rfl rfl rfl hx hb hok hp hfit
    case subp => exact does_accMem h rfl rfl rfl hx hb hok hp hfit
    case invalid => exact exec_raises h rfl (by decide) rfl (opLdp_invalid hb hok) rfl hx hs'
  case zoned =>
    intro s s1 c f w b v x a hx hb h
    have hact : actFrame s1 a = x := hx
    refine ⟨fun hv => ?valid, fun hv s' hs' => ?invalid⟩
    case valid => exact does_doneF h answered_idle rfl rfl ((opCvzd_zoned hb hv).trans (by rw [hact])) ((RunsOn.refl x).setD _ _)
    case invalid => exact exec_raises h rfl (by decide) rfl (opCvzd_invalid hb hv) rfl hx hs'
  case stored =>
    intro s s1 s2 s3 c f w ps x a hx1 hx3
    exact ⟨fun h hps hfit hp hready hw => does_accStore h rfl rfl rfl hx1 hx3 hps hfit hp hready hw,
      fun h hps hfit hp hready hw => does_accStore h rfl rfl rfl hx1 hx3 hps hfit hp hready hw⟩
  case macp =>
    intro s s1 s2 s3 s4 c f w ps qs b d x a n p v y z h hx hps hqs hb hd hp hbok hdok hfit
    have hdoes : Does (.macp c) s s4 c f (macpFrame x w v) (x.pc + 4) :=
      does_doneF h answered_idle rfl rfl (opMacp_fits hps hqs hb hd hx (accOk_of_lt hp) hbok hdok hfit) (runsOn_macpFrame x w v)
    unfold macpFrame at hdoes
    exact ⟨fun hmove => by rw [hmove] at hdoes; exact hdoes, fun hmove => by rw [hmove] at hdoes; exact hdoes⟩

end Sys2Proof.Machine
end

section
/-! SUPPORT. EDIT's pattern bytes and its start (R353, R354, Tables 9.7 and 9.8). -/
namespace Sys2Proof.Machine

variable {s : State} {a : Actor} {w p : Word} {x : Frame} {zm mark forced : Bool} {b y : Byte}

/-! Pattern bytes. -/

/-- The digit that EDIT comes to next: the progress word's DREM digits of the accumulator are left. -/
def nextDigit (x : Frame) (w p : Word) : Nat := (dAcc x (dlDk w)).val.natAbs / 10 ^ (pDrem p - 1) % 10

/-- The operation on a digit before significance, when the digit is zero and nothing forces it. -/
theorem editDigit_zero (hs : pSig p = false) (hd : nextDigit x w p = 0) :
    editDigit x w zm false p = { out := some (pFill p), isFill := true, p := withDrem p (pDrem p - 1) } := by
  unfold nextDigit at hd
  simp only [editDigit, hs, hd, bne_self_eq_false, Bool.or_self, Bool.false_eq_true, if_false]

theorem editDigit_significant (hs : pSig p = true) :
    editDigit x w zm forced p = { out := some (zoneDigit zm (nextDigit x w p)), p := withDrem p (pDrem p - 1) } := by
  simp only [editDigit, hs, Bool.true_or, if_true, nextDigit]

/-- The digit that starts significance: one that is not zero, or that is forced. -/
theorem editDigit_first (hs : pSig p = false) (hd : nextDigit x w p ≠ 0 ∨ forced = true) :
    editDigit x w zm forced p =
      { out := some (zoneDigit zm (nextDigit x w p)), float := pFlt p && pLf p, mark := true, p := putBit (putBit (withDrem p (pDrem p - 1)) 18 false) 16 true } := by
  have hstarts : (nextDigit x w p != 0 || forced) = true := by rcases hd with hd | hd <;> simp [hd]
  unfold nextDigit at hstarts
  simp only [editDigit, hs, hstarts, Bool.false_or, Bool.false_eq_true, if_true, if_false, nextDigit]

theorem editByte_negative :
    editByte x w zm p 0x05 y = if pNeg p then { n := 2, out := some y, p := p } else { n := 2, out := some (pFill p), isFill := true, p := p } := rfl

theorem editByte_positive :
    editByte x w zm p 0x06 y = if pNeg p then { n := 2, out := some (pFill p), isFill := true, p := p } else { n := 2, out := some y, p := p } := rfl

theorem editByte_plain (h : 0x20 ≤ b.toNat) :
    editByte x w zm p b y = if pSig p then { out := some b, p := p } else { out := some (pFill p), isFill := true, p := p } := by
  unfold editByte
  split
  case h_8 => rfl
  all_goals omega

/-! The start (R354). -/

theorem editStart_reserved (h : pReserved (gReg (actFrame s a) (dlRc w)) = true) : editStart s a w = .exc s (excString 0x02) := if_pos h

theorem editStart_started (hr : pReserved (gReg (actFrame s a) (dlRc w)) = false) (h : pStarted (gReg (actFrame s a) (dlRc w)) = true) :
    editStart s a w = .more s 0 := by
  simp only [editStart, hr, h, Bool.false_eq_true, if_true, if_false]

section
variable (hr : pReserved (gReg (actFrame s a) (dlRc w)) = false) (hs : pStarted (gReg (actFrame s a) (dlRc w)) = false) (hd : accOk (dAcc (actFrame s a) (dlDk w)) = true)
include hr hs hd

/-- A value that fits the progress word's digits: NEG and STARTED are set in that word. -/
theorem editStart_fits (hfit : (dAcc (actFrame s a) (dlDk w)).val.natAbs < 10 ^ pDrem (gReg (actFrame s a) (dlRc w))) :
    editStart s a w = .more (setFrame s a.c a.f (setG (actFrame s a) (dlRc w)
      (putBit (putBit (gReg (actFrame s a) (dlRc w)) 19 (decide ((dAcc (actFrame s a) (dlDk w)).val < 0))) 17 true))) 0 := by
  simp only [editStart, hr, hs, hd, fitDigits_fits hfit, Bool.not_true, Bool.false_eq_true, if_false]

theorem editStart_overflows (hbig : 10 ^ pDrem (gReg (actFrame s a) (dlRc w)) ≤ (dAcc (actFrame s a) (dlDk w)).val.natAbs) (hov : pOv a.psw = true) :
    editStart s a w = .exc s excOverflow := by
  simp only [editStart, hr, hs, hd, hov, fitDigits_raises hbig, Bool.not_true, Bool.false_eq_true, if_false]

end

theorem stepEdit_raises {e : Exc} (h : editStart s a w = .exc s e) : stepEdit s a w mark = .exc s e := by
  rw [stepEdit, h]

/-- A started EDIT whose pattern is at its end. -/
theorem stepEdit_end (h : editStart s a w = .more s 0) (hn : gReg (actFrame s a) (dlRb w + 1) = 0) : stepEdit s a w mark = .fin s := by
  rw [stepEdit, h]; exact if_pos (by rw [hn]; rfl)

end Sys2Proof.Machine
end

section
/-! SUPPORT. Comparing and scanning strings, a round of 16 bytes at a time (R349 to R352). -/
namespace Sys2Proof.Machine

variable {s s1 s2 t : State} {a : Actor} {c f i k n rd : Nat} {j : Instr} {o : LOp} {w v r : Word} {x y : Frame} {b p q : Bytes} {u d e : Byte} {g : Nat → Byte}

/-! The end of a round (R349). -/

theorem RunsOn.advancePair (h : RunsOn x y) (r n : Nat) : RunsOn x (advancePair y r n) := (h.setG _ _).setG _ _

theorem advancePair_pc (x : Frame) (r n : Nat) : (advancePair x r n).pc = x.pc := by rw [advancePair, setG_pc, setG_pc]

section
variable {l : Bool} (h : Ready s c f o w) (ho : isPlainOp o = true) (hi : exec j s = .next (issue s c o))
  (hr : runOp o s (taskActor s c f false) w 0 = endRound t (taskActor s c f false) y l rd v) (hy : RunsOn (frameOf s c f) y)
include h ho hi hr hy

/-- The last round writes rd and ends the instruction. -/
theorem does_lastRound (hl : l = true) : Does j s t c f (setG y rd v) ((frameOf s c f).pc + 4) :=
  does_doneF h answered_idle ho hi (hr.trans (if_pos hl)) (hy.setG _ _)

/-- Any other leaves the pc. -/
theorem does_otherRound (hl : l = false) (hpc : y.pc = (frameOf s c f).pc) : Does j s t c f y (frameOf s c f).pc := by
  have hagain := does_again h ho hi (hr.trans (if_neg (ne_true_of_eq_false hl))) hy
  rwa [hpc] at hagain

end

/-! Scans (R351, R352). -/

/-- What a byte of a scan does: past the byte that stops it, nothing. -/
def scanByte (hit : State → Byte → MRes (Option Word)) (m : MRes (Nat × Option Word)) (y : Byte) : MRes (Nat × Option Word) :=
  m.andThen fun st v => match v.2 with
    | some _ => .ok st v
    | none => (hit st y).andThen fun st1 h => match h with
      | some _ => .ok st1 (v.1, h)
      | none => .ok st1 (v.1 + 1, none)

section
variable {hit : State → Byte → MRes (Option Word)} {z : Option Word}

theorem scanByte_stops (h : hit s u = .ok t (some r)) : scanByte hit (.ok s (n, none)) u = .ok t (n, some r) := by
  simp only [scanByte, MRes.andThen, h]

theorem scanByte_passes (h : hit s u = .ok t none) : scanByte hit (.ok s (n, none)) u = .ok t (n + 1, none) := by
  simp only [scanByte, MRes.andThen, h]

/-- A scan that has stopped passes over the bytes that are left. -/
theorem scan_stopped (b : Bytes) : b.foldl (scanByte hit) (.ok s (n, some r)) = .ok s (n, some r) := by
  induction b with
  | nil => rfl
  | cons _ _ ih => exact ih

/-- A round of a scan whose bytes are read and scanned. -/
theorem scanRound_scanned (hb : readVa s a wrap32 (gReg (actFrame s a) (dsRa w)).toNat (min 16 (gReg (actFrame s a) (dsRa w + 1)).toNat) = .ok s1 b)
    (hf : b.foldl (scanByte hit) (.ok s1 (0, none)) = .ok s2 (n, z)) :
    scanRound s a w hit = endRound s2 a (advancePair (actFrame s2 a) (dsRa w) n) (z.isSome || decide ((gReg (actFrame s a) (dsRa w + 1)).toNat ≤ 16)) (dsRd w) (z.getD 0) := by
  have hround : scanRound s a w hit = (b.foldl (scanByte hit) (.ok s1 (0, none))).bindI fun st v =>
      endRound st a (advancePair (actFrame st a) (dsRa w) v.1) (v.2.isSome || decide ((gReg (actFrame s a) (dsRa w + 1)).toNat ≤ 16)) (dsRd w) (v.2.getD 0) := by
    simp only [scanRound, hb, MRes.bindI]; rfl
  rw [hround, hf]; rfl

section
variable (hr : runOp o s (taskActor s c f false) w 0 = scanRound s (taskActor s c f false) w hit) (hx : frameOf s2 c f = frameOf s c f)
  (hb : readVa s (taskActor s c f false) wrap32 (gReg (frameOf s c f) (dsRa w)).toNat (min 16 (gReg (frameOf s c f) (dsRa w + 1)).toNat) = .ok s1 b)
include hr hx hb

/-- What the end of a scan's round makes of the frame, from the bytes passed over and what stopped it. -/
theorem runOp_scan (hf : b.foldl (scanByte hit) (.ok s1 (0, none)) = .ok s2 (n, z)) :
    runOp o s (taskActor s c f false) w 0 = endRound s2 (taskActor s c f false) (advancePair (frameOf s c f) (dsRa w) n)
      (z.isSome || decide ((gReg (frameOf s c f) (dsRa w + 1)).toNat ≤ 16)) (dsRd w) (z.getD 0) := by
  have hact : actFrame s2 (taskActor s c f false) = frameOf s c f := hx
  rw [hr, scanRound_scanned hb hf, hact]; rfl

variable (h : Ready s c f o w) (ho : isPlainOp o = true) (hi : exec j s = .next (issue s c o))
include h ho hi

theorem does_scan_stopped (hf : b.foldl (scanByte hit) (.ok s1 (0, none)) = .ok s2 (n, some r)) :
    Does j s s2 c f (setG (advancePair (frameOf s c f) (dsRa w) n) (dsRd w) r) ((frameOf s c f).pc + 4) := by
  have hrun := runOp_scan hr hx hb hf
  rw [Option.getD_some] at hrun
  exact does_lastRound h ho hi hrun ((RunsOn.refl _).advancePair _ _) rfl

theorem does_scan_exhausted (hf : b.foldl (scanByte hit) (.ok s1 (0, none)) = .ok s2 (n, none)) (hlen : (gReg (frameOf s c f) (dsRa w + 1)).toNat ≤ 16) :
    Does j s s2 c f (setG (advancePair (frameOf s c f) (dsRa w) n) (dsRd w) 0) ((frameOf s c f).pc + 4) := by
  have hrun := runOp_scan hr hx hb hf
  rw [Option.getD_none] at hrun
  exact does_lastRound h ho hi hrun ((RunsOn.refl _).advancePair _ _) (decide_eq_true hlen)

theorem does_scan_goesOn (hf : b.foldl (scanByte hit) (.ok s1 (0, none)) = .ok s2 (n, none)) (hlen : 16 < (gReg (frameOf s c f) (dsRa w + 1)).toNat) :
    Does j s s2 c f (advancePair (frameOf s c f) (dsRa w) n) (frameOf s c f).pc :=
  does_otherRound h ho hi (runOp_scan hr hx hb hf) ((RunsOn.refl _).advancePair _ _) (decide_eq_false (Nat.not_le.mpr hlen)) (advancePair_pc ..)

end
end

/-! SCN (R351). -/

/-- SCN stops at a byte for which `stop` holds, with 1. -/
def scnHit (stop : Byte → Bool) (st : State) (y : Byte) : MRes (Option Word) := .ok st (if stop y then some 1 else none)

theorem scan_scn_found {stop : Byte → Bool} (h : b.findIdx? stop = some i) : b.foldl (scanByte (scnHit stop)) (.ok s (n, none)) = .ok s (n + i, some 1) := by
  induction b generalizing i n with
  | nil => cases h
  | cons u b ih =>
    rw [List.findIdx?_cons] at h
    rw [List.foldl_cons]
    cases hu : stop u with
    | true =>
      rw [hu, if_pos rfl] at h
      obtain rfl := Option.some.inj h
      rw [scanByte_stops (by rw [scnHit, hu, if_pos rfl]), scan_stopped]; rfl
    | false =>
      rw [hu, if_neg Bool.false_ne_true] at h
      obtain ⟨k, hk, rfl⟩ := Option.map_eq_some_iff.mp h
      rw [scanByte_passes (by rw [scnHit, hu, if_neg Bool.false_ne_true]), ih hk, Nat.add_right_comm]; rfl

theorem scan_scn_none {stop : Byte → Bool} (h : b.findIdx? stop = none) : b.foldl (scanByte (scnHit stop)) (.ok s (n, none)) = .ok s (n + b.length, none) := by
  induction b generalizing n with
  | nil => rfl
  | cons u b ih =>
    have hpass := List.findIdx?_eq_none_iff.mp h
    rw [List.foldl_cons, scanByte_passes (by rw [scnHit, hpass u List.mem_cons_self, if_neg Bool.false_ne_true]),
      ih (List.findIdx?_eq_none_iff.mpr fun d hd => hpass d (List.mem_cons_of_mem u hd)), List.length_cons, Nat.add_right_comm]; rfl

/-! SCT (R352). -/

/-- SCT stops at a byte whose table entry shares a bit with the mask, with the entry. -/
def sctHit (a : Actor) (table : Nat) (mask : Byte) (st : State) (y : Byte) : MRes (Option Word) :=
  (readVa st a wrap32 ((table + y.toNat) % wrap32) 1).andThen fun st1 e =>
    .ok st1 (if byteAt e 0 &&& mask ≠ 0 then some ((byteAt e 0).setWidth 32) else none)

section
variable {mask : Byte} (he : readVa s a wrap32 ((k + u.toNat) % wrap32) 1 = .ok t [e])
include he

theorem sctHit_masked (hm : e &&& mask ≠ 0) : sctHit a k mask s u = .ok t (some (e.setWidth 32)) := by
  rw [sctHit, he]; exact congrArg (MRes.ok t) (if_pos hm)

theorem sctHit_unmasked (hm : e &&& mask = 0) : sctHit a k mask s u = .ok t none := by
  rw [sctHit, he]; exact congrArg (MRes.ok t) (if_neg (not_not_intro hm))

end

/-! CLS (R350). -/

/-- A byte of a string, or the space of the zone mode behind its end. -/
def paddedByte (zm : Bool) (p : Bytes) (i : Nat) : Byte := (p[i]?).getD (zoneSpace zm)

/-- The first of `n` places at which two strings differ. -/
def firstDiff (u v : Nat → Byte) (n : Nat) : Option Nat := (List.range n).find? fun i => u i != v i

theorem firstDiff_eq_some {u v : Nat → Byte} (hi : i < n) (hne : u i ≠ v i) (heq : ∀ k, k < i → u k = v k) : firstDiff u v n = some i := by
  simp only [firstDiff, List.find?_range_eq_some, bne_iff_ne, List.mem_range]
  exact ⟨hne, hi, fun k hk => by simp [heq k hk]⟩

theorem firstDiff_eq_none {u v : Nat → Byte} (heq : ∀ i, i < n → u i = v i) : firstDiff u v n = none := by
  rw [firstDiff, List.find?_eq_none]
  intro i hi
  simp [heq i (List.mem_range.mp hi)]

/-- Both pairs of CLS moved on by `k` bytes, each no further than its string. -/
def clsMoved (x : Frame) (w : Word) (k : Nat) : Frame :=
  advancePair (advancePair x (dsRa w) (min k (gReg x (dsRa w + 1)).toNat)) (dsRb w) (min k (gReg x (dsRb w + 1)).toNat)

theorem runsOn_clsMoved (x : Frame) (w : Word) (k : Nat) : RunsOn x (clsMoved x w k) := ((RunsOn.refl x).advancePair _ _).advancePair _ _

theorem clsMoved_pc (x : Frame) (w : Word) (k : Nat) : (clsMoved x w k).pc = x.pc := by rw [clsMoved, advancePair_pc, advancePair_pc]

/-- The bytes that a round of CLS compares. -/
def clsBytes (x : Frame) (w : Word) : Nat := min 16 (max (gReg x (dsRa w + 1)).toNat (gReg x (dsRb w + 1)).toNat)

/-- The windows of CLS's two strings are checked and read as `p` and `q`, which leaves `t` and the frame. -/
structure WindowsRead (s t : State) (a : Actor) (w : Word) (p q : Bytes) : Prop where
  frame : actFrame t a = actFrame s a
  reads : ∃ s1 s2 s3 ps qs,
    resolve a .read wrap32 (min 16 (gReg (actFrame s a) (dsRa w + 1)).toNat + 1) s (gReg (actFrame s a) (dsRa w)).toNat (min 16 (gReg (actFrame s a) (dsRa w + 1)).toNat) = .ok s1 ps ∧
    resolve a .read wrap32 (min 16 (gReg (actFrame s a) (dsRb w + 1)).toNat + 1) s1 (gReg (actFrame s a) (dsRb w)).toNat (min 16 (gReg (actFrame s a) (dsRb w + 1)).toNat) = .ok s2 qs ∧
    readPieces a false s2 ps = .ok s3 p ∧ readPieces a false s3 qs = .ok t q

section
variable (h : WindowsRead s t a w p q)
include h

/-- The round that meets a difference is the last. -/
theorem opCls_differs (hd : firstDiff (paddedByte (pZm a.psw) p) (paddedByte (pZm a.psw) q) (clsBytes (actFrame s a) w) = some i) :
    opCls s a w = endRound t a (clsMoved (actFrame s a) w i) true (dsRd w)
      (BitVec.ofNat 32 (b2n (relHolds (dsRel w) (decide ((paddedByte (pZm a.psw) p i).toNat < (paddedByte (pZm a.psw) q i).toNat)) false))) := by
  obtain ⟨s1, s2, s3, ps, qs, hps, hqs, hp, hq⟩ := h.reads
  unfold firstDiff paddedByte clsBytes at hd
  simp only [opCls, hps, hqs, hp, hq, MRes.bindI, h.frame, hd, Option.getD_some, Option.isSome_some, Option.isNone_some, Bool.true_or]
  rfl

/-- A round that meets none is the last where both strings end in it. -/
theorem opCls_agrees (hd : firstDiff (paddedByte (pZm a.psw) p) (paddedByte (pZm a.psw) q) (clsBytes (actFrame s a) w) = none) :
    opCls s a w = endRound t a (clsMoved (actFrame s a) w (clsBytes (actFrame s a) w))
      (decide ((gReg (actFrame s a) (dsRa w + 1)).toNat ≤ 16) && decide ((gReg (actFrame s a) (dsRb w + 1)).toNat ≤ 16)) (dsRd w)
      (BitVec.ofNat 32 (b2n (relHolds (dsRel w) false true))) := by
  obtain ⟨s1, s2, s3, ps, qs, hps, hqs, hp, hq⟩ := h.reads
  unfold firstDiff paddedByte clsBytes at hd
  simp only [opCls, hps, hqs, hp, hq, MRes.bindI, h.frame, hd, Option.getD_none, Option.isSome_none, Option.isNone_none, Bool.false_or]
  rfl

end

/-- Settles O52: the pattern bytes by `editDigit` and `editByte_plain`, EDIT's start by `editStart`, the scans by what the bytes of their round do in turn (`scanByte`), CLS by the first place
at which its strings differ (`firstDiff`). -/
theorem editAndStrings : Obligations.EditAndStrings := by
  unfold Obligations.EditAndStrings
  refine ⟨?bytes, ?start, ?scn, ?cls, ?sct, ?sctEmpty⟩
  case bytes =>
    intro x w p zm b y e d
    refine ⟨?zero, ?significant, ?first, ?message, ?float, ?negative, ?positive, ?significance, ?plain⟩
    case zero => rintro rfl hs hd; rw [show e = editDigit x w zm false p from rfl, editDigit_zero hs hd]; exact ⟨rfl, rfl, rfl, rfl⟩
    case significant => rintro rfl hs; rw [show e = editDigit x w zm false p from rfl, editDigit_significant hs]; exact ⟨rfl, rfl, rfl, rfl⟩
    case first =>
      have hstarts : ∀ forced, d ≠ 0 ∨ forced = true → pSig p = false → let e := editDigit x w zm forced p
          e.out = some (zoneDigit zm d) ∧ e.mark = true ∧ e.float = (pFlt p && pLf p) ∧ e.n = 1 := by
        intro forced hd hs
        rw [editDigit_first hs hd]; exact ⟨rfl, rfl, rfl, rfl⟩
      rintro (⟨rfl, hd⟩ | rfl)
      · exact hstarts false (.inl hd)
      · exact hstarts true (.inr rfl)
    case message => rintro rfl; exact ⟨rfl, rfl, rfl⟩
    case float => rintro rfl; exact ⟨rfl, rfl, rfl⟩
    case negative => rintro rfl; rw [show e = _ from editByte_negative]; cases pNeg p <;> exact ⟨rfl, rfl, rfl, rfl⟩
    case positive => rintro rfl; rw [show e = _ from editByte_positive]; cases pNeg p <;> exact ⟨rfl, rfl, rfl, rfl⟩
    case significance => rintro rfl; exact ⟨rfl, rfl, rfl⟩
    case plain => intro hb; rw [show e = _ from editByte_plain hb]; cases pSig p <;> exact ⟨rfl, rfl, rfl, rfl⟩
  case start =>
    intro s a w mark x p d
    refine ⟨fun hr => stepEdit_raises (editStart_reserved hr), fun hr hs hn => stepEdit_end (editStart_started hr hs) hn,
      fun hr hs hd hfit => editStart_fits hr hs (accOk_of_lt hd) hfit, fun hr hs hd hbig hov => stepEdit_raises (editStart_overflows hr hs (accOk_of_lt hd) hbig hov)⟩
  case scn =>
    intro s s1 c f w b x a len stop h hx hb
    refine ⟨fun i hi => ?found, fun hn hlen => ?exhausted, fun hn hlen => ?goesOn⟩
    case found => exact does_scan_stopped (hit := scnHit stop) rfl hx hb h rfl rfl ((scan_scn_found hi).trans (by rw [Nat.zero_add]))
    case exhausted => exact does_scan_exhausted (hit := scnHit stop) rfl hx hb h rfl rfl ((scan_scn_none hn).trans (by rw [Nat.zero_add])) hlen
    case goesOn => exact does_scan_goesOn (hit := scnHit stop) rfl hx hb h rfl rfl ((scan_scn_none hn).trans (by rw [Nat.zero_add])) hlen
  case cls =>
    intro s s1 s2 s3 s4 c f w ps qs p q x a la lb sp n u v moved h hx hps hqs hp hq
    have hread : WindowsRead s s4 a w p q := ⟨hx, s1, s2, s3, ps, qs, hps, hqs, hp, hq⟩
    refine ⟨fun i hi hne heq => ?differs, fun heq hla hlb => ?ends, fun heq hlen => ?goesOn⟩
    case differs => exact does_lastRound h rfl rfl (opCls_differs hread (firstDiff_eq_some hi hne heq)) (runsOn_clsMoved x w i) rfl
    case ends =>
      refine does_lastRound h rfl rfl (opCls_agrees hread (firstDiff_eq_none heq)) (runsOn_clsMoved x w n) ?_
      exact Bool.and_eq_true_iff.mpr ⟨decide_eq_true hla, decide_eq_true hlb⟩
    case goesOn =>
      refine does_otherRound h rfl rfl (opCls_agrees hread (firstDiff_eq_none heq)) (runsOn_clsMoved x w n) ?_ (clsMoved_pc x w n)
      rw [Bool.and_eq_false_iff, decide_eq_false_iff_not, decide_eq_false_iff_not, Nat.not_le, Nat.not_le]
      exact hlen
  case sct =>
    intro s s1 s2 c f w y e x a m h hx hn hy he
    have hlen : (gReg x (dsRa w + 1)).toNat = 1 := by rw [hn]; rfl
    have hb : readVa s a wrap32 (gReg x (dsRa w)).toNat (min 16 (gReg x (dsRa w + 1)).toNat) = .ok s1 [y] := by rw [hlen]; exact hy
    refine ⟨fun hm => ?masked, fun hm => ?unmasked⟩
    case masked => exact does_scan_stopped (hit := sctHit a (gReg x (dsRb w)).toNat m) rfl hx hb h rfl rfl (scanByte_stops (sctHit_masked he hm))
    case unmasked =>
      exact does_scan_exhausted (hit := sctHit a (gReg x (dsRb w)).toNat m) rfl hx hb h rfl rfl (scanByte_passes (sctHit_unmasked he hm)) (by rw [hlen]; decide)
  case sctEmpty =>
    intro s s1 c f w x h hx hn hy
    have hlen : (gReg x (dsRa w + 1)).toNat = 0 := by rw [hn]; rfl
    have hb : readVa s (taskActor s c f false) wrap32 (gReg x (dsRa w)).toNat (min 16 (gReg x (dsRa w + 1)).toNat) = .ok s1 [] := by rw [hlen]; exact hy
    exact does_scan_exhausted (hit := sctHit (taskActor s c f false) (gReg x (dsRb w)).toNat ((gReg x (dsRd w)).setWidth 8)) rfl hx hb h rfl rfl rfl (by rw [hlen]; decide)

end Sys2Proof.Machine
end

section
/-! SUPPORT. Synchronous exceptions of a ladle core (R377, R382 to R384): entry, double fault and third fault; SVC and BRK. -/
namespace Sys2Proof.Machine

variable {s s1 s2 : State} {c f : Nat} {e e1 : Exc} {i : Instr} {o : LOp} {w h ia ra : Word} {sync : Bool}

/-! What comes before the entry (R287, R289). -/

/-- With no shadow open, the shadows put in force write the frame as it is. -/
theorem applyShadows_closed (hp : ∀ p ∈ (frameOf s c f).pend, p.left = none) : applyShadows s c f = setFrame s c f (frameOf s c f) := by
  have hopen : (frameOf s c f).pend.filter (fun (p : PendWrite) => p.left.isSome) = [] := by
    rw [List.filter_eq_nil_iff]; intro p hmem; simp [hp p hmem]
  have hkept : (frameOf s c f).pend.filter (fun (p : PendWrite) => p.left.isNone) = (frameOf s c f).pend := by
    rw [List.filter_eq_self]; intro p hmem; simp [hp p hmem]
  simp only [applyShadows, hopen, hkept, List.foldl_nil]

/-- A running frame that has nothing in progress, in a core whose tables are in order. -/
structure AtRest (s : State) (c f : Nat) : Prop where
  runs : (frameOf s c f).state = .running
  noLop : (frameOf s c f).lop = none
  noRep : (frameOf s c f).rep = none
  shadows : ∀ p ∈ (frameOf s c f).pend, p.left = none
  order : setFrame s c f (frameOf s c f) = s

theorem raiseSync_eq_enterExc (hq : AtRest s c f) : raiseSync s c f e ia ra = enterExc s c f e true ia ra := by
  have hlop : hasRegLop (frameOf s c f) = false := by rw [hasRegLop, hq.noLop]; rfl
  simp only [raiseSync, applyShadows_closed hq.shadows, hq.order, hlop, stopLop_none hq.noLop, Bool.false_eq_true, if_false]

/-- While MSK or DF is set a synchronous exception is a double or a third fault (R382, R383). -/
theorem raiseSync_faults (hq : AtRest s c f) (hm : (pMsk (frameOf s c f).psw || pDf (frameOf s c f).psw) = true) :
    raiseSync s c f e ia ra = doubleFault s c f e ia := by
  rw [raiseSync_eq_enterExc hq]
  simp only [enterExc, parkRep_none hq.noRep, hq.order, hm, Bool.and_self, if_true]

/-! Entry (R377). -/

/-- A frame as it begins its handler at `h` for an exception with return address `ra` (R377, Table 10.10). -/
def enteredFrame (x : Frame) (e : Exc) (h ra : Word) : Frame :=
  let b := entryStack x - 288
  { setG (if pSuper x.psw then x else { x with ssp := gReg x 29 }) 29 b with
    pc := h, fetch := [], wait := .idle, last := none, epc := ra, epsw := x.psw, einfo := einfoOf { e with entry := false }, eaddr := e.addr,
    dlazy := b ||| 1, repv := false, lov := false, psw := (x.psw ||| 3) &&& 0xFFFFFDFF }

theorem entryStack_user (x : Frame) : (if !pSuper x.psw then x.ssp else gReg x 29) = entryStack x := by
  cases hs : pSuper x.psw <;> simp [entryStack, hs]

theorem enteredFrame_state (x : Frame) : (enteredFrame x e h ra).state = x.state := by
  simp only [enteredFrame, setG_state]; split <;> rfl

/-- Entry sets S and MSK and clears TR (Table 10.8). -/
theorem entryPsw (p : Word) : putBit (putBit (putBit p 0 true) 1 true) 9 false = (p ||| 3) &&& 0xFFFFFDFF := by
  simp only [putBit, if_true, Bool.false_eq_true, if_false, BitVec.or_assoc]; rfl

theorem extractLsb_three_eq_zero {p : Word} (hp : p.toNat % 8 = 0) : p.extractLsb' 0 3 = 0 :=
  BitVec.eq_of_toNat_eq (by simpa [BitVec.extractLsb'_toNat] using hp)

/-- An entry that can be made, where no repetition runs and none of MSK and DF bars it. -/
theorem enterExc_enters (hrep : (frameOf s c f).rep = none) (hm : (sync && (pMsk (frameOf s c f).psw || pDf (frameOf s c f).psw)) = false)
    (hc : CanEnter s c f e.vec s1 s2 h) :
    enterExc s c f e sync ia ra = some (spend (setFrame s2 c f (enteredFrame (frameOf s c f) e h ra)) c csOther 6) := by
  have hal := extractLsb_three_eq_zero hc.stack
  simp only [enterExc, parkRep_none hrep, hc.order, hm, entryStack_user, hal, hc.block, hc.vector, hc.still, Bool.false_eq_true, if_false, ne_eq, not_true_eq_false]
  cases hs : pSuper (frameOf s c f).psw <;> simp only [enteredFrame, hs, goAt, entryPsw, Bool.not_true, Bool.not_false, Bool.false_eq_true, if_true, if_false]

/-- The frame is written as it begins its handler, and the steps of the entry are counted. -/
theorem entered_spend (hrun : (frameOf s2 c f).state = .running) (n : Nat) :
    Entered s2 (spend (setFrame s2 c f (enteredFrame (frameOf s2 c f) e h ra)) c csOther n) c f e h ra := by
  have hne : enteredFrame (frameOf s2 c f) e h ra ≠ {} := frame_ne_default ((enteredFrame_state _).trans hrun)
  have hwritten := coreOnly_setFrame s2 c f hne
  obtain ⟨hspend, hsame⟩ := coreOnly_spend f csOther n hwritten.listed
  have honly := hwritten.trans hspend
  exact ⟨hsame.trans (frameOf_setFrame_same s2 c f hne), honly.others, honly.core, honly.cores, honly.rest⟩

/-- A synchronous exception of a frame whose MSK and DF are clear enters its handler. -/
theorem raiseSync_enters (hq : AtRest s c f) (hm : pMsk (frameOf s c f).psw = false) (hd : pDf (frameOf s c f).psw = false) (hc : CanEnter s c f e.vec s1 s2 h) :
    ∃ s', raiseSync s c f e ia ra = some s' ∧ Entered s2 s' c f e h ra := by
  refine ⟨_, (raiseSync_eq_enterExc hq).trans (enterExc_enters hq.noRep (by rw [hm, hd]; rfl) hc), ?_⟩
  rw [← hc.still]
  exact entered_spend (hc.still ▸ hq.runs) 6

/-! Double and third faults (R382, R383). -/

theorem doubleFault_third (hd : pDf (frameOf s c f).psw = true) : doubleFault s c f e ia = some (coreReset s c f) := if_pos hd

theorem doubleFault_unread (hd : pDf (frameOf s c f).psw = false) (hv : vectorWord s c f 1 = .exc s1 e1) : doubleFault s c f e ia = some (coreReset s1 c f) := by
  simp only [doubleFault, hd, hv, Bool.false_eq_true, if_false]

/-- A frame as it begins its double-fault handler at `h` (R382). -/
def faultedFrame (x : Frame) (e : Exc) (h ia : Word) : Frame :=
  { x with
    pc := h, fetch := [], wait := .idle, last := none, dfpc := ia, eaddr := e.addr,
    einfo := einfoOf { e with vec := 1, cause := e.vec, ovr := false, code := 0 }, psw := (x.psw ||| 0x403) &&& 0xFFFFFDFF }

/-- A double fault sets DF, S and MSK and clears TR (R382). -/
theorem faultPsw (p : Word) : putBit (putBit (putBit (putBit p 10 true) 0 true) 1 true) 9 false = (p ||| 0x403) &&& 0xFFFFFDFF := by
  simp only [putBit, if_true, Bool.false_eq_true, if_false, BitVec.or_assoc]; rfl

theorem doubleFault_taken (hrep : (frameOf s1 c f).rep = none) (hd : pDf (frameOf s c f).psw = false) (he : e.entry = false) (hv : vectorWord s c f 1 = .ok s1 h) :
    doubleFault s c f e ia = some (spend (setFrame s1 c f (faultedFrame (frameOf s1 c f) e h ia)) c csOther 4) := by
  simp only [doubleFault, hd, hv, he, parkRep_none hrep, goAt, faultPsw, faultedFrame, Bool.false_eq_true, if_false]

/-! SVC and BRK. -/

/-- A frame whose instruction may issue has nothing in progress once the instruction is counted. -/
theorem atRest_countFault (hr : Ready s c f o w)
    (horder : setFrame (countFault s c (frameOf s c f) o w e) c f (frameOf (countFault s c (frameOf s c f) o w e) c f) = countFault s c (frameOf s c f) o w e) :
    AtRest (countFault s c (frameOf s c f) o w e) c f := by
  have hsame : frameOf (countFault s c (frameOf s c f) o w e) c f = frameOf s c f := frameOf_countFault _ hr.listed
  obtain ⟨hlop, -⟩ := hr.calm
  exact ⟨hsame.symm ▸ hr.runs.1, hsame.symm ▸ hlop, hsame.symm ▸ hr.rep, hsame.symm ▸ hr.shadows, horder⟩

/-- A call of the supervisor enters on its vector and returns behind its word. -/
theorem exec_call_enters (hr : Ready s c f o w) (ho : o = .svc ∨ o = .brk) (hi : exec i s = .next (issue s c o))
    (hrun : runOp o s (taskActor s c f false) w 0 = .exc s e) (he : e.entry = false) (hm : pMsk (frameOf s c f).psw = false) (hd : pDf (frameOf s c f).psw = false)
    (hc : CanEnter (countFault s c (frameOf s c f) o w e) c f e.vec s1 s2 h) :
    ∃ s', exec i s = .next s' ∧ Entered s2 s' c f e h ((frameOf s c f).pc + 4) := by
  have hplain : isPlainOp o = true := by rcases ho with rfl | rfl <;> rfl
  have hcall : some o = some .svc ∨ some o = some .brk := ho.imp (congrArg some) (congrArg some)
  have hsame : frameOf (countFault s c (frameOf s c f) o w e) c f = frameOf s c f := frameOf_countFault _ hr.listed
  obtain ⟨s', hraise, hent⟩ := raiseSync_enters (ia := (frameOf s c f).pc) (ra := (frameOf s c f).pc + 4) (atRest_countFault hr hc.order) (hsame.symm ▸ hm) (hsame.symm ▸ hd) hc
  refine ⟨s', ?_, hent⟩
  rw [exec_plain hr answered_idle hplain hi, hrun]
  simp only [conclude, raiseAt, hsame, hcall, he, hraise, if_true, Bool.false_eq_true, false_and, if_false, Option.getD_some]

/-- Settles O38: the entry by `raiseSync_enters`, the double and third faults by what becomes of a fault while MSK or DF is set (`raiseSync_faults`), the calls by `exec_call_enters`. -/
theorem exceptionsEnterOnce : Obligations.ExceptionsEnterOnce := by
  unfold Obligations.ExceptionsEnterOnce
  refine ⟨?entry, ?double, ?third, ?unread, ?calls⟩
  case entry =>
    intro s s1 s2 c f e ia ra h x hrun hlop hrep hs hm hd hc
    exact raiseSync_enters ⟨hrun, hlop, hrep, hs, hc.order⟩ hm hd hc
  case double =>
    intro s s1 c f e ia ra h x hrun hlop hrep hs hm hd he horder hv hx
    have hq : AtRest s c f := ⟨hrun, hlop, hrep, hs, horder⟩
    have hne : faultedFrame x e h ia ≠ {} := frame_ne_default hrun
    have hwritten := coreOnly_setFrame s1 c f hne
    obtain ⟨hspend, hsame⟩ := coreOnly_spend f csOther 4 hwritten.listed
    have hfault : raiseSync s c f e ia ra = some (spend (setFrame s1 c f (faultedFrame x e h ia)) c csOther 4) := by
      rw [raiseSync_faults hq (by rw [hm]; rfl), doubleFault_taken (by rw [hx]; exact hrep) hd he hv, hx]
    exact ⟨_, hfault, (hwritten.trans hspend).rest, hsame.trans (frameOf_setFrame_same s1 c f hne)⟩
  case third =>
    intro s c f e ia ra x hrun hlop hrep hs hd horder
    rw [raiseSync_faults ⟨hrun, hlop, hrep, hs, horder⟩ (by rw [hd, Bool.or_true]), doubleFault_third hd]
  case unread =>
    intro s s1 c f e e1 ia ra x hrun hlop hrep hs hm hd horder hv
    rw [raiseSync_faults ⟨hrun, hlop, hrep, hs, horder⟩ (by rw [hm]; rfl), doubleFault_unread hd hv]
  case calls =>
    intro s s1 s2 c f w h x hm hd
    exact ⟨fun hr hc => exec_call_enters hr (.inl rfl) rfl rfl rfl hm hd hc, fun hr hc => exec_call_enters hr (.inr rfl) rfl rfl rfl hm hd hc⟩

end Sys2Proof.Machine
end

section
/-! SUPPORT. The save areas (R369, R370): SAVL and SAVU write the area of a STOPPED frame, RSTL and RSTU load it back. -/
namespace Sys2Proof.Machine

variable {s s1 : State} {a : Actor} {c f g : Nat} {i : Instr} {o : LOp} {w : Word} {b : Bytes} {y t : Frame} {off : Bool}

/-! What bars the instructions. -/

/-- The instructions on save areas with their operations. -/
inductive SaveOp (c : Nat) : Instr → LOp → Prop where
  | savl : SaveOp c (.savl c) .savl
  | savu : SaveOp c (.savu c) .savu
  | rstl : SaveOp c (.rstl c) .rstl
  | rstu : SaveOp c (.rstu c) .rstu

theorem SaveOp.run (h : SaveOp c i o) : RunsPlain i c o := by
  cases h <;> exact ⟨fun _ => rfl, rfl, by decide⟩

theorem superOnly_user {r : IRes} (ha : a.sup = false) : superOnly a s r = .exc s { vec := 10 } := if_neg (ne_true_of_eq_false ha)
theorem superOnly_super {r : IRes} (ha : a.sup = true) : superOnly a s r = r := if_pos ha

theorem SaveOp.runOp_user (h : SaveOp c i o) (ha : a.sup = false) : runOp o s a w 0 = .exc s { vec := 10 } := by
  cases h <;> exact superOnly_user ha

/-- A frame that is neither STOPPED nor OFF bars each of the four (R369). -/
theorem targetBad_of_state (hs : (frameOf s a.c g).state ≠ .stopped) (ho : (frameOf s a.c g).state ≠ .off) : targetBad s a g off = true := by
  simp [targetBad, beq_eq_false_iff_ne.mpr hs, beq_eq_false_iff_ne.mpr ho]

/-- Another frame that is STOPPED, or OFF where the instruction takes that, bars none. -/
theorem targetBad_eq_false (hn : g < nFrames s) (hf : g ≠ a.f) (hs : (frameOf s a.c g).state = .stopped ∨ off = true ∧ (frameOf s a.c g).state = .off) :
    targetBad s a g off = false := by
  rcases hs with hs | ⟨rfl, hs⟩ <;> simp [targetBad, hn, hf, hs]

theorem SaveOp.runOp_barred (h : SaveOp c i o) (ha : a.sup = true) (hs : (frameOf s a.c (saveTarget s a w)).state ≠ .stopped)
    (ho : (frameOf s a.c (saveTarget s a w)).state ≠ .off) : runOp o s a w 0 = .exc s { vec := 2, cause := 0x10 } := by
  have hbad : ∀ off, targetBad s a (saveTarget s a w) off = true := fun _ => targetBad_of_state hs ho
  cases h <;> exact (superOnly_super ha).trans (if_pos (hbad _))

/-! SAVL and SAVU. -/

/-- A STOPPED frame that holds nothing is saved, and SVP then names its area. -/
theorem saveArea_written {area : Frame → Nat → Word → Bytes} (ha : a.sup = true) (hg : saveTarget s a w = g) (hbad : targetBad s a g false = false)
    (hlocks : locksOf s a.c g = []) (hcmds : (frameOf s a.c g).cmds = []) (hports : portsOf s a.c g = 0) (hal : (gB s a w).toNat % 64 = 0)
    (hw : writeVa s a wrap32 (gB s a w).toNat (area (frameOf s a.c g) g (actFrame s a).svp) = .ok s1 ()) :
    saveArea s a w area = doneF s1 a { actFrame s1 a with svp := gB s a w } := by
  subst hg
  simp [saveArea, superOnly_super ha, hbad, hlocks, hcmds, hports, hal, hw, MRes.bindI]

/-! RSTL and RSTU. -/

/-- The state once an area is loaded: the frame `g` is written as `t`, and SVP of the frame that runs takes the link. -/
def areaLoaded (s1 : State) (a : Actor) (g : Nat) (t : Frame) (b : Bytes) : IRes :=
  doneF (setFrame s1 a.c g t) a { actFrame (setFrame s1 a.c g t) a with svp := wordAt b 0 &&& 0xFFFFFFC0 }

section
variable (ha : a.sup = true) (hg : saveTarget s a w = g) (hbad : targetBad s a g true = false)
include ha hg hbad

theorem opRstl_loads (hr : readVa s a wrap32 (actFrame s a).svp.toNat 256 = .ok s1 b) (hkind : byteAt b 4 = 0x4C) (hres : allZero (slice b 6 2) = true)
    (hpad : allZero (slice b 200 56) = true) (hflags : (wordAt b 184).toNat < 8) : opRstl s a w = areaLoaded s1 a g (loadLower s1 (frameOf s1 a.c g) b) b := by
  subst hg
  simp only [opRstl, superOnly_super ha, hbad, hr, MRes.bindI, hkind, hres, hpad, Nat.not_le.mpr hflags]
  rfl

theorem opRstu_loads (hr : readVa s a wrap32 (actFrame s a).svp.toNat 384 = .ok s1 b) (hkind : byteAt b 4 = 0x55) (hres : allZero (slice b 6 10) = true)
    (hpad : allZero (slice b 344 40) = true) (haccs : accsFrom (frameOf s1 a.c g) (slice b 80 264) = some y) :
    opRstu s a w = areaLoaded s1 a g ((List.range 16).foldl (fun (t : Frame) n => setG t (16 + n) (wordAt b (16 + 4 * n))) y) b := by
  subst hg
  simp only [opRstu, superOnly_super ha, hbad, hr, MRes.bindI, hkind, hres, hpad, haccs]
  rfl

end

/-- In a table that is in order, a frame written beside a listed one reads back, whatever it is; and the others stay. -/
theorem frameOf_setFrame_beside (hw : twf (coreOf s c).frames = true) (hf : frameOf s c f ≠ {}) (hne : f ≠ g) (k : Nat) :
    frameOf (setFrame s c g t) c k = if k = g then t else frameOf s c k := by
  have hread : ∀ k, tgetD (tset (coreOf s c).frames g {} t) k {} = if k = g then t else frameOf s c k := fun k => tgetD_tset _ g k {} t hw
  have hlisted : tset (coreOf s c).frames g {} t ≠ [] := by
    intro hnil
    have hdefault := hread f
    rw [hnil, if_neg hne] at hdefault
    exact hf hdefault.symm
  have hcore : coreOf (setFrame s c g t) c = { coreOf s c with frames := tset (coreOf s c).frames g {} t } := coreOf_setCore_same s c (core_ne_default hlisted)
  rw [frameOf, hcore]
  exact hread k

/-- A restore that loads the frame `g` leaves it as loaded and the frame that runs behind the instruction, with the link in SVP. -/
theorem exec_restores (h : Ready s c f o w) (hrun : RunsPlain i c o) (hr : runOp o s (taskActor s c f false) w 0 = areaLoaded s1 (taskActor s c f false) g t b)
    (hx : frameOf (setFrame s1 c g t) c f = frameOf s c f) (hne : g ≠ f) (ht : frameOf (setFrame s1 c g t) c g = t) :
    ∃ s', exec i s = .next s' ∧ frameOf s' c g = t ∧
      { frameOf s' c f with fetch := [], last := none } =
        { frameOf s c f with svp := wordAt b 0 &&& 0xFFFFFFC0, pc := (frameOf s c f).pc + 4, wait := .idle, fetch := [], last := none } ∧
      s' = { s1 with cores := { s1.cores with cores := s'.cores.cores } } := by
  obtain ⟨hi, ho, -⟩ := hrun
  have hactor : actFrame (setFrame s1 c g t) (taskActor s c f false) = frameOf s c f := hx
  obtain ⟨s', hexec, hended⟩ := does_doneF (t := setFrame s1 c g t) (y := { frameOf s c f with svp := wordAt b 0 &&& 0xFFFFFFC0 }) h answered_idle ho (hi s)
    (hr.trans (by rw [areaLoaded]; exact congrArg (fun z : Frame => doneF _ _ { z with svp := wordAt b 0 &&& 0xFFFFFFC0 }) hactor)) ⟨rfl, rfl, rfl⟩
  exact ⟨s', hexec, (hended.others g hne).trans ht, hended.frame, hended.rest⟩

/-- Settles O43: the saves by `saveArea_written`, the restores by `exec_restores`, the traps by what bars the four instructions alike. -/
theorem saveAreas : Obligations.SaveAreas := by
  unfold Obligations.SaveAreas
  intro s s1 c f w b y x a g ad z still loaded
  have htrap : ∀ {i : Instr} {o : LOp} {e : Exc}, SaveOp c i o → Ready s c f o w → runOp o s a w 0 = .exc s e → e.entry = false → Traps i s c f e := by
    intro i o e hio h hr he
    obtain ⟨hi, ho, hcall⟩ := hio.run
    exact traps_of_plain_exc h ho hcall (hi s) hr he
  refine ⟨fun hsup hg hgf => ⟨?saves, ?restores, ?barred⟩, ?user⟩
  case saves =>
    intro hstate hlocks hcmds hports hal hstill
    obtain ⟨hx, -⟩ := hstill
    have hbad : targetBad s a g false = false := targetBad_eq_false hg hgf (.inl hstate)
    have hsave : ∀ {i : Instr} {o : LOp} {area : Frame → Nat → Word → Bytes}, SaveOp c i o → Ready s c f o w → runOp o s a w 0 = saveArea s a w area →
        writeVa s a wrap32 ad.toNat (area z g x.svp) = .ok s1 () → Does i s s1 c f { x with svp := ad } (x.pc + 4) := by
      intro i o area hio h hr hw
      obtain ⟨hi, ho, -⟩ := hio.run
      have hactor : actFrame s1 a = x := hx
      refine does_doneF h answered_idle ho (hi s) ?_ ⟨rfl, rfl, rfl⟩
      rw [hr, saveArea_written hsup rfl hbad hlocks hcmds hports hal hw, hactor]
      rfl
    exact ⟨fun h hw => hsave (area := fun y => lowerArea (savedFrame s c y)) .savl h rfl hw, fun h hw => hsave (area := upperArea) .savu h rfl hw⟩
  case restores =>
    intro hstate hstill
    obtain ⟨hx, hz⟩ := hstill
    have hbad : targetBad s a g true = false := targetBad_eq_false hg hgf (hstate.imp_right fun hoff => ⟨rfl, hoff⟩)
    refine ⟨fun h hr hkind hres hpad hflags => ?lower, fun h hr hkind hres hpad haccs htables => ?upper⟩
    case lower =>
      have hne : loadLower s1 z b ≠ {} := fun he => Bool.noConfusion (congrArg Frame.restored he)
      refine exec_restores h SaveOp.rstl.run ((opRstl_loads hsup rfl hbad hr hkind hres hpad hflags).trans ?_) ?_ hgf (frameOf_setFrame_same s1 c g hne)
      · exact congrArg (fun z => areaLoaded s1 a g (loadLower s1 z b) b) hz
      · rw [frameOf_setFrame_other s1 c hne hgf.symm]; exact hx
    case upper =>
      have hlisted : frameOf s1 c f ≠ {} := hx ▸ frame_ne_default h.runs.1
      refine exec_restores h SaveOp.rstu.run (opRstu_loads hsup rfl hbad hr hkind hres hpad ((congrArg (accsFrom · _) hz).trans haccs)) ?_ hgf ?_
      · rw [frameOf_setFrame_beside htables hlisted hgf.symm, if_neg hgf.symm]; exact hx
      · rw [frameOf_setFrame_beside htables hlisted hgf.symm, if_pos rfl]
  case barred =>
    intro hstopped hoff
    have hbarred : ∀ {i : Instr} {o : LOp}, SaveOp c i o → Ready s c f o w → Traps i s c f { vec := 2, cause := 0x10 } :=
      fun hio h => htrap hio h (hio.runOp_barred hsup hstopped hoff) rfl
    exact ⟨hbarred .savl, hbarred .savu, hbarred .rstl, hbarred .rstu⟩
  case user =>
    intro hsup
    have huser : ∀ {i : Instr} {o : LOp}, SaveOp c i o → Ready s c f o w → Traps i s c f { vec := 10 } :=
      fun hio h => htrap hio h (hio.runOp_user hsup) rfl
    exact ⟨huser .savl, huser .savu, huser .rstl, huser .rstu⟩

end Sys2Proof.Machine
end

section
/-! SUPPORT. The event controller (R387 to R394): one event of a source, claims and their ends, comparators, a source's configuration. -/
namespace Sys2Proof.Machine

variable {s : State} {c f k n : Nat} {x : Source} {v : Dbl} {e : StackEntry}

/-! One event of an edge-sense source (R388, R389). -/

section
variable {tb : Nat} (hen : srcEn x = true) (hs : srcSense x ≠ 0)
include hen hs

theorem srcEvent_pending (hx : x.state = .pending) : srcEvent tb x = x := by
  simp [srcEvent, hen, hs, hx]

theorem srcEvent_active (hx : x.state = .active) : srcEvent tb x = { x with lost := min 65535 (x.lost + 1) } := by
  simp [srcEvent, hen, hs, hx, sat]

/-- The event that fills the source's COUNT makes it pending. -/
theorem srcEvent_fills (hx : x.state = .idle) (hn : srcCount x ≤ x.cnt + 1) :
    srcEvent tb x = { x with cnt := 0, t0 := if x.cnt = 0 then tb else x.t0, state := .pending } := by
  simp [srcEvent, hen, hs, hx, hn]

/-- One before that is counted; the first notes the time. -/
theorem srcEvent_counts (hx : x.state = .idle) (hn : x.cnt + 1 < srcCount x) :
    srcEvent tb x = { x with cnt := x.cnt + 1, t0 := if x.cnt = 0 then tb else x.t0 } := by
  simp [srcEvent, hen, hs, hx, Nat.not_le.mpr hn]

end

/-! The inputs (R387, R388). -/

/-- An edge-sense source does not follow its input. -/
theorem srcFollow_edge (hs : srcSense x ≠ 0) : srcFollow x = x := by simp [srcFollow, hs]

theorem srcFollow_level (hen : srcEn x = true) (hs : srcSense x = 0) (hx : x.state ≠ .active) :
    srcFollow x = { x with state := if x.level then .pending else .idle } := by simp [srcFollow, hen, hs, hx]

theorem source_ne_default (h : x.state ≠ .idle) : x ≠ {} := fun he => h (congrArg Source.state he)

/-- A source written reads back, whatever the table holds, when it is not what an unlisted one reads as. -/
theorem srcOf_setSrc_same (s : State) (n : Nat) (h : x ≠ {}) : srcOf (setSrc s n x) n = x := tgetD_tset_same s.ev.srcs n h

theorem srcOf_setSrc_wf (h : twf s.ev.srcs = true) : srcOf (setSrc s n x) n = x := (srcOf_setSrc s n n x h).trans (if_pos rfl)

theorem pulseSrc_eq (hr : srcReserved n = false) : pulseSrc s n = setSrc s n (srcEvent s.tb (srcOf s n)) := if_neg (ne_true_of_eq_false hr)

/-! No software source is reserved, nor a comparator's (R387). -/

theorem srcReserved_software (hlo : 0x200 ≤ n) (hhi : n ≤ 0x3FE) : srcReserved n = false := by
  simp [srcReserved]; omega

theorem srcReserved_comparator (hk : k < 16) : srcReserved (0x110 + k) = false := by
  simp [srcReserved]; omega

/-- A level-sense source whose queue holds a command becomes pending. -/
theorem levelSrc_high (hen : srcEn (srcOf s n) = true) (hs : srcSense (srcOf s n) = 0) (hx : (srcOf s n).state ≠ .active) :
    levelSrc s n true = setSrc s n { srcOf s n with level := true, state := .pending } := by
  have hstays : levelSrc s n true = setSrc s n (srcFollow { srcOf s n with level := true }) := by simp [levelSrc, hs]
  rw [hstays]
  exact congrArg (setSrc s n) (srcFollow_level (x := { srcOf s n with level := true }) hen hs hx)

/-! Claims and their ends (R390 to R392). -/

/-- The source that a claim of core `c` takes, if its stack has room. -/
def claimable (s : State) (c : Nat) : Option (Nat × Source) := bestSource s fun _ y => srcTargets s y c && abovePrio (coreOf s c) (srcPrio y)

/-- The state once frame `f` of core `c` has claimed the source `n`, which was as `x`. -/
def claimed (s : State) (c f n : Nat) (x : Source) : State :=
  let s1 := setSrc s n { x with state := .active, owner := c }
  setCore s1 c { coreOf s1 c with stack := (coreOf s c).stack ++ [{ prio := srcPrio x, src := n, frame := f }] }

theorem claim_takes (f : Nat) (hroom : (coreOf s c).stack.length < 8) (hb : claimable s c = some (n, x)) :
    claim s c f = (BitVec.ofNat 64 (srcPrio x * 2 ^ 16 + n), claimed s c f n x) := by
  rw [claimable] at hb
  simp only [claim, Nat.not_le.mpr hroom, hb, if_false]
  rfl

theorem claim_none (f : Nat) (h : 8 ≤ (coreOf s c).stack.length ∨ claimable s c = none) : claim s c f = (0x3FF#64, s) := by
  unfold claim; dsimp only
  rcases Nat.lt_or_ge (coreOf s c).stack.length 8 with hroom | hfull
  · have hnone := h.resolve_left (Nat.not_le.mpr hroom)
    rw [claimable] at hnone
    rw [if_neg (Nat.not_le.mpr hroom), hnone]
  · exact if_pos hfull

theorem exec_claim (hc : coreIn s c = true) (hf : f < nFrames s) : exec (.claim c f) s = .next (claim s c f).2 :=
  congrArg Host.Outcome.next (if_pos ⟨hc, hf⟩)

/-- A claimed source is ACTIVE for its core, and stands on top of the core's stack. -/
theorem claimed_leaves (s : State) (c f n : Nat) (x : Source) :
    srcOf (claimed s c f n x) n = { x with state := .active, owner := c } ∧
    (coreOf (claimed s c f n x) c).stack = (coreOf s c).stack ++ [{ prio := srcPrio x, src := n, frame := f }] := by
  have hactive : ({ x with state := .active, owner := c } : Source) ≠ {} := source_ne_default SrcState.noConfusion
  refine ⟨srcOf_setSrc_same s n hactive, ?_⟩
  refine congrArg Core.stack (coreOf_setCore_same (setSrc s n { x with state := .active, owner := c }) c fun he => ?_)
  exact List.concat_ne_nil _ _ (congrArg Core.stack he)

theorem exec_eoi (hc : coreIn s c = true) (hf : f < nFrames s) : exec (.eoi c f) s = .next (eoi s c f) :=
  congrArg Host.Outcome.next (if_pos ⟨hc, hf⟩)

section
variable {r : List StackEntry} (hk : (coreOf s c).stack = r ++ [e])
include hk

/-- The frame of the top entry ends the service of its source. -/
theorem eoi_top (hf : e.frame = f) : eoi s c f = endService (setCore s c { coreOf s c with stack := r }) e.src := by
  simp only [eoi, hk, List.getLast?_concat, hf, if_true, List.dropLast_concat]

theorem eoi_other (hf : e.frame ≠ f) : eoi s c f = setCore s c { coreOf s c with eoiErr := true } := by
  simp only [eoi, hk, List.getLast?_concat, hf, if_false]

end

/-- The end of the service of an edge-sense source. -/
theorem endService_edge (hs : srcSense (srcOf s n) ≠ 0) : endService s n = setSrc s n { srcOf s n with state := .idle, owner := 0 } :=
  congrArg (setSrc s n) (srcFollow_edge (x := { srcOf s n with state := .idle, owner := 0 }) hs)

/-! Comparators (R394). -/

/-- The state whose comparator `k` holds the value `w`, armed or not. -/
def setCmp (s : State) (k w : Nat) (armed : Bool) : State := { s with ev := { s.ev with cmps := tput s.ev.cmps k (w, armed) } }

theorem writeCmp_eq (hk : k < 16) : writeCmp s k v = fireCmp (setCmp s k v.toNat true) k := if_neg (Nat.not_le.mpr hk)

/-- The comparator's value has not come, or it is not armed. -/
theorem fireCmp_waits {w : Nat} {b : Bool} (hw : tget s.ev.cmps k = some (w, b)) (h : b = false ∨ s.tb < w) : fireCmp s k = s := by
  unfold fireCmp
  rw [hw]
  cases b with
  | false => rfl
  | true => exact if_neg (Nat.not_le.mpr (h.resolve_left Bool.noConfusion))

/-- An armed comparator whose value has come pulses its source, once. -/
theorem fireCmp_fires {w : Nat} (hk : k < 16) (hw : tget s.ev.cmps k = some (w, true)) (h : w ≤ s.tb) :
    fireCmp s k = setSrc (setCmp s k w false) (0x110 + k) (srcEvent s.tb (srcOf s (0x110 + k))) := by
  have hpulse : fireCmp s k = pulseSrc (setCmp s k w false) (0x110 + k) := by
    unfold fireCmp
    rw [hw]
    exact if_pos h
  rw [hpulse, pulseSrc_eq (srcReserved_comparator hk)]
  rfl

/-! A write of a source's configuration (R394, Table 10.16). -/

/-- A field that a mask covers is the value's own. -/
theorem bits_and_covered (v m : Dbl) (hi lo : Nat) (hm : m.extractLsb' lo (hi + 1 - lo) = BitVec.allOnes _) : bits (v &&& m).toNat hi lo = bits v.toNat hi lo := by
  rw [bits_toNat, bits_toNat, BitVec.extractLsb'_and, hm, BitVec.and_allOnes]

theorem getLsbD_srcMask (v : Dbl) : (v &&& srcMask).getLsbD 0 = v.getLsbD 0 := by
  rw [BitVec.getLsbD_and, show srcMask.getLsbD 0 = true by decide, Bool.and_true]

section
variable (hr : srcReserved n = false)
include hr

theorem writeSrcCfg_kept (hen : srcEn (srcOf s n) = true) (hv : v.getLsbD 0 = true) : writeSrcCfg s n v = s := by
  simp only [writeSrcCfg, hr, hen, getLsbD_srcMask, hv, Bool.false_eq_true, if_false, if_true]

/-- An enabled source is disabled; it is no longer pending. -/
theorem writeSrcCfg_disables (hen : srcEn (srcOf s n) = true) (hv : v.getLsbD 0 = false) : writeSrcCfg s n v =
    setSrc s n { srcOf s n with cfg := (srcOf s n).cfg &&& ~~~1#64, state := if (srcOf s n).state = .pending then .idle else (srcOf s n).state } := by
  simp only [writeSrcCfg, hr, hen, getLsbD_srcMask, hv, Bool.false_eq_true, if_false, if_true]

variable (hen : srcEn (srcOf s n) = false) (hs : bits v.toNat 7 6 ≠ 0)
include hen hs

/-- A disabled source is enabled as edge-sense by a value that has a COUNT. -/
theorem writeSrcCfg_enables (hv : v.getLsbD 0 = true) (hc : bits v.toNat 35 28 ≠ 0) :
    writeSrcCfg s n v = setSrc s n { srcOf s n with cfg := v &&& srcMask, lost := 0, cnt := 0 } := by
  have hsense : srcSense { srcOf s n with cfg := v &&& srcMask, lost := 0, cnt := 0 } ≠ 0 := by
    rw [srcSense, bits_and_covered v srcMask 7 6 (by decide)]; exact hs
  have hcount : srcCount { srcOf s n with cfg := v &&& srcMask &&& ~~~1#64 } ≠ 0 := by
    rw [srcCount, BitVec.and_assoc, bits_and_covered v _ 35 28 (by decide)]; exact hc
  simp only [writeSrcCfg, hr, hen, getLsbD_srcMask, hv, hcount, srcFollow_edge hsense, Bool.not_true, Bool.false_eq_true, and_false, or_self, if_false]

/-- A value without a COUNT leaves it disabled. -/
theorem writeSrcCfg_uncounted (hc : bits v.toNat 35 28 = 0) : writeSrcCfg s n v = setSrc s n { srcOf s n with cfg := v &&& srcMask &&& ~~~1#64 } := by
  have hsense : srcSense { srcOf s n with cfg := v &&& srcMask &&& ~~~1#64 } ≠ 0 := by
    rw [srcSense, BitVec.and_assoc, bits_and_covered v _ 7 6 (by decide)]; exact hs
  have hcount : srcCount { srcOf s n with cfg := v &&& srcMask &&& ~~~1#64 } = 0 := by
    rw [srcCount, BitVec.and_assoc, bits_and_covered v _ 35 28 (by decide)]; exact hc
  simp only [writeSrcCfg, hr, hen, hsense, hcount, ne_eq, not_false_eq_true, and_self, or_true, Bool.false_eq_true, if_false, if_true]

end

theorem exec_srcCfgWrite (hn : n < 0x400) : exec (.srcCfgWrite n v) s = .next (writeSrcCfg s n v) := congrArg Host.Outcome.next (if_pos hn)

/-- A configuration written reads back where the table of sources is in order. -/
theorem exec_srcCfgWrite_leaves (hn : n < 0x400) (hw : twf s.ev.srcs = true) (h : writeSrcCfg s n v = setSrc s n x) :
    ∃ s', exec (.srcCfgWrite n v) s = .next s' ∧ srcOf s' n = x :=
  ⟨_, (exec_srcCfgWrite hn).trans (congrArg Host.Outcome.next h), srcOf_setSrc_wf hw⟩

/-- Settles O54: an event by the state of its source, a claim by whether there is a source for it (`claimable`), its end by the frame of the top entry,
a comparator by whether its value has come (`fireCmp_fires`, `fireCmp_waits`), a configuration by whether the source is enabled. -/
theorem eventController : Obligations.EventController := by
  unfold Obligations.EventController
  refine ⟨?event, ?inputs, ?claims, ?ends, ?software, ?comparators, ?configuration⟩
  case event =>
    intro tb x y hen hs
    refine ⟨fun hx hn => ?_, fun hx hn => ?_, fun hx => srcEvent_pending hen hs hx, fun hx => srcEvent_active hen hs hx⟩
    · rw [show y = _ from srcEvent_fills hen hs hx hn]; exact ⟨rfl, rfl⟩
    · rw [show y = _ from srcEvent_counts hen hs hx hn]; exact ⟨hx, rfl, fun h0 => if_pos h0⟩
  case inputs =>
    intro s n
    refine ⟨fun hlo hhi hr => ?pulse, fun hn hq hen hs hx => ?level, fun hen hx hcnt ht hs => ⟨fun hdue => ?due, fun hearly => ?early⟩⟩
    case pulse =>
      have hexec : exec (.eventSourceInput n) s = .next (pulseSrc s n) :=
        congrArg Host.Outcome.next ((if_neg (Nat.not_lt.mpr hlo)).trans (if_neg (Nat.not_le.mpr hhi)))
      rw [hexec, pulseSrc_eq hr]; rfl
    case level =>
      have hinput : inputLevel s n = true := by simp [inputLevel, hq]
      have hexec : exec (.eventSourceInput n) s = .next (levelSrc s n (inputLevel s n)) := congrArg Host.Outcome.next (if_pos hn)
      rw [hinput, levelSrc_high hen hs hx] at hexec
      exact ⟨_, hexec, srcOf_setSrc_same s n (source_ne_default SrcState.noConfusion), rfl⟩
    case due => exact congrArg Host.Outcome.next (if_pos ⟨hen, hx, hcnt, ht, hs, hdue⟩)
    case early => exact congrArg Host.Outcome.next (if_neg fun ⟨_, _, _, _, _, hdue⟩ => Nat.not_le.mpr hearly hdue)
  case claims =>
    intro s c f n x k best hc hf
    refine ⟨fun hroom hb => ?takes, fun hnone => ?none⟩
    case takes =>
      have htakes := claim_takes f hroom (show claimable s c = some (n, x) from hb)
      exact ⟨congrArg Prod.fst htakes, _, (exec_claim hc hf).trans (congrArg (Host.Outcome.next ∘ Prod.snd) htakes), claimed_leaves s c f n x⟩
    case none =>
      have hleft := claim_none f (show 8 ≤ (coreOf s c).stack.length ∨ claimable s c = none from hnone)
      exact ⟨congrArg Prod.fst hleft, (exec_claim hc hf).trans (congrArg (Host.Outcome.next ∘ Prod.snd) hleft)⟩
  case ends =>
    intro s c f e r k hc hf hk hcores hsrcs
    refine ⟨fun hown hs => ?own, fun hother => ?other⟩
    case own =>
      have hexec := exec_eoi hc hf
      rw [eoi_top hk hown, endService_edge (s := setCore s c { coreOf s c with stack := r }) hs] at hexec
      refine ⟨_, hexec, ?_, srcOf_setSrc_wf (s := setCore s c { coreOf s c with stack := r }) hsrcs⟩
      exact congrArg Core.stack ((coreOf_setCore s c c { coreOf s c with stack := r } hcores).trans (if_pos rfl))
    case other =>
      have hexec := exec_eoi hc hf
      rw [eoi_other hk hother] at hexec
      exact ⟨_, hexec, (coreOf_setCore s c c _ hcores).trans (if_pos rfl)⟩
  case software =>
    intro s v n
    have hexec : exec (.ecSet v) s = .next (if 0x200 ≤ n ∧ n ≤ 0x3FE then pulseSrc s n else s) := rfl
    refine ⟨fun hlo hhi => ?_, fun hout => hexec.trans (congrArg Host.Outcome.next (if_neg (by omega)))⟩
    rw [hexec, if_pos ⟨hlo, hhi⟩, pulseSrc_eq (srcReserved_software hlo hhi)]; rfl
  case comparators =>
    intro s k v fired hk hsrcs
    have harmed : tget (setCmp s k v.toNat true).ev.cmps k = some (v.toNat, true) := tget_tput_same ..
    have hwrite : exec (.tbCmpWrite k v) s = .next (fireCmp (setCmp s k v.toNat true) k) := congrArg Host.Outcome.next (writeCmp_eq hk)
    refine ⟨fun hearly => ?early, fun hdue => ?due, fun w hw hdue => ?fires, fun w b hw h => congrArg Host.Outcome.next (fireCmp_waits hw h)⟩
    case early => rw [hwrite, fireCmp_waits harmed (.inr hearly)]; rfl
    case due =>
      rw [fireCmp_fires hk harmed hdue] at hwrite
      exact ⟨_, hwrite, tget_tput_same .., srcOf_setSrc_wf (s := setCmp (setCmp s k v.toNat true) k v.toNat false) hsrcs⟩
    case fires => exact ⟨_, congrArg Host.Outcome.next (fireCmp_fires hk hw hdue), rfl, srcOf_setSrc_wf (s := setCmp s k w false) hsrcs, rfl⟩
  case configuration =>
    intro s n v x hn hr hw
    exact ⟨fun hen hv => (exec_srcCfgWrite hn).trans (congrArg Host.Outcome.next (writeSrcCfg_kept hr hen hv)),
      fun hen hv => exec_srcCfgWrite_leaves hn hw (writeSrcCfg_disables hr hen hv),
      fun hen hv hs hc => exec_srcCfgWrite_leaves hn hw (writeSrcCfg_enables hr hen hs hv hc),
      fun hen _ hs hc => exec_srcCfgWrite_leaves hn hw (writeSrcCfg_uncounted hr hen hs hc)⟩

end Sys2Proof.Machine
end
